-- ==== Sys2Proof/Word.lean ====
section
/-!
DEFINITION. The word types of the SK24 and their plainest readings: bytes, 64-bit slot words and scalar values, 1,024-bit
vectors (R4, R121).
-/
namespace Sys2Proof

/-- One byte of memory. -/
abbrev Byte := BitVec 8
/-- A 32-bit value. -/
abbrev W32 := BitVec 32
/-- A 64-bit scalar value, header or slot word (R45, R54). -/
abbrev Word := BitVec 64
/-- A vector register value (R121). -/
abbrev Vec := BitVec 1024
/-- A mask register value; bit i governs element i (R76). -/
abbrev MaskVal := BitVec 128
/-- An operand name of a slot word (R64). -/
abbrev OpName := BitVec 8
/-- A sparse table: keys strictly rising, no entry equal to the table's default. -/
abbrev Sparse (α : Type) := List (Nat × α)

end Sys2Proof
end

