-- ==== Sys2Proof/Config.lean ====
section
/-!
DEFINITION. What the spec leaves to one implementation: the free values. Nothing can be proved of their values; a meaning
applies one to the counter `free` of the state, or to the operands it depends on (log entry 2).
-/
namespace Sys2Proof

/-- The n-th free choice of a natural number: a latency, an order or one of several allowed outcomes. -/
opaque Config.freeNat : Nat → Nat
/-- The k-th of the free choices that belong to the n-th draw: an order, a rounding, a cycle, one of several allowed values. -/
opaque Config.freeOrder : Nat → Nat → Nat
/-- Whether a software payload of the package (an on-die boot step, R367) passes: the outcome is the world's, not the spec's. -/
opaque Config.bootOutcome : Nat → Nat → Nat → Bool
/-- The bytes of the hypervisor image in the flash (R351, R367): the device's own software, which the spec does not give. -/
opaque Config.flashByte : Nat → Byte

end Sys2Proof
end

