-- ==== Sys2Proof/Syntax.lean ====
section
/-!
DEFINITION. The syntax: the formats of a slot word (R58-R62) as structures of their fields, and `Instr`, one
constructor for each row of the opcode table. A constructor of a slot operation carries the fields of its word;
a constructor of an event carries what names the event: a context key (8 times the core plus the context), a core,
a die, a quarter, a launch, a copy or an access.
-/
namespace Sys2Proof

/-- The slot classes: V0 and V1 share one opcode map, and so do C0 and C1 (R54). -/
inductive SlotClass where
  | s | v | m | c | b
  deriving DecidableEq, Repr

/-- Format R (R58). -/
structure FmtR where
  d : OpName
  a : OpName
  b : OpName
  c : OpName
  ty : BitVec 4
  msk : BitVec 4
  ep : BitVec 3
  dstep : BitVec 2
  rnd : BitVec 3
  var : BitVec 8
  deriving DecidableEq, Repr

/-- Format I (R58). -/
structure FmtI where
  d : OpName
  a : OpName
  imm : BitVec 16
  ty : BitVec 4
  msk : BitVec 4
  ep : BitVec 3
  dstep : BitVec 2
  rnd : BitVec 3
  var : BitVec 8
  deriving DecidableEq, Repr

/-- Format X (R58, R59). -/
structure FmtX where
  d : OpName
  hres : BitVec 4
  h : BitVec 4
  b : OpName
  c : OpName
  ty : BitVec 4
  msk : BitVec 4
  ep : BitVec 3
  stride : BitVec 8
  sunit : BitVec 2
  dstep : BitVec 2
  ord : BitVec 1
  deriving DecidableEq, Repr

/-- Format X with the layout of AMO and VAMO in bits [12:0] (R59). -/
structure FmtA where
  d : OpName
  hres : BitVec 4
  h : BitVec 4
  b : OpName
  c : OpName
  ty : BitVec 4
  msk : BitVec 4
  ep : BitVec 3
  scope : BitVec 3
  aop : BitVec 4
  ares : BitVec 5
  ord : BitVec 1
  deriving DecidableEq, Repr

/-- Format M (R58); `a` is [47:40]: the handle, or the accumulator of MDRAIN (R62). -/
structure FmtM where
  tres : BitVec 5
  tgt : BitVec 3
  a : OpName
  b : OpName
  c : OpName
  ty : BitVec 4
  qsel : BitVec 4
  ep : BitVec 3
  np : BitVec 4
  rnd : BitVec 3
  sp : BitVec 1
  mstr : BitVec 5
  deriving DecidableEq, Repr

/-- Format C (R58). -/
structure FmtC where
  tok : OpName
  dh : BitVec 4
  sh : BitVec 4
  doff : OpName
  soff : OpName
  len : OpName
  ep : BitVec 3
  ben : BitVec 1
  bar : BitVec 11
  cstep : BitVec 1
  deriving DecidableEq, Repr

/-- Format Y (R58, R61). -/
structure FmtY where
  d : OpName
  a : OpName
  b : OpName
  c : OpName
  ty : BitVec 4
  msk : BitVec 4
  ep : BitVec 3
  sf : BitVec 13
  deriving DecidableEq, Repr

/-- Format J (R60). -/
structure FmtJ where
  d : OpName
  a : OpName
  b : OpName
  hint : BitVec 2
  ep : BitVec 2
  disp : BitVec 28
  deriving DecidableEq, Repr

/-- Format L (R60). -/
structure FmtL where
  lres : BitVec 2
  wh : BitVec 4
  lp : BitVec 2
  a : OpName
  b : OpName
  c : OpName
  cell : BitVec 3
  ep : BitVec 3
  disp : BitVec 18
  deriving DecidableEq, Repr

/-- What an access that arrives from a far package asks for (R249). -/
inductive FarOp where
  | read (bytes : Nat)
  | write (data : List Byte)
  | atomic (aop : BitVec 4) (bytes : Nat) (op cmp : Word)
  deriving DecidableEq, Repr

/-- An access of a far package to this one: the package it comes from, the containment identifier it names here and
the virtual address (R249); or an access of a host through the HDM decoder of CXL.mem (R363): the function of the decoder, and the offset in its range. -/
structure FarAccess where
  src : BitVec 22
  rcid : BitVec 8
  va : BitVec 52
  op : FarOp
  hdm : Option Nat := none
  deriving DecidableEq, Repr

/-- A deferred fault on its way to a context (R256): the context key, the issue and slot it is attributed to, code,
sub-cause, faulting address, faulting element, the die of the home (0xFF for none), the access or engine
operation struck, and the cycle on which the fault was found (R329). -/
structure FaultMsg where
  key : Nat
  bseq : BitVec 48
  slot : Nat
  code : BitVec 16
  why : BitVec 8
  va : BitVec 52
  elem : BitVec 6
  home : BitVec 8
  access : Nat
  found : Nat := 0
  deriving DecidableEq, Repr

/-- The transfers of R324 whose carried check can mismatch. -/
inductive CheckTransfer where
  | copy (id : Nat)
  | read (access : Nat)
  | write (access : Nat)
  | matrixRead (key : Nat)
  | fetch (key : Nat)
  | flit (count : Nat)
  deriving DecidableEq, Repr

/-- A carried-check mismatch: the transfer, whether it is the second mismatch of the beat, and the containment
identifier of the data (R324, R327). -/
structure CheckEvent where
  transfer : CheckTransfer
  second : Bool
  quarter : Nat
  cid : BitVec 8
  deriving DecidableEq, Repr

/-- The stored structures of R325. -/
inductive EccStructure where
  | hbm | lastLevel | scratchpad | weightBuffer | permissionTable | registerFile | accumulator | queue
  | instructionCache | vectorCache | vitrine | coverMap | saveArea
  deriving DecidableEq, Repr

/-- An ECC or parity error met on a read: the structure, whether it was corrected, the containment identifier of the data
(none: a structure that holds no tenant's data), the context, slot and issue that consumed it, and the first byte that it struck, 0 where the structure has
no addresses (R325, R328, R371). -/
structure EccEvent where
  struct : EccStructure
  corrected : Bool
  quarter : Nat
  cid : Option (BitVec 8)
  key : Nat
  slot : Nat
  bseq : BitVec 48
  va : BitVec 52 := 0#52
  deriving DecidableEq, Repr

/-- One constructor for each row of the opcode table, in the table's order. -/
inductive Instr where
  /-- R52. On a cycle the selector picks a ready context, and one issue of its bundle or repetition processes the header and sticky slot state and issues every non-idle slot. -/
  | bundleIssue (core : Nat)
  /-- R316. A cycle on which no context of a core issues charges WSTAT to the running tenant's PIDLE when the core counts. -/
  | idleCycle (core : Nat)
  /-- R48. The lines of a bundle arrive in the instruction cache, ending a fetch wait. -/
  | instructionFetch (key : Nat)
  /-- R86. A fixed-latency result, a handle grant included, is written to its destination on its landing cycle. -/
  | fixedLatencyLanding (key : Nat)
  /-- R87. A variable-latency result arrives, is written if its operation is still the pending writer, and marks the destination full. -/
  | variableLatencyArrival (key : Nat)
  /-- R41. When every member is ready, a lockstep step takes place and each member executes the issue due to it. -/
  | lockstepStep (task : Nat)
  /-- R98. The scalar unit writes A + B. -/
  | add (f : FmtR)
  /-- R98. The scalar unit writes A − B. -/
  | sub (f : FmtR)
  /-- R98. The scalar unit writes the low w bits of A × B. -/
  | mul (f : FmtR)
  /-- R98. The scalar unit writes the high w bits of A × B, with signedness selected by VAR. -/
  | mulh (f : FmtR)
  /-- R99. The scalar unit divides with variable latency and no trap. -/
  | div (f : FmtR)
  /-- R99. The scalar unit computes a remainder with variable latency and no trap. -/
  | rem (f : FmtR)
  /-- R98. The scalar unit writes the bitwise AND of A and B. -/
  | and (f : FmtR)
  /-- R98. The scalar unit writes the bitwise OR of A and B. -/
  | or (f : FmtR)
  /-- R98. The scalar unit writes the bitwise XOR of A and B. -/
  | xor (f : FmtR)
  /-- R98. The scalar unit shifts A left by B mod w. -/
  | shl (f : FmtR)
  /-- R98. The scalar unit shifts A right logically by B mod w. -/
  | shr (f : FmtR)
  /-- R98. The scalar unit shifts A right arithmetically by B mod w. -/
  | sar (f : FmtR)
  /-- R98. The scalar unit writes the lesser of A and B, signed or unsigned. -/
  | min (f : FmtR)
  /-- R98. The scalar unit writes the greater of A and B, signed or unsigned. -/
  | max (f : FmtR)
  /-- R98. The scalar unit counts the leading zero bits of A. -/
  | clz (f : FmtR)
  /-- R101. The scalar unit writes A plus a sign-extended immediate. -/
  | addi (f : FmtI)
  /-- R101. The scalar unit ANDs A with an immediate. -/
  | andi (f : FmtI)
  /-- R101. The scalar unit ORs A with an immediate. -/
  | ori (f : FmtI)
  /-- R101. The scalar unit XORs A with an immediate. -/
  | xori (f : FmtI)
  /-- R101. The scalar unit shifts A left by an immediate amount. -/
  | shli (f : FmtI)
  /-- R101. The scalar unit shifts A right logically by an immediate amount. -/
  | shri (f : FmtI)
  /-- R101. The scalar unit shifts A right arithmetically by an immediate amount. -/
  | sari (f : FmtI)
  /-- R101. The scalar unit writes a sign-extended immediate. -/
  | movi (f : FmtI)
  /-- R101. The scalar unit replaces one 16-bit field of A with IMM16. -/
  | moviIns (f : FmtI)
  /-- R100. The scalar unit writes 1 when the selected comparison of A and B holds. -/
  | cmp (f : FmtR)
  /-- R101. The scalar unit compares A with an immediate and writes 1 or 0. -/
  | cmpi (f : FmtI)
  /-- R98. The scalar unit writes B when A is nonzero, else C. -/
  | sel (f : FmtR)
  /-- R98. The scalar unit counts the one bits of A. -/
  | popc (f : FmtR)
  /-- R98. The scalar unit writes A + B × 2^k. -/
  | lea (f : FmtR)
  /-- R103. The scalar unit adds two FP32 values with one rounding. -/
  | fadd (f : FmtR)
  /-- R103. The scalar unit subtracts two FP32 values with one rounding. -/
  | fsub (f : FmtR)
  /-- R103. The scalar unit multiplies two FP32 values with one rounding. -/
  | fmul (f : FmtR)
  /-- R103. The scalar unit computes A × B + C in FP32 with one rounding. -/
  | fma (f : FmtR)
  /-- R103. The scalar unit divides two FP32 values. -/
  | fdiv (f : FmtR)
  /-- R103. The scalar unit takes the FP32 square root. -/
  | fsqrt (f : FmtR)
  /-- R103. The scalar unit writes the lesser of two FP32 values. -/
  | fmin (f : FmtR)
  /-- R103. The scalar unit writes the greater of two FP32 values. -/
  | fmax (f : FmtR)
  /-- R103. The scalar unit compares two FP32 values and writes 1 or 0. -/
  | fcmp (f : FmtR)
  /-- R104. The scalar unit converts between FP32 and integers. -/
  | fcvt (f : FmtR)
  /-- R103. The scalar unit sets the sign of A from B by copy, negation or XOR. -/
  | fsgn (f : FmtR)
  /-- R106. The scalar unit loads 1 to 8 bytes through a handle and extends them. -/
  | ld (f : FmtX)
  /-- R106. The scalar unit stores 1 to 8 bytes through a handle. -/
  | st (f : FmtX)
  /-- R199. The scalar unit performs an atomic read-modify-write at the place of the word and returns the old value. -/
  | amo (f : FmtA)
  /-- R108. The scalar unit derives a handle from a permission-table entry, landing 12 cycles later. -/
  | grant (f : FmtY)
  /-- R110. The scalar unit invalidates a handle on the next cycle and cancels a pending grant landing. -/
  | revoke (f : FmtY)
  /-- R283. In SERVICE or on a service core, the unit writes a permission-table entry of the selected context from an image and returns a status. -/
  | permld (f : FmtY)
  /-- R332. The scalar unit compares two scalar copies and traps DUP_MISMATCH when they differ. -/
  | cmpt (f : FmtY)
  /-- R332. The scalar unit compares two vector copies and traps DUP_MISMATCH when they differ. -/
  | cmptV (f : FmtY)
  /-- R203. The scalar unit pushes a child onto the core's deque and raises JCNT. -/
  | fork (f : FmtY)
  /-- R205. The scalar unit marks D empty and later delivers DONE when JCNT reaches 0. -/
  | join (f : FmtY)
  /-- R206. The scalar unit sends a key and payload to the die's priority queue. -/
  | pqpush (f : FmtY)
  /-- R206. The scalar unit sends a claim to the die's priority queue and marks two registers empty. -/
  | pqpop (f : FmtY)
  /-- R195. The scalar unit arms a named barrier with a count. -/
  | barm (f : FmtY)
  /-- R195. The scalar unit adds arrivals to a named barrier. -/
  | barrive (f : FmtY)
  /-- R195. The scalar unit waits until a named barrier is no longer armed, then issues. -/
  | bwait (f : FmtY)
  /-- R197. The scalar unit records the member's arrival at a gang barrier. -/
  | gbarrive (f : FmtY)
  /-- R197. The scalar unit waits until the gang barrier has released. -/
  | gbwait (f : FmtY)
  /-- R197. 32 cycles after the last arrival, a gang barrier releases in every member and clears GA. -/
  | gangBarrierRelease (task : Nat) (bar : Nat)
  /-- R183. The scalar unit writes a queue binding and resets its entry ordinal. -/
  | qcfg (f : FmtY)
  /-- R198. The context's next issue waits until its earlier non-scratchpad stores and atomics are performed at the scope. -/
  | drainR (f : FmtY)
  /-- R198. The vector data cache discards lines at the scope, and later loads are held behind earlier ones. -/
  | drainA (f : FmtY)
  /-- R198. A drain of both kinds acts as .r and then .a. -/
  | drainBoth (f : FmtY)
  /-- R279. The issue commits and the context stops with the software trap SWTRAP. -/
  | trap (f : FmtY)
  /-- R280. In SERVICE, the handler's operations are waited for, the queue is validated and the context leaves SERVICE, reissuing its records. -/
  | resume (f : FmtY)
  /-- R280. A service core validates and resumes a selected parked context and returns a status. -/
  | resumeServiceCore (f : FmtY)
  /-- R280. A service core ends the task of a selected parked context with an error code. -/
  | resumeEnd (f : FmtY)
  /-- R281. The unit reads a word of the selected context's Vitrine. -/
  | rdrec (f : FmtY)
  /-- R281. The unit writes a word of the selected context's Vitrine, keeping RO fields. -/
  | wrrec (f : FmtY)
  /-- R282. The unit selects the context that record and system-register instructions act on. -/
  | vtsel (f : FmtY)
  /-- R111. The unit reads a system register into a scalar register. -/
  | srmovRead (f : FmtY)
  /-- R111. The unit writes a system register as its Write column permits. -/
  | srmovWrite (f : FmtY)
  /-- R284. The unit discards the lines of a range from the core caches and, at PART or SYS, writes back and discards them in the slices. -/
  | cinv (f : FmtY)
  /-- R284. The unit writes back the dirty slice bytes of a range at PART or SYS. -/
  | cflush (f : FmtY)
  /-- R285. The context's next issue is held until a named PTB value. -/
  | waitt (f : FmtY)
  /-- R285. The PTB reaches the WAITT target and the context may issue. -/
  | waittRelease (key : Nat)
  /-- R304. The unit asks for a snapshot cut 4,096 cycles later and returns a generation or a refusal. -/
  | snap (f : FmtY)
  /-- R305. The unit counts a training step and may trigger a snapshot. -/
  | step (f : FmtY)
  /-- R333. The unit commits a buffer phase, releases held copy completions and captures state for rollback. -/
  | phase (f : FmtY)
  /-- R333. The unit commits the current phase and clears PHV. -/
  | phaseOff (f : FmtY)
  /-- R294. The unit declares a region of an overwriting window and, on .last, closes the phase and may skip the iteration. -/
  | wdecl (f : FmtY)
  /-- R318. The unit reads ENCTR. -/
  | enrd (f : FmtY)
  /-- R318. The unit reads PIDLE. -/
  | enrdIdle (f : FmtY)
  /-- R318. The unit reads ENCTR with ENSAT and clears both. -/
  | enclr (f : FmtY)
  /-- R286. The context becomes not ready until another context has issued. -/
  | yield (f : FmtY)
  /-- R287. The context enters HALTED, or in SERVICE ends the task. -/
  | halt (f : FmtY)
  /-- R115. The branch unit always branches to the target. -/
  | br (f : FmtJ)
  /-- R115. The branch unit branches when A = B. -/
  | breq (f : FmtJ)
  /-- R115. The branch unit branches when A ≠ B. -/
  | brne (f : FmtJ)
  /-- R115. The branch unit branches when A < B signed. -/
  | brlt (f : FmtJ)
  /-- R115. The branch unit branches when A ≥ B signed. -/
  | brge (f : FmtJ)
  /-- R115. The branch unit branches when A < B unsigned. -/
  | brltu (f : FmtJ)
  /-- R115. The branch unit branches when A ≥ B unsigned. -/
  | brgeu (f : FmtJ)
  /-- R116. The branch unit branches when all mask bits are 1 and traps on a mixed mask. -/
  | brall (f : FmtJ)
  /-- R116. The branch unit branches when all mask bits are 0 and traps on a mixed mask. -/
  | brnone (f : FmtJ)
  /-- R117. The branch unit writes the link and branches to a direct target. -/
  | call (f : FmtJ)
  /-- R117. The branch unit writes the link and branches to a register target. -/
  | callRegister (f : FmtJ)
  /-- R117. The branch unit branches to a register target and pops the return predictor. -/
  | ret (f : FmtJ)
  /-- R117. The branch unit branches to a register target. -/
  | jr (f : FmtJ)
  /-- R119. The branch unit opens a hardware loop frame or skips to the exit on a zero count. -/
  | loop (f : FmtL)
  /-- R290. The branch unit opens an overwriting walk, clears its cover map and starts at the last iteration. -/
  | loopw (f : FmtL)
  /-- R126. A vector unit adds elements, wrapping, saturating or rounding. -/
  | vadd (f : FmtR)
  /-- R126. A vector unit subtracts elements. -/
  | vsub (f : FmtR)
  /-- R126. A vector unit multiplies elements. -/
  | vmul (f : FmtR)
  /-- R126. A vector unit computes a fused multiply-add form. -/
  | vfma (f : FmtR)
  /-- R126. A vector unit writes element minima. -/
  | vmin (f : FmtR)
  /-- R126. A vector unit writes element maxima. -/
  | vmax (f : FmtR)
  /-- R126. A vector unit writes element absolute values. -/
  | vabs (f : FmtR)
  /-- R126. A vector unit negates elements. -/
  | vneg (f : FmtR)
  /-- R126. A vector unit writes the high halves of element products. -/
  | vmulh (f : FmtR)
  /-- R126. A vector unit averages elements. -/
  | vavg (f : FmtR)
  /-- R126. A vector unit shifts elements left. -/
  | vshl (f : FmtR)
  /-- R126. A vector unit shifts elements right logically. -/
  | vshr (f : FmtR)
  /-- R126. A vector unit shifts elements right arithmetically. -/
  | vsar (f : FmtR)
  /-- R126. A vector unit ANDs element bits. -/
  | vand (f : FmtR)
  /-- R126. A vector unit ORs element bits. -/
  | vor (f : FmtR)
  /-- R126. A vector unit XORs element bits. -/
  | vxor (f : FmtR)
  /-- R128. A vector unit converts elements between types, widening or narrowing by part. -/
  | vcvt (f : FmtR)
  /-- R129. A vector unit compares elements and writes a mask. -/
  | vcmp (f : FmtR)
  /-- R130. A vector unit selects elements from A or B by a mask. -/
  | vsel (f : FmtR)
  /-- R131. A vector unit shuffles elements of A:B by indices in C. -/
  | vshuf (f : FmtR)
  /-- R132. A vector unit permutes elements by a fixed pattern. -/
  | vperm (f : FmtR)
  /-- R133. A vector unit reduces elements by a fixed tree. -/
  | vred (f : FmtR)
  /-- R134. A vector unit computes carry-less products of low lane halves. -/
  | vclmul (f : FmtR)
  /-- R134. A vector unit computes carry-less products of high lane halves. -/
  | vclmulh (f : FmtR)
  /-- R135. A vector unit estimates element reciprocals. -/
  | vrcp (f : FmtR)
  /-- R135. A vector unit estimates reciprocal square roots. -/
  | vrsq (f : FmtR)
  /-- R135. A vector unit estimates 2^A. -/
  | vexp (f : FmtR)
  /-- R126. A vector unit copies a register. -/
  | vmov (f : FmtR)
  /-- R127. A vector unit writes an immediate into every active element. -/
  | vmovi (f : FmtI)
  /-- R136. A vector unit loads active elements through a handle. -/
  | vld (f : FmtX)
  /-- R136. A vector unit stores active elements through a handle. -/
  | vst (f : FmtX)
  /-- R137. A vector unit gathers elements from per-element offsets. -/
  | vgath (f : FmtX)
  /-- R137. A vector unit scatters elements to per-element offsets. -/
  | vscat (f : FmtX)
  /-- R202. A vector unit performs one atomic per active element. -/
  | vamo (f : FmtA)
  /-- R139. A vector unit appends a register as one entry to a queue. -/
  | qpush (f : FmtR)
  /-- R139. A vector unit claims the oldest unclaimed queue entry and marks D empty. -/
  | qpop (f : FmtR)
  /-- R140. A vector unit runs the other V slot's operation and writes its own destination. -/
  | vdup (f : FmtR)
  /-- R173. The matrix sequencer latches a dense weight tile into a unit's latch. -/
  | mldw (f : FmtM)
  /-- R175. The matrix sequencer latches a sparse tile with a metadata word taken at MPC. -/
  | mldwS (f : FmtM)
  /-- R177. The matrix sequencer adds products of activations and latched weights into an accumulator. -/
  | mma (f : FmtM)
  /-- R177. The matrix sequencer sets accumulator rows to the products. -/
  | mmas (f : FmtM)
  /-- R178. The matrix sequencer zeroes accumulator sections and sets their tags. -/
  | mzero (f : FmtM)
  /-- R179. The matrix sequencer changes the quadrant fusion and resets every latch. -/
  | mfuse (f : FmtM)
  /-- R181. The matrix sequencer moves accumulator rows as entries into a queue. -/
  | mdrain (f : FmtM)
  /-- R181. The matrix sequencer converts accumulator rows straight into vector registers. -/
  | mdrainV (f : FmtM)
  /-- R168. A queued M operation starts on the sequencer once its data is present. -/
  | sequencerOpStart (key : Nat)
  /-- R177. One row step of an MMA completes when its activation bytes are present. -/
  | mmaRowStep (key : Nat)
  /-- R181. One MDRAIN entry is appended to its queue or delivered, when the queue has room. -/
  | mdrainEntryStep (key : Nat)
  /-- R182. A queue claim's converted data arrives three cycles after its entry exists. -/
  | queueClaimArrival (key : Nat)
  /-- R189. A copy engine accepts a linear copy of L bytes. -/
  | cpy (f : FmtC)
  /-- R189. A copy engine accepts a 2-D copy described by a shape descriptor. -/
  | cpy2 (f : FmtC)
  /-- R189. A copy engine accepts a 3-D copy described by a shape descriptor. -/
  | cpy3 (f : FmtC)
  /-- R189. A copy engine accepts an indexed gather of rows. -/
  | cgath (f : FmtC)
  /-- R189. A copy engine accepts an indexed scatter of rows. -/
  | cscat (f : FmtC)
  /-- R189. A copy engine accepts a copy written to every multicast target. -/
  | cmcast (f : FmtC)
  /-- R189. A copy engine accepts a fill with a repeated 8-byte value. -/
  | cfill (f : FmtC)
  /-- R190. A copy engine accepts an atomic I32 add reduction into the destination. -/
  | credI32 (f : FmtC)
  /-- R190. A copy engine accepts an atomic FP32 add reduction. -/
  | credFp32 (f : FmtC)
  /-- R190. A copy engine accepts an atomic BF16 add reduction. -/
  | credBf16 (f : FmtC)
  /-- R191. A copy engine accepts a linear copy launching at a PTB time. -/
  | cpyAt (f : FmtC)
  /-- R191. A copy engine accepts a timed 2-D copy. -/
  | cpy2At (f : FmtC)
  /-- R191. A copy engine accepts a timed 3-D copy. -/
  | cpy3At (f : FmtC)
  /-- R191. A copy engine accepts a timed gather. -/
  | cgathAt (f : FmtC)
  /-- R191. A copy engine accepts a timed scatter. -/
  | cscatAt (f : FmtC)
  /-- R191. A copy engine accepts a timed multicast copy. -/
  | cmcastAt (f : FmtC)
  /-- R191. A copy engine accepts a timed fill. -/
  | cfillAt (f : FmtC)
  /-- R191. A copy engine accepts a timed I32 reduction. -/
  | credI32At (f : FmtC)
  /-- R191. A copy engine accepts a timed FP32 reduction. -/
  | credFp32At (f : FmtC)
  /-- R191. A copy engine accepts a timed BF16 reduction. -/
  | credBf16At (f : FmtC)
  /-- R191. An accepted .AT copy starts its first read at its named PTB time. -/
  | atCopyLaunch (id : Nat)
  /-- R192. A copy whose bytes are all performed writes its token and adds to its barriers. -/
  | copyCompletion (id : Nat)
  /-- R91. A multicast store lands in every target scratchpad 24 cycles after issue. -/
  | mcastLanding (id : Nat)
  /-- R255. A home acknowledges a GLOBAL write and its store buffer entry is released. -/
  | storeAcknowledge (id : Nat)
  /-- R252. A home controller receives an access, translates and checks it, and applies, fills or faults it. -/
  | homeAccess (id : Nat)
  /-- R249. An access in the path window is carried to the host, Lorig-X or Ethernet far side, or faults. -/
  | pathAccess (id : Nat)
  /-- R249. A far package accepts or refuses an access arriving over a path. -/
  | farAccessArrival (a : FarAccess)
  /-- R249. A host access unanswered for 2^30 cycles takes NOT_PRESENT with WHY 0x3B. -/
  | pathResponseTimeout (id : Nat)
  /-- R257. A fault reaching a context stops it and starts STOPPING. -/
  | deferredFault (d : FaultMsg)
  /-- R269. Once buffer entries are released and records written, the context enters SERVICE, PARKED, SAVED or is held. -/
  | stoppingComplete (key : Nat)
  /-- R204. A HALTED context of a task takes the newest child from its own core's deque and runs it. -/
  | childTake (key : Nat)
  /-- R204. After 16 cycles a steal from another core's deque delivers the oldest child. -/
  | stealComplete (key : Nat)
  /-- R233. Pushes and claims reach the die's priority queue, pushes being applied before claims. -/
  | pqArrival (die : Nat)
  /-- R234. A claim removes an entry of rank below W once one of its CID is present. -/
  | pqClaimServe (die : Nat)
  /-- R353. A host write of the doorbell makes the device read image-queue entries up to the tail. -/
  | doorbell (vf : Nat) (tail : BitVec 16)
  /-- R352. A write of IQBASE is taken only while IQHEAD equals the tail. -/
  | iqbaseWrite (vf : Nat) (value : Word)
  /-- R354. On reading an image, the Accession Unit checks signature and claims, writes sections and queues the launch or ends it. -/
  | accessionCheck (launch : Nat)
  /-- R320. At each 2,000,000-cycle interval REM is refilled, deferred launches retested and service reserves renewed. -/
  | budgetIntervalStart (quarter : Nat)
  /-- R229. The placer binds a whole gang on the lowest qualifying die and reserves its contexts. -/
  | placement (quarter : Nat) (cid : Nat)
  /-- R230. At the start tick the launch's contexts are bound and enter RUN or HALTED. -/
  | startTick (task : Nat)
  /-- R226. Once every context halted and its writes are performed at PART, the task reaches DONE and posts its status. -/
  | taskCompletion (task : Nat)
  /-- R238. A replay launch is accepted at its walker and captures the parameter block. -/
  | replayAccept (launch : Nat)
  /-- R240. A walker evaluates one graph node, dispatching, branching or joining paths. -/
  | nodeEvaluation (walker : Nat)
  /-- R237. When no path remains and every dispatched task is DONE, the replay posts its status. -/
  | replayEnd (launch : Nat)
  /-- R273. At a tick with another tenant due, every outgoing context stops and is saved. -/
  | gangSwitchTick (quarter : Nat)
  /-- R273. A die's save completes, and at the partition's last save the incoming tenant is chosen. -/
  | saveComplete (quarter : Nat) (die : Nat)
  /-- R276. At T + 40,000 late dies count a miss, and the switch is abandoned or the die fenced. -/
  | saveDeadline (quarter : Nat)
  /-- R274. At T + 80,000 the incoming tenant's state is restored in every context. -/
  | restore (quarter : Nat)
  /-- R349. A partition without a running tenant starts the slice of the first tenant with work. -/
  | sliceStart (quarter : Nat)
  /-- R306. A PTB multiple of CKPT_TIMER triggers a snapshot or sets DEFER. -/
  | checkpointTimerTrigger (quarter : Nat) (cid : Nat)
  /-- R307. At the tick, controllers close the generation, form the snapshot set and clear dirty bits. -/
  | snapTick (quarter : Nat) (cid : Nat)
  /-- R310. A frame read or Write command of the snapshot drain completes and the frame leaves the set or returns to the reserve. -/
  | drainFrameDone (quarter : Nat) (cid : Nat) (die : Nat)
  /-- R310. The header write completes, the snapshot ends and a deferred trigger is accepted. -/
  | drainHeaderDone (quarter : Nat) (cid : Nat)
  /-- R312. A write held 400,000 cycles for want of a reserve frame aborts the snapshot or faults the held writes. -/
  | reserveHoldExpiry (quarter : Nat) (cid : Nat)
  /-- R312. A drain Write command that errs or stays unanswered aborts the snapshot. -/
  | drainWriteError (quarter : Nat) (cid : Nat)
  /-- R303. A write of HBCTL that sets EN takes the reserve on every controller or sets RSVERR. -/
  | hbctlWrite (quarter : Nat) (cid : Nat) (value : Word)
  /-- R319. A write of GOVSHARE or GOVLIM is discarded when shares would exceed the limit. -/
  | governorWrite (share : Option Nat) (value : Word)
  /-- R322. A sensor at 105 °C gates its die to even cycles and sends THERM_GATE. -/
  | thermalGateOn (die : Nat)
  /-- R322. After a whole interval below 100 °C the die's gate clears. -/
  | thermalGateOff (die : Nat)
  /-- R365. A sensor at 115 °C resets the device. -/
  | thermalTrip (die : Nat) (reading : BitVec 8)
  /-- R359. A rail out of regulation for 2,000 cycles resets the device. -/
  | railFault (die : BitVec 8) (rail : BitVec 8)
  /-- R324. A beat whose CRC-32C fails at a boundary is retried once, then counts as uncorrectable. -/
  | carriedCheckMismatch (e : CheckEvent)
  /-- R325. A read meets an ECC error, corrected and written back or consumed as uncorrectable. -/
  | eccErrorConsumed (e : EccEvent)
  /-- R326. Each controller reads every frame once per 2^37 cycles, correcting or poisoning words. -/
  | eccScrub (die : Nat) (frame : Nat) (word : Nat) (uncorrectable : Bool)
  /-- R338. At each 2^21-cycle window, lane margins update and low lanes step links down or remap spares. -/
  | laneWindowEnd (margins : List (Nat × BitVec 8))
  /-- R341. A write of QREQ = 1 takes the partition to QUIESCING and stops launches leaving SUBMITTED. -/
  | quiesceRequest (quarter : Nat)
  /-- R341. A write of QREQ = 0 returns the partition to RUN. -/
  | quiesceCancel (quarter : Nat)
  /-- R341. On the first cycle all conditions hold, the partition becomes QUIESCED. -/
  | quiesced (quarter : Nat)
  /-- R341. When QTMO expires before QUIESCED, QREQ clears and PART_BUSY is reported. -/
  | quiesceTimeout (quarter : Nat)
  /-- R342. A PCFG write merges or splits quiesced quarters, or is discarded. -/
  | pcfgWrite (value : Word)
  /-- R343. A write of NBOUND takes effect only while the quarter is QUIESCED. -/
  | nbondWrite (quarter : Nat) (value : Word)
  /-- R348. A tenant slot write binds or unbinds a tenant, discarded beyond 64 CIDs. -/
  | tslotWrite (quarter : Nat) (k : Nat) (value : Word)
  /-- R346. An access to the control window reaches its register or faults. -/
  | controlWindowAccess (id : Nat)
  /-- R252. A write of TCSD with GO starts a translation shoot-down, held if one is busy. -/
  | tcsdWrite (die : Nat) (value : Word)
  /-- R252. A shoot-down finishes writing back and discarding, and BUSY clears. -/
  | shootDownDone (die : Nat)
  /-- R351. Setting SVCCFG.V checks and loads a service image and starts the service context. -/
  | svcBind (die : Nat) (j : Nat)
  /-- R351. Clearing SVCCFG.V stops and unbinds the service context. -/
  | svcUnbind (die : Nat) (j : Nat)
  /-- R356. An upstream hot reset in self-hosted mode resets the port's functions only. -/
  | hotResetSelfHosted (port : Nat)
  /-- R357. An upstream hot reset in host-managed mode acts as a function-level reset of every function on the port. -/
  | hotResetHostManaged (port : Nat)
  /-- R357. A function-level reset ends the tenant's tasks and discards its queued work. -/
  | functionLevelReset (vf : Nat)
  /-- R364. Setting a connection's V readies an RDMA queue pair or starts an NVMe-oF connect. -/
  | connectionEnable (conn : Nat)
  /-- R364. The first write of word 5 after enabling brings an RDMA path up. -/
  | connectionWord5Write (conn : Nat) (value : Word)
  /-- R364. When all NVMe-oF queues are connected the connection is up. -/
  | nvmeofConnected (conn : Nat)
  /-- R364. A connection failure sets STATE failed and records ERRC. -/
  | connectionFailure (conn : Nat) (errc : BitVec 32)
  /-- R365. Applied power resets the device whole. -/
  | powerOn
  /-- R365. The module reset input resets the device whole. -/
  | pinReset
  /-- R366. A write of PKGRST.GO resets the device whole. -/
  | hvReset (retry : Bool)
  /-- R367. After reset the boot ROM runs the start-up steps with methods from the log. -/
  | bootStart
  /-- R6. A write of a register with no behaviour of its own updates its RW fields. -/
  | registerWrite (unit : BitVec 8) (off : BitVec 24) (value : Word)
  /-- R347. A write of HEAD in FQPTR or EQPTR, or of V in FQBASE or EQBASE, frees ring space so that records of SEV 2 or higher that wait for space are written. -/
  | ringHeadWrite (quarter : Nat) (cid : Nat) (eq : Bool) (head : BitVec 32)
  /-- R356. After an upstream hot reset in self-hosted mode, the host link finishes retraining and accesses to host memory stop taking NOT_PRESENT with WHY 0x36. -/
  | hostLinkRetrained (port : Nat)
  deriving DecidableEq, Repr

end Sys2Proof
end

