-- ==== Sys2Proof/Machine/State.lean ====
section
/-!
DEFINITION. The state of the SK24: plain data. Tables are sorted lists of a key and a value; a key that is absent stands for the
value after device reset. A context is named by the key 8 times its core plus its number; compute cores are 0 to 2,303 and
the service core svcs of die d is core 2,304 + 4 d + s (R10, R27, R350).
-/
namespace Sys2Proof.Machine

/-- The states of a context (R27, R80). -/
inductive Mode where
  | unbound | run | service | stopping | parked | saved | halted
  deriving DecidableEq, Repr

/-- The kinds of a handle (R92). -/
inductive HandleKind where
  | global | spad | cluster | mcast
  deriving DecidableEq, Repr

/-- A handle: the fields of R92 and the permission-table entry it was granted from (R244). -/
structure Handle where
  v : Bool := false
  kind : HandleKind := .global
  perm : BitVec 3 := 0#3
  base : BitVec 64 := 0#64
  bound : BitVec 64 := 0#64
  tgt : BitVec 96 := 0#96
  entry : Nat := 256
  deriving DecidableEq, Repr

/-- An entry of the permission table (R242). -/
structure PermEntry where
  v : Bool := false
  kind : HandleKind := .global
  perm : BitVec 3 := 0#3
  base : BitVec 52 := 0#52
  bound : BitVec 53 := 0#53
  tgt : BitVec 96 := 0#96
  deriving DecidableEq, Repr

/-- The sticky state of a slot: SLOTW, SLOTN.IDLE and SLOTN.N (R51). -/
structure Sticky where
  w : Word := 0#64
  idle : Bool := true
  n : W32 := 0#32
  deriving DecidableEq, Repr

/-- A loop frame (R119, R290): ACT, BEG, END and OW. -/
structure Frame where
  act : Bool := false
  beg : Word := 0#64
  fin : Word := 0#64
  ow : Bool := false
  deriving DecidableEq, Repr

/-- The walk registers CMAPCFG, LWI and LWN, CTXSTAT.LWACT and the declaration set (R291, R292). -/
structure Walk where
  act : Bool := false
  wh : BitVec 4 := 0#4
  cell : BitVec 3 := 0#3
  lp : BitVec 2 := 0#2
  ncell : BitVec 21 := 0#21
  off : W32 := 0#32
  dph : Bool := false
  ndecl : BitVec 3 := 0#3
  iter : W32 := 0#32
  nrun : W32 := 0#32
  trip : W32 := 0#32
  decl : List (Nat × Nat) := []
  deriving DecidableEq, Repr

/-- A weight latch of one unit (R166): the tile's bytes, its format, and the metadata word when SPARSE is 1. -/
structure Latch where
  tile : List Byte := []
  fmt : BitVec 4 := 0#4
  sparse : Bool := false
  meta_ : BitVec 256 := 0#256
  deriving DecidableEq, Repr

/-- A queue entry (R182): its image, element count and source format, the cycle on which it was appended, and whether its claim is filled. -/
structure QEntry where
  image : List Byte
  n : Nat
  src : BitVec 4
  appended : Nat
  taken : Bool := false
  deriving DecidableEq, Repr

/-- A queue (R162, R182): its entries from the oldest, the number of claims that hold its first entries, the number of entries
claimed and filled before them, and the next entry ordinal. -/
structure Queue where
  entries : List QEntry := []
  claimed : Nat := 0
  base : Nat := 0
  ordinal : BitVec 40 := 0#40
  deriving DecidableEq, Repr

/-- A destination of a result. -/
inductive Dest where
  | s (r : Nat)
  | v (r : Nat)
  | o (r : Nat)
  | m (r : Nat)
  | h (r : Nat)
  | none
  deriving DecidableEq, Repr

/-- What an S operation does on issue + 1 beyond writing a register (R78, R110, R179, R183, R195, R198, R281 to R283). -/
inductive Action where
  | srWrite (target : Nat) (num : Nat) (value : Word)
  | revoke (h : Nat)
  | qcfg (q : Nat) (value : Word)
  | fuse (f : BitVec 2)
  | vtsel (target : Option Nat)
  | wrrec (target : Nat) (index : Nat) (value : Word)
  | permld (target : Nat) (entry : Nat) (value : PermEntry)
  | countStep
  deriving DecidableEq, Repr

/-- The value a result brings: a scalar, vector bits under a bit mask, a mask, a handle, or an action. -/
inductive Result where
  | word (w : Word)
  | vec (value write : Vec)
  | mask (m : MaskVal)
  | handle (h : Handle)
  | act (a : Action)
  deriving DecidableEq, Repr

/-- An access that later ones are held behind, and the scope at which what they read is to be fresh once it has performed (R201, R214). -/
structure Hold where
  id : Nat
  scope : BitVec 3
  deriving DecidableEq, Repr

/-- What the Vitrine record of an operation holds of its issue (R267, R268): BSEQ, slot, the slot word as given, the step, the
captures and the operand images; and the model's issue order, whether the handler of a SERVICE issued it, and the fusion on which it issued
(R162, R170). -/
structure OpRec where
  bseq : BitVec 48 := 0#48
  ino : Nat := 0
  slot : Nat := 0
  sw : Word := 0#64
  step : W32 := 0#32
  ca : Word := 0#64
  cb : Word := 0#64
  cc : Word := 0#64
  imgs : List Vec := []
  hka : BitVec 2 := 0#2
  hkb : BitVec 2 := 0#2
  prma : BitVec 3 := 0#3
  prmb : BitVec 3 := 0#3
  svc : Bool := false
  fuse : BitVec 2 := 0#2
  deriving DecidableEq, Repr

/-- A fixed-latency result in flight (R86): the cycle it lands on and what it writes. -/
structure Landing where
  op : OpRec
  due : Nat
  dest : Dest
  val : Result
  deriving DecidableEq, Repr

/-- What a variable-latency operation waits for (R87, R182, R205, R206). -/
inductive Source where
  | value (due : Nat) (vals : List Result)
  | access (id : Nat)
  | claim (q : Nat) (number : Nat) (ordinal : BitVec 40) (qb : Word) (since : Nat)
  | join (since : Nat) (due : Option Nat)
  | pqClaim (id : Nat)
  | drain
  deriving DecidableEq, Repr

/-- A variable-latency operation in flight (R87). -/
structure Pending where
  op : OpRec
  dests : List Dest
  src : Source
  deriving DecidableEq, Repr

/-- An M operation issued and not completed (R168): its unit's first quadrant and quadrant mask, its resolved addresses, its row
count and start, its progress, and the cycle from which it may take its next step. -/
structure MOp where
  op : OpRec
  quads : BitVec 4
  fuse : BitVec 2
  kind : HandleKind := .spad
  addr : Nat := 0
  rows : Nat := 0
  start : Nat := 0
  qb : Word := 0#64
  ordinal : BitVec 40 := 0#40
  lfmt : BitVec 4 := 0#4
  lsparse : Bool := false
  words : BitVec 256 := 0#256
  metaAccess : Option Nat := none
  prog : Nat := 0
  begun : Bool := false
  ready : Nat := 0
  access : Option Nat := none
  data : List Byte := []
  deriving DecidableEq, Repr

/-- The reason a context stops (R259). -/
inductive StopKind where
  | precise | software | deferred | save | peer | unbind
  deriving DecidableEq, Repr

/-- A stop in progress (R264, R265): its kind and stop cycle, the faults that struck the context's operations, and whether the
context was HALTED, in SERVICE or at a precise or software trap when it began; the address of a trap, and its slot where SLOTS names
others before it (R369). -/
structure Stop where
  kind : StopKind
  t : Nat
  faults : List FaultMsg := []
  wasHalted : Bool := false
  fromService : Bool := false
  light : Bool := false
  va : BitVec 52 := 0#52
  slot : Option Nat := none
  deriving DecidableEq, Repr

/-- What SERVICE sets aside (R53, R261). -/
structure SetAside where
  pc : Word
  bseq : BitVec 48
  repleft : Nat
  s0w : Sticky
  s6w : Sticky
  sregs : List Word
  sfull : BitVec 8
  deriving DecidableEq, Repr

/-- The forms of a copy (R185). -/
inductive CopyForm where
  | cpy | cpy2 | cpy3 | cgath | cscat | cmcast | cfill | credI32 | credFp32 | credBf16
  deriving DecidableEq, Repr

/-- A path entry as an access met it at its issue (R249): its number, PATHA and PATHB. -/
structure PathEntry where
  num : Nat
  a : Word
  b : Word
  deriving DecidableEq, Repr

/-- A copy accepted by an engine and not completed (R189 to R193). `buf` holds the beat that is read and not yet written,
`skip` says how far beyond the progress it lies in the byte map, and `ahead` holds the position and length of the beats moved beyond the
progress. `phase` names
the buffer phase that holds its token (R334); a stop found a frozen one held behind an ordered atomic (R265); a silent copy has neither token nor barrier (R336).
`heldSince` and `heldOn` say since when the write of its beat waits for reserve frames, and of which controllers and tenants (R312).
`patha` and `pathb` are the path entries of its partition at its issue (R249); `old` holds the bytes of its own-scratchpad source that later accesses of
its core have overwritten (R213). -/
structure Copy where
  key : Nat
  cid : BitVec 8
  op : OpRec
  engine : Nat
  form : CopyForm
  dk : HandleKind
  sk : HandleKind
  dst : Nat
  src : Nat
  dbound : Nat
  sbound : Nat
  dbase : Nat
  sbase : Nat
  tgt : BitVec 96
  fill : Word
  len0 : Nat
  n1 : Nat
  n2 : Nat
  d1 : Int
  s1 : Int
  d2 : Int
  s2 : Int
  idx : List Int
  desc : List Word
  tok : Nat
  bar : Option Nat
  launch : Option Nat
  launched : Bool
  prog : Nat := 0
  ready : Nat := 0
  after : List Nat := []
  status : Nat := 0
  frozen : Bool := false
  skip : Nat := 0
  ahead : List (Nat × Nat) := []
  buf : List Byte := []
  heldSince : Option Nat := none
  heldOn : List (Nat × BitVec 8) := []
  fault : Option FaultMsg := none
  phase : Option Nat := none
  silent : Bool := false
  patha : Sparse Word := []
  pathb : Sparse Word := []
  old : List (Nat × Byte) := []
  deriving DecidableEq, Repr

/-- A copy of the held log of a buffer phase (R334): the captures of the record. -/
structure LoggedCopy where
  op : OpRec
  desc : List Word
  deriving DecidableEq, Repr

/-- The capture of a buffer phase (R333). -/
structure PhaseCapture where
  s : Sparse Word := []
  emptyS : BitVec 64 := 0#64
  lp : Sparse Word := []
  frames : Sparse Frame := []
  order : List Nat := []
  mpc : Word := 0#64
  slots : Sparse Sticky := []
  pc : Word := 0#64
  repleft : Nat := 0
  deriving DecidableEq, Repr

/-- The buffer phase of a context (R333 to R336): the capture, the phase log, the held log, the complete copies whose tokens are held,
whether the log overflowed, the rollbacks of the phase, the rollback in progress (0 none, 1 draining, 2 the held log's copies run), the
number of the phase and the BSEQ of its PHASE. -/
structure Phase where
  held : Bool := false
  cap : PhaseCapture := {}
  log : List LoggedCopy := []
  heldLog : List LoggedCopy := []
  done : List Copy := []
  overflow : Bool := false
  rollbacks : Nat := 0
  stage : Nat := 0
  number : Nat := 0
  first : BitVec 48 := 0#48
  deriving DecidableEq, Repr

/-- What an operation of a record took at its issue and its captures do not give (log entry 30): its record as it was written, and the
destinations that its results still had, with the results of those that were on their way; and the operations, by BSEQ and slot, that it was
held behind, each with its scope (R214). -/
structure Kept where
  op : OpRec
  results : List (Dest × Result)
  behind : List ((BitVec 48 × Nat) × BitVec 3) := []
  deriving DecidableEq, Repr

/-- What the next issue of a context waits for beyond fetch and full registers (R198, R284 to R286, R290). -/
inductive Wait where
  | until (cycle : Nat) (waitt : Option OpRec)
  | drain (op : OpRec) (scope : BitVec 3) (both : Bool) (accesses : List Nat) (at_ : Nat)
  deriving DecidableEq, Repr

/-- What a HALTED context of a task does for children (R204): the steal in progress. -/
structure Steal where
  victim : Nat
  done : Nat
  deriving DecidableEq, Repr

/-- A context (R76 to R85 and the hidden state of the chapters). `fresh` and `freshC` say from which fill on a line of the vector data cache may
serve its loads: any line, and a line of data that parties of its cluster write (R215). -/
structure Ctx where
  mode : Mode := .unbound
  s : Sparse Word := []
  v : Sparse Vec := []
  o : Sparse Vec := []
  m : Sparse MaskVal := []
  h : Sparse Handle := []
  acc : Sparse W32 := []
  tags : Sparse Bool := []
  latches : Sparse Latch := []
  emptyS : BitVec 64 := 0#64
  emptyV : BitVec 64 := 0#64
  writerS : Sparse Nat := []
  writerV : Sparse Nat := []
  ls : Word := 0#64
  lc0 : Word := 0#64
  lc1 : Word := 0#64
  lv0 : Vec := 0#1024
  lv1 : Vec := 0#1024
  lm : Vec := 0#1024
  lp : Sparse Word := []
  frames : Sparse Frame := []
  order : List Nat := []
  qb : Sparse Word := []
  queues : Sparse Queue := []
  slots : Sparse Sticky := []
  pc : Word := 0#64
  bseq : BitVec 48 := 0#48
  mpc : Word := 0#64
  ensat : Bool := false
  scdem : Bool := false
  cid : BitVec 8 := 0#8
  pos : BitVec 7 := 0#7
  lock : Bool := false
  det : Bool := false
  sysok : Bool := false
  fuse : BitVec 2 := 0#2
  quads : BitVec 4 := 0#4
  pri : BitVec 3 := 0#3
  trapcause : Word := 0#64
  trapinfo : Word := 0#64
  vthead : BitVec 8 := 0#8
  vtcount : BitVec 9 := 0#9
  enctr : BitVec 48 := 0#48
  walk : Walk := {}
  perm : Sparse PermEntry := []
  svcent : Word := 0#64
  repleft : Nat := 0
  jcnt : BitVec 16 := 0#16
  done : BitVec 16 := 0#16
  ga : Option Nat := none
  phase : Phase := {}
  aside : Option SetAside := none
  vtsel : Option Nat := none
  landings : List Landing := []
  pending : List Pending := []
  mops : List MOp := []
  ino : Nat := 0
  fetched : List Word := []
  notBefore : Nat := 0
  wait : Option Wait := none
  yielded : Bool := false
  predictor : List Word := []
  holdLoads : List Hold := []
  holdAll : List Hold := []
  fresh : Nat := 0
  freshC : Nat := 0
  stop : Option Stop := none
  savedStop : Option Stop := none
  held : Bool := false
  resumed : Bool := false
  resumeAt : Nat := 0
  parkedFromHalted : Bool := false
  savedAs : Mode := .run
  kept : List Kept := []
  heldReads : List ((BitVec 48 × Nat) × BitVec 3) := []
  task : Option Nat := none
  index : Nat := 0
  child : Option Nat := none
  spadBase : Nat := 0
  spadLen : Nat := 0
  barFirst : Nat := 0
  barCount : Nat := 0
  profiles : BitVec 4 := 0#4
  tickets : Nat := 0
  steal : Option Steal := none
  portS : Nat := 0
  portV : Nat := 0
  portAt : Nat := 0
  reserve : Nat := 0
  deriving DecidableEq, Repr

/-- What a landing or an arrival of this cycle changed outside its context (R265): a context, bytes of memory, or the step count of a per-CID
block, with DEFER as it stood. -/
inductive Undo where
  | ctx (k : Nat) (c : Ctx)
  | bytes (a : Nat) (old : List Byte)
  | step (block : Nat) (deferred : Bool)
  deriving DecidableEq, Repr

/-- A context as it stood before the landings and arrivals of a cycle, and what they changed outside it, the latest first (R265). -/
structure Before where
  cycle : Nat
  ctx : Ctx
  undo : List Undo := []
  deriving DecidableEq, Repr

/-- A named barrier (R194), with ARMD as it stood at the start of the cycle of its last update. -/
structure Barrier where
  cnt : W32 := 0#32
  arr : W32 := 0#32
  ph : Bool := false
  armd : Bool := false
  before : Bool := false
  updated : Nat := 0
  deriving DecidableEq, Repr

/-- What reaches a barrier on a cycle (R196): an addition, or the count of a BARM. -/
structure BarrierInput where
  bar : Nat
  due : Nat
  add : Nat
  arm : Option W32
  deriving DecidableEq, Repr

/-- A child of the work deque (R203). -/
structure Child where
  entry : Word
  args : List Word
  parent : Nat
  task : Nat
  deriving DecidableEq, Repr

/-- A line of a cache (R89, R213, R254): its tag and its bytes. `window`: cluster-window data; `filled`: the number of its fill; `missed`: a
party of the core's cluster has written its bytes since, and it has not followed. -/
structure CacheLine where
  cid : BitVec 8
  va : Nat
  window : Bool
  data : List Byte
  filled : Nat := 0
  missed : Bool := false
  deriving DecidableEq, Repr

/-- A core (R30, R31, R89). -/
structure Core where
  holder : Nat := 3
  runCount : Nat := 0
  last : Nat := 7
  bars : Sparse Barrier := []
  barIn : List BarrierInput := []
  deque : List Child := []
  icache : List CacheLine := []
  vcache : List CacheLine := []
  wbuf : List CacheLine := []
  deriving DecidableEq, Repr

/-- The part of an access that one place serves (R107, R247): the element it belongs to, its byte offset in the data, its address
and length, the cycle on which its place receives it, and whether it is done. -/
structure Part where
  elem : Nat
  pos : Nat
  va : Nat
  len : Nat
  due : Nat
  done : Bool := false
  deriving DecidableEq, Repr

/-- What an access does at its place. -/
inductive AccessOp where
  | load
  | store
  | atomic (aop : BitVec 4) (fp : Bool)
  | fetch
  | metaFetch
  | matrix
  deriving DecidableEq, Repr

/-- Where a part of a write is to be applied, as its home translated it (R252, R256): its position, the die and the local address. -/
structure Bound where
  pos : Nat
  die : Nat
  loc : Nat
  deriving DecidableEq, Repr

/-- An access in flight to its place (R209, R210, R255): its issuer, containment identifier, operation record, parts, data, compare
values of .cas, scope, the accesses it is held behind (R201, R214), whether it holds a store buffer entry, whether its homes have
been asked for faults, whether a stop found it held behind an ordered atomic (R265), the fault found, the parts of a
faulted store that the context still sees (R220), the path entries met, where the parts of a write are bound to be applied (R256), the cycle from which a
redirect holds it, with the controllers and the tenants for whose sets it waits (R312), the cycle on which a path carried what of it
the host never answers, with the elements that this is where elements fault independently, the cycle on which it was performed, and the cycle on which its acknowledgement returns. -/
structure Access where
  key : Nat
  cid : BitVec 8
  op : OpRec
  kind : HandleKind
  what : AccessOp
  parts : List Part
  data : List Byte := []
  cmp : List Byte := []
  scope : BitVec 3 := 3#3
  after : List Hold := []
  fresh : Nat := 0
  freshC : Nat := 0
  paths : List PathEntry := []
  bound : List Bound := []
  failed : List Part := []
  buffered : Bool := false
  checked : Bool := false
  frozen : Bool := false
  faulted : Option FaultMsg := none
  heldSince : Option Nat := none
  heldOn : List (Nat × BitVec 8) := []
  sent : Option Nat := none
  mute : List Nat := []
  performed : Option Nat := none
  ack : Nat := 0
  deriving DecidableEq, Repr

/-- A multicast landing on its way (R91): its operation, and the offsets and bytes it brings to each target. A stop found a frozen one held
behind an ordered atomic (R201, R265); `kept` are the places of which an atomic of the landing's cycle has read it (R219). -/
structure Mcast where
  op : OpRec := {}
  frozen : Bool := false
  kept : List Nat := []
  due : Nat
  pos : Nat
  key : Nat
  after : List Nat := []
  cores : List Nat
  bytes : List (Nat × Byte)
  landed : Bool := false
  deriving DecidableEq, Repr

/-- A copy engine of a cluster (R35, R191, R192): the member whose operation it accepted last, and on which cycle, and the cycle on which it
last moved bytes with the bytes it moved on it. -/
structure Engine where
  last : Nat := 7
  acceptedAt : Option Nat := none
  movedAt : Nat := 0
  moved : Nat := 0
  deriving DecidableEq, Repr

/-- An entry of a die's priority queue (R206, R207, R233). -/
structure PqEntry where
  cid : BitVec 8
  key : W32
  payload : Word
  ticket : Option (Nat × Nat)
  order : Nat
  deriving DecidableEq, Repr

/-- A push on its way to the priority queue, or a claim on its way or waiting there (R233, R234). -/
structure PqMove where
  id : Nat
  due : Nat
  ctx : Nat
  cid : BitVec 8
  push : Option PqEntry
  here : Bool := false
  det : Bool := false
  deriving DecidableEq, Repr

/-- A node of a resident graph (R236). -/
structure Node where
  n0 : Word
  n1 : Word
  deriving DecidableEq, Repr

/-- A path of a replay (R237): the node it is at, when it reached it, and the task it waits for. -/
structure Path where
  node : Nat
  since : Nat
  waits : Option Nat := none
  deriving DecidableEq, Repr

/-- A resident graph in a walker's slot, with its ACCEPTED and RUNNING replays (R235, R238). -/
structure Graph where
  quarter : Nat
  cid : BitVec 8
  image : Nat
  lbase : Nat
  number : Nat
  nodes : List Node
  root : Nat
  pb : Nat
  pblen : Nat
  cw : Nat
  accepted : Option Nat := none
  running : Option Nat := none
  deriving DecidableEq, Repr

/-- A replay of a graph (R237): its captured parameter block, paths, JOIN and WHILE counters, tasks and status. -/
structure Replay where
  block : List Byte
  paths : List Path := []
  joins : Sparse Nat := []
  passes : Sparse Nat := []
  tasks : List Nat := []
  status : BitVec 16 := 0#16
  deriving DecidableEq, Repr

/-- The states of a launch (R226). -/
inductive Stage where
  | submitted | queued | deferred | waiting | bound | running | completing | done
  deriving DecidableEq, Repr

/-- Where a launch comes from and where its completion goes (R231, R353). -/
inductive Origin where
  | imageQueue (vf : Nat) (entry : Nat) (tag : W32) (live : Bool)
  | walker (slot : Nat) (replay : Nat) (node : Nat)
  deriving DecidableEq, Repr

/-- A context record of an image entry (R355). -/
structure CtxRecord where
  ctx : Nat
  pri : BitVec 3
  quads : BitVec 4
  fused : Bool
  entry : Word
  args : List Word
  deriving DecidableEq, Repr

/-- The claims of an image entry as the launch holds them (R355). -/
structure Claims where
  ncores : Nat := 0
  nctx : Nat := 0
  quads : BitVec 4 := 0#4
  prof : BitVec 4 := 0#4
  det : Bool := false
  lock : Bool := false
  spad : Nat := 0
  bfirst : Nat := 0
  bcount : Nat := 0
  energy : Nat := 0
  ctxs : List CtxRecord := []
  deriving DecidableEq, Repr

/-- A launch and its task (R226 to R231): where it comes from, what the checks of its image give, the cycle from which its next test may be
made, and its placement: the die, the cores with the contexts and the program-area start on each, and the start tick. -/
structure Launch where
  origin : Origin
  quarter : Nat
  cid : BitVec 8
  stage : Stage := .submitted
  img : Nat := 0
  lbase : Nat := 0
  entry : Nat := 0
  noload : Bool := false
  claims : Claims := {}
  text : Word := 0#64
  meta_ : Word := 0#64
  svcent : Word := 0#64
  perms : List PermEntry := []
  graph : Option Nat := none
  args : Option (List Word) := none
  ready : Nat := 0
  die : Nat := 0
  cores : List Nat := []
  members : List (List Nat) := []
  bases : List Nat := []
  start : Nat := 0
  status : BitVec 16 := 0#16
  ended : Bool := false
  deriving DecidableEq, Repr

/-- An issue of a lockstep stream that the lead has made (R40, R41): the step on which it made it, its address and words, the repetitions
that remained before it, and the outcome of its branch slot (R43). -/
structure LockIssue where
  step : Nat
  pc : Word
  words : List Word
  repleft : Nat
  target : Option Word
  deriving DecidableEq, Repr

/-- A gang barrier (R197): the members arrived and the release cycle. -/
structure GangBar where
  arrived : List Nat := []
  release : Option Nat := none
  deriving DecidableEq, Repr

/-- A task's gang: its gang barriers (R197), and of a lockstep gang the number of its next step and the issues of the stream that later
members have still to make (R40, R41). -/
structure Gang where
  bars : Sparse GangBar := []
  step : Nat := 0
  stream : List LockIssue := []
  deriving DecidableEq, Repr

/-- A frame ownership entry: OWN and USE (R253), the dirty bit of the frame (R307), and the frame that now holds what the page-table
entries that name this frame mean (R309). -/
structure FrameInfo where
  own : BitVec 8 := 0#8
  use : BitVec 3 := 0#3
  dirty : Bool := true
  redirect : Option Nat := none
  deriving DecidableEq, Repr

/-- A translation-cache entry (R252): CID, page number, page size and the local address of the page's first frame. -/
structure TlbEntry where
  cid : BitVec 8
  page : Nat
  big : Bool
  local_ : Nat
  deriving DecidableEq, Repr

/-- A shoot-down (R252). -/
structure ShootDown where
  value : Word
  done : Nat
  deriving DecidableEq, Repr

/-- A service binding block (R351): SVCCFG, SVCIMG and SVCLB; and the cycle from which a binding that a write began may end. -/
structure SvcBlock where
  cfg : Word := 0#64
  img : Word := 0#64
  lb : Word := 0#64
  pending : Option Nat := none
  deriving DecidableEq, Repr

/-- A compute die: its unit of the control window, its controller and its priority queue. `rootNew` holds the PTROOT registers that a write has
changed and that do not act yet (R252). -/
structure Die where
  enwt : Sparse (BitVec 16) := []
  wstat : BitVec 16 := 700#16
  ptroot : Sparse Word := []
  rootNew : Sparse Word := []
  shoot : Option ShootDown := none
  shootQ : List (Word × Nat) := []
  svc : Sparse SvcBlock := []
  tlb : List TlbEntry := []
  slice : List CacheLine := []
  frames : Sparse FrameInfo := []
  reserve : Sparse (List Nat) := []
  pq : List PqEntry := []
  pqMoves : List PqMove := []
  pqOrder : Nat := 0
  missed : Nat := 0
  fenced : Bool := false
  gatedAt : Nat := 0
  poisoned : List Nat := []
  deriving DecidableEq, Repr

/-- Interleave registers that a write has changed and that do not act yet (R252). -/
structure Interleave where
  base : Sparse Word
  lim : Sparse Word
  deriving DecidableEq, Repr

/-- A quarter's registers and the state of the partition whose lowest quarter it is (R340, R346, R348, R349): the tenant whose slice runs, and
of a gang switch its tick, the tenant due at the tick, the tenant chosen to come in, the dies whose saves are complete and the cycle from
which each die's save may be (R273 to R275). -/
structure Quarter where
  qtmo : BitVec 16 := 0x0100#16
  slice : BitVec 16 := 0x0100#16
  pqw : BitVec 6 := 15#6
  pstate : BitVec 3 := 0#3
  qreq : Bool := false
  qreqAt : Nat := 0
  open_ : Option (BitVec 4) := none
  share : BitVec 16 := 3500#16
  rem : Option Int := none
  shcnt : Word := 0#64
  ilbase : Sparse Word := []
  illim : Sparse Word := []
  ilNew : Option Interleave := none
  tslot : Sparse Word := []
  patha : Sparse Word := []
  pathb : Sparse Word := []
  running : Option Nat := none
  switch : Option Nat := none
  switchTo : Option Nat := none
  switchDue : Option Nat := none
  saveAt : Sparse Nat := []
  savedDies : List Nat := []
  saveTok : Sparse Nat := []
  deriving DecidableEq, Repr

/-- A snapshot of a tenant (R303 to R312): its tick, mode and generation, the frames still in the set, the frames of the cut with their
uses, the snapshot frames, the cut's frames whose read has ended with the CRC-32C of their images, the frames whose Write command is
outstanding, and the cycle from which each drain engine takes its next step and on which it sent its Write command. -/
structure Snap where
  tick : Nat := 0
  inc : Bool := false
  gen : BitVec 16 := 0#16
  todo : List (Nat × Nat) := []
  cut : List (Nat × Nat × BitVec 3) := []
  moved : List (Nat × Nat) := []
  images : List (Nat × W32) := []
  writes : List Nat := []
  ready : Sparse Nat := []
  sent : Sparse Nat := []
  deriving DecidableEq, Repr

/-- A write by the device itself or from another package that may be held for reserve frames (R312): a far access, the sections of a launch's or of a
service binding's image, and the records of a ring. -/
inductive Holder where
  | far (a : FarAccess)
  | launch (id : Nat)
  | svc (die j : Nat)
  | ring (q cid : Nat) (eq : Bool)
  deriving DecidableEq, Repr

/-- Such a write that is held (R312): since when, its place among the writes held from one cycle on, the controllers and the tenants for whose sets it
waits, and whether it has been held for so long that it is not applied. -/
structure Held where
  who : Holder
  since : Nat
  id : Nat
  on : List (Nat × BitVec 8)
  out : Bool := false
  deriving DecidableEq, Repr

/-- An error record to be written to a ring (R329, R331): its words but for COUNT and the check code. -/
structure ErrRecord where
  code : BitVec 16
  why : BitVec 8 := 0#8
  sev : BitVec 3
  cid : BitVec 8 := 0#8
  etype : BitVec 8
  die : BitVec 8
  unit : BitVec 8 := 0#8
  ctx : BitVec 8 := 0xFF#8
  slot : BitVec 3 := 7#3
  bseq : BitVec 48 := 0#48
  va : BitVec 52 := 0#52
  time : Option Nat := none
  action : BitVec 16
  detail : Word := 0#64
  deriving DecidableEq, Repr

/-- A ring of records (R345, R347): its registers, the records that wait for space and the counts of records not written. -/
structure Ring where
  base : Word := 0#64
  head : W32 := 0#32
  tail : W32 := 0#32
  waiting : List ErrRecord := []
  dropped : Sparse Nat := []
  deriving DecidableEq, Repr

/-- The registers of one CID in one quarter (R345). -/
structure Block where
  hbctl : Word := 0#64
  gen : BitVec 16 := 0#16
  stepcnt : BitVec 16 := 0#16
  rsverr : Bool := false
  abrt : Bool := false
  defer_ : Bool := false
  state : BitVec 2 := 0#2
  clearEn : Bool := false
  hbtgt0 : Word := 0#64
  hbtgt1 : Word := 0#64
  ecnt : Word := 0#64
  pidle : BitVec 48 := 0#48
  pqshare : BitVec 17 := 4096#17
  resid : Word := 0#64
  fq : Ring := {}
  eq : Ring := {}
  akey : Word := 0#64
  savea : Word := 0#64
  snap : Snap := {}
  queue : List Nat := []
  deriving DecidableEq, Repr

/-- A virtual function (R352, R353): VFMAP, IQHEAD, the tail, IQBASE and IQSIZE. -/
structure Vf where
  map : Word := 0#64
  head : BitVec 16 := 0#16
  tail : BitVec 16 := 0#16
  base : Word := 0#64
  size : BitVec 4 := 0#4
  deriving DecidableEq, Repr

/-- A lane's EYE register (R337), and whether a spare lane of a Lorig-D port carries traffic (R361). -/
structure Lane where
  thresh : BitVec 8 := 0x20#8
  margin : BitVec 8 := 0#8
  lowrun : BitVec 8 := 0#8
  rate : BitVec 2 := 0#2
  spare : Bool := false
  deriving DecidableEq, Repr

/-- The boot of the device (R366 to R368). -/
inductive BootPhase where
  | pending | done | halted
  deriving DecidableEq, Repr

/-- The package's registers (R319, R340, R352, R366, R376), its links and the Ethernet units; the place of the next step-log entry in the
flash and whether this start uses method 0 in every step (R366, R368); and whether the Ethernet units came up, and the host ports trained as PCIe
alone, in the boot (R367). -/
structure Package where
  pcfg : BitVec 3 := 0#3
  govlim : BitVec 16 := 14000#16
  gate : BitVec 24 := 0#24
  hostmgd : Bool := false
  pkgid : BitVec 22 := 0#22
  cause : BitVec 8 := 1#8
  retry : Bool := false
  retryStart : Bool := false
  logAt : Nat := 0
  start : W32 := 0#32
  xrate : BitVec 2 := 0#2
  fenced : BitVec 24 := 0#24
  hostUp : List Nat := []
  ether : Bool := true
  pcieOnly : Bool := false
  ports : Sparse Nat := []
  xlinks : Sparse Nat := []
  etherWords : Sparse Word := []
  deriving DecidableEq, Repr

/-- An Ethernet connection (R364): its eight words. -/
structure Conn where
  w0 : Word := 0#64
  w1 : Word := 0#64
  w2 : Word := 0#64
  w3 : Word := 0#64
  w4 : Word := 0#64
  w5 : Word := 0#64
  errc : W32 := 0#32
  deriving DecidableEq, Repr

/-- The save of a tenant in a partition (R273, R349): the contexts as saved, the cores' barriers and deques, and what stands in the slot of each
core in the save area as the device wrote it (log entry 59). -/
structure Saved where
  quarter : Nat
  cid : BitVec 8
  ctxs : List (Nat × Ctx)
  cores : List (Nat × Sparse Barrier × List Child)
  ranges : List (Nat × Byte)
  toks : Sparse Nat := []
  deriving DecidableEq, Repr

/-- The issue in progress (R52): the context, the slot, the step, the slot word as given, the bundle's header fields, the other V
slot's stepped word, the sticky state as it stood before the issue, the own-scratchpad stores of the issue, where the next issue comes from and
what of that the branch slot gave, the accesses of the issue that reach the own scratchpad through a CLUSTER handle, the window lines of the
own-scratchpad bytes that it reached, the places of its own-scratchpad atomics, and the TRAPINFO.IDX of a TRAP in it, and whether it held a PHASE. Before any issue it names ctx0 of core 0. -/
structure Issue where
  key : Nat := 0
  slot : Nat := 0
  step : W32 := 0#32
  sw : Word := 0#64
  pc : Word := 0#64
  len : Nat := 16
  bimm : W32 := 0#32
  be : Bool := false
  bsrc : BitVec 6 := 0#6
  rep : Nat := 0
  kind : BitVec 3 := 0#3
  partner : Option Instr := none
  svc : Bool := false
  slots : Sparse Sticky := []
  stores : List (Nat × Byte) := []
  target : Option Word := none
  branch : Option Word := none
  near : List Nat := []
  touched : List Nat := []
  rmw : List Nat := []
  loopIssued : Bool := false
  trapped : Option (BitVec 16) := none
  phased : Bool := false
  deriving DecidableEq, Repr

/-- The state of the device. `late`: the cores have had this cycle, and what memory applies on it is applied (log entry 1). `now` is the PTB of every die:
DESIGN CHOICE (log entry 100): the dies' counters have no skew, where R2 allows one cycle. -/
structure State where
  now : Nat := 0
  free : Nat := 0
  nextId : Nat := 1
  inputs : List (Nat × Instr) := []
  served : List Nat := []
  late : Bool := false
  cur : Issue := {}
  boot : BootPhase := .pending
  pkg : Package := {}
  ctxs : Sparse Ctx := []
  before : Sparse Before := []
  cores : Sparse Core := []
  engines : Sparse Engine := []
  accs : Sparse Access := []
  copies : Sparse Copy := []
  mcasts : Sparse Mcast := []
  launches : Sparse Launch := []
  gangs : Sparse Gang := []
  graphs : Sparse Graph := []
  replays : Sparse Replay := []
  dies : Sparse Die := []
  quarters : Sparse Quarter := []
  blocks : Sparse Block := []
  vfs : Sparse Vf := []
  lanes : Sparse Lane := []
  conns : Sparse Conn := []
  saves : Sparse Saved := []
  faults : List (Nat × FaultMsg) := []
  walkerFree : Sparse Nat := []
  held : List Held := []
  answers : List (FarAccess × Option (List Byte)) := []
  mem : List Host.Cell := []
  deriving DecidableEq, Repr

/-- The reasons for which the machine stops with a fault. No meaning raises one: every fault of the spec is an exception that a
context takes or a record that the device writes. -/
inductive Fault where
  /-- Raised by no one: the spec names no condition on which the device stops. Safe. -/
  | none
  deriving DecidableEq, Repr

/-- The reasons for which a meaning is refused. -/
inductive Refusal where
  /-- Raised by an arm of `exec` that has no meaning yet; it names the instruction. Safe: nothing can be proved of it. -/
  | notModelled (mnemonic : String)
  deriving DecidableEq, Repr

/-- The device after reset (R365, R366): every register at its reset value, every context UNBOUND, memory listing nothing (log
entry 5), the cause POWER_ON and the boot still to come (R367). -/
def State.reset : State := {}

end Sys2Proof.Machine
end

