-- ==== Sys2Proof/Decode.lean ====
section
/-!
DEFINITION. The decoder and the encoder of bundles and slot words, from the encoding tables of R45, R58-R62 and the opcode
maps of R71-R75. Decoding is total: a word that names no operation is rejected by name.
-/
namespace Sys2Proof

/-- The fields of format R in bits [55:0] of a slot word (R58-R60). -/
def FmtR.ofWord (w : Word) : FmtR where
  d := w.extractLsb' 48 8
  a := w.extractLsb' 40 8
  b := w.extractLsb' 32 8
  c := w.extractLsb' 24 8
  ty := w.extractLsb' 20 4
  msk := w.extractLsb' 16 4
  ep := w.extractLsb' 13 3
  dstep := w.extractLsb' 11 2
  rnd := w.extractLsb' 8 3
  var := w.extractLsb' 0 8

/-- The slot word of format R with opcode `op` (R58-R60). -/
def FmtR.toWord (op : BitVec 8) (f : FmtR) : Word :=
  op ++ f.d ++ f.a ++ f.b ++ f.c ++ f.ty ++ f.msk ++ f.ep ++ f.dstep ++ f.rnd ++ f.var

/-- The fields of format I in bits [55:0] of a slot word (R58-R60). -/
def FmtI.ofWord (w : Word) : FmtI where
  d := w.extractLsb' 48 8
  a := w.extractLsb' 40 8
  imm := w.extractLsb' 24 16
  ty := w.extractLsb' 20 4
  msk := w.extractLsb' 16 4
  ep := w.extractLsb' 13 3
  dstep := w.extractLsb' 11 2
  rnd := w.extractLsb' 8 3
  var := w.extractLsb' 0 8

/-- The slot word of format I with opcode `op` (R58-R60). -/
def FmtI.toWord (op : BitVec 8) (f : FmtI) : Word :=
  op ++ f.d ++ f.a ++ f.imm ++ f.ty ++ f.msk ++ f.ep ++ f.dstep ++ f.rnd ++ f.var

/-- The fields of format X in bits [55:0] of a slot word (R58-R60). -/
def FmtX.ofWord (w : Word) : FmtX where
  d := w.extractLsb' 48 8
  hres := w.extractLsb' 44 4
  h := w.extractLsb' 40 4
  b := w.extractLsb' 32 8
  c := w.extractLsb' 24 8
  ty := w.extractLsb' 20 4
  msk := w.extractLsb' 16 4
  ep := w.extractLsb' 13 3
  stride := w.extractLsb' 5 8
  sunit := w.extractLsb' 3 2
  dstep := w.extractLsb' 1 2
  ord := w.extractLsb' 0 1

/-- The slot word of format X with opcode `op` (R58-R60). -/
def FmtX.toWord (op : BitVec 8) (f : FmtX) : Word :=
  op ++ f.d ++ f.hres ++ f.h ++ f.b ++ f.c ++ f.ty ++ f.msk ++ f.ep ++ f.stride ++ f.sunit ++ f.dstep ++ f.ord

/-- The fields of format A in bits [55:0] of a slot word (R58-R60). -/
def FmtA.ofWord (w : Word) : FmtA where
  d := w.extractLsb' 48 8
  hres := w.extractLsb' 44 4
  h := w.extractLsb' 40 4
  b := w.extractLsb' 32 8
  c := w.extractLsb' 24 8
  ty := w.extractLsb' 20 4
  msk := w.extractLsb' 16 4
  ep := w.extractLsb' 13 3
  scope := w.extractLsb' 10 3
  aop := w.extractLsb' 6 4
  ares := w.extractLsb' 1 5
  ord := w.extractLsb' 0 1

/-- The slot word of format A with opcode `op` (R58-R60). -/
def FmtA.toWord (op : BitVec 8) (f : FmtA) : Word :=
  op ++ f.d ++ f.hres ++ f.h ++ f.b ++ f.c ++ f.ty ++ f.msk ++ f.ep ++ f.scope ++ f.aop ++ f.ares ++ f.ord

/-- The fields of format M in bits [55:0] of a slot word (R58-R60). -/
def FmtM.ofWord (w : Word) : FmtM where
  tres := w.extractLsb' 51 5
  tgt := w.extractLsb' 48 3
  a := w.extractLsb' 40 8
  b := w.extractLsb' 32 8
  c := w.extractLsb' 24 8
  ty := w.extractLsb' 20 4
  qsel := w.extractLsb' 16 4
  ep := w.extractLsb' 13 3
  np := w.extractLsb' 9 4
  rnd := w.extractLsb' 6 3
  sp := w.extractLsb' 5 1
  mstr := w.extractLsb' 0 5

/-- The slot word of format M with opcode `op` (R58-R60). -/
def FmtM.toWord (op : BitVec 8) (f : FmtM) : Word :=
  op ++ f.tres ++ f.tgt ++ f.a ++ f.b ++ f.c ++ f.ty ++ f.qsel ++ f.ep ++ f.np ++ f.rnd ++ f.sp ++ f.mstr

/-- The fields of format C in bits [55:0] of a slot word (R58-R60). -/
def FmtC.ofWord (w : Word) : FmtC where
  tok := w.extractLsb' 48 8
  dh := w.extractLsb' 44 4
  sh := w.extractLsb' 40 4
  doff := w.extractLsb' 32 8
  soff := w.extractLsb' 24 8
  len := w.extractLsb' 16 8
  ep := w.extractLsb' 13 3
  ben := w.extractLsb' 12 1
  bar := w.extractLsb' 1 11
  cstep := w.extractLsb' 0 1

/-- The slot word of format C with opcode `op` (R58-R60). -/
def FmtC.toWord (op : BitVec 8) (f : FmtC) : Word :=
  op ++ f.tok ++ f.dh ++ f.sh ++ f.doff ++ f.soff ++ f.len ++ f.ep ++ f.ben ++ f.bar ++ f.cstep

/-- The fields of format Y in bits [55:0] of a slot word (R58-R60). -/
def FmtY.ofWord (w : Word) : FmtY where
  d := w.extractLsb' 48 8
  a := w.extractLsb' 40 8
  b := w.extractLsb' 32 8
  c := w.extractLsb' 24 8
  ty := w.extractLsb' 20 4
  msk := w.extractLsb' 16 4
  ep := w.extractLsb' 13 3
  sf := w.extractLsb' 0 13

/-- The slot word of format Y with opcode `op` (R58-R60). -/
def FmtY.toWord (op : BitVec 8) (f : FmtY) : Word :=
  op ++ f.d ++ f.a ++ f.b ++ f.c ++ f.ty ++ f.msk ++ f.ep ++ f.sf

/-- The fields of format J in bits [55:0] of a slot word (R58-R60). -/
def FmtJ.ofWord (w : Word) : FmtJ where
  d := w.extractLsb' 48 8
  a := w.extractLsb' 40 8
  b := w.extractLsb' 32 8
  hint := w.extractLsb' 30 2
  ep := w.extractLsb' 28 2
  disp := w.extractLsb' 0 28

/-- The slot word of format J with opcode `op` (R58-R60). -/
def FmtJ.toWord (op : BitVec 8) (f : FmtJ) : Word :=
  op ++ f.d ++ f.a ++ f.b ++ f.hint ++ f.ep ++ f.disp

/-- The fields of format L in bits [55:0] of a slot word (R58-R60). -/
def FmtL.ofWord (w : Word) : FmtL where
  lres := w.extractLsb' 54 2
  wh := w.extractLsb' 50 4
  lp := w.extractLsb' 48 2
  a := w.extractLsb' 40 8
  b := w.extractLsb' 32 8
  c := w.extractLsb' 24 8
  cell := w.extractLsb' 21 3
  ep := w.extractLsb' 18 3
  disp := w.extractLsb' 0 18

/-- The slot word of format L with opcode `op` (R58-R60). -/
def FmtL.toWord (op : BitVec 8) (f : FmtL) : Word :=
  op ++ f.lres ++ f.wh ++ f.lp ++ f.a ++ f.b ++ f.c ++ f.cell ++ f.ep ++ f.disp

/-- Why a slot word is rejected: no operation has its opcode (WHY 0x01), or the field that selects the operation holds a
reserved value (WHY 0x02) (R69). -/
inductive DecodeError where
  | reservedOpcode
  | reservedField
  deriving DecidableEq, Repr

/-- The S map (R71). -/
def decodeS (w : Word) : Except DecodeError Instr :=
  match (w.extractLsb' 56 8).toNat with
  | 0x01 => .ok (.add (.ofWord w))
  | 0x02 => .ok (.sub (.ofWord w))
  | 0x03 => .ok (.mul (.ofWord w))
  | 0x04 => .ok (.mulh (.ofWord w))
  | 0x05 => .ok (.div (.ofWord w))
  | 0x06 => .ok (.rem (.ofWord w))
  | 0x07 => .ok (.and (.ofWord w))
  | 0x08 => .ok (.or (.ofWord w))
  | 0x09 => .ok (.xor (.ofWord w))
  | 0x0a => .ok (.shl (.ofWord w))
  | 0x0b => .ok (.shr (.ofWord w))
  | 0x0c => .ok (.sar (.ofWord w))
  | 0x0d => .ok (.min (.ofWord w))
  | 0x0e => .ok (.max (.ofWord w))
  | 0x0f => .ok (.clz (.ofWord w))
  | 0x10 => .ok (.addi (.ofWord w))
  | 0x11 => .ok (.andi (.ofWord w))
  | 0x12 => .ok (.ori (.ofWord w))
  | 0x13 => .ok (.xori (.ofWord w))
  | 0x14 => .ok (.shli (.ofWord w))
  | 0x15 => .ok (.shri (.ofWord w))
  | 0x16 => .ok (.sari (.ofWord w))
  | 0x17 =>
    let f := FmtI.ofWord w
    if f.var.getLsbD 2 = false then .ok (.movi f)
    else .ok (.moviIns f)
  | 0x18 => .ok (.cmp (.ofWord w))
  | 0x19 => .ok (.cmpi (.ofWord w))
  | 0x1a => .ok (.sel (.ofWord w))
  | 0x1b => .ok (.popc (.ofWord w))
  | 0x1c => .ok (.lea (.ofWord w))
  | 0x20 => .ok (.fadd (.ofWord w))
  | 0x21 => .ok (.fsub (.ofWord w))
  | 0x22 => .ok (.fmul (.ofWord w))
  | 0x23 => .ok (.fma (.ofWord w))
  | 0x24 => .ok (.fdiv (.ofWord w))
  | 0x25 => .ok (.fsqrt (.ofWord w))
  | 0x26 => .ok (.fmin (.ofWord w))
  | 0x27 => .ok (.fmax (.ofWord w))
  | 0x28 => .ok (.fcmp (.ofWord w))
  | 0x29 => .ok (.fcvt (.ofWord w))
  | 0x2a => .ok (.fsgn (.ofWord w))
  | 0x30 => .ok (.ld (.ofWord w))
  | 0x31 => .ok (.st (.ofWord w))
  | 0x32 => .ok (.amo (.ofWord w))
  | 0x33 => .ok (.grant (.ofWord w))
  | 0x34 => .ok (.revoke (.ofWord w))
  | 0x35 => .ok (.permld (.ofWord w))
  | 0x36 =>
    let f := FmtY.ofWord w
    if f.sf.getLsbD 0 = false then .ok (.cmpt f)
    else .ok (.cmptV f)
  | 0x40 => .ok (.fork (.ofWord w))
  | 0x41 => .ok (.join (.ofWord w))
  | 0x42 => .ok (.pqpush (.ofWord w))
  | 0x43 => .ok (.pqpop (.ofWord w))
  | 0x44 => .ok (.barm (.ofWord w))
  | 0x45 => .ok (.barrive (.ofWord w))
  | 0x46 => .ok (.bwait (.ofWord w))
  | 0x47 => .ok (.gbarrive (.ofWord w))
  | 0x48 => .ok (.gbwait (.ofWord w))
  | 0x49 => .ok (.qcfg (.ofWord w))
  | 0x4a =>
    let f := FmtY.ofWord w
    if f.sf.extractLsb' 3 2 = 1#2 then .ok (.drainR f)
    else if f.sf.extractLsb' 3 2 = 2#2 then .ok (.drainA f)
    else if f.sf.extractLsb' 3 2 = 3#2 then .ok (.drainBoth f)
    else .error .reservedField
  | 0x50 => .ok (.trap (.ofWord w))
  | 0x51 =>
    let f := FmtY.ofWord w
    if f.sf.getLsbD 0 = false ∧ f.d = 0x80#8 then .ok (.resume f)
    else if f.sf.getLsbD 0 = false ∧ f.d ≠ 0x80#8 then .ok (.resumeServiceCore f)
    else .ok (.resumeEnd f)
  | 0x52 => .ok (.rdrec (.ofWord w))
  | 0x53 => .ok (.wrrec (.ofWord w))
  | 0x54 => .ok (.vtsel (.ofWord w))
  | 0x55 =>
    let f := FmtY.ofWord w
    if f.sf.getLsbD 12 = false then .ok (.srmovRead f)
    else .ok (.srmovWrite f)
  | 0x56 => .ok (.cinv (.ofWord w))
  | 0x57 => .ok (.cflush (.ofWord w))
  | 0x58 => .ok (.waitt (.ofWord w))
  | 0x59 => .ok (.snap (.ofWord w))
  | 0x5a => .ok (.step (.ofWord w))
  | 0x5b =>
    let f := FmtY.ofWord w
    if f.sf.getLsbD 0 = false then .ok (.phase f)
    else .ok (.phaseOff f)
  | 0x5c => .ok (.wdecl (.ofWord w))
  | 0x5d =>
    let f := FmtY.ofWord w
    if f.a ≠ 0x81#8 then .ok (.enrd f)
    else .ok (.enrdIdle f)
  | 0x5e => .ok (.enclr (.ofWord w))
  | 0x5f => .ok (.yield (.ofWord w))
  | 0x60 => .ok (.halt (.ofWord w))
  | _ => .error .reservedOpcode

/-- The V map (R73). -/
def decodeV (w : Word) : Except DecodeError Instr :=
  match (w.extractLsb' 56 8).toNat with
  | 0x01 => .ok (.vadd (.ofWord w))
  | 0x02 => .ok (.vsub (.ofWord w))
  | 0x03 => .ok (.vmul (.ofWord w))
  | 0x04 => .ok (.vfma (.ofWord w))
  | 0x05 => .ok (.vmin (.ofWord w))
  | 0x06 => .ok (.vmax (.ofWord w))
  | 0x07 => .ok (.vabs (.ofWord w))
  | 0x08 => .ok (.vneg (.ofWord w))
  | 0x09 => .ok (.vmulh (.ofWord w))
  | 0x0a => .ok (.vavg (.ofWord w))
  | 0x0b => .ok (.vshl (.ofWord w))
  | 0x0c => .ok (.vshr (.ofWord w))
  | 0x0d => .ok (.vsar (.ofWord w))
  | 0x0e => .ok (.vand (.ofWord w))
  | 0x0f => .ok (.vor (.ofWord w))
  | 0x10 => .ok (.vxor (.ofWord w))
  | 0x11 => .ok (.vcvt (.ofWord w))
  | 0x12 => .ok (.vcmp (.ofWord w))
  | 0x13 => .ok (.vsel (.ofWord w))
  | 0x14 => .ok (.vshuf (.ofWord w))
  | 0x15 => .ok (.vperm (.ofWord w))
  | 0x16 => .ok (.vred (.ofWord w))
  | 0x17 => .ok (.vclmul (.ofWord w))
  | 0x18 => .ok (.vclmulh (.ofWord w))
  | 0x19 => .ok (.vrcp (.ofWord w))
  | 0x1a => .ok (.vrsq (.ofWord w))
  | 0x1b => .ok (.vexp (.ofWord w))
  | 0x1c => .ok (.vmov (.ofWord w))
  | 0x1d => .ok (.vmovi (.ofWord w))
  | 0x20 => .ok (.vld (.ofWord w))
  | 0x21 => .ok (.vst (.ofWord w))
  | 0x22 => .ok (.vgath (.ofWord w))
  | 0x23 => .ok (.vscat (.ofWord w))
  | 0x24 => .ok (.vamo (.ofWord w))
  | 0x28 => .ok (.qpush (.ofWord w))
  | 0x29 => .ok (.qpop (.ofWord w))
  | 0x30 => .ok (.vdup (.ofWord w))
  | _ => .error .reservedOpcode

/-- The M map (R74). -/
def decodeM (w : Word) : Except DecodeError Instr :=
  match (w.extractLsb' 56 8).toNat with
  | 0x01 =>
    let f := FmtM.ofWord w
    if f.sp = 0#1 then .ok (.mldw f)
    else .ok (.mldwS f)
  | 0x02 => .ok (.mma (.ofWord w))
  | 0x03 => .ok (.mmas (.ofWord w))
  | 0x04 => .ok (.mzero (.ofWord w))
  | 0x05 =>
    let f := FmtM.ofWord w
    if f.mstr.getLsbD 4 = false then .ok (.mdrain f)
    else .ok (.mdrainV f)
  | 0x06 => .ok (.mfuse (.ofWord w))
  | _ => .error .reservedOpcode

/-- The C map (R75). -/
def decodeC (w : Word) : Except DecodeError Instr :=
  match (w.extractLsb' 56 8).toNat with
  | 0x01 => .ok (.cpy (.ofWord w))
  | 0x02 => .ok (.cpy2 (.ofWord w))
  | 0x03 => .ok (.cpy3 (.ofWord w))
  | 0x04 => .ok (.cgath (.ofWord w))
  | 0x05 => .ok (.cscat (.ofWord w))
  | 0x06 => .ok (.cmcast (.ofWord w))
  | 0x07 => .ok (.cfill (.ofWord w))
  | 0x08 => .ok (.credI32 (.ofWord w))
  | 0x09 => .ok (.credFp32 (.ofWord w))
  | 0x0a => .ok (.credBf16 (.ofWord w))
  | 0x11 => .ok (.cpyAt (.ofWord w))
  | 0x12 => .ok (.cpy2At (.ofWord w))
  | 0x13 => .ok (.cpy3At (.ofWord w))
  | 0x14 => .ok (.cgathAt (.ofWord w))
  | 0x15 => .ok (.cscatAt (.ofWord w))
  | 0x16 => .ok (.cmcastAt (.ofWord w))
  | 0x17 => .ok (.cfillAt (.ofWord w))
  | 0x18 => .ok (.credI32At (.ofWord w))
  | 0x19 => .ok (.credFp32At (.ofWord w))
  | 0x1a => .ok (.credBf16At (.ofWord w))
  | _ => .error .reservedOpcode

/-- The B map (R72). -/
def decodeB (w : Word) : Except DecodeError Instr :=
  match (w.extractLsb' 56 8).toNat with
  | 0x01 => .ok (.br (.ofWord w))
  | 0x02 => .ok (.breq (.ofWord w))
  | 0x03 => .ok (.brne (.ofWord w))
  | 0x04 => .ok (.brlt (.ofWord w))
  | 0x05 => .ok (.brge (.ofWord w))
  | 0x06 => .ok (.brltu (.ofWord w))
  | 0x07 => .ok (.brgeu (.ofWord w))
  | 0x08 => .ok (.brall (.ofWord w))
  | 0x09 => .ok (.brnone (.ofWord w))
  | 0x0a =>
    let f := FmtJ.ofWord w
    if f.a = 0x80#8 then .ok (.call f)
    else .ok (.callRegister f)
  | 0x0b => .ok (.ret (.ofWord w))
  | 0x0c => .ok (.jr (.ofWord w))
  | 0x10 => .ok (.loop (.ofWord w))
  | 0x11 => .ok (.loopw (.ofWord w))
  | _ => .error .reservedOpcode

/-- A slot word of one class decoded (R54). -/
def decodeSlot (c : SlotClass) (w : Word) : Except DecodeError Instr :=
  match c with
  | .s => decodeS w
  | .v => decodeV w
  | .m => decodeM w
  | .c => decodeC w
  | .b => decodeB w

/-- A bundle header (R45). Bit 6 of `p` and `q` stands for S, bit 0 for B. -/
structure Header where
  kind : BitVec 3
  p : BitVec 7
  q : BitVec 7
  rep : BitVec 6
  be : BitVec 1
  bsrc : BitVec 6
  resv : BitVec 2
  bimm : BitVec 32
  deriving DecidableEq, Repr

/-- The fields of a header word (R45). -/
def Header.ofWord (w : Word) : Header where
  kind := w.extractLsb' 61 3
  p := w.extractLsb' 54 7
  q := w.extractLsb' 47 7
  rep := w.extractLsb' 41 6
  be := w.extractLsb' 40 1
  bsrc := w.extractLsb' 34 6
  resv := w.extractLsb' 32 2
  bimm := w.extractLsb' 0 32

/-- The word of a header (R45). -/
def Header.toWord (h : Header) : Word :=
  h.kind ++ h.p ++ h.q ++ h.rep ++ h.be ++ h.bsrc ++ h.resv ++ h.bimm

/-- Whether slot k, numbered 0 to 6 in the order S, V0, V1, M, C0, C1, B, is present (R45, R51). -/
def Header.present (h : Header) (k : Nat) : Bool := h.p.getLsbD (6 - k)
/-- Whether slot k is quieted (R45). -/
def Header.quiet (h : Header) (k : Nat) : Bool := h.q.getLsbD (6 - k)
/-- The number of slot words of the bundle (R47). -/
def Header.words (h : Header) : Nat := ((List.range 7).filter h.present).length
/-- The length L of the bundle in bytes (R47). -/
def Header.length (h : Header) : Nat := 8 * (1 + h.words)

/-- The class of slot k (R34, R54). -/
def slotClass (k : Nat) : SlotClass :=
  match k with
  | 0 => .s
  | 1 => .v
  | 2 => .v
  | 3 => .m
  | 4 => .c
  | 5 => .c
  | _ => .b

/-- The first slot of a class: the one an operation alone in its bundle is encoded for. -/
def SlotClass.slot (c : SlotClass) : Nat :=
  match c with
  | .s => 0
  | .v => 1
  | .m => 3
  | .c => 4
  | .b => 6

/-- The slot words of a bundle, each with its slot number, from the words that follow its header (R47). -/
def slotWords (h : Header) (ws : List Word) : List (Nat × Word) :=
  ((List.range 7).filter h.present).zip ws

/-- A 64-bit word from 8 bytes in ascending addresses (R4). -/
def wordOfBytes (bs : List Byte) : Word :=
  bs.foldr (fun b acc => acc <<< 8 ||| b.zeroExtend 64) 0

/-- `n` words from bytes in ascending addresses (R4). -/
def wordsOfBytes (n : Nat) (bs : List Byte) : List Word :=
  match n with
  | 0 => []
  | n + 1 => wordOfBytes (bs.take 8) :: wordsOfBytes n (bs.drop 8)

/-- `n` bytes of a number in ascending addresses (R4). -/
def bytesOfNat (n x : Nat) : List Byte :=
  match n with
  | 0 => []
  | n + 1 => BitVec.ofNat 8 x :: bytesOfNat n (x / 256)

/-- The operation of a bundle that holds one slot word, from the bundle's bytes; a header alone is the issue of a bundle that
names no slot (R47, R52). A header that R46 calls illegal and a bundle of several slot words name no single operation. -/
def decodeBytes (bs : List Byte) : Option Instr :=
  let ws := wordsOfBytes 8 bs
  let h := Header.ofWord (ws.headD 0)
  if h.kind ≠ 0#3 ∨ h.resv ≠ 0#2 ∨ h.p &&& h.q ≠ 0#7 ∨ (h.be = 0#1 ∧ h.bsrc ≠ 0#6) then none
  else
    match slotWords h (ws.drop 1) with
    | [] => some (.bundleIssue 0)
    | [(k, w)] =>
      match decodeSlot (slotClass k) w with
      | .ok i => some i
      | .error _ => none
    | _ => none

/-- The instruction in a bundle whose bits are `w`: bits [63:0] the header, bits [127:64] the slot word. -/
def decodeTableWord (nbits w : Nat) : Option Instr :=
  decodeBytes (bytesOfNat 64 (w % 2 ^ nbits))

/-- The slot class and slot word of a slot operation (R71-R75). An event has none. -/
def encodeSlot (i : Instr) : Option (SlotClass × Word) :=
  match i with
  | .bundleIssue _ => none
  | .idleCycle _ => none
  | .instructionFetch _ => none
  | .fixedLatencyLanding _ => none
  | .variableLatencyArrival _ => none
  | .lockstepStep _ => none
  | .add f => some (.s, f.toWord 0x01#8)
  | .sub f => some (.s, f.toWord 0x02#8)
  | .mul f => some (.s, f.toWord 0x03#8)
  | .mulh f => some (.s, f.toWord 0x04#8)
  | .div f => some (.s, f.toWord 0x05#8)
  | .rem f => some (.s, f.toWord 0x06#8)
  | .and f => some (.s, f.toWord 0x07#8)
  | .or f => some (.s, f.toWord 0x08#8)
  | .xor f => some (.s, f.toWord 0x09#8)
  | .shl f => some (.s, f.toWord 0x0a#8)
  | .shr f => some (.s, f.toWord 0x0b#8)
  | .sar f => some (.s, f.toWord 0x0c#8)
  | .min f => some (.s, f.toWord 0x0d#8)
  | .max f => some (.s, f.toWord 0x0e#8)
  | .clz f => some (.s, f.toWord 0x0f#8)
  | .addi f => some (.s, f.toWord 0x10#8)
  | .andi f => some (.s, f.toWord 0x11#8)
  | .ori f => some (.s, f.toWord 0x12#8)
  | .xori f => some (.s, f.toWord 0x13#8)
  | .shli f => some (.s, f.toWord 0x14#8)
  | .shri f => some (.s, f.toWord 0x15#8)
  | .sari f => some (.s, f.toWord 0x16#8)
  | .movi f => some (.s, f.toWord 0x17#8)
  | .moviIns f => some (.s, f.toWord 0x17#8)
  | .cmp f => some (.s, f.toWord 0x18#8)
  | .cmpi f => some (.s, f.toWord 0x19#8)
  | .sel f => some (.s, f.toWord 0x1a#8)
  | .popc f => some (.s, f.toWord 0x1b#8)
  | .lea f => some (.s, f.toWord 0x1c#8)
  | .fadd f => some (.s, f.toWord 0x20#8)
  | .fsub f => some (.s, f.toWord 0x21#8)
  | .fmul f => some (.s, f.toWord 0x22#8)
  | .fma f => some (.s, f.toWord 0x23#8)
  | .fdiv f => some (.s, f.toWord 0x24#8)
  | .fsqrt f => some (.s, f.toWord 0x25#8)
  | .fmin f => some (.s, f.toWord 0x26#8)
  | .fmax f => some (.s, f.toWord 0x27#8)
  | .fcmp f => some (.s, f.toWord 0x28#8)
  | .fcvt f => some (.s, f.toWord 0x29#8)
  | .fsgn f => some (.s, f.toWord 0x2a#8)
  | .ld f => some (.s, f.toWord 0x30#8)
  | .st f => some (.s, f.toWord 0x31#8)
  | .amo f => some (.s, f.toWord 0x32#8)
  | .grant f => some (.s, f.toWord 0x33#8)
  | .revoke f => some (.s, f.toWord 0x34#8)
  | .permld f => some (.s, f.toWord 0x35#8)
  | .cmpt f => some (.s, f.toWord 0x36#8)
  | .cmptV f => some (.s, f.toWord 0x36#8)
  | .fork f => some (.s, f.toWord 0x40#8)
  | .join f => some (.s, f.toWord 0x41#8)
  | .pqpush f => some (.s, f.toWord 0x42#8)
  | .pqpop f => some (.s, f.toWord 0x43#8)
  | .barm f => some (.s, f.toWord 0x44#8)
  | .barrive f => some (.s, f.toWord 0x45#8)
  | .bwait f => some (.s, f.toWord 0x46#8)
  | .gbarrive f => some (.s, f.toWord 0x47#8)
  | .gbwait f => some (.s, f.toWord 0x48#8)
  | .gangBarrierRelease _ _ => none
  | .qcfg f => some (.s, f.toWord 0x49#8)
  | .drainR f => some (.s, f.toWord 0x4a#8)
  | .drainA f => some (.s, f.toWord 0x4a#8)
  | .drainBoth f => some (.s, f.toWord 0x4a#8)
  | .trap f => some (.s, f.toWord 0x50#8)
  | .resume f => some (.s, f.toWord 0x51#8)
  | .resumeServiceCore f => some (.s, f.toWord 0x51#8)
  | .resumeEnd f => some (.s, f.toWord 0x51#8)
  | .rdrec f => some (.s, f.toWord 0x52#8)
  | .wrrec f => some (.s, f.toWord 0x53#8)
  | .vtsel f => some (.s, f.toWord 0x54#8)
  | .srmovRead f => some (.s, f.toWord 0x55#8)
  | .srmovWrite f => some (.s, f.toWord 0x55#8)
  | .cinv f => some (.s, f.toWord 0x56#8)
  | .cflush f => some (.s, f.toWord 0x57#8)
  | .waitt f => some (.s, f.toWord 0x58#8)
  | .waittRelease _ => none
  | .snap f => some (.s, f.toWord 0x59#8)
  | .step f => some (.s, f.toWord 0x5a#8)
  | .phase f => some (.s, f.toWord 0x5b#8)
  | .phaseOff f => some (.s, f.toWord 0x5b#8)
  | .wdecl f => some (.s, f.toWord 0x5c#8)
  | .enrd f => some (.s, f.toWord 0x5d#8)
  | .enrdIdle f => some (.s, f.toWord 0x5d#8)
  | .enclr f => some (.s, f.toWord 0x5e#8)
  | .yield f => some (.s, f.toWord 0x5f#8)
  | .halt f => some (.s, f.toWord 0x60#8)
  | .br f => some (.b, f.toWord 0x01#8)
  | .breq f => some (.b, f.toWord 0x02#8)
  | .brne f => some (.b, f.toWord 0x03#8)
  | .brlt f => some (.b, f.toWord 0x04#8)
  | .brge f => some (.b, f.toWord 0x05#8)
  | .brltu f => some (.b, f.toWord 0x06#8)
  | .brgeu f => some (.b, f.toWord 0x07#8)
  | .brall f => some (.b, f.toWord 0x08#8)
  | .brnone f => some (.b, f.toWord 0x09#8)
  | .call f => some (.b, f.toWord 0x0a#8)
  | .callRegister f => some (.b, f.toWord 0x0a#8)
  | .ret f => some (.b, f.toWord 0x0b#8)
  | .jr f => some (.b, f.toWord 0x0c#8)
  | .loop f => some (.b, f.toWord 0x10#8)
  | .loopw f => some (.b, f.toWord 0x11#8)
  | .vadd f => some (.v, f.toWord 0x01#8)
  | .vsub f => some (.v, f.toWord 0x02#8)
  | .vmul f => some (.v, f.toWord 0x03#8)
  | .vfma f => some (.v, f.toWord 0x04#8)
  | .vmin f => some (.v, f.toWord 0x05#8)
  | .vmax f => some (.v, f.toWord 0x06#8)
  | .vabs f => some (.v, f.toWord 0x07#8)
  | .vneg f => some (.v, f.toWord 0x08#8)
  | .vmulh f => some (.v, f.toWord 0x09#8)
  | .vavg f => some (.v, f.toWord 0x0a#8)
  | .vshl f => some (.v, f.toWord 0x0b#8)
  | .vshr f => some (.v, f.toWord 0x0c#8)
  | .vsar f => some (.v, f.toWord 0x0d#8)
  | .vand f => some (.v, f.toWord 0x0e#8)
  | .vor f => some (.v, f.toWord 0x0f#8)
  | .vxor f => some (.v, f.toWord 0x10#8)
  | .vcvt f => some (.v, f.toWord 0x11#8)
  | .vcmp f => some (.v, f.toWord 0x12#8)
  | .vsel f => some (.v, f.toWord 0x13#8)
  | .vshuf f => some (.v, f.toWord 0x14#8)
  | .vperm f => some (.v, f.toWord 0x15#8)
  | .vred f => some (.v, f.toWord 0x16#8)
  | .vclmul f => some (.v, f.toWord 0x17#8)
  | .vclmulh f => some (.v, f.toWord 0x18#8)
  | .vrcp f => some (.v, f.toWord 0x19#8)
  | .vrsq f => some (.v, f.toWord 0x1a#8)
  | .vexp f => some (.v, f.toWord 0x1b#8)
  | .vmov f => some (.v, f.toWord 0x1c#8)
  | .vmovi f => some (.v, f.toWord 0x1d#8)
  | .vld f => some (.v, f.toWord 0x20#8)
  | .vst f => some (.v, f.toWord 0x21#8)
  | .vgath f => some (.v, f.toWord 0x22#8)
  | .vscat f => some (.v, f.toWord 0x23#8)
  | .vamo f => some (.v, f.toWord 0x24#8)
  | .qpush f => some (.v, f.toWord 0x28#8)
  | .qpop f => some (.v, f.toWord 0x29#8)
  | .vdup f => some (.v, f.toWord 0x30#8)
  | .mldw f => some (.m, f.toWord 0x01#8)
  | .mldwS f => some (.m, f.toWord 0x01#8)
  | .mma f => some (.m, f.toWord 0x02#8)
  | .mmas f => some (.m, f.toWord 0x03#8)
  | .mzero f => some (.m, f.toWord 0x04#8)
  | .mfuse f => some (.m, f.toWord 0x06#8)
  | .mdrain f => some (.m, f.toWord 0x05#8)
  | .mdrainV f => some (.m, f.toWord 0x05#8)
  | .sequencerOpStart _ => none
  | .mmaRowStep _ => none
  | .mdrainEntryStep _ => none
  | .queueClaimArrival _ => none
  | .cpy f => some (.c, f.toWord 0x01#8)
  | .cpy2 f => some (.c, f.toWord 0x02#8)
  | .cpy3 f => some (.c, f.toWord 0x03#8)
  | .cgath f => some (.c, f.toWord 0x04#8)
  | .cscat f => some (.c, f.toWord 0x05#8)
  | .cmcast f => some (.c, f.toWord 0x06#8)
  | .cfill f => some (.c, f.toWord 0x07#8)
  | .credI32 f => some (.c, f.toWord 0x08#8)
  | .credFp32 f => some (.c, f.toWord 0x09#8)
  | .credBf16 f => some (.c, f.toWord 0x0a#8)
  | .cpyAt f => some (.c, f.toWord 0x11#8)
  | .cpy2At f => some (.c, f.toWord 0x12#8)
  | .cpy3At f => some (.c, f.toWord 0x13#8)
  | .cgathAt f => some (.c, f.toWord 0x14#8)
  | .cscatAt f => some (.c, f.toWord 0x15#8)
  | .cmcastAt f => some (.c, f.toWord 0x16#8)
  | .cfillAt f => some (.c, f.toWord 0x17#8)
  | .credI32At f => some (.c, f.toWord 0x18#8)
  | .credFp32At f => some (.c, f.toWord 0x19#8)
  | .credBf16At f => some (.c, f.toWord 0x1a#8)
  | .atCopyLaunch _ => none
  | .copyCompletion _ => none
  | .mcastLanding _ => none
  | .storeAcknowledge _ => none
  | .homeAccess _ => none
  | .pathAccess _ => none
  | .farAccessArrival _ => none
  | .pathResponseTimeout _ => none
  | .deferredFault _ => none
  | .stoppingComplete _ => none
  | .childTake _ => none
  | .stealComplete _ => none
  | .pqArrival _ => none
  | .pqClaimServe _ => none
  | .doorbell _ _ => none
  | .iqbaseWrite _ _ => none
  | .accessionCheck _ => none
  | .budgetIntervalStart _ => none
  | .placement _ _ => none
  | .startTick _ => none
  | .taskCompletion _ => none
  | .replayAccept _ => none
  | .nodeEvaluation _ => none
  | .replayEnd _ => none
  | .gangSwitchTick _ => none
  | .saveComplete _ _ => none
  | .saveDeadline _ => none
  | .restore _ => none
  | .sliceStart _ => none
  | .checkpointTimerTrigger _ _ => none
  | .snapTick _ _ => none
  | .drainFrameDone _ _ _ => none
  | .drainHeaderDone _ _ => none
  | .reserveHoldExpiry _ _ => none
  | .drainWriteError _ _ => none
  | .hbctlWrite _ _ _ => none
  | .governorWrite _ _ => none
  | .thermalGateOn _ => none
  | .thermalGateOff _ => none
  | .thermalTrip _ _ => none
  | .railFault _ _ => none
  | .carriedCheckMismatch _ => none
  | .eccErrorConsumed _ => none
  | .eccScrub _ _ _ _ => none
  | .laneWindowEnd _ => none
  | .quiesceRequest _ => none
  | .quiesceCancel _ => none
  | .quiesced _ => none
  | .quiesceTimeout _ => none
  | .pcfgWrite _ => none
  | .nbondWrite _ _ => none
  | .tslotWrite _ _ _ => none
  | .controlWindowAccess _ => none
  | .tcsdWrite _ _ => none
  | .shootDownDone _ => none
  | .svcBind _ _ => none
  | .svcUnbind _ _ => none
  | .hotResetSelfHosted _ => none
  | .hotResetHostManaged _ => none
  | .functionLevelReset _ => none
  | .connectionEnable _ => none
  | .connectionWord5Write _ _ => none
  | .nvmeofConnected _ => none
  | .connectionFailure _ _ => none
  | .powerOn => none
  | .pinReset => none
  | .hvReset _ => none
  | .bootStart => none
  | .registerWrite _ _ _ => none
  | .ringHeadWrite _ _ _ _ => none
  | .hostLinkRetrained _ => none

/-- The header of a bundle that holds one slot word, of slot k. -/
def soloHeader (k : Nat) : Header where
  kind := 0#3
  p := 1#7 <<< (6 - k)
  q := 0#7
  rep := 0#6
  be := 0#1
  bsrc := 0#6
  resv := 0#2
  bimm := 0#32

/-- The words of the bundle that holds the operation alone: its header and its slot word (R47). An event has no words. -/
def encode (i : Instr) : List Word :=
  match encodeSlot i with
  | some (c, w) => [(soloHeader c.slot).toWord, w]
  | none => []

end Sys2Proof
end

