-- ==== Sys2Proof/WellFormed.lean ====
section
/-!
DEFINITION. Well-formedness of a slot word alone: the faults that stage 2 of R68 finds in it whatever the context that issues
it, each with its WHY code (R57, R64, R69 and the chapter of the instruction). The faults that depend on the issuing context
(its mode, quadrants, lockstep or deterministic operation) stand in Machine/Legality.lean.
-/
namespace Sys2Proof

/-- How an instruction uses its D field (R62, R64, R123). -/
inductive DestUse where
  | unused
  | scalar
  | vector
  | vectorMain
  | mask
  deriving DecidableEq, Repr

/-- WHY codes of ILLEGAL_SLOT (R69). -/
def whyResv : BitVec 8 := 0x02#8
def whyType : BitVec 8 := 0x03#8
def whyName : BitVec 8 := 0x04#8
def whyStep : BitVec 8 := 0x05#8

/-- A fault when the condition fails. -/
def need (ok : Bool) (why : BitVec 8) : List (BitVec 8) := if ok then [] else [why]

/-- Whether a name is one of s0-s63 or v0-v63. -/
def OpName.isMain (n : OpName) : Bool := n.toNat < 0x40
/-- Whether a name is one of o0-o7. -/
def OpName.isOperandFile (n : OpName) : Bool := 0x40 ≤ n.toNat && n.toNat < 0x48
/-- Whether a name is one of the main, operand or last-result files (R57). -/
def OpName.isRegister (n : OpName) : Bool := n.toNat < 0x4E
/-- Whether a name is a literal. -/
def OpName.isLiteral (n : OpName) : Bool := 0x80 ≤ n.toNat

/-- Whether a name is legal in a source field of a slot class (R64). -/
def sourceName (c : SlotClass) (n : OpName) : Bool :=
  n.isMain || n.isLiteral || n = 0x51#8 ||
  match c with
  | .s => n = 0x48#8 || n = 0x4C#8 || n = 0x4D#8
  | .v => n.isOperandFile || n = 0x49#8 || n = 0x4A#8 || n = 0x4B#8 || n = 0x50#8
  | .m => n = 0x48#8 || n = 0x50#8
  | .c => n = 0x48#8
  | .b => n = 0x48#8 || n = 0x4C#8 || n = 0x4D#8

/-- The faults of a source field and its EP bit: an unused field holds 0x80, and an EP bit is 0 where its field names no
register (R57, R64). -/
def wfSource (c : SlotClass) (used : Bool) (n : OpName) (ep : Bool) : List (BitVec 8) :=
  if used then need (sourceName c n) whyName ++ need (!ep || n.isRegister) whyResv
  else need (n = 0x80#8) whyResv ++ need (!ep) whyResv

/-- The faults of a destination field (R57, R62, R64, R123). -/
def wfDest (u : DestUse) (n : OpName) : List (BitVec 8) :=
  match u with
  | .unused => need (n = 0x80#8) whyResv
  | .scalar => need n.isMain whyName
  | .vector => need (n.isMain || n.isOperandFile) whyName
  | .vectorMain => need n.isMain whyName
  | .mask => need (decide (n.toNat < 8)) whyResv

/-- Whether a type is one of a list of TY encodings (R55). -/
def tyIn (ty : BitVec 4) (l : List Nat) : Bool := l.contains ty.toNat

/-- The type groups of R121. -/
def tyInt : List Nat := [0, 1, 2]
def tyBits : List Nat := [0, 1, 2, 3]
def tyFp : List Nat := [4, 5, 6]
def tyIntFp : List Nat := [0, 1, 2, 4, 5, 6]
def tyAll : List Nat := [0, 1, 2, 3, 4, 5, 6]
/-- The formats of the matrix array (R153). -/
def tyMatrix : List Nat := [0, 4, 5, 8, 9, 10]
/-- The formats of the queues (R160). -/
def tyQueue : List Nat := [0, 1, 2, 4, 5, 6, 8, 9, 10]

/-- Whether the type is BF16, FP16 or FP32. -/
def isFpTy (ty : BitVec 4) : Bool := tyIn ty tyFp

/-- The MSK field outside the V slots must be zero (R56). -/
def wfNoMask (m : BitVec 4) : List (BitVec 8) := need (m = 0#4) whyResv
/-- The MSK field of a V slot: MEN = 0 with a mask number is reserved (R56). -/
def wfMask (m : BitVec 4) : List (BitVec 8) := need (m.getLsbD 3 || m = 0#4) whyResv

/-- The faults of DSTEP in format R: each selected field must name 0x00-0x3F (R63). `dReg`: D names a register that can
step. -/
def wfStepR (dReg : Bool) (f : FmtR) : List (BitVec 8) :=
  match f.dstep.toNat with
  | 0 => []
  | 1 => need (dReg && f.d.isMain) whyStep
  | 2 => need (dReg && f.d.isMain && f.a.isMain) whyStep
  | _ => need (dReg && f.d.isMain && f.a.isMain && f.b.isMain) whyStep

/-- The faults of a format R word (R57, R63, R64, R96). -/
def wfR (c : SlotClass) (d : DestUse) (a b cc : Bool) (tys : List Nat) (rnd var : Bool) (f : FmtR) : List (BitVec 8) :=
  wfDest d f.d ++ wfSource c a f.a (f.ep.getLsbD 2) ++ wfSource c b f.b (f.ep.getLsbD 1) ++
  wfSource c cc f.c (f.ep.getLsbD 0) ++ need (tyIn f.ty tys) whyType ++
  (if c = .v then wfMask f.msk else wfNoMask f.msk) ++
  wfStepR (d = .scalar || d = .vector || d = .vectorMain) f ++ need rnd whyResv ++ need var whyResv

/-- The faults of a format I word: EP[14:13] is 0 and DSTEP 0b11 is reserved (R58, R63). -/
def wfI (c : SlotClass) (d : DestUse) (a : Bool) (tys : List Nat) (var : Bool) (f : FmtI) : List (BitVec 8) :=
  wfDest d f.d ++ wfSource c a f.a (f.ep.getLsbD 2) ++ need (f.ep.extractLsb' 0 2 = 0#2) whyResv ++
  need (tyIn f.ty tys) whyType ++ (if c = .v then wfMask f.msk else wfNoMask f.msk) ++
  (match f.dstep.toNat with
   | 0 => []
   | 1 => need f.d.isMain whyStep
   | 2 => need (f.d.isMain && f.a.isMain) whyStep
   | _ => [whyResv]) ++ need (f.rnd = 0#3) whyResv ++ need var whyResv

/-- The RND field of a rounding instruction of the S and V slots (R102, R123). -/
def rndOk (r : BitVec 3) : Bool := r.toNat < 4

/-- The faults of a format X word. `store`: D is a data source; `idx`: the class that C is read in, or none where it must hold
0x80 (R57, R59, R105, R136, R137). -/
def wfX (c : SlotClass) (store : Bool) (idx : Option SlotClass) (tys : List Nat) (f : FmtX) : List (BitVec 8) :=
  (if store then wfSource c true f.d (f.ep.getLsbD 2)
   else wfDest (if c = .v then .vectorMain else .scalar) f.d ++ need (!f.ep.getLsbD 2) whyResv) ++
  need (f.hres = 0#4) whyResv ++ wfSource .s true f.b (f.ep.getLsbD 1) ++
  (match idx with
   | some k => wfSource k true f.c (f.ep.getLsbD 0)
   | none => wfSource c false f.c (f.ep.getLsbD 0)) ++
  need (tyIn f.ty tys) whyType ++ (if c = .v then wfMask f.msk else wfNoMask f.msk) ++
  (match f.dstep.toNat with
   | 0 => []
   | 1 => need f.d.isMain whyStep
   | _ => [whyResv]) ++ need (f.ord = 0#1) whyResv

/-- The faults of an AMO or VAMO word (R59, R199, R202). -/
def wfA (c : SlotClass) (f : FmtA) : List (BitVec 8) :=
  wfDest (if c = .v then .vectorMain else .scalar) f.d ++
  need (!f.ep.getLsbD 2 || c = .v || f.aop = 9#4) whyResv ++
  need (f.hres = 0#4) whyResv ++ wfSource .s true f.b (f.ep.getLsbD 1) ++ wfSource c true f.c (f.ep.getLsbD 0) ++
  need (if f.aop = 10#4 then f.ty = 6#4 else f.ty = 2#4 || f.ty = 3#4) whyType ++
  need (f.aop.toNat < 11 && !(c = .v && f.aop = 9#4)) whyResv ++ need (f.scope.toNat < 5) whyResv ++
  need (f.ares = 0#5) whyResv ++ (if c = .v then wfMask f.msk else wfNoMask f.msk)

/-- The faults that all M words share: EP[15], RND and the reserved bits (R58, R171). -/
def wfMBase (b c : Bool) (np sp : Bool) (tys : List Nat) (f : FmtM) : List (BitVec 8) :=
  need (f.tres = 0#5) whyResv ++ need (!f.ep.getLsbD 2) whyResv ++ wfSource .m b f.b (f.ep.getLsbD 1) ++
  wfSource .m c f.c (f.ep.getLsbD 0) ++ need (tyIn f.ty tys) whyType ++ need (f.rnd = 0#3) whyResv ++
  need np whyResv ++ need sp whyResv

/-- The faults of a copy word. `fill`: SH is reserved (R59, R185). -/
def wfC (fill : Bool) (f : FmtC) : List (BitVec 8) :=
  wfDest .scalar f.tok ++ need (!fill || f.sh = 0#4) whyResv ++ wfSource .c true f.doff (f.ep.getLsbD 2) ++
  wfSource .c true f.soff (f.ep.getLsbD 1) ++ wfSource .c true f.len (f.ep.getLsbD 0) ++
  need (f.ben = 1#1 || f.bar = 0#11) whyResv

/-- The faults of a format Y word whose TY and MSK are 0. `sf`: the SF field is as the instruction gives (R57, R61). -/
def wfY (d : DestUse) (a b c : Bool) (sf : Bool) (f : FmtY) : List (BitVec 8) :=
  wfDest d f.d ++ wfSource .s a f.a (f.ep.getLsbD 2) ++ wfSource .s b f.b (f.ep.getLsbD 1) ++
  wfSource .s c f.c (f.ep.getLsbD 0) ++ need (f.ty = 0#4) whyResv ++ wfNoMask f.msk ++ need sf whyResv

/-- SF holding a barrier number (R61). -/
def sfBarrier (f : FmtY) : Bool := f.sf.extractLsb' 11 2 = 0#2
/-- SF holding a scope (R56, R61). -/
def sfScope (f : FmtY) : Bool := f.sf.extractLsb' 3 10 = 0#10 && (f.sf.extractLsb' 0 3).toNat < 5
/-- SF using bit 0 alone (R61). -/
def sfBit0 (f : FmtY) : Bool := f.sf.extractLsb' 1 12 = 0#12
/-- SF zero (R61). -/
def sfZero (f : FmtY) : Bool := f.sf = 0#13

/-- The faults of a D field that holds a handle number (R62). -/
def wfHandleD (f : FmtY) : List (BitVec 8) := need (decide (f.d.toNat < 16)) whyResv

/-- Whether a system register number is assigned (R78). -/
def srAssigned (n : BitVec 12) : Bool :=
  let k := n.toNat
  k < 7 || (8 ≤ k && k ≤ 0x0A) || (0x10 ≤ k && k ≤ 0x13) || k = 0x18 || (0x20 ≤ k && k ≤ 0x23) ||
  (0x28 ≤ k && k ≤ 0x36) || (0x38 ≤ k && k ≤ 0x3E)

/-- The faults of a conditional branch (R60, R115). -/
def wfBranch (f : FmtJ) : List (BitVec 8) :=
  need (f.d = 0x80#8) whyResv ++ wfSource .b true f.a (f.ep.getLsbD 1) ++ wfSource .b true f.b (f.ep.getLsbD 0) ++
  need (f.hint ≠ 3#2) whyResv

/-- The faults of BRALL and BRNONE (R116). -/
def wfMaskBranch (f : FmtJ) : List (BitVec 8) :=
  need (f.d = 0x80#8) whyResv ++ need (decide (f.a.toNat < 8)) whyResv ++ need (f.ep = 0#2) whyResv ++
  need (decide (0x80 ≤ f.b.toNat) && decide (f.b.toNat < 0x84)) whyResv ++ need (f.hint ≠ 3#2) whyResv

/-- The faults of a register target in A and of the fields beside it (R117). -/
def wfRegTarget (f : FmtJ) : List (BitVec 8) :=
  need (f.a.isMain || f.a = 0x48#8 || f.a = 0x4C#8 || f.a = 0x4D#8) whyName ++ need (f.b = 0x80#8) whyResv ++
  need (!f.ep.getLsbD 0) whyResv ++ need (!f.ep.getLsbD 1 || f.a.isRegister) whyResv ++ need (f.disp = 0#28) whyResv ++
  need (f.hint = 0#2) whyResv

/-- The VAR field of an integer instruction's OVF (R124). -/
def varOvf (f : FmtR) : Bool := if isFpTy f.ty then f.var = 0#8 else decide (f.var.toNat < 3)
/-- The RND field of an instruction that rounds under FP types only (R123). -/
def rndFp (f : FmtR) : Bool := if isFpTy f.ty then rndOk f.rnd else f.rnd = 0#3

/-- The width of an element type in bits (R143). -/
def tyWidth (ty : BitVec 4) : Nat :=
  match ty.toNat with
  | 0 => 8
  | 1 => 16
  | 2 => 32
  | 3 => 64
  | 4 => 16
  | 5 => 16
  | 6 => 32
  | 8 => 64
  | 9 => 96
  | 10 => 144
  | _ => 8

/-- The VAR field of VCVT: PART is less than the ratio of the widths; U is 0 between FP types (R128). -/
def varCvt (f : FmtR) : Bool :=
  let wd := tyWidth f.ty
  let ws := tyWidth (f.var.extractLsb' 0 4)
  decide ((f.var.extractLsb' 4 3).toNat < max ws wd / min ws wd) &&
  !(f.var.getLsbD 7 && isFpTy f.ty && isFpTy (f.var.extractLsb' 0 4))

/-- The source type of VCVT lies in ALL and differs from the destination type (R128). -/
def tyCvt (f : FmtR) : Bool :=
  tyIn f.ty tyAll && tyIn (f.var.extractLsb' 0 4) tyAll && f.ty ≠ f.var.extractLsb' 0 4

/-- RND of VCVT: 0 in a conversion between integers (R128). -/
def rndCvt (f : FmtR) : Bool :=
  if isFpTy f.ty || isFpTy (f.var.extractLsb' 0 4) then rndOk f.rnd else f.rnd = 0#3

/-- The condition codes of VCMP (R129). -/
def varCmp (f : FmtR) : Bool := if isFpTy f.ty then f.var.toNat < 4 else f.var.toNat < 6

/-- The faults of a word alone, as WHY codes (stage 2 of R68). An event has none. DESIGN CHOICE (log entry 50): SF[0] may be 1 in PHASE and WDECL,
as R333 and R293 give it a meaning there, although R61 does not list the two and says that SF is zero in what it does not list. DESIGN CHOICE (log entry
101): a TY other than zero in MFUSE, MDRAIN and MDRAIN.V, which use none, gives 0x03, as a bad type does, and not 0x02, as other unused fields do (R57). -/
def faults (i : Instr) : List (BitVec 8) :=
  match i with
  | .bundleIssue _ => []
  | .idleCycle _ => []
  | .instructionFetch _ => []
  | .fixedLatencyLanding _ => []
  | .variableLatencyArrival _ => []
  | .lockstepStep _ => []
  | .add f => wfR .s .scalar true true false [2, 3] (f.rnd = 0#3) (f.var = 0#8) f
  | .sub f => wfR .s .scalar true true false [2, 3] (f.rnd = 0#3) (f.var = 0#8) f
  | .mul f => wfR .s .scalar true true false [2, 3] (f.rnd = 0#3) (f.var = 0#8) f
  | .mulh f => wfR .s .scalar true true false [2, 3] (f.rnd = 0#3) (f.var.toNat < 3) f
  | .div f => wfR .s .scalar true true false [2, 3] (f.rnd = 0#3) (f.var.toNat < 2) f
  | .rem f => wfR .s .scalar true true false [2, 3] (f.rnd = 0#3) (f.var.toNat < 2) f
  | .and f => wfR .s .scalar true true false [2, 3] (f.rnd = 0#3) (f.var = 0#8) f
  | .or f => wfR .s .scalar true true false [2, 3] (f.rnd = 0#3) (f.var = 0#8) f
  | .xor f => wfR .s .scalar true true false [2, 3] (f.rnd = 0#3) (f.var = 0#8) f
  | .shl f => wfR .s .scalar true true false [2, 3] (f.rnd = 0#3) (f.var = 0#8) f
  | .shr f => wfR .s .scalar true true false [2, 3] (f.rnd = 0#3) (f.var = 0#8) f
  | .sar f => wfR .s .scalar true true false [2, 3] (f.rnd = 0#3) (f.var = 0#8) f
  | .min f => wfR .s .scalar true true false [2, 3] (f.rnd = 0#3) (f.var.toNat < 2) f
  | .max f => wfR .s .scalar true true false [2, 3] (f.rnd = 0#3) (f.var.toNat < 2) f
  | .clz f => wfR .s .scalar true false false [2, 3] (f.rnd = 0#3) (f.var = 0#8) f
  | .addi f => wfI .s .scalar true [2, 3] (f.var = 0#8) f
  | .andi f => wfI .s .scalar true [2, 3] (f.var = 0#8) f
  | .ori f => wfI .s .scalar true [2, 3] (f.var = 0#8) f
  | .xori f => wfI .s .scalar true [2, 3] (f.var = 0#8) f
  | .shli f => wfI .s .scalar true [2, 3] (f.var = 0#8) f ++
    need (f.imm.toNat < (if f.ty = 2#4 then 32 else 64)) whyResv
  | .shri f => wfI .s .scalar true [2, 3] (f.var = 0#8) f ++
    need (f.imm.toNat < (if f.ty = 2#4 then 32 else 64)) whyResv
  | .sari f => wfI .s .scalar true [2, 3] (f.var = 0#8) f ++
    need (f.imm.toNat < (if f.ty = 2#4 then 32 else 64)) whyResv
  | .movi f => wfI .s .scalar false [3] (f.var = 0#8) f
  | .moviIns f => wfI .s .scalar true [3] (4 ≤ f.var.toNat && f.var.toNat < 8) f
  | .cmp f => wfR .s .scalar true true false [2, 3] (f.rnd = 0#3) (f.var.toNat < 6) f
  | .cmpi f => wfI .s .scalar true [2, 3] (f.var.toNat < 6) f
  | .sel f => wfR .s .scalar true true true [3] (f.rnd = 0#3) (f.var = 0#8) f
  | .popc f => wfR .s .scalar true false false [2, 3] (f.rnd = 0#3) (f.var = 0#8) f
  | .lea f => wfR .s .scalar true true false [3] (f.rnd = 0#3) (f.var.toNat < 8) f
  | .fadd f => wfR .s .scalar true true false [6] (rndOk f.rnd) (f.var = 0#8) f
  | .fsub f => wfR .s .scalar true true false [6] (rndOk f.rnd) (f.var = 0#8) f
  | .fmul f => wfR .s .scalar true true false [6] (rndOk f.rnd) (f.var = 0#8) f
  | .fma f => wfR .s .scalar true true true [6] (rndOk f.rnd) (f.var = 0#8) f
  | .fdiv f => wfR .s .scalar true true false [6] (rndOk f.rnd) (f.var = 0#8) f
  | .fsqrt f => wfR .s .scalar true false false [6] (rndOk f.rnd) (f.var = 0#8) f
  | .fmin f => wfR .s .scalar true true false [6] (f.rnd = 0#3) (f.var = 0#8) f
  | .fmax f => wfR .s .scalar true true false [6] (f.rnd = 0#3) (f.var = 0#8) f
  | .fcmp f => wfR .s .scalar true true false [6] (f.rnd = 0#3) (f.var.toNat < 4) f
  | .fcvt f => wfR .s .scalar true false false [6] (rndOk f.rnd) (f.var.toNat < 4) f
  | .fsgn f => wfR .s .scalar true true false [6] (f.rnd = 0#3) (f.var.toNat < 3) f
  | .ld f => wfX .s false (some .s) tyAll f
  | .st f => wfX .s true (some .s) tyAll f
  | .amo f => wfA .s f
  | .grant f => wfHandleD f ++ wfY .unused true true true (sfZero f) { f with d := 0x80#8 }
  | .revoke f => wfHandleD f ++ wfY .unused false false false (sfZero f) { f with d := 0x80#8 }
  | .permld f => wfY .scalar true true false (sfZero f) f
  | .cmpt f => wfY .unused true true false (sfBit0 f) f
  | .cmptV f => need (f.a.isMain && f.b.isMain) whyName ++
    wfY .unused true true false (sfBit0 f)
      { f with a := if f.a.isMain then f.a else 0#8, b := if f.b.isMain then f.b else 0#8 }
  | .fork f => need (sourceName .s f.d) whyName ++ wfY .unused true true true (sfZero f) { f with d := 0x80#8 }
  | .join f => wfY .scalar false false false (sfZero f) f
  | .pqpush f => wfY .unused true true false (sfZero f) f
  | .pqpop f => need (decide (1 ≤ f.d.toNat) && decide (f.d.toNat ≤ 62)) whyName ++
    wfY .unused false false false (sfZero f) { f with d := 0x80#8 }
  | .barm f => wfY .unused true false false (sfBarrier f) f
  | .barrive f => wfY .unused true false false (sfBarrier f) f
  | .bwait f => wfY .unused false false false (sfBarrier f) f
  | .gbarrive f => wfY .unused false false false (sfBarrier f) f
  | .gbwait f => wfY .unused false false false (sfBarrier f) f
  | .gangBarrierRelease _ _ => []
  | .qcfg f => need (decide (f.d.toNat < 8)) whyResv ++ need (tyIn f.ty tyQueue && tyIn f.msk tyQueue) whyType ++
    wfY .unused true false false (sfScope f) { f with d := 0x80#8, ty := 0#4, msk := 0#4 }
  | .drainR f => wfY .unused false false false (f.sf.extractLsb' 5 8 = 0#8 && (f.sf.extractLsb' 0 3).toNat < 5) f
  | .drainA f => wfY .unused false false false (f.sf.extractLsb' 5 8 = 0#8 && (f.sf.extractLsb' 0 3).toNat < 5) f
  | .drainBoth f => wfY .unused false false false (f.sf.extractLsb' 5 8 = 0#8 && (f.sf.extractLsb' 0 3).toNat < 5) f
  | .trap f => wfY .unused true false false (sfZero f) f
  | .resume f => wfY .unused false false false (sfBit0 f) f
  | .resumeServiceCore f => wfY .scalar false false false (sfBit0 f) f
  | .resumeEnd f => need (f.d ≠ 0x80#8) whyResv ++
    wfY .scalar true false false (sfBit0 f) { f with d := if f.d = 0x80#8 then 0#8 else f.d }
  | .rdrec f => wfY .scalar true false false (sfZero f) f
  | .wrrec f => wfY .unused true true false (sfZero f) f
  | .vtsel f => wfY .unused true false false (sfZero f) f
  | .srmovRead f => wfY .scalar false false false (srAssigned (f.sf.extractLsb' 0 12)) f
  | .srmovWrite f => wfY .unused true false false (srAssigned (f.sf.extractLsb' 0 12)) f
  | .cinv f => wfY .unused true true false (sfScope f) f
  | .cflush f => wfY .unused true true false (sfScope f) f
  | .waitt f => wfY .unused true false false (sfZero f) f
  | .waittRelease _ => []
  | .snap f => wfY .scalar true false false (sfZero f) f
  | .step f => wfY .unused false false false (sfZero f) f
  | .phase f => wfY .unused false false false (sfBit0 f) f
  | .phaseOff f => wfY .unused false false false (sfBit0 f) f
  | .wdecl f => wfY .unused true true false (sfBit0 f) f
  | .enrd f => wfY .scalar false false false (sfZero f) f
  | .enrdIdle f => need (f.a = 0x81#8) whyResv ++ wfY .scalar false false false (sfZero f) { f with a := 0x80#8 }
  | .enclr f => wfY .scalar false false false (sfZero f) f
  | .yield f => wfY .unused false false false (sfZero f) f
  | .halt f => wfY .unused false false false (sfZero f) f
  | .br f => need (f.d = 0x80#8 && f.a = 0x80#8 && f.b = 0x80#8) whyResv ++ need (f.ep = 0#2) whyResv ++
    need (f.hint = 0#2) whyResv
  | .breq f => wfBranch f
  | .brne f => wfBranch f
  | .brlt f => wfBranch f
  | .brge f => wfBranch f
  | .brltu f => wfBranch f
  | .brgeu f => wfBranch f
  | .brall f => wfMaskBranch f
  | .brnone f => wfMaskBranch f
  | .call f => wfDest .scalar f.d ++ need (f.a = 0x80#8 && f.b = 0x80#8) whyResv ++ need (f.ep = 0#2) whyResv ++
    need (f.hint = 0#2) whyResv
  | .callRegister f => wfDest .scalar f.d ++ wfRegTarget f
  | .ret f => need (f.d = 0x80#8) whyResv ++ wfRegTarget f
  | .jr f => need (f.d = 0x80#8) whyResv ++ wfRegTarget f
  | .loop f => need (f.lres = 0#2 && f.wh = 0#4 && f.cell = 0#3) whyResv ++ wfSource .b true f.a (f.ep.getLsbD 2) ++
    wfSource .b false f.b (f.ep.getLsbD 1) ++ wfSource .b false f.c (f.ep.getLsbD 0)
  | .loopw f => need (f.lres = 0#2 && decide (2 ≤ f.cell.toNat)) whyResv ++ wfSource .b true f.a (f.ep.getLsbD 2) ++
    wfSource .b true f.b (f.ep.getLsbD 1) ++ wfSource .b true f.c (f.ep.getLsbD 0)
  | .vadd f => wfR .v .vector true true false tyIntFp (rndFp f) (varOvf f) f
  | .vsub f => wfR .v .vector true true false tyIntFp (rndFp f) (varOvf f) f
  | .vmul f => wfR .v .vector true true false tyIntFp (rndFp f) (varOvf f) f
  | .vfma f => wfR .v .vector true true true tyFp (rndOk f.rnd) (f.var.toNat < 4) f
  | .vmin f => wfR .v .vector true true false tyIntFp (f.rnd = 0#3)
    (f.var = 0#8 || (f.var = 8#8 && !isFpTy f.ty)) f
  | .vmax f => wfR .v .vector true true false tyIntFp (f.rnd = 0#3)
    (f.var = 0#8 || (f.var = 8#8 && !isFpTy f.ty)) f
  | .vabs f => wfR .v .vector true false false tyIntFp (f.rnd = 0#3)
    (f.var = 0#8 || (f.var = 1#8 && !isFpTy f.ty)) f
  | .vneg f => wfR .v .vector true false false tyIntFp (f.rnd = 0#3)
    (f.var = 0#8 || (f.var = 1#8 && !isFpTy f.ty)) f
  | .vmulh f => wfR .v .vector true true false tyInt (f.rnd = 0#3) (f.var &&& 0xF3#8 = 0#8) f
  | .vavg f => wfR .v .vector true true false tyInt (f.rnd = 0#3) (f.var &&& 0xF3#8 = 0#8) f
  | .vshl f => wfR .v .vector true true false tyBits (f.rnd = 0#3) (f.var.toNat < 3 && (f.var = 0#8 || f.ty ≠ 3#4)) f
  | .vshr f => wfR .v .vector true true false tyBits (f.rnd = 0#3) (f.var &&& 0xFB#8 = 0#8) f
  | .vsar f => wfR .v .vector true true false tyBits (f.rnd = 0#3) (f.var &&& 0xFB#8 = 0#8) f
  | .vand f => wfR .v .vector true true false tyAll (f.rnd = 0#3) (f.var = 0#8) f
  | .vor f => wfR .v .vector true true false tyAll (f.rnd = 0#3) (f.var = 0#8) f
  | .vxor f => wfR .v .vector true true false tyAll (f.rnd = 0#3) (f.var = 0#8) f
  | .vcvt f => need (tyCvt f) whyType ++ wfR .v .vector true false false tyAll (rndCvt f)
    (!(tyIn f.ty tyAll && tyIn (f.var.extractLsb' 0 4) tyAll) || varCvt f) f
  | .vcmp f => need (f.dstep = 0#2) whyStep ++ wfR .v .mask true true false tyAll (f.rnd = 0#3) (varCmp f) { f with dstep := 0#2 }
  | .vsel f => need (f.msk.getLsbD 3) whyResv ++ wfR .v .vector true true false tyAll (f.rnd = 0#3) (f.var = 0#8) f
  | .vshuf f => wfR .v .vector true true true tyAll (f.rnd = 0#3) (f.var = 0#8) f
  | .vperm f => wfR .v .vector true (f.var ≠ 5#8) false tyAll (f.rnd = 0#3) (f.var.toNat < 7) f
  | .vred f => wfR .v .vector true false false tyIntFp (if isFpTy f.ty && f.var = 0#8 then rndOk f.rnd else f.rnd = 0#3)
    ((f.var.extractLsb' 0 3).toNat < 3 && f.var.extractLsb' 4 4 = 0#4 && !(f.var.getLsbD 3 && isFpTy f.ty)) f
  | .vclmul f => need (f.msk = 0#4) whyResv ++ wfR .v .vector true true false [3] (f.rnd = 0#3) (f.var = 0#8) f
  | .vclmulh f => need (f.msk = 0#4) whyResv ++ wfR .v .vector true true false [3] (f.rnd = 0#3) (f.var = 0#8) f
  | .vrcp f => wfR .v .vector true false false tyFp (f.rnd = 0#3) (f.var = 0#8) f
  | .vrsq f => wfR .v .vector true false false tyFp (f.rnd = 0#3) (f.var = 0#8) f
  | .vexp f => wfR .v .vector true false false tyFp (f.rnd = 0#3) (f.var = 0#8) f
  | .vmov f => wfR .v .vector true false false tyAll (f.rnd = 0#3) (f.var = 0#8) f
  | .vmovi f => wfI .v .vector false tyAll (f.var = 0#8) f
  | .vld f => wfX .v false none tyAll f
  | .vst f => wfX .v true none tyAll f
  | .vgath f => wfX .v false (some .v) [1, 2, 3, 4, 5, 6] f
  | .vscat f => wfX .v true (some .v) [1, 2, 3, 4, 5, 6] f
  | .vamo f => wfA .v f
  | .qpush f => need (f.ty = 0#4 && f.msk = 0#4) whyResv ++
    wfR .v .unused true false false [0] (f.rnd = 0#3) (f.var.toNat < 8) { f with ty := 0#4, msk := 0#4 }
  | .qpop f => need (f.ty = 0#4 && f.msk = 0#4) whyResv ++
    wfR .v .vectorMain false false false [0] (f.rnd = 0#3) (f.var.toNat < 8) { f with ty := 0#4, msk := 0#4 }
  | .vdup f => need (f.ty = 0#4 && f.msk = 0#4) whyResv ++
    wfR .v .vector false false false [0] (f.rnd = 0#3) (f.var = 0#8) { f with ty := 0#4, msk := 0#4, ep := 0#3 }
  | .mldw f => need (!f.tgt.getLsbD 2 && decide (f.a.toNat < 16)) whyResv ++
    wfMBase true false (f.np = 0#4) true tyMatrix f
  | .mldwS f => need (!f.tgt.getLsbD 2 && decide (f.a.toNat < 16)) whyResv ++
    wfMBase true false (f.np = 0#4) true tyMatrix f
  | .mma f => need (!f.tgt.getLsbD 2 && decide (f.a.toNat < 16)) whyResv ++
    wfMBase true true (f.np.toNat < 4) (f.sp = 0#1) tyMatrix f
  | .mmas f => need (!f.tgt.getLsbD 2 && decide (f.a.toNat < 16)) whyResv ++
    wfMBase true true (f.np.toNat < 4) (f.sp = 0#1) tyMatrix f
  | .mzero f => need (!f.tgt.getLsbD 2 && f.a = 0#8 && f.mstr = 0#5) whyResv ++
    wfMBase false false (f.np = 0#4) (f.sp = 0#1) [2, 6] f
  | .mfuse f => need (f.tgt.toNat < 3 && f.a = 0#8 && f.mstr = 0#5 && f.qsel = 0#4) whyResv ++
    wfMBase false false (f.np = 0#4) (f.sp = 0#1) [0] f
  | .mdrain f => need (decide (f.a.toNat < 4) && f.mstr = 0#5) whyResv ++
    wfMBase true true (f.np = 0#4) (f.sp = 0#1) [0] f
  | .mdrainV f => need (decide (f.a.toNat < 4)) whyResv ++ wfMBase true true (f.np = 0#4) (f.sp = 0#1) [0] f
  | .sequencerOpStart _ => []
  | .mmaRowStep _ => []
  | .mdrainEntryStep _ => []
  | .queueClaimArrival _ => []
  | .cpy f => wfC false f
  | .cpy2 f => wfC false f
  | .cpy3 f => wfC false f
  | .cgath f => wfC false f
  | .cscat f => wfC false f
  | .cmcast f => wfC false f
  | .cfill f => wfC true f
  | .credI32 f => wfC false f
  | .credFp32 f => wfC false f
  | .credBf16 f => wfC false f
  | .cpyAt f => wfC false f
  | .cpy2At f => wfC false f
  | .cpy3At f => wfC false f
  | .cgathAt f => wfC false f
  | .cscatAt f => wfC false f
  | .cmcastAt f => wfC false f
  | .cfillAt f => wfC true f
  | .credI32At f => wfC false f
  | .credFp32At f => wfC false f
  | .credBf16At f => wfC false f
  | .atCopyLaunch _ => []
  | .copyCompletion _ => []
  | .mcastLanding _ => []
  | .storeAcknowledge _ => []
  | .homeAccess _ => []
  | .pathAccess _ => []
  | .farAccessArrival _ => []
  | .pathResponseTimeout _ => []
  | .deferredFault _ => []
  | .stoppingComplete _ => []
  | .childTake _ => []
  | .stealComplete _ => []
  | .pqArrival _ => []
  | .pqClaimServe _ => []
  | .doorbell _ _ => []
  | .iqbaseWrite _ _ => []
  | .accessionCheck _ => []
  | .budgetIntervalStart _ => []
  | .placement _ _ => []
  | .startTick _ => []
  | .taskCompletion _ => []
  | .replayAccept _ => []
  | .nodeEvaluation _ => []
  | .replayEnd _ => []
  | .gangSwitchTick _ => []
  | .saveComplete _ _ => []
  | .saveDeadline _ => []
  | .restore _ => []
  | .sliceStart _ => []
  | .checkpointTimerTrigger _ _ => []
  | .snapTick _ _ => []
  | .drainFrameDone _ _ _ => []
  | .drainHeaderDone _ _ => []
  | .reserveHoldExpiry _ _ => []
  | .drainWriteError _ _ => []
  | .hbctlWrite _ _ _ => []
  | .governorWrite _ _ => []
  | .thermalGateOn _ => []
  | .thermalGateOff _ => []
  | .thermalTrip _ _ => []
  | .railFault _ _ => []
  | .carriedCheckMismatch _ => []
  | .eccErrorConsumed _ => []
  | .eccScrub _ _ _ _ => []
  | .laneWindowEnd _ => []
  | .quiesceRequest _ => []
  | .quiesceCancel _ => []
  | .quiesced _ => []
  | .quiesceTimeout _ => []
  | .pcfgWrite _ => []
  | .nbondWrite _ _ => []
  | .tslotWrite _ _ _ => []
  | .controlWindowAccess _ => []
  | .tcsdWrite _ _ => []
  | .shootDownDone _ => []
  | .svcBind _ _ => []
  | .svcUnbind _ _ => []
  | .hotResetSelfHosted _ => []
  | .hotResetHostManaged _ => []
  | .functionLevelReset _ => []
  | .connectionEnable _ => []
  | .connectionWord5Write _ _ => []
  | .nvmeofConnected _ => []
  | .connectionFailure _ _ => []
  | .powerOn => []
  | .pinReset => []
  | .hvReset _ => []
  | .bootStart => []
  | .registerWrite _ _ _ => []
  | .ringHeadWrite _ _ _ _ => []
  | .hostLinkRetrained _ => []

/-- Whether the choice of a constructor of one opcode agrees with the fields that select it (R61, R101, R117, R318). -/
def selected (i : Instr) : Bool :=
  match i with
  | .movi f => f.var.getLsbD 2 = false
  | .moviIns f => f.var.getLsbD 2 = true
  | .cmpt f => f.sf.getLsbD 0 = false
  | .cmptV f => f.sf.getLsbD 0 = true
  | .drainR f => f.sf.extractLsb' 3 2 = 1#2
  | .drainA f => f.sf.extractLsb' 3 2 = 2#2
  | .drainBoth f => f.sf.extractLsb' 3 2 = 3#2
  | .resume f => f.sf.getLsbD 0 = false ∧ f.d = 0x80#8
  | .resumeServiceCore f => f.sf.getLsbD 0 = false ∧ f.d ≠ 0x80#8
  | .resumeEnd f => f.sf.getLsbD 0 = true
  | .srmovRead f => f.sf.getLsbD 12 = false
  | .srmovWrite f => f.sf.getLsbD 12 = true
  | .phase f => f.sf.getLsbD 0 = false
  | .phaseOff f => f.sf.getLsbD 0 = true
  | .enrd f => f.a ≠ 0x81#8
  | .enrdIdle f => f.a = 0x81#8
  | .call f => f.a = 0x80#8
  | .callRegister f => f.a ≠ 0x80#8
  | .mldw f => f.sp = 0#1
  | .mldwS f => f.sp = 1#1
  | .mdrain f => f.mstr.getLsbD 4 = false
  | .mdrainV f => f.mstr.getLsbD 4 = true
  | _ => true

/-- A slot operation that stage 2 of R68 finds no fault in, whatever the context. -/
def wellFormed (i : Instr) : Bool := (faults i).isEmpty && selected i

end Sys2Proof
end

