-- ==== Sys2Proof/Machine/Ops.lean ====
section
/-!
DEFINITION. The named operations over the state: tables, byte memory and its places, the registers of a context, the effects that a
meaning yields and their application, taking a trap or stop (R257 to R265) and the entry into SERVICE (R261).
-/
namespace Sys2Proof

/-- The value of a key in a table; `d` where the key is absent. -/
def Sparse.get {α : Type} (d : α) : Sparse α → Nat → α
  | [], _ => d
  | (k, v) :: r, i => if k = i then v else if i < k then d else Sparse.get d r i

/-- The value of a key in a table, if it is present. -/
def Sparse.find {α : Type} : Sparse α → Nat → Option α
  | [], _ => none
  | (k, v) :: r, i => if k = i then some v else if i < k then none else Sparse.find r i

/-- A table with a key set; the keys stay rising. -/
def Sparse.set {α : Type} : Sparse α → Nat → α → Sparse α
  | [], i, v => [(i, v)]
  | (k, w) :: r, i, v => if i < k then (i, v) :: (k, w) :: r else if k = i then (i, v) :: r else (k, w) :: Sparse.set r i v

/-- A table without a key. -/
def Sparse.erase {α : Type} : Sparse α → Nat → Sparse α
  | [], _ => []
  | (k, w) :: r, i => if k = i then r else if i < k then (k, w) :: r else (k, w) :: Sparse.erase r i

/-- A table with a key set, or removed. -/
def Sparse.put {α : Type} (t : Sparse α) (i : Nat) : Option α → Sparse α
  | some v => t.set i v
  | none => t.erase i

/-- The keys of a table rise strictly, from at least `lo`. -/
def Sparse.risingFrom {α : Type} : Nat → Sparse α → Bool
  | _, [] => true
  | lo, (k, _) :: r => decide (lo ≤ k) && Sparse.risingFrom (k + 1) r

/-- The form of a table: its keys rise strictly. -/
def Sparse.wf {α : Type} (t : Sparse α) : Bool := Sparse.risingFrom 0 t

namespace Machine

/-- What a byte that nothing has written reads as (log entry 5). -/
def unlistedByte : Byte := 0#8

/-- The byte at an address. -/
def Memory.get : List Host.Cell → Nat → Byte
  | [], _ => unlistedByte
  | (k, v) :: r, i => if k = i then v else if i < k then unlistedByte else Memory.get r i

/-- A memory with one byte written, in canonical form. -/
def Memory.set : List Host.Cell → Nat → Byte → List Host.Cell
  | [], i, v => if v = unlistedByte then [] else [(i, v)]
  | (k, w) :: r, i, v =>
    if i < k then (if v = unlistedByte then (k, w) :: r else (i, v) :: (k, w) :: r)
    else if k = i then (if v = unlistedByte then r else (i, v) :: r)
    else (k, w) :: Memory.set r i v

/-- The cells rise strictly in address, from at least `lo`, and none holds what an unlisted address reads as. -/
def Memory.wfFrom : Nat → List Host.Cell → Bool
  | _, [] => true
  | lo, (k, v) :: r => decide (lo ≤ k) && decide (v ≠ unlistedByte) && Memory.wfFrom (k + 1) r

/-- The canonical form of a memory. -/
def Memory.wf (m : List Host.Cell) : Bool := Memory.wfFrom 0 m

/-- The bytes at n consecutive addresses. -/
def Memory.read (m : List Host.Cell) (a : Nat) : Nat → List Byte
  | 0 => []
  | n + 1 => Memory.get m a :: Memory.read m (a + 1) n

/-- A memory with consecutive bytes written. -/
def Memory.write (m : List Host.Cell) (a : Nat) : List Byte → List Host.Cell
  | [] => m
  | b :: r => Memory.write (Memory.set m a b) (a + 1) r

/-- The number that bytes hold in little-endian order (R4). -/
def leNat : List Byte → Nat
  | [] => 0
  | b :: r => b.toNat + 256 * leNat r

/-- The n bytes of a number in little-endian order (R4). -/
def leBytes (x : Nat) : Nat → List Byte
  | 0 => []
  | n + 1 => BitVec.ofNat 8 x :: leBytes (x / 256) n

/-! The places of memory (R210): one flat space of addresses. -/

/-- A byte of the HBM stack of a die, by its local address (R250). -/
def hbmPlace (die loc : Nat) : Nat := die * 2 ^ 36 + loc
/-- A byte of a core's scratchpad (R89). -/
def spadPlace (core off : Nat) : Nat := 2 ^ 42 + core * 2 ^ 22 + off
/-- A byte of the boot flash (R358). -/
def flashPlace (off : Nat) : Nat := 2 ^ 45 + off
/-- A byte of host memory, by host port and bus address (R249). -/
def hostPlace (port addr : Nat) : Nat := 2 ^ 66 + port * 2 ^ 64 + addr
/-- A byte of another package's memory, by package, containment identifier and virtual address (R249). -/
def farPlace (pkg rcid va : Nat) : Nat := 2 ^ 100 + (pkg * 256 + rcid) * 2 ^ 52 + va

/-- A byte of a namespace that an NVMe-oF connection reaches (R303, R310, R364): the drain target is outside the device. -/
def targetPlace (conn nsid byte : Nat) : Nat := 2 ^ 140 + (conn * 2 ^ 32 + nsid) * 2 ^ 80 + byte

/-! The parts of the device (R10, R339, R350). -/

/-- The number of compute cores. -/
def computeCores : Nat := 2304
/-- The core of a context key. -/
def coreOf (k : Nat) : Nat := k / 8
/-- The context number of a key. -/
def ctxOf (k : Nat) : Nat := k % 8
/-- The context key of a core and a context number. -/
def keyOf (core x : Nat) : Nat := core * 8 + x
/-- Whether a core is a service core. -/
def isService (core : Nat) : Bool := decide (computeCores ≤ core)
/-- The die of a core. -/
def dieOf (core : Nat) : Nat := if core < computeCores then core / 96 else (core - computeCores) / 4
/-- The cluster of a compute core, counted over the package. -/
def clusterOf (core : Nat) : Nat := core / 8
/-- The UNIT field of a core (R329). -/
def unitOf (core : Nat) : Nat := if core < computeCores then core % 96 else (core - computeCores) % 4
/-- The number of contexts of a core. -/
def contextsOf (core : Nat) : Nat := if core < computeCores then 4 else 8
/-- The quarter of a die. -/
def quarterOf (die : Nat) : Nat := die / 6

/-- The lowest quarter of the partition that holds a quarter (R339, R340). -/
def lowest (p : Package) (q : Nat) : Nat :=
  if p.pcfg.getLsbD 2 then 0
  else if q < 2 then (if p.pcfg.getLsbD 0 then 0 else q)
  else if p.pcfg.getLsbD 1 then 2 else q
/-- The quarters of the partition whose lowest quarter is q. -/
def quartersOf (p : Package) (q : Nat) : List Nat := (List.range 4).filter fun x => lowest p x = q
/-- The dies of the partition whose lowest quarter is q: a die that the start fenced is absent (R367). -/
def diesOf (p : Package) (q : Nat) : List Nat := (List.range 24).filter fun d => lowest p (quarterOf d) = q && !p.fenced.getLsbD d
/-- The lowest quarter of the partition of a core. -/
def partOf (p : Package) (core : Nat) : Nat := lowest p (quarterOf (dieOf core))
/-- The number of a partition in a snapshot header (R311). -/
def partNumber (p : Package) (q : Nat) : Nat :=
  if p.pcfg.getLsbD 2 then 6 else if q = 0 ∧ p.pcfg.getLsbD 0 then 4 else if q = 2 ∧ p.pcfg.getLsbD 1 then 5 else q

/-! Tables of the state. -/

def State.ctx (s : State) (k : Nat) : Ctx := Sparse.get {} s.ctxs k
def State.core (s : State) (c : Nat) : Core := Sparse.get {} s.cores c
def State.engine (s : State) (e : Nat) : Engine := Sparse.get {} s.engines e
def State.gang (s : State) (t : Nat) : Gang := Sparse.get {} s.gangs t
def State.die (s : State) (d : Nat) : Die := Sparse.get {} s.dies d
def State.quarter (s : State) (q : Nat) : Quarter := Sparse.get {} s.quarters q
def State.vf (s : State) (v : Nat) : Vf := Sparse.get {} s.vfs v
def State.lane (s : State) (l : Nat) : Lane := Sparse.get {} s.lanes l
def State.conn (s : State) (n : Nat) : Conn := Sparse.get {} s.conns n
/-- The per-CID registers of a quarter (R345). -/
def State.block (s : State) (q c : Nat) : Block := Sparse.get {} s.blocks (q * 256 + c)

/-- One change of one component of the state. A meaning yields a list of them. -/
inductive Effect where
  | ctx (k : Nat) (c : Ctx)
  | before (k : Nat) (b : Before)
  | core (k : Nat) (c : Core)
  | engine (k : Nat) (e : Engine)
  | acc (k : Nat) (a : Option Access)
  | copy (k : Nat) (c : Option Copy)
  | mcast (k : Nat) (m : Option Mcast)
  | launch (k : Nat) (l : Option Launch)
  | gang (k : Nat) (g : Option Gang)
  | graph (k : Nat) (g : Option Graph)
  | replay (k : Nat) (r : Option Replay)
  | die (k : Nat) (d : Die)
  | quarter (k : Nat) (q : Quarter)
  | block (k : Nat) (b : Block)
  | vf (k : Nat) (v : Vf)
  | lane (k : Nat) (l : Lane)
  | conn (k : Nat) (c : Conn)
  | save (k : Nat) (v : Option Saved)
  | walker (k n : Nat)
  | faults (l : List (Nat × FaultMsg))
  | held (l : List Held)
  | answer (a : FarAccess) (r : Option (List Byte))
  | pkg (p : Package)
  | mem (a : Nat) (bytes : List Byte)
  | cur (i : Issue)
  | free
  | newId
  | inputs (l : List (Nat × Instr))
  | served (l : List Nat)
  | boot (b : BootPhase)
  | clear (p : Package)

/-- The state after a device reset: every part at its reset value, and the PTB at 0 (log entry 4); the flash, memory outside the device
and what is still to come from outside stay (R365, R368). -/
def cleared (p : Package) (s : State) : State :=
  { free := s.free, nextId := s.nextId, inputs := s.inputs.map fun x => (x.1 - s.now, x.2), pkg := p, mem := s.mem.filter fun x =>
    decide (flashPlace 0 ≤ x.1) }

/-- The state after one change. -/
def applyEffect (e : Effect) (s : State) : State :=
  match e with
  | .ctx k c => { s with ctxs := s.ctxs.set k c }
  | .before k b => { s with before := s.before.set k b }
  | .core k c => { s with cores := s.cores.set k c }
  | .engine k x => { s with engines := s.engines.set k x }
  | .acc k a => { s with accs := s.accs.put k a }
  | .copy k c => { s with copies := s.copies.put k c }
  | .mcast k m => { s with mcasts := s.mcasts.put k m }
  | .launch k l => { s with launches := s.launches.put k l }
  | .gang k g => { s with gangs := s.gangs.put k g }
  | .graph k g => { s with graphs := s.graphs.put k g }
  | .replay k r => { s with replays := s.replays.put k r }
  | .die k d => { s with dies := s.dies.set k d }
  | .quarter k q => { s with quarters := s.quarters.set k q }
  | .block k b => { s with blocks := s.blocks.set k b }
  | .vf k v => { s with vfs := s.vfs.set k v }
  | .lane k l => { s with lanes := s.lanes.set k l }
  | .conn k c => { s with conns := s.conns.set k c }
  | .save k v => { s with saves := s.saves.put k v }
  | .walker k n => { s with walkerFree := s.walkerFree.set k n }
  | .faults l => { s with faults := l }
  | .held l => { s with held := l }
  | .answer a r => { s with answers := s.answers ++ [(a, r)] }
  | .pkg p => { s with pkg := p }
  | .mem a bs => { s with mem := Memory.write s.mem a bs }
  | .cur i => { s with cur := i }
  | .free => { s with free := s.free + 1 }
  | .newId => { s with nextId := s.nextId + 1 }
  | .inputs l => { s with inputs := l }
  | .served l => { s with served := l }
  | .boot b => { s with boot := b }
  | .clear p => cleared p s

/-- The state after a list of changes, made in order. -/
def applyAll : List Effect → State → State
  | [], s => s
  | e :: r, s => applyAll r (applyEffect e s)

/-- What a part of a meaning does: the changes it makes, from the state it starts in. -/
abbrev Act := State → List Effect

/-- No change. -/
def Act.skip : Act := fun _ => []
/-- One part after another: the second starts in the state the first leaves. -/
def Act.seq (f g : Act) : Act := fun s =>
  let e := f s
  e ++ g (applyAll e s)
/-- Parts in order. -/
def Act.seqs : List Act → Act
  | [] => Act.skip
  | f :: r => Act.seq f (Act.seqs r)
/-- A part made only where a condition holds. -/
def Act.when (b : Bool) (f : Act) : Act := fun s => if b then f s else []
/-- A part for each member of a list, in order. -/
def Act.each {α : Type} (l : List α) (f : α → Act) : Act := Act.seqs (l.map f)
/-- A part that depends on the state it starts in. -/
def Act.on {α : Type} (r : State → α) (f : α → Act) : Act := fun s => f (r s) s
/-- The meaning that a part gives: a next state. -/
def done (f : Act) (s : State) : Host.Outcome State Fault Refusal := .next (applyAll (f s) s)

def modCtx (k : Nat) (f : Ctx → Ctx) : Act := fun s => [.ctx k (f (s.ctx k))]
def modCore (k : Nat) (f : Core → Core) : Act := fun s => [.core k (f (s.core k))]
def modGang (k : Nat) (f : Gang → Gang) : Act := fun s => [.gang k (some (f (s.gang k)))]
def modDie (k : Nat) (f : Die → Die) : Act := fun s => [.die k (f (s.die k))]
def modQuarter (k : Nat) (f : Quarter → Quarter) : Act := fun s => [.quarter k (f (s.quarter k))]
def modBlock (q c : Nat) (f : Block → Block) : Act := fun s => [.block (q * 256 + c) (f (s.block q c))]
def modVf (k : Nat) (f : Vf → Vf) : Act := fun s => [.vf k (f (s.vf k))]
def modLane (k : Nat) (f : Lane → Lane) : Act := fun s => [.lane k (f (s.lane k))]
def modConn (k : Nat) (f : Conn → Conn) : Act := fun s => [.conn k (f (s.conn k))]
def modPkg (f : Package → Package) : Act := fun s => [.pkg (f s.pkg)]
def modCur (f : Issue → Issue) : Act := fun s => [.cur (f s.cur)]
def modAcc (k : Nat) (f : Access → Access) : Act := fun s =>
  match s.accs.find k with
  | some a => [.acc k (some (f a))]
  | none => []
def modCopy (k : Nat) (f : Copy → Copy) : Act := fun s =>
  match s.copies.find k with
  | some c => [.copy k (some (f c))]
  | none => []
def modLaunch (k : Nat) (f : Launch → Launch) : Act := fun s =>
  match s.launches.find k with
  | some l => [.launch k (some (f l))]
  | none => []
def modGraph (k : Nat) (f : Graph → Graph) : Act := fun s =>
  match s.graphs.find k with
  | some g => [.graph k (some (f g))]
  | none => []
def modReplay (k : Nat) (f : Replay → Replay) : Act := fun s =>
  match s.replays.find k with
  | some r => [.replay k (some (f r))]
  | none => []
/-- Write bytes at a place. -/
def storeBytes (a : Nat) (bs : List Byte) : Act := fun _ => [.mem a bs]
/-- Take a new identifier. -/
def withId (f : Nat → Act) : Act := fun s => Act.seq (fun _ => [.newId]) (f s.nextId) s
/-- Draw a free value (log entry 2). -/
def withFree (f : Nat → Act) : Act := fun s => Act.seq (fun _ => [.free]) (f (Config.freeNat s.free)) s
/-- Draw a free latency of lo to lo + span - 1 cycles and give the cycle it ends on. -/
def withLatency (lo span : Nat) (f : Nat → Act) : Act := fun s =>
  withFree (fun n => f (s.now + lo + n % span)) s

/-! Registers of a context. -/

/-- A bit of a word set or cleared. -/
def setBit {w : Nat} (x : BitVec w) (i : Nat) (b : Bool) : BitVec w :=
  if b then x ||| (1#w <<< i) else x &&& ~~~(1#w <<< i)

/-- A scalar register; s0 reads as zero (R77). -/
def Ctx.sreg (c : Ctx) (r : Nat) : Word := if r = 0 then 0#64 else c.s.get 0#64 r
def Ctx.vreg (c : Ctx) (r : Nat) : Vec := c.v.get 0#1024 r
def Ctx.oreg (c : Ctx) (r : Nat) : Vec := c.o.get 0#1024 r
/-- A mask; every mask is all ones at binding (R76). -/
def Ctx.mreg (c : Ctx) (r : Nat) : MaskVal := c.m.get (~~~0#128) r
def Ctx.handle (c : Ctx) (h : Nat) : Handle := c.h.get {} h
def Ctx.lpreg (c : Ctx) (n : Nat) : Word := c.lp.get 0#64 n
def Ctx.frame (c : Ctx) (n : Nat) : Frame := c.frames.get {} n
def Ctx.qbind (c : Ctx) (q : Nat) : Word := c.qb.get 0#64 q
def Ctx.queue (c : Ctx) (q : Nat) : Queue := c.queues.get {} q
def Ctx.sticky (c : Ctx) (k : Nat) : Sticky := c.slots.get {} k
def Ctx.permEntry (c : Ctx) (e : Nat) : PermEntry := c.perm.get {} e
def Ctx.latch (c : Ctx) (k : Nat) : Latch := c.latches.get {} k

/-- The last-result register of a slot takes a value written by an operation of the slot (R84). -/
def Ctx.setLast (c : Ctx) (slot : Nat) (w : Word) (v : Vec) : Ctx :=
  match slot with
  | 0 => { c with ls := w }
  | 1 => { c with lv0 := v }
  | 2 => { c with lv1 := v }
  | 4 => { c with lc0 := w }
  | 5 => { c with lc1 := w }
  | _ => c

/-- A write of a scalar register: s0 discards it (R77); the last-result register of the slot follows (R84). -/
def Ctx.writeS (c : Ctx) (slot r : Nat) (w : Word) : Ctx :=
  let c := if r = 0 then c else { c with s := c.s.set r w }
  c.setLast slot w 0#1024
/-- The new bits of a register under a partial write (R122, R123). -/
def mergeBits (old value write : Vec) : Vec := (old &&& ~~~write) ||| (value &&& write)
/-- A write of a vector register (R122). DESIGN CHOICE (log entry 52): the last-result register takes what D then holds, also where the mask leaves
no element and every bit of D is kept. -/
def Ctx.writeV (c : Ctx) (slot r : Nat) (value write : Vec) : Ctx :=
  let x := mergeBits (c.vreg r) value write
  ({ c with v := c.v.set r x }).setLast slot 0#64 x
/-- A write of an operand-file register (R123). -/
def Ctx.writeO (c : Ctx) (slot r : Nat) (value write : Vec) : Ctx :=
  let x := mergeBits (c.oreg r) value write
  ({ c with o := c.o.set r x }).setLast slot 0#64 x

/-- The place of an operation in the order in which a context issues: its issue, and in it its slot (R52, R87, log entry 21). -/
def OpRec.order (r : OpRec) : Nat := r.ino * 8 + r.slot

/-- A scalar or vector register is marked empty for a pending writer; s0 is always full (R77, R87). -/
def Ctx.markEmpty (c : Ctx) (ino : Nat) (d : Dest) : Ctx :=
  match d with
  | .s r => if r = 0 then c else { c with emptyS := setBit c.emptyS r true, writerS := c.writerS.set r ino }
  | .v r => { c with emptyV := setBit c.emptyV r true, writerV := c.writerV.set r ino }
  | _ => c
/-- A register is marked full and has no pending writer. -/
def Ctx.markFull (c : Ctx) (d : Dest) : Ctx :=
  match d with
  | .s r => { c with emptyS := setBit c.emptyS r false, writerS := c.writerS.erase r }
  | .v r => { c with emptyV := setBit c.emptyV r false, writerV := c.writerV.erase r }
  | _ => c
/-- The pending writer of a register (R87). -/
def Ctx.writer (c : Ctx) (d : Dest) : Option Nat :=
  match d with
  | .s r => c.writerS.find r
  | .v r => c.writerV.find r
  | _ => none
/-- Whether a register is empty (R88). -/
def Ctx.isEmpty (c : Ctx) (d : Dest) : Bool :=
  match d with
  | .s r => c.emptyS.getLsbD r
  | .v r => c.emptyV.getLsbD r
  | _ => false

/-- The effective containment identifier of an access: the shared window carries the shared class (R245). -/
def effectiveCid (cid : BitVec 8) (va : Nat) : BitVec 8 := if va / 2 ^ 48 = 0xF then 0#8 else cid

/-- The start of a context's carve-out (R89). -/
def carveOut (x : Nat) : Nat := 0x2F0000 + x * 0x44000
/-- The end of the program area (R89). -/
def programArea : Nat := 0x2F0000
/-- The end of the cluster window's usable offsets (R90). -/
def windowEnd : Nat := 0x1780000
/-- The place of a cluster-window offset: the member's core and its scratchpad (R90). -/
def windowPlace (core off : Nat) : Nat :=
  spadPlace (core / 8 * 8 + off / 128 % 8) (off / 1024 * 128 + off % 128)

/-- The encoding of a handle kind (R92). -/
def HandleKind.bits : HandleKind → BitVec 2
  | .global => 0#2
  | .spad => 1#2
  | .cluster => 2#2
  | .mcast => 3#2
/-- The handle kind of an encoding (R92). -/
def HandleKind.ofBits (b : BitVec 2) : HandleKind :=
  match b.toNat with
  | 0 => .global
  | 1 => .spad
  | 2 => .cluster
  | _ => .mcast

/-! Codes of traps and faults (R370 to R373). -/

def codeEmptyRead : BitVec 16 := 0x0001#16
def codeIllegalSlot : BitVec 16 := 0x0002#16
def codeIllegalBundle : BitVec 16 := 0x0003#16
def codeNonuniform : BitVec 16 := 0x0004#16
def codeMetadataOrder : BitVec 16 := 0x0005#16
def codeMatrixRange : BitVec 16 := 0x0006#16
def codeCopyDesc : BitVec 16 := 0x0007#16
def codeLockstepDiverge : BitVec 16 := 0x0008#16
def codeVtselDenied : BitVec 16 := 0x0009#16
def codeResumeBad : BitVec 16 := 0x000A#16
def codeGrantDenied : BitVec 16 := 0x000B#16
def codeHandleInvalid : BitVec 16 := 0x000C#16
def codeHandleBound : BitVec 16 := 0x000D#16
def codeHandlePerm : BitVec 16 := 0x000E#16
def codeLoopRange : BitVec 16 := 0x000F#16
def codeBarrierRange : BitVec 16 := 0x0010#16
def codeAtomicAlign : BitVec 16 := 0x0011#16
def codeDupMismatch : BitVec 16 := 0x0012#16
def codeDeclAlign : BitVec 16 := 0x0013#16
def codeUndeclaredWrite : BitVec 16 := 0x0014#16
def codeReadInWindow : BitVec 16 := 0x0015#16
def codeWalkState : BitVec 16 := 0x0016#16
def codeSwtrap : BitVec 16 := 0x0017#16
def codeNotPresent : BitVec 16 := 0x0101#16
def codeOwnership : BitVec 16 := 0x0102#16
def codeCowReserve : BitVec 16 := 0x0103#16
def codeUncorrectable : BitVec 16 := 0x0104#16
def codeAtomicPath : BitVec 16 := 0x0105#16
def codeFetchFault : BitVec 16 := 0x0106#16
def codeImgFetch : BitVec 16 := 0x0201#16
def codeImgSig : BitVec 16 := 0x0202#16
def codeImgClaim : BitVec 16 := 0x0203#16
def codeGraphLoop : BitVec 16 := 0x0204#16
def codeGraphRead : BitVec 16 := 0x0205#16
def codeDieFenced : BitVec 16 := 0x0206#16
def codeHostLinkReset : BitVec 16 := 0x0207#16
def codeHostCompletion : BitVec 16 := 0x0208#16
def codePhaseRollback : BitVec 16 := 0x0301#16
def codeSnapDone : BitVec 16 := 0x0302#16
def codeSnapAbort : BitVec 16 := 0x0303#16
def codeSaveLate : BitVec 16 := 0x0304#16
def codePartBusy : BitVec 16 := 0x0305#16
def codeLinkDownshift : BitVec 16 := 0x0306#16
def codeLinkLost : BitVec 16 := 0x0307#16
def codeThermGate : BitVec 16 := 0x0308#16

/-- A precise trap of one issue (R259, R377): its code and what TRAPINFO and the record hold of it. -/
structure Trap where
  code : BitVec 16
  why : BitVec 8 := 0#8
  idx : BitVec 16 := 0#16
  slots : BitVec 7 := 0#7
  va : BitVec 52 := 0#52
  slot : Option Nat := none
  deriving DecidableEq, Repr

/-- The SLOTS bit of a slot, in P order (R45, R51). -/
def slotBit (slot : Nat) : BitVec 7 := 1#7 <<< (6 - slot)

/-- TRAPINFO (R81). -/
def trapInfo (t : Trap) : Word := 0#32 ++ t.idx ++ t.why ++ 0#1 ++ t.slots
/-- TRAPCAUSE (R81). -/
def trapCause (sup heavy deferred : Bool) (code : BitVec 16) : Word :=
  0#45 ++ BitVec.ofBool sup ++ BitVec.ofBool heavy ++ BitVec.ofBool deferred ++ code

/-- Whether a precise or software trap parks the context: SVCENT is 0, or the handler took it (R259, R262). -/
def parksOn (c : Ctx) (code : BitVec 16) : Bool :=
  if c.aside.isSome then code ≠ codeResumeBad else c.svcent = 0#64

/-- The start of a stop of one context: STOPPING with the kind, the stop cycle and the registers of R81. The saved registers of
the exception are PC, BSEQ and REPLEFT as they stand; the mode becomes STOPPING (R257, R259, R264), and a steal is abandoned (R232). A save, a
lockstep peer's stop and an unbinding name no cause: they write both registers 0. DESIGN CHOICE (log entry 24). A second stop on the context is decided by the order of R264: save, deferred, precise, software. -/
def beginStop (c : Ctx) (kind : StopKind) (t : Nat) (tr : Trap) : Ctx :=
  let heavy := kind = .deferred || (kind ≠ .save && kind ≠ .peer && kind ≠ .unbind && parksOn c tr.code)
  let info (c : Ctx) (sup : Bool) : Ctx :=
    { c with trapcause := trapCause sup heavy (kind = .deferred) tr.code, trapinfo := trapInfo tr }
  match c.stop with
  | none =>
    info { c with mode := .stopping, steal := none, stop := some (Stop.mk kind t [] (c.mode = .halted) c.aside.isSome
      (kind = .precise || kind = .software) tr.va tr.slot) } false
  | some st =>
    if kind = .save then { c with stop := some ({ st with kind := .save }), savedStop := some st }
    else if kind = .deferred && st.kind ≠ .save then
      info { c with stop := some ({ st with kind := .deferred, va := tr.va, slot := none }) } (st.light || st.kind = .precise)
    else c

/-- What a context was before the landings and arrivals of this cycle, if any reached it. -/
def beforeNow (s : State) (k : Nat) : Option Before := (s.before.find k).filter fun b => decide (b.cycle = s.now)

/-- A queue as it stood, with the entries appended to it since. -/
def Queue.withAppended (q0 q : Queue) : Queue :=
  { q0 with entries := q0.entries ++ q.entries.drop (q0.base + q0.entries.length - q.base) }

/-- A context `c` with the registers, landings and pending operations as they stood in `b`, before the landings and arrivals of the cycle; what
else befell it on the cycle stands, and so do the registers that a stop in progress has written (R81, R265). -/
def Ctx.unland (b c : Ctx) : Ctx :=
  let as (p q : Pending) : Bool := p.op = q.op && p.dests = q.dests
  { c with
    s := b.s, v := b.v, o := b.o, m := b.m, h := b.h, emptyS := b.emptyS, emptyV := b.emptyV, writerS := b.writerS, writerV := b.writerV,
    ls := b.ls, lc0 := b.lc0, lc1 := b.lc1, lv0 := b.lv0, lv1 := b.lv1, lm := b.lm, lp := b.lp, frames := b.frames, order := b.order,
    qb := b.qb, slots := b.slots, pc := b.pc, bseq := b.bseq, mpc := b.mpc, ensat := b.ensat, scdem := b.scdem, fuse := b.fuse, pri := b.pri,
    trapcause := if c.stop.isSome then c.trapcause else b.trapcause, trapinfo := if c.stop.isSome then c.trapinfo else b.trapinfo,
    vthead := b.vthead, vtcount := b.vtcount, walk := b.walk, perm := b.perm, aside := b.aside, vtsel := b.vtsel, landings := b.landings,
    pending := b.pending.map (fun p => (c.pending.find? (as p)).getD p) ++ c.pending.filter fun q => !(b.pending.any fun p => as p q),
    queues := b.queues.map fun x => (x.1, x.2.withAppended (c.queue x.1)),
    done := if (b.pending.any fun p => (match p.src with | .join _ _ => true | _ => false) && !(c.pending.any (as p))) then b.done + c.done
      else c.done }

/-- The context without the landings and arrivals of this cycle: a precise trap of cycle t stops the context on cycle t - 1 (R265). -/
def ctxBefore (s : State) (k : Nat) : Ctx :=
  match beforeNow s k with
  | some b => b.ctx.unland (s.ctx k)
  | none => s.ctx k

/-- What a landing of this cycle changed outside its context is as it was before it. -/
def Undo.act : Undo → Act
  | .ctx k c => fun _ => [.ctx k c]
  | .bytes a old => storeBytes a old
  | .step k deferred => fun s =>
    let b := Sparse.get {} s.blocks k
    if b.stepcnt ≠ 0#16 then [.block k { b with stepcnt := b.stepcnt - 1#16 }]
    else
      let b := { b with stepcnt := b.hbctl.extractLsb' 48 16 - 1#16 }
      if b.state = 1#2 ∧ b.snap.tick = s.now + 4096 then [.block k { b with state := 0#2 }] else [.block k { b with defer_ := deferred }]

/-- What the landings of this cycle changed outside a context is as it was before them (R265). -/
def undoLandings (k : Nat) : Act := fun s =>
  match beforeNow s k with
  | some b => Act.each b.undo Undo.act s
  | none => []

/-- The lockstep members that stop with a context: every other member of its gang in RUN, HALTED or STOPPING (R43). -/
def lockPeers (s : State) (k : Nat) : List Nat :=
  let c := s.ctx k
  if c.lock then
    match c.task with
    | some t => s.ctxs.filterMap fun x =>
        if x.1 ≠ k ∧ x.2.task = some t ∧ (x.2.mode = .run ∨ x.2.mode = .halted ∨ x.2.mode = .stopping) then some x.1 else none
    | none => []
  else []

/-- The number of bytes of a copy. -/
def Copy.total (c : Copy) : Nat := c.len0 * c.n1 * c.n2
/-- The bytes that a copy has moved. -/
def Copy.movedBytes (c : Copy) : Nat := c.ahead.foldl (fun n x => n + x.2) c.prog
/-- Whether a copy has bytes of a source left to read (R213). -/
def Copy.readsLeft (c : Copy) : Bool := c.form ≠ .cfill && decide (c.movedBytes + c.buf.length < c.total)

/-- Whether an access or a copy is held behind others (R201, R214): an access that is performed no longer holds, and neither does a copy
whose bytes are all read. -/
def heldBack (s : State) (after : List Nat) : Bool :=
  after.any fun id => ((s.accs.find id).any fun x => x.performed.isNone) || ((s.copies.find id).any fun x => x.readsLeft)

/-- Whether a slot word is an atomic with ORD = 1 (R59, R201). -/
def orderedAtomic (op : OpRec) : Bool :=
  op.sw.getLsbD 0 && ((op.slot = 0 && op.sw.extractLsb' 56 8 = 0x32#8) || ((op.slot = 1 || op.slot = 2) && op.sw.extractLsb' 56 8 = 0x24#8))

/-- Whether an access or a copy is held behind an ordered atomic that has not performed (R201). -/
def heldByAtomic (s : State) (after : List Nat) : Bool :=
  after.any fun id => (s.accs.find id).any fun x => x.performed.isNone && orderedAtomic x.op

/-- The accesses, multicast stores and copies of a context that a stop finds held behind an ordered atomic are not started (R201, R265); what a handler issued is drained (R262). -/
def freezeHeld (k : Nat) : Act := fun s =>
  if (s.ctx k).mode = .service then [] else
  ((s.accs.filter fun x => x.2.key = k && heldByAtomic s (x.2.after.map (·.id))).map fun x => .acc x.1 (some { x.2 with frozen := true })) ++
  ((s.mcasts.filter fun x => x.2.key = k && heldByAtomic s x.2.after).map fun x => .mcast x.1 (some { x.2 with frozen := true })) ++
  (s.copies.filter fun x => x.2.key = k && heldByAtomic s x.2.after).map fun x => .copy x.1 (some { x.2 with frozen := true })

/-- Whether a store or atomic that a drain waits for is performed, and acknowledged where it is GLOBAL (R198). -/
def isPerformed (s : State) (id : Nat) : Bool :=
  match s.accs.find id, s.mcasts.find id with
  | some a, _ => !a.buffered && a.performed.isSome
  | none, some m => m.landed
  | none, none => true

/-- Whether a DRAIN waits no longer (R198). -/
def drainOver (s : State) (ids : List Nat) (at_ : Nat) : Bool := decide (at_ < s.now) && ids.all (isPerformed s)

/-- Whether what the next issue of a context waits for has come (R198, R284, R285). -/
def waitOver (s : State) (key : Nat) : Bool :=
  let c := s.ctx key
  decide (c.notBefore ≤ s.now) &&
  match c.wait with
  | none => true
  | some (.until t w) => w.isNone && decide (t ≤ s.now)
  | some (.drain _ _ _ ids at_) => drainOver s ids at_

/-- Whether a cache line is one that a DRAIN.A at a scope discards (R198): at CLUSTER the lines of the cluster window, and a line that no longer
holds what a party of the cluster has written (R215, log entry 45). -/
def drainsLine (cid : BitVec 8) (scope : BitVec 3) (l : CacheLine) : Bool :=
  match scope.toNat with
  | 0 => false
  | 1 => (l.window && l.cid = cid) || (l.missed && (l.cid = cid || l.cid = 0#8))
  | _ => l.cid = cid || (!l.window && l.cid = 0#8)

/-- Whether an operation at a place reads: a load, an atomic, or a read of the matrix sequencer. -/
def AccessOp.reads (o : AccessOp) : Bool :=
  match o with
  | .load => true
  | .atomic _ _ => true
  | .matrix => true
  | _ => false

/-- The reads of a context in flight, behind which a DRAIN.A at a scope holds later ones (R213, R214): its loads, gathers and atomics, the
reads of its M operations, and its copies that have bytes to read. Those before an earlier DRAIN.A go on holding. -/
def openReads (s : State) (key : Nat) (scope : BitVec 3) : List Hold :=
  let ids := ((s.accs.filter fun x => x.2.key = key && x.2.what.reads && x.2.performed.isNone).map (·.1)) ++
    (s.copies.filter fun x => x.2.key = key && x.2.readsLeft).map (·.1)
  ids.map (Hold.mk · scope) ++ (s.ctx key).holdLoads.filter fun h => decide (h.id ∈ ids) && h.scope ≠ scope

/-- The lines that a DRAIN.A discards (R198). -/
def discardLines (key : Nat) (scope : BitVec 3) : Act := fun s =>
  modCore (coreOf key) (fun x => { x with vcache := x.vcache.filter fun l => !drainsLine (s.ctx key).cid scope l }) s

/-- The effect of a DRAIN.A: lines are discarded, and later reads are held behind the reads in flight (R198, R214). -/
def acquire (key : Nat) (scope : BitVec 3) : Act := fun s =>
  Act.seq (discardLines key scope) (modCtx key fun c => { c with holdLoads := openReads s key scope }) s

/-- A wait that is over when a context stops is no longer waited for (R265): a DRAIN of both kinds has then acted as .a (R198). -/
def settleWait (s : State) (key : Nat) (c : Ctx) : Ctx :=
  match c.wait with
  | some (.until t _) => if t ≤ s.now then { c with wait := none } else c
  | some (.drain _ scope both ids at_) =>
    if drainOver s ids at_ then { c with wait := none, holdLoads := if both then openReads s key scope else c.holdLoads } else c
  | none => c

/-- The lines that a DRAIN of both kinds whose wait is over has discarded when its context stops (R198). -/
def settleLines (key : Nat) : Act := fun s =>
  match (s.ctx key).wait with
  | some (.drain _ scope true ids at_) => if drainOver s ids at_ then discardLines key scope s else []
  | _ => []

/-- A trap taken by a context: the shared operation of every precise trap. No slot of the issue commits; landings of this cycle
have not happened, there or in the lockstep members that stop with it; REPLEFT and PC stay (R43, R259, R264, R265). -/
def takePrecise (k : Nat) (tr : Trap) : Act := fun s =>
  let peers := lockPeers s k
  freezeHeld k s ++ settleLines k s ++ .ctx k (beginStop (settleWait s k (ctxBefore s k)) .precise (s.now - 1) tr) ::
  (peers.flatMap fun p => settleLines p s ++ [.ctx p (beginStop (settleWait s p (ctxBefore s p)) .peer (s.now - 1) { code := 0#16 })]) ++
  Act.each (k :: peers) undoLandings s

/-- A stop that follows the issues of this cycle: a software trap, a deferred fault, a save or an unbinding (R257, R265, R273,
R279). -/
def takeStop (k : Nat) (kind : StopKind) (tr : Trap) : Act := fun s =>
  freezeHeld k s ++ settleLines k s ++ .ctx k (beginStop (settleWait s k (s.ctx k)) kind s.now tr) ::
  (if kind = .save || kind = .unbind then [] else
    (lockPeers s k).flatMap fun p => settleLines p s ++ [.ctx p (beginStop (settleWait s p (s.ctx p)) .peer s.now { code := 0#16 })])

/-- Whether a wait is that of a CINV or CFLUSH, which no record takes (R265, R284). -/
def Wait.maintains (w : Wait) : Bool := match w with | .until _ none => true | _ => false

/-- The entry into SERVICE: PC, BSEQ, REPLEFT, the sticky state of S and B and s56-s63 are set aside, s56-s63 are written and the
context starts at SVCENT with S and B idle (R53, R261). A RESUME_BAD keeps what was set aside (R262). A wait of the context's next issue that its
last issue began goes on (R290). -/
def enterService (c : Ctx) (va : BitVec 52) : Ctx :=
  let a : SetAside := match c.aside with
    | some a => a
    | none => { pc := c.pc, bseq := c.bseq, repleft := c.repleft, s0w := c.sticky 0, s6w := c.sticky 6,
                sregs := (List.range 8).map fun i => c.sreg (56 + i), sfull := c.emptyS.extractLsb' 56 8 }
  let regs := ((((((((c.s.set 56 c.trapcause).set 57 c.trapinfo).set 58 (va.setWidth 64)).set 59 0#64).set 60 0#64).set
    61 0#64).set 62 0#64).set 63 0#64)
  { c with mode := .service, aside := some a, s := regs, emptyS := c.emptyS &&& 0x00FFFFFFFFFFFFFF#64,
           writerS := c.writerS.filter fun x => decide (x.1 < 56), pc := c.svcent, repleft := 0, fetched := [],
           slots := (c.slots.set 0 {}).set 6 {}, vtsel := none, stop := none, wait := c.wait.filter Wait.maintains }

/-- The return from SERVICE or PARKED: every set-aside value is restored and the context enters RUN, or HALTED when it parked from
HALTED (R261, R263, R280, R287). -/
def leaveService (c : Ctx) (from_ : Nat) : Ctx :=
  let c := match c.aside with
    | some a =>
      { c with pc := a.pc, bseq := a.bseq, repleft := a.repleft, slots := (c.slots.set 0 a.s0w).set 6 a.s6w,
               s := (List.range 8).foldl (fun t i => t.set (56 + i) (a.sregs.getD i 0#64)) c.s,
               emptyS := a.sfull ++ c.emptyS.extractLsb' 0 56, aside := none }
    | none => c
  { c with mode := if c.parkedFromHalted then .halted else .run, parkedFromHalted := false, fetched := [], wait := c.wait.filter Wait.maintains,
           stop := none, notBefore := max c.notBefore from_, vtsel := none, vtcount := 0#9 }

end Machine
end Sys2Proof
end

