-- ==== Sys2Proof/Machine/Check.lean ====
section
/-!
DEFINITION. The carried check code of a beat (R323).
-/
namespace Sys2Proof.Machine

/-- One byte of CRC-32C in reflected form (R323). -/
def crcByte (c : W32) (b : Byte) : W32 :=
  (List.range 8).foldl (fun x _ => if x.getLsbD 0 then (x >>> 1) ^^^ 0x82F63B78#32 else x >>> 1) (c ^^^ b.setWidth 32)
/-- CRC-32C: initial value of all ones and final inversion (R323). -/
def crc32c (bs : List Byte) : W32 := ~~~(bs.foldl crcByte 0xFFFFFFFF#32)

/-- A beat as it travels: its bytes, and the code that its sender has computed over them (R323). -/
structure Carried where
  data : List Byte
  code : W32
  deriving DecidableEq, Repr

/-- A beat protected by its sender (R323). -/
def protectBeat (bytes : List Byte) : Carried := ⟨bytes, crc32c bytes⟩

/-- What a boundary passes on of a beat that it receives (R323): it computes its own protection first, and only then verifies the code that came with the
beat. A mismatch, which only what changes a beat on its way can give, is an event from outside: CARRIED_CHECK_MISMATCH (R324). -/
def Carried.received (b : Carried) : Option Carried :=
  let own := protectBeat b.data
  if crc32c b.data = b.code then some own else none

/-- The bytes of a beat as they arrive across a boundary, when nothing changes them on their way: the sender protects them, and the receiver passes them
on under its own protection (R323). -/
def carried (bytes : List Byte) : List Byte := ((protectBeat bytes).received.map (·.data)).getD []

theorem protectBeat_received (bytes : List Byte) : (protectBeat bytes).received = some (protectBeat bytes) := if_pos rfl
@[simp] theorem carried_eq (bytes : List Byte) : carried bytes = bytes := by
  unfold carried; rw [protectBeat_received]; rfl

end Sys2Proof.Machine
end

