-- ==== Sys2Proof/Machine/Numerics.lean ====
section
/-!
DEFINITION. Number formats and exact arithmetic (R125, R143 to R162): values are exact numbers, rounded once where a rule says so.
-/
namespace Sys2Proof.Machine

/-- A binary floating-point format: its exponent and fraction widths (R143). -/
structure FpFmt where
  eb : Nat
  mb : Nat
  deriving DecidableEq, Repr

def fp32 : FpFmt := ⟨8, 23⟩
def fp16 : FpFmt := ⟨5, 10⟩
def bf16 : FpFmt := ⟨8, 7⟩

/-- The format of a floating-point TY (R143). -/
def fpOf (ty : BitVec 4) : FpFmt := if ty = 5#4 then fp16 else if ty = 4#4 then bf16 else fp32

/-- The bias of a format. -/
def FpFmt.bias (f : FpFmt) : Nat := 2 ^ (f.eb - 1) - 1
/-- The least exponent of a normal number. -/
def FpFmt.emin (f : FpFmt) : Int := 1 - (f.bias : Int)
/-- The width of a format in bits. -/
def FpFmt.width (f : FpFmt) : Nat := 1 + f.eb + f.mb
/-- The sign bit of a format. -/
def FpFmt.signBit (f : FpFmt) (neg : Bool) : Nat := if neg then 2 ^ (f.eb + f.mb) else 0
/-- The bits of an infinity. -/
def FpFmt.infBits (f : FpFmt) (neg : Bool) : Nat := f.signBit neg + (2 ^ f.eb - 1) * 2 ^ f.mb
/-- The bits of the largest finite value. -/
def FpFmt.maxBits (f : FpFmt) (neg : Bool) : Nat := f.infBits neg - 1
/-- The canonical NaN of a format (R144). -/
def FpFmt.nan (f : FpFmt) : Nat := (2 ^ f.eb - 1) * 2 ^ f.mb + 2 ^ (f.mb - 1)

/-- A value: NaN, an infinity, or the exact number (-1)^neg * m * 2^e. -/
inductive Fp where
  | nan
  | inf (neg : Bool)
  | num (neg : Bool) (m : Nat) (e : Int)
  deriving DecidableEq, Repr

/-- The value of a pattern (R144): subnormals are kept, every NaN is a quiet NaN. -/
def Fp.ofBits (f : FpFmt) (x : Nat) : Fp :=
  let frac := x % 2 ^ f.mb
  let ex := x / 2 ^ f.mb % 2 ^ f.eb
  let neg := x / 2 ^ (f.eb + f.mb) % 2 = 1
  if ex = 2 ^ f.eb - 1 then (if frac = 0 then .inf neg else .nan)
  else if ex = 0 then .num neg frac (f.emin - f.mb)
  else .num neg (frac + 2 ^ f.mb) ((ex : Int) - f.bias - f.mb)

/-- The value of an integer. -/
def Fp.ofInt (x : Int) : Fp := .num (decide (x < 0)) x.natAbs 0

/-- Whether a value is zero. -/
def Fp.isZero : Fp → Bool
  | .num _ 0 _ => true
  | _ => false

/-- The sign of a value. -/
def Fp.neg : Fp → Bool
  | .num n _ _ => n
  | .inf n => n
  | .nan => false

/-- The signed integer of a sign and a magnitude. -/
def signed (neg : Bool) (m : Nat) : Int := if neg then -(m : Int) else m

/-- num / 2^sh rounded to an integer by RND; `draw` holds the stochastic bits (R148, R152). -/
def roundInt (rnd : Nat) (draw : Nat) (num : Int) (sh : Nat) : Int :=
  let d : Int := 2 ^ sh
  let q := num / d
  let r := (num % d).toNat
  match rnd with
  | 0 => if 2 ^ sh < 2 * r ∨ (2 ^ sh = 2 * r ∧ q % 2 = 1) then q + 1 else q
  | 1 => if num < 0 ∧ r ≠ 0 then q + 1 else q
  | 2 => q
  | 3 => if r ≠ 0 then q + 1 else q
  | _ => if draw % 2 ^ 24 < r * 2 ^ 24 / 2 ^ sh then q + 1 else q

/-- num * 2^e rounded to an integer by RND. -/
def roundScaled (rnd draw : Nat) (num : Int) (e : Int) : Int :=
  if 0 ≤ e then num * 2 ^ e.toNat else roundInt rnd draw num (-e).toNat

/-- An exact number m * 2^e of a sign, rounded to a format by RND (R125, R148, R149). DESIGN CHOICE (log entry 106): a zero, and what rounds to zero, keeps the
sign also in the conversions of the queues, where R147 to R149 speak of reals. -/
def roundFp (f : FpFmt) (rnd draw : Nat) (neg : Bool) (m : Nat) (e : Int) : Nat :=
  if m = 0 then f.signBit neg
  else
    let top : Int := e + Nat.log2 m
    let q : Int := max top f.emin - f.mb
    let r := (roundScaled rnd draw (signed neg m) (e - q)).natAbs
    let bits := (q - (f.emin - f.mb)).toNat * 2 ^ f.mb + r
    if (2 ^ f.eb - 1) * 2 ^ f.mb ≤ bits then
      (match rnd with
       | 0 => f.infBits neg
       | 1 => f.maxBits neg
       | 2 => if neg then f.infBits neg else f.maxBits neg
       | 3 => if neg then f.maxBits neg else f.infBits neg
       | _ => f.maxBits neg)
    else f.signBit neg + bits

/-- A value rounded to a format (R148, R149). -/
def Fp.toBits (f : FpFmt) (rnd draw : Nat) : Fp → Nat
  | .nan => f.nan
  | .inf n => f.infBits n
  | .num n m e => roundFp f rnd draw n m e

/-- The sum of two exact numbers, with the sign of an exact zero by IEEE 754-2019. -/
def addExact (rnd : Nat) (n1 : Bool) (m1 : Nat) (e1 : Int) (n2 : Bool) (m2 : Nat) (e2 : Int) : Fp :=
  let e := min e1 e2
  let v := signed n1 m1 * 2 ^ (e1 - e).toNat + signed n2 m2 * 2 ^ (e2 - e).toNat
  if v = 0 then .num (if m1 = 0 ∧ m2 = 0 ∧ n1 = n2 then n1 else rnd = 2) 0 e
  else .num (decide (v < 0)) v.natAbs e

/-- The sum of two values before rounding. -/
def Fp.add (rnd : Nat) : Fp → Fp → Fp
  | .nan, _ => .nan
  | _, .nan => .nan
  | .inf a, .inf b => if a = b then .inf a else .nan
  | .inf a, _ => .inf a
  | _, .inf b => .inf b
  | .num n1 m1 e1, .num n2 m2 e2 => addExact rnd n1 m1 e1 n2 m2 e2

/-- The product of two values before rounding. -/
def Fp.mul : Fp → Fp → Fp
  | .nan, _ => .nan
  | _, .nan => .nan
  | .inf a, .inf b => .inf (a != b)
  | .inf a, .num b m _ => if m = 0 then .nan else .inf (a != b)
  | .num a m _, .inf b => if m = 0 then .nan else .inf (a != b)
  | .num a m e, .num b k d => .num (a != b) (m * k) (e + d)

/-- A value with the other sign. -/
def Fp.negate : Fp → Fp
  | .nan => .nan
  | .inf a => .inf (!a)
  | .num a m e => .num (!a) m e

/-- A quotient of two exact numbers, with a low bit for what the division leaves. -/
def divExact (n1 : Bool) (m1 : Nat) (e1 : Int) (n2 : Bool) (m2 : Nat) (e2 : Int) : Fp :=
  let k := 64 + Nat.log2 m2
  let q := m1 * 2 ^ k / m2
  .num (n1 != n2) (2 * q + if q * m2 = m1 * 2 ^ k then 0 else 1) (e1 - e2 - k - 1)

/-- The quotient of two values before rounding. -/
def Fp.div : Fp → Fp → Fp
  | .nan, _ => .nan
  | _, .nan => .nan
  | .inf _, .inf _ => .nan
  | .inf a, .num b _ _ => .inf (a != b)
  | .num a _ e, .inf b => .num (a != b) 0 e
  | .num a m e, .num b k d =>
    if k = 0 then (if m = 0 then .nan else .inf (a != b))
    else divExact a m e b k d

/-- Bits of an integer square root, from bit i down. -/
def isqrtFrom (n : Nat) : Nat → Nat → Nat
  | 0, r => if (r + 1) * (r + 1) ≤ n then r + 1 else r
  | i + 1, r => isqrtFrom n i (let t := r + 2 ^ (i + 1); if t * t ≤ n then t else r)

/-- The integer square root. -/
def isqrt (n : Nat) : Nat := isqrtFrom n (Nat.log2 n / 2 + 1) 0

/-- The square root of a value before rounding: the root of -0 is -0 (R103). -/
def Fp.sqrt : Fp → Fp
  | .nan => .nan
  | .inf n => if n then .nan else .inf false
  | .num n m e =>
    if m = 0 then .num n 0 e
    else if n then .nan
    else
      let k : Nat := if e % 2 = 0 then 80 else 81
      let x := m * 2 ^ k
      let r := isqrt x
      .num false (2 * r + if r * r = x then 0 else 1) ((e - k) / 2 - 1)

/-- Whether one value is less than another; false with a NaN; -0 equals +0. -/
def Fp.lt : Fp → Fp → Bool
  | .nan, _ => false
  | _, .nan => false
  | .inf a, .inf b => a && !b
  | .inf a, _ => a
  | _, .inf b => !b
  | .num n1 m1 e1, .num n2 m2 e2 =>
    let e := min e1 e2
    decide (signed n1 m1 * 2 ^ (e1 - e).toNat < signed n2 m2 * 2 ^ (e2 - e).toNat)
/-- Whether two values are equal; false with a NaN; -0 equals +0. -/
def Fp.eq (a b : Fp) : Bool := a ≠ .nan && b ≠ .nan && !Fp.lt a b && !Fp.lt b a

/-- FMIN and FMAX on patterns of a format (R103, R126): -0 is less than +0; with one NaN the other source's bits; with two the
canonical NaN. -/
def fpMinMax (f : FpFmt) (isMax : Bool) (x y : Nat) : Nat :=
  match Fp.ofBits f x, Fp.ofBits f y with
  | .nan, .nan => f.nan
  | .nan, _ => y
  | _, .nan => x
  | a, b =>
    let less := Fp.lt a b || (Fp.eq a b && a.neg && !b.neg)
    if less != isMax then x else y

/-- The conditions of FCMP (R103): 0 equal, 1 less, 2 less or equal, 3 unordered. -/
def fpCompare (f : FpFmt) (cond : Nat) (x y : Nat) : Bool :=
  let a := Fp.ofBits f x
  let b := Fp.ofBits f y
  match cond with
  | 0 => Fp.eq a b
  | 1 => Fp.lt a b
  | 2 => Fp.lt a b || Fp.eq a b
  | _ => decide (a = .nan) || decide (b = .nan)

def fpAdd (f : FpFmt) (rnd x y : Nat) : Nat := (Fp.add rnd (.ofBits f x) (.ofBits f y)).toBits f rnd 0
def fpSub (f : FpFmt) (rnd x y : Nat) : Nat := (Fp.add rnd (.ofBits f x) (Fp.negate (.ofBits f y))).toBits f rnd 0
def fpMul (f : FpFmt) (rnd x y : Nat) : Nat := (Fp.mul (.ofBits f x) (.ofBits f y)).toBits f rnd 0
def fpDiv (f : FpFmt) (rnd x y : Nat) : Nat := (Fp.div (.ofBits f x) (.ofBits f y)).toBits f rnd 0
def fpSqrt (f : FpFmt) (rnd x : Nat) : Nat := (Fp.sqrt (.ofBits f x)).toBits f rnd 0
/-- One of the forms of a fused multiply-add, rounded once (R103, R126): the product or the addend with its sign inverted. -/
def fpFma (f : FpFmt) (rnd : Nat) (negProd negAdd : Bool) (x y z : Nat) : Nat :=
  let p := Fp.mul (.ofBits f x) (.ofBits f y)
  let c := Fp.ofBits f z
  (Fp.add rnd (if negProd then p.negate else p) (if negAdd then c.negate else c)).toBits f rnd 0
/-- fp32_add_rne of R155. -/
def fp32AddRne (x y : Nat) : Nat := fpAdd fp32 0 x y

/-- An integer clamped to a range. -/
def clampInt (x lo hi : Int) : Int := if x < lo then lo else if hi < x then hi else x

/-- A value rounded to an integer and clamped: NaN gives 0 (R104, R128, R149). -/
def Fp.toInt (rnd draw : Nat) (lo hi : Int) : Fp → Int
  | .nan => 0
  | .inf n => if n then lo else hi
  | .num n m e => clampInt (roundScaled rnd draw (signed n m) e) lo hi

/-- An integer as a two's complement pattern of w bits. -/
def intBits (w : Nat) (x : Int) : Nat := (x % 2 ^ w).toNat
/-- The signed integer of a pattern of w bits. -/
def signedOf (w x : Nat) : Int := if 2 * (x % 2 ^ w) < 2 ^ w then ((x % 2 ^ w : Nat) : Int) else (x % 2 ^ w : Nat) - 2 ^ w

/-! Estimates (R135). -/

/-- An exact or sticky number rounded as the estimates are: to nearest even in BF16 and FP16; under FP32 toward zero to at most 12
significant bits, and on overflow the value that R135 states. DESIGN CHOICE (log entry 105): that value has 13 significant bits and stands as it is given. -/
def estimateRound (f : FpFmt) (neg : Bool) (m : Nat) (e : Int) : Nat :=
  if f ≠ fp32 then roundFp f 0 0 neg m e
  else if m = 0 then f.signBit neg
  else if 128 ≤ e + Nat.log2 m then f.signBit neg + 0x7F7FF800
  else
    let sh := Nat.log2 m - 11
    roundFp f 1 0 neg (m / 2 ^ sh) (e + sh)

/-- The reciprocal (R135). -/
def estimateRcp (f : FpFmt) (x : Nat) : Nat :=
  match Fp.ofBits f x with
  | .nan => f.nan
  | .inf n => f.signBit n
  | .num n m e =>
    if m = 0 then f.infBits n
    else match divExact false 1 0 n m e with
      | .num s k d => estimateRound f s k d
      | _ => f.nan

/-- The reciprocal square root (R135). -/
def estimateRsq (f : FpFmt) (x : Nat) : Nat :=
  match Fp.ofBits f x with
  | .nan => f.nan
  | .inf n => if n then f.nan else 0
  | .num n m e =>
    if m = 0 then f.infBits n
    else if n then f.nan
    else
      let m' := if e % 2 = 0 then m else 2 * m
      let e' := if e % 2 = 0 then e else e - 1
      let r := isqrt (2 ^ 200 / m')
      estimateRound f false (2 * r + if r * r * m' = 2 ^ 200 then 0 else 1) (-(e' / 2) - 101)

/-- The product of the powers 2^(2^-i) over the set bits i of a fraction of n bits, in fixed point with 256 fraction bits: `root`
is the current power. -/
def exp2Bits (frac : Nat) : Nat → Nat → Nat → Nat
  | 0, _, acc => acc
  | n + 1, root, acc =>
    let root' := isqrt (root * 2 ^ 256)
    exp2Bits frac n root' (if frac / 2 ^ n % 2 = 1 then acc * root' / 2 ^ 256 else acc)

/-- The power of two (R135); between integers the exact value is irrational, so the low bit of the computed number stands for what
follows it. -/
def estimateExp (f : FpFmt) (x : Nat) : Nat :=
  match Fp.ofBits f x with
  | .nan => f.nan
  | .inf n => if n then 0 else f.infBits false
  | .num n m e =>
    if m = 0 then estimateRound f false 1 0
    else if 10 ≤ e + Nat.log2 m then (if n then 0 else if f = fp32 then 0x7F7FF800 else f.infBits false)
    else
      let k := (-e).toNat
      let v := if 0 ≤ e then signed n m * 2 ^ e.toNat else signed n m
      let q := v / 2 ^ k
      let frac := (v % 2 ^ k).toNat
      if frac = 0 then estimateRound f false 1 q
      else estimateRound f false (2 * exp2Bits frac k (2 * 2 ^ 256) (2 ^ 256) + 1) (q - 257)

/-! Stochastic-rounding bits (R151). -/

/-- sr_bits of R151. -/
def srBits (tid : W32) (w : BitVec 16) (row col : BitVec 24) : Word :=
  let ctr : Word := w ++ row ++ col
  let x := ctr ^^^ (tid.setWidth 64 * 0x9E3779B97F4A7C15#64)
  let x := (x ^^^ (x >>> 30)) * 0xBF58476D1CE4E5B9#64
  let x := (x ^^^ (x >>> 27)) * 0x94D049BB133111EB#64
  x ^^^ (x >>> 31)

/-! Element images and conversion on the queues (R145 to R150, R161, R162). -/

/-- Whether a TY is an SE format. -/
def isSe (ty : BitVec 4) : Bool := 8 ≤ ty.toNat && ty.toNat ≤ 10
/-- The magnitude width of an SE format (R145). -/
def seK (ty : BitVec 4) : Nat := match ty.toNat with | 8 => 2 | 9 => 4 | _ => 7
/-- The bits of a block of an SE format (R145). -/
def seBlock (ty : BitVec 4) : Nat := 16 * (seK ty + 1) + 16

/-- The sixteen values of an SE block (R145, R146). -/
def seValues (ty : BitVec 4) (blk : Nat) : List Fp :=
  let k := seK ty
  let sig := blk / 2 ^ (16 * (k + 1))
  let ex := blk / 2 ^ (16 * (k + 1) + 8) % 256
  (List.range 16).map fun i =>
    if ex = 255 then .nan
    else
      let el := blk / 2 ^ (i * (k + 1)) % 2 ^ (k + 1)
      let m := el % 2 ^ k
      let σ := sig / 2 ^ (2 * (i / 4)) % 4
      .num (m ≠ 0 && el / 2 ^ k = 1) m ((ex : Int) - 127 - σ - (k - 1))

/-- The values of the first n elements of an image in a format; SE elements come in whole blocks (R161). -/
def imageValues (ty : BitVec 4) (img : Nat) (n : Nat) : List Fp :=
  if isSe ty then
    ((List.range ((n + 15) / 16)).flatMap fun b => seValues ty (img / 2 ^ (seBlock ty * b) % 2 ^ seBlock ty)).take n
  else
    let w := tyWidth ty
    (List.range n).map fun i =>
      let x := img / 2 ^ (w * i) % 2 ^ w
      if isFpTy ty then .ofBits (fpOf ty) x else .ofInt (signedOf w x)

/-- floor(log2 |x|) of a value: 128 for an infinity, none for 0 (R150). -/
def Fp.exponent : Fp → Option Int
  | .num _ m e => if m = 0 then none else some (e + Nat.log2 m)
  | _ => some 128

/-- The greater of two optional exponents. -/
def maxExp : Option Int → Option Int → Option Int
  | none, b => b
  | a, none => a
  | some a, some b => some (max a b)

/-- Sixteen values converted into an SE block (R150); `draw i` gives the stochastic bits of element i. -/
def seEncode (ty : BitVec 4) (rnd : Nat) (draw : Nat → Nat) (xs : List Fp) : Nat :=
  let k := seK ty
  if xs.any (· == .nan) then 255 * 2 ^ (16 * (k + 1) + 8)
  else if xs.all Fp.isZero then 0
  else
    let ex := (clampInt ((xs.foldl (fun a x => maxExp a x.exponent) none).getD (-127) + 127) 0 254)
    let σ (q : Nat) : Nat :=
      match ((xs.drop (4 * q)).take 4).foldl (fun a x => maxExp a x.exponent) none with
      | none => 3
      | some t => (clampInt (ex - 127 - t) 0 3).toNat
    let elem (i : Nat) : Nat :=
      match xs.getD i (.num false 0 0) with
      | .nan => 0
      | .inf n => (if n then 2 ^ k else 0) + (2 ^ k - 1)
      | .num n m e =>
        let r := roundScaled rnd (draw i) (signed n m) (e + 127 + (Int.ofNat (σ (i / 4))) + (Int.ofNat k - 1) - ex)
        (if r < 0 then 2 ^ k else 0) + min r.natAbs (2 ^ k - 1)
    let els := (List.range 16).foldl (fun a i => a + elem i * 2 ^ (i * (k + 1))) 0
    let sigs := (List.range 4).foldl (fun a q => a + σ q * 2 ^ (2 * q)) 0
    els + sigs * 2 ^ (16 * (k + 1)) + ex.toNat * 2 ^ (16 * (k + 1) + 8)

/-- The range of an integer type (R121). -/
def intLo (w : Nat) : Int := -(2 ^ (w - 1))
def intHi (w : Nat) : Int := 2 ^ (w - 1) - 1

/-- Values converted to an image of a format (R149, R150). A partial last SE block is filled with zeros. -/
def encodeImage (ty : BitVec 4) (rnd : Nat) (draw : Nat → Nat) (xs : List Fp) : Nat :=
  if isSe ty then
    (List.range ((xs.length + 15) / 16)).foldl (fun a b =>
      let blk := (xs.drop (16 * b)).take 16
      a + seEncode ty rnd (fun i => draw (16 * b + i)) (blk ++ List.replicate (16 - blk.length) (.num false 0 0)) *
        2 ^ (seBlock ty * b)) 0
  else
    let w := tyWidth ty
    (List.range xs.length).foldl (fun a i =>
      let x := xs.getD i .nan
      let bits := if isFpTy ty then x.toBits (fpOf ty) rnd (draw i)
        else intBits w (x.toInt rnd (draw i) (intLo w) (intHi w))
      a + bits * 2 ^ (w * i)) 0

/-- The entry capacity of a format (R161). -/
def capacity (ty : BitVec 4) : Nat :=
  match ty.toNat with
  | 8 => 256
  | 9 => 160
  | 10 => 112
  | _ => 1024 / tyWidth ty

/-- The sink and source formats and RND of a queue binding (R78, R160). -/
def qbSink (qb : Word) : BitVec 4 := qb.extractLsb' 8 4
def qbSource (qb : Word) : BitVec 4 := qb.extractLsb' 4 4
def qbRnd (qb : Word) : BitVec 3 := qb.extractLsb' 0 3
def qbTid (qb : Word) : W32 := qb.extractLsb' 32 32

/-- Whether a format is one of those of the queues (R160). -/
def queueFormat (ty : BitVec 4) : Bool := tyIn ty tyQueue

/-- An entry converted under a binding, with the ordinal its claim took (R162); an entry whose formats are equal passes bit for
bit. -/
def convertEntry (qb : Word) (ordinal : BitVec 40) (src : BitVec 4) (n : Nat) (img : Nat) : Nat :=
  if src = qbSink qb then img
  else encodeImage (qbSink qb) (qbRnd qb).toNat
    (fun i => (srBits (qbTid qb) (ordinal.extractLsb' 24 16) (ordinal.extractLsb' 0 24) (BitVec.ofNat 24 i)).toNat)
    (imageValues src img n)

/-! The matrix sums (R155, R156, R158). -/

/-- The exponent of a nonzero finite product. -/
def productExp (p : Fp) : Option Int := if p.isZero then none else p.exponent

/-- group_sum of R155 with alignment F, as an FP32 pattern. -/
def groupSum (al : Nat) (ps : List Fp) : Nat :=
  if ps.any (· == .nan) || (ps.any (· == .inf false) && ps.any (· == .inf true)) then fp32.nan
  else if ps.any (· == .inf false) then fp32.infBits false
  else if ps.any (· == .inf true) then fp32.infBits true
  else
    match ps.foldl (fun a p => maxExp a (productExp p)) none with
    | none => 0
    | some e =>
      let u : Int := e - al + 2
      let t := ps.foldl (fun a p => match p with
        | .num n m d => a + roundScaled 1 0 (signed n m) (d - u)
        | _ => a) (0 : Int)
      if t = 0 then 0 else roundFp fp32 0 0 (decide (t < 0)) t.natAbs u

/-- Pieces of a list of a fixed length; `fuel` bounds their number. -/
def chunks {α : Type} (n : Nat) : Nat → List α → List (List α)
  | 0, _ => []
  | k + 1, l => if l.isEmpty then [] else l.take n :: chunks n k (l.drop n)

/-- combine under NP1 and NP2 (R155). -/
def combineFp (g al : Nat) (acc : Nat) (ps : List Fp) : Nat :=
  (chunks g ps.length ps).foldl (fun a s => fp32AddRne a (groupSum al s)) acc

/-- combine under NP3 (R156). -/
def combineInt (acc : Int) (ps : List Int) : Int :=
  (chunks 64 ps.length ps).foldl (fun a s => clampInt (a + s.foldl (· + ·) 0) (intLo 32) (intHi 32)) acc

/-- One combining step that profile 0 allows (R158) on the terms left: a free pair under a binary32 addition in a free rounding
direction, or a free set of terms, at least a pair, under an aligned sum with F of 48 or more. `draw` gives the free choices. -/
def combineStep (draw : Nat → Nat) (ts : List Fp) : List Fp :=
  let rot (n : Nat) (l : List Fp) : List Fp := l.drop (n % l.length) ++ l.take (n % l.length)
  match rot (draw 0) ts with
  | [] => []
  | a :: r1 => match rot (draw 1) r1 with
    | [] => [a]
    | b :: r2 =>
      if draw 2 % 2 = 0 then
        let rnd := draw 3 % 4
        .ofBits fp32 ((Fp.add rnd a b).toBits fp32 rnd 0) :: r2
      else
        let pick := r2.zipIdx.map fun x => (x.1, decide (draw (5 + x.2) % 2 = 1))
        .ofBits fp32 (groupSum (48 + draw 4) (a :: b :: (pick.filter (·.2)).map (·.1))) :: (pick.filter fun x => !x.2).map (·.1)

/-- An evaluation that profile 0 allows: combining steps until one term is left (R158). -/
def combineSteps (draw : Nat → Nat → Nat) : Nat → List Fp → List Fp
  | 0, ts => ts
  | n + 1, ts => match ts with
    | _ :: _ :: _ => combineSteps draw n (combineStep (draw n) ts)
    | _ => ts

/-- combine under profile 0 (R158): a free evaluation of the products and the accumulator, with the special values of R155. -/
def combineFree (draw : Nat → Nat → Nat) (acc : Nat) (ps : List Fp) : Nat :=
  match combineSteps draw (ps.length + 1) (.ofBits fp32 acc :: ps) with
  | x :: _ => x.toBits fp32 0 0
  | [] => acc

end Sys2Proof.Machine
end

