-- ==== Sys2Proof/Machine/Operands.lean ====
section
/-!
DEFINITION. Operand forms: which registers an operation names as sources and destinations, how each name reads (R64, R65), how names
step (R63), and when results land.
-/
namespace Sys2Proof
namespace Machine

/-- A source field of an operation: the operand space it is read in, its name, and its EP bit. -/
structure SourceUse where
  space : SlotClass
  name : OpName
  ep : Bool
  deriving DecidableEq, Repr

/-- When a result lands: after a fixed latency; after a fixed latency when the handle is SPAD and otherwise with variable latency;
with variable latency; or never, where an operation brings no result. -/
inductive Latency where
  | fixed (n : Nat)
  | handle (n : Nat) (h : BitVec 4)
  | variable
  | none
  deriving DecidableEq, Repr

/-- The destination that a V-slot D field names: v0-v63 or o0-o7 (R64). -/
def vectorDest (n : OpName) : Dest := if n.toNat < 64 then .v n.toNat else .o (n.toNat - 64)

end Machine

/-- A name stepped by n issues; a name outside 0x00 to 0x3F does not step, and its word is illegal (R63). -/
def stepName (n : Nat) (x : OpName) : OpName := if x.toNat < 64 then BitVec.ofNat 8 ((x.toNat + n) % 64) else x

/-- Format R stepped: the fields that DSTEP selects (R63). -/
def FmtR.stepped (f : FmtR) (n : Nat) : FmtR :=
  { f with d := if f.dstep = 0#2 then f.d else stepName n f.d
           a := if 2 ≤ f.dstep.toNat then stepName n f.a else f.a
           b := if f.dstep = 3#2 then stepName n f.b else f.b }
/-- Format I stepped (R63). -/
def FmtI.stepped (f : FmtI) (n : Nat) : FmtI :=
  { f with d := if f.dstep = 0#2 then f.d else stepName n f.d
           a := if 2 ≤ f.dstep.toNat then stepName n f.a else f.a }
/-- Format X stepped: D under DSTEP 0b01 (R63). -/
def FmtX.stepped (f : FmtX) (n : Nat) : FmtX :=
  { f with d := if f.dstep = 1#2 then stepName n f.d else f.d }

namespace Machine

/-- The source fields of an operation, each with its operand space and EP bit (R54, R58 to R60, R64). VDUP reads its partner's sources (R140). -/
def sources (i : Instr) : List SourceUse :=
  match i with
  | .bundleIssue _ => []
  | .idleCycle _ => []
  | .instructionFetch _ => []
  | .fixedLatencyLanding _ => []
  | .variableLatencyArrival _ => []
  | .lockstepStep _ => []
  | .add f => [⟨.s, f.a, f.ep.getLsbD 2⟩, ⟨.s, f.b, f.ep.getLsbD 1⟩]
  | .sub f => [⟨.s, f.a, f.ep.getLsbD 2⟩, ⟨.s, f.b, f.ep.getLsbD 1⟩]
  | .mul f => [⟨.s, f.a, f.ep.getLsbD 2⟩, ⟨.s, f.b, f.ep.getLsbD 1⟩]
  | .mulh f => [⟨.s, f.a, f.ep.getLsbD 2⟩, ⟨.s, f.b, f.ep.getLsbD 1⟩]
  | .div f => [⟨.s, f.a, f.ep.getLsbD 2⟩, ⟨.s, f.b, f.ep.getLsbD 1⟩]
  | .rem f => [⟨.s, f.a, f.ep.getLsbD 2⟩, ⟨.s, f.b, f.ep.getLsbD 1⟩]
  | .and f => [⟨.s, f.a, f.ep.getLsbD 2⟩, ⟨.s, f.b, f.ep.getLsbD 1⟩]
  | .or f => [⟨.s, f.a, f.ep.getLsbD 2⟩, ⟨.s, f.b, f.ep.getLsbD 1⟩]
  | .xor f => [⟨.s, f.a, f.ep.getLsbD 2⟩, ⟨.s, f.b, f.ep.getLsbD 1⟩]
  | .shl f => [⟨.s, f.a, f.ep.getLsbD 2⟩, ⟨.s, f.b, f.ep.getLsbD 1⟩]
  | .shr f => [⟨.s, f.a, f.ep.getLsbD 2⟩, ⟨.s, f.b, f.ep.getLsbD 1⟩]
  | .sar f => [⟨.s, f.a, f.ep.getLsbD 2⟩, ⟨.s, f.b, f.ep.getLsbD 1⟩]
  | .min f => [⟨.s, f.a, f.ep.getLsbD 2⟩, ⟨.s, f.b, f.ep.getLsbD 1⟩]
  | .max f => [⟨.s, f.a, f.ep.getLsbD 2⟩, ⟨.s, f.b, f.ep.getLsbD 1⟩]
  | .clz f => [⟨.s, f.a, f.ep.getLsbD 2⟩]
  | .addi f => [⟨.s, f.a, f.ep.getLsbD 2⟩]
  | .andi f => [⟨.s, f.a, f.ep.getLsbD 2⟩]
  | .ori f => [⟨.s, f.a, f.ep.getLsbD 2⟩]
  | .xori f => [⟨.s, f.a, f.ep.getLsbD 2⟩]
  | .shli f => [⟨.s, f.a, f.ep.getLsbD 2⟩]
  | .shri f => [⟨.s, f.a, f.ep.getLsbD 2⟩]
  | .sari f => [⟨.s, f.a, f.ep.getLsbD 2⟩]
  | .movi _ => []
  | .moviIns f => [⟨.s, f.a, f.ep.getLsbD 2⟩]
  | .cmp f => [⟨.s, f.a, f.ep.getLsbD 2⟩, ⟨.s, f.b, f.ep.getLsbD 1⟩]
  | .cmpi f => [⟨.s, f.a, f.ep.getLsbD 2⟩]
  | .sel f => [⟨.s, f.a, f.ep.getLsbD 2⟩, ⟨.s, f.b, f.ep.getLsbD 1⟩, ⟨.s, f.c, f.ep.getLsbD 0⟩]
  | .popc f => [⟨.s, f.a, f.ep.getLsbD 2⟩]
  | .lea f => [⟨.s, f.a, f.ep.getLsbD 2⟩, ⟨.s, f.b, f.ep.getLsbD 1⟩]
  | .fadd f => [⟨.s, f.a, f.ep.getLsbD 2⟩, ⟨.s, f.b, f.ep.getLsbD 1⟩]
  | .fsub f => [⟨.s, f.a, f.ep.getLsbD 2⟩, ⟨.s, f.b, f.ep.getLsbD 1⟩]
  | .fmul f => [⟨.s, f.a, f.ep.getLsbD 2⟩, ⟨.s, f.b, f.ep.getLsbD 1⟩]
  | .fma f => [⟨.s, f.a, f.ep.getLsbD 2⟩, ⟨.s, f.b, f.ep.getLsbD 1⟩, ⟨.s, f.c, f.ep.getLsbD 0⟩]
  | .fdiv f => [⟨.s, f.a, f.ep.getLsbD 2⟩, ⟨.s, f.b, f.ep.getLsbD 1⟩]
  | .fsqrt f => [⟨.s, f.a, f.ep.getLsbD 2⟩]
  | .fmin f => [⟨.s, f.a, f.ep.getLsbD 2⟩, ⟨.s, f.b, f.ep.getLsbD 1⟩]
  | .fmax f => [⟨.s, f.a, f.ep.getLsbD 2⟩, ⟨.s, f.b, f.ep.getLsbD 1⟩]
  | .fcmp f => [⟨.s, f.a, f.ep.getLsbD 2⟩, ⟨.s, f.b, f.ep.getLsbD 1⟩]
  | .fcvt f => [⟨.s, f.a, f.ep.getLsbD 2⟩]
  | .fsgn f => [⟨.s, f.a, f.ep.getLsbD 2⟩, ⟨.s, f.b, f.ep.getLsbD 1⟩]
  | .ld f => [⟨.s, f.b, f.ep.getLsbD 1⟩, ⟨.s, f.c, f.ep.getLsbD 0⟩]
  | .st f => [⟨.s, f.d, f.ep.getLsbD 2⟩, ⟨.s, f.b, f.ep.getLsbD 1⟩, ⟨.s, f.c, f.ep.getLsbD 0⟩]
  | .amo f => (if f.aop = 9#4 then [⟨.s, f.d, f.ep.getLsbD 2⟩] else []) ++ [⟨.s, f.b, f.ep.getLsbD 1⟩, ⟨.s, f.c, f.ep.getLsbD 0⟩]
  | .grant f => [⟨.s, f.a, f.ep.getLsbD 2⟩, ⟨.s, f.b, f.ep.getLsbD 1⟩, ⟨.s, f.c, f.ep.getLsbD 0⟩]
  | .revoke _ => []
  | .permld f => [⟨.s, f.a, f.ep.getLsbD 2⟩, ⟨.s, f.b, f.ep.getLsbD 1⟩]
  | .cmpt f => [⟨.s, f.a, f.ep.getLsbD 2⟩, ⟨.s, f.b, f.ep.getLsbD 1⟩]
  | .cmptV f => [⟨.v, f.a, f.ep.getLsbD 2⟩, ⟨.v, f.b, f.ep.getLsbD 1⟩]
  | .fork f => [⟨.s, f.d, false⟩, ⟨.s, f.a, f.ep.getLsbD 2⟩, ⟨.s, f.b, f.ep.getLsbD 1⟩, ⟨.s, f.c, f.ep.getLsbD 0⟩]
  | .join _ => []
  | .pqpush f => [⟨.s, f.a, f.ep.getLsbD 2⟩, ⟨.s, f.b, f.ep.getLsbD 1⟩]
  | .pqpop _ => []
  | .barm f => [⟨.s, f.a, f.ep.getLsbD 2⟩]
  | .barrive f => [⟨.s, f.a, f.ep.getLsbD 2⟩]
  | .bwait _ => []
  | .gbarrive _ => []
  | .gbwait _ => []
  | .gangBarrierRelease _ _ => []
  | .qcfg f => [⟨.s, f.a, f.ep.getLsbD 2⟩]
  | .drainR _ => []
  | .drainA _ => []
  | .drainBoth _ => []
  | .trap f => [⟨.s, f.a, f.ep.getLsbD 2⟩]
  | .resume _ => []
  | .resumeServiceCore _ => []
  | .resumeEnd f => [⟨.s, f.a, f.ep.getLsbD 2⟩]
  | .rdrec f => [⟨.s, f.a, f.ep.getLsbD 2⟩]
  | .wrrec f => [⟨.s, f.a, f.ep.getLsbD 2⟩, ⟨.s, f.b, f.ep.getLsbD 1⟩]
  | .vtsel f => [⟨.s, f.a, f.ep.getLsbD 2⟩]
  | .srmovRead _ => []
  | .srmovWrite f => [⟨.s, f.a, f.ep.getLsbD 2⟩]
  | .cinv f => [⟨.s, f.a, f.ep.getLsbD 2⟩, ⟨.s, f.b, f.ep.getLsbD 1⟩]
  | .cflush f => [⟨.s, f.a, f.ep.getLsbD 2⟩, ⟨.s, f.b, f.ep.getLsbD 1⟩]
  | .waitt f => [⟨.s, f.a, f.ep.getLsbD 2⟩]
  | .waittRelease _ => []
  | .snap f => [⟨.s, f.a, f.ep.getLsbD 2⟩]
  | .step _ => []
  | .phase _ => []
  | .phaseOff _ => []
  | .wdecl f => [⟨.s, f.a, f.ep.getLsbD 2⟩, ⟨.s, f.b, f.ep.getLsbD 1⟩]
  | .enrd _ => []
  | .enrdIdle _ => []
  | .enclr _ => []
  | .yield _ => []
  | .halt _ => []
  | .br _ => []
  | .breq f => [⟨.b, f.a, f.ep.getLsbD 1⟩, ⟨.b, f.b, f.ep.getLsbD 0⟩]
  | .brne f => [⟨.b, f.a, f.ep.getLsbD 1⟩, ⟨.b, f.b, f.ep.getLsbD 0⟩]
  | .brlt f => [⟨.b, f.a, f.ep.getLsbD 1⟩, ⟨.b, f.b, f.ep.getLsbD 0⟩]
  | .brge f => [⟨.b, f.a, f.ep.getLsbD 1⟩, ⟨.b, f.b, f.ep.getLsbD 0⟩]
  | .brltu f => [⟨.b, f.a, f.ep.getLsbD 1⟩, ⟨.b, f.b, f.ep.getLsbD 0⟩]
  | .brgeu f => [⟨.b, f.a, f.ep.getLsbD 1⟩, ⟨.b, f.b, f.ep.getLsbD 0⟩]
  | .brall _ => []
  | .brnone _ => []
  | .call _ => []
  | .callRegister f => [⟨.b, f.a, f.ep.getLsbD 1⟩]
  | .ret f => [⟨.b, f.a, f.ep.getLsbD 1⟩]
  | .jr f => [⟨.b, f.a, f.ep.getLsbD 1⟩]
  | .loop f => [⟨.b, f.a, f.ep.getLsbD 2⟩]
  | .loopw f => [⟨.b, f.a, f.ep.getLsbD 2⟩, ⟨.b, f.b, f.ep.getLsbD 1⟩, ⟨.b, f.c, f.ep.getLsbD 0⟩]
  | .vadd f => [⟨.v, f.a, f.ep.getLsbD 2⟩, ⟨.v, f.b, f.ep.getLsbD 1⟩]
  | .vsub f => [⟨.v, f.a, f.ep.getLsbD 2⟩, ⟨.v, f.b, f.ep.getLsbD 1⟩]
  | .vmul f => [⟨.v, f.a, f.ep.getLsbD 2⟩, ⟨.v, f.b, f.ep.getLsbD 1⟩]
  | .vfma f => [⟨.v, f.a, f.ep.getLsbD 2⟩, ⟨.v, f.b, f.ep.getLsbD 1⟩, ⟨.v, f.c, f.ep.getLsbD 0⟩]
  | .vmin f => [⟨.v, f.a, f.ep.getLsbD 2⟩, ⟨.v, f.b, f.ep.getLsbD 1⟩]
  | .vmax f => [⟨.v, f.a, f.ep.getLsbD 2⟩, ⟨.v, f.b, f.ep.getLsbD 1⟩]
  | .vabs f => [⟨.v, f.a, f.ep.getLsbD 2⟩]
  | .vneg f => [⟨.v, f.a, f.ep.getLsbD 2⟩]
  | .vmulh f => [⟨.v, f.a, f.ep.getLsbD 2⟩, ⟨.v, f.b, f.ep.getLsbD 1⟩]
  | .vavg f => [⟨.v, f.a, f.ep.getLsbD 2⟩, ⟨.v, f.b, f.ep.getLsbD 1⟩]
  | .vshl f => [⟨.v, f.a, f.ep.getLsbD 2⟩, ⟨.v, f.b, f.ep.getLsbD 1⟩]
  | .vshr f => [⟨.v, f.a, f.ep.getLsbD 2⟩, ⟨.v, f.b, f.ep.getLsbD 1⟩]
  | .vsar f => [⟨.v, f.a, f.ep.getLsbD 2⟩, ⟨.v, f.b, f.ep.getLsbD 1⟩]
  | .vand f => [⟨.v, f.a, f.ep.getLsbD 2⟩, ⟨.v, f.b, f.ep.getLsbD 1⟩]
  | .vor f => [⟨.v, f.a, f.ep.getLsbD 2⟩, ⟨.v, f.b, f.ep.getLsbD 1⟩]
  | .vxor f => [⟨.v, f.a, f.ep.getLsbD 2⟩, ⟨.v, f.b, f.ep.getLsbD 1⟩]
  | .vcvt f => [⟨.v, f.a, f.ep.getLsbD 2⟩]
  | .vcmp f => [⟨.v, f.a, f.ep.getLsbD 2⟩, ⟨.v, f.b, f.ep.getLsbD 1⟩]
  | .vsel f => [⟨.v, f.a, f.ep.getLsbD 2⟩, ⟨.v, f.b, f.ep.getLsbD 1⟩]
  | .vshuf f => [⟨.v, f.a, f.ep.getLsbD 2⟩, ⟨.v, f.b, f.ep.getLsbD 1⟩, ⟨.v, f.c, f.ep.getLsbD 0⟩]
  | .vperm f => ⟨.v, f.a, f.ep.getLsbD 2⟩ :: (if f.var = 5#8 then [] else [⟨.v, f.b, f.ep.getLsbD 1⟩])
  | .vred f => [⟨.v, f.a, f.ep.getLsbD 2⟩]
  | .vclmul f => [⟨.v, f.a, f.ep.getLsbD 2⟩, ⟨.v, f.b, f.ep.getLsbD 1⟩]
  | .vclmulh f => [⟨.v, f.a, f.ep.getLsbD 2⟩, ⟨.v, f.b, f.ep.getLsbD 1⟩]
  | .vrcp f => [⟨.v, f.a, f.ep.getLsbD 2⟩]
  | .vrsq f => [⟨.v, f.a, f.ep.getLsbD 2⟩]
  | .vexp f => [⟨.v, f.a, f.ep.getLsbD 2⟩]
  | .vmov f => [⟨.v, f.a, f.ep.getLsbD 2⟩]
  | .vmovi _ => []
  | .vld f => [⟨.s, f.b, f.ep.getLsbD 1⟩]
  | .vst f => [⟨.v, f.d, f.ep.getLsbD 2⟩, ⟨.s, f.b, f.ep.getLsbD 1⟩]
  | .vgath f => [⟨.s, f.b, f.ep.getLsbD 1⟩, ⟨.v, f.c, f.ep.getLsbD 0⟩]
  | .vscat f => [⟨.v, f.d, f.ep.getLsbD 2⟩, ⟨.s, f.b, f.ep.getLsbD 1⟩, ⟨.v, f.c, f.ep.getLsbD 0⟩]
  | .vamo f => [⟨.v, f.d, f.ep.getLsbD 2⟩, ⟨.s, f.b, f.ep.getLsbD 1⟩, ⟨.v, f.c, f.ep.getLsbD 0⟩]
  | .qpush f => [⟨.v, f.a, f.ep.getLsbD 2⟩]
  | .qpop _ => []
  | .vdup _ => []
  | .mldw f => [⟨.m, f.b, f.ep.getLsbD 1⟩]
  | .mldwS f => [⟨.m, f.b, f.ep.getLsbD 1⟩]
  | .mma f => [⟨.m, f.b, f.ep.getLsbD 1⟩, ⟨.m, f.c, f.ep.getLsbD 0⟩]
  | .mmas f => [⟨.m, f.b, f.ep.getLsbD 1⟩, ⟨.m, f.c, f.ep.getLsbD 0⟩]
  | .mzero _ => []
  | .mfuse _ => []
  | .mdrain f => [⟨.m, f.b, f.ep.getLsbD 1⟩, ⟨.m, f.c, f.ep.getLsbD 0⟩]
  | .mdrainV f => [⟨.m, f.b, f.ep.getLsbD 1⟩, ⟨.m, f.c, f.ep.getLsbD 0⟩]
  | .sequencerOpStart _ => []
  | .mmaRowStep _ => []
  | .mdrainEntryStep _ => []
  | .queueClaimArrival _ => []
  | .cpy f => [⟨.c, f.doff, f.ep.getLsbD 2⟩, ⟨.c, f.soff, f.ep.getLsbD 1⟩, ⟨.c, f.len, f.ep.getLsbD 0⟩]
  | .cpy2 f => [⟨.c, f.doff, f.ep.getLsbD 2⟩, ⟨.c, f.soff, f.ep.getLsbD 1⟩, ⟨.c, f.len, f.ep.getLsbD 0⟩]
  | .cpy3 f => [⟨.c, f.doff, f.ep.getLsbD 2⟩, ⟨.c, f.soff, f.ep.getLsbD 1⟩, ⟨.c, f.len, f.ep.getLsbD 0⟩]
  | .cgath f => [⟨.c, f.doff, f.ep.getLsbD 2⟩, ⟨.c, f.soff, f.ep.getLsbD 1⟩, ⟨.c, f.len, f.ep.getLsbD 0⟩]
  | .cscat f => [⟨.c, f.doff, f.ep.getLsbD 2⟩, ⟨.c, f.soff, f.ep.getLsbD 1⟩, ⟨.c, f.len, f.ep.getLsbD 0⟩]
  | .cmcast f => [⟨.c, f.doff, f.ep.getLsbD 2⟩, ⟨.c, f.soff, f.ep.getLsbD 1⟩, ⟨.c, f.len, f.ep.getLsbD 0⟩]
  | .cfill f => [⟨.c, f.doff, f.ep.getLsbD 2⟩, ⟨.c, f.soff, f.ep.getLsbD 1⟩, ⟨.c, f.len, f.ep.getLsbD 0⟩]
  | .credI32 f => [⟨.c, f.doff, f.ep.getLsbD 2⟩, ⟨.c, f.soff, f.ep.getLsbD 1⟩, ⟨.c, f.len, f.ep.getLsbD 0⟩]
  | .credFp32 f => [⟨.c, f.doff, f.ep.getLsbD 2⟩, ⟨.c, f.soff, f.ep.getLsbD 1⟩, ⟨.c, f.len, f.ep.getLsbD 0⟩]
  | .credBf16 f => [⟨.c, f.doff, f.ep.getLsbD 2⟩, ⟨.c, f.soff, f.ep.getLsbD 1⟩, ⟨.c, f.len, f.ep.getLsbD 0⟩]
  | .cpyAt f => [⟨.c, f.doff, f.ep.getLsbD 2⟩, ⟨.c, f.soff, f.ep.getLsbD 1⟩, ⟨.c, f.len, f.ep.getLsbD 0⟩]
  | .cpy2At f => [⟨.c, f.doff, f.ep.getLsbD 2⟩, ⟨.c, f.soff, f.ep.getLsbD 1⟩, ⟨.c, f.len, f.ep.getLsbD 0⟩]
  | .cpy3At f => [⟨.c, f.doff, f.ep.getLsbD 2⟩, ⟨.c, f.soff, f.ep.getLsbD 1⟩, ⟨.c, f.len, f.ep.getLsbD 0⟩]
  | .cgathAt f => [⟨.c, f.doff, f.ep.getLsbD 2⟩, ⟨.c, f.soff, f.ep.getLsbD 1⟩, ⟨.c, f.len, f.ep.getLsbD 0⟩]
  | .cscatAt f => [⟨.c, f.doff, f.ep.getLsbD 2⟩, ⟨.c, f.soff, f.ep.getLsbD 1⟩, ⟨.c, f.len, f.ep.getLsbD 0⟩]
  | .cmcastAt f => [⟨.c, f.doff, f.ep.getLsbD 2⟩, ⟨.c, f.soff, f.ep.getLsbD 1⟩, ⟨.c, f.len, f.ep.getLsbD 0⟩]
  | .cfillAt f => [⟨.c, f.doff, f.ep.getLsbD 2⟩, ⟨.c, f.soff, f.ep.getLsbD 1⟩, ⟨.c, f.len, f.ep.getLsbD 0⟩]
  | .credI32At f => [⟨.c, f.doff, f.ep.getLsbD 2⟩, ⟨.c, f.soff, f.ep.getLsbD 1⟩, ⟨.c, f.len, f.ep.getLsbD 0⟩]
  | .credFp32At f => [⟨.c, f.doff, f.ep.getLsbD 2⟩, ⟨.c, f.soff, f.ep.getLsbD 1⟩, ⟨.c, f.len, f.ep.getLsbD 0⟩]
  | .credBf16At f => [⟨.c, f.doff, f.ep.getLsbD 2⟩, ⟨.c, f.soff, f.ep.getLsbD 1⟩, ⟨.c, f.len, f.ep.getLsbD 0⟩]
  | .atCopyLaunch _ => []
  | .copyCompletion _ => []
  | .mcastLanding _ => []
  | .storeAcknowledge _ => []
  | .homeAccess _ => []
  | .pathAccess _ => []
  | .farAccessArrival _ => []
  | .pathResponseTimeout _ => []
  | .deferredFault _ => []
  | .stoppingComplete _ => []
  | .childTake _ => []
  | .stealComplete _ => []
  | .pqArrival _ => []
  | .pqClaimServe _ => []
  | .doorbell _ _ => []
  | .iqbaseWrite _ _ => []
  | .accessionCheck _ => []
  | .budgetIntervalStart _ => []
  | .placement _ _ => []
  | .startTick _ => []
  | .taskCompletion _ => []
  | .replayAccept _ => []
  | .nodeEvaluation _ => []
  | .replayEnd _ => []
  | .gangSwitchTick _ => []
  | .saveComplete _ _ => []
  | .saveDeadline _ => []
  | .restore _ => []
  | .sliceStart _ => []
  | .checkpointTimerTrigger _ _ => []
  | .snapTick _ _ => []
  | .drainFrameDone _ _ _ => []
  | .drainHeaderDone _ _ => []
  | .reserveHoldExpiry _ _ => []
  | .drainWriteError _ _ => []
  | .hbctlWrite _ _ _ => []
  | .governorWrite _ _ => []
  | .thermalGateOn _ => []
  | .thermalGateOff _ => []
  | .thermalTrip _ _ => []
  | .railFault _ _ => []
  | .carriedCheckMismatch _ => []
  | .eccErrorConsumed _ => []
  | .eccScrub _ _ _ _ => []
  | .laneWindowEnd _ => []
  | .quiesceRequest _ => []
  | .quiesceCancel _ => []
  | .quiesced _ => []
  | .quiesceTimeout _ => []
  | .pcfgWrite _ => []
  | .nbondWrite _ _ => []
  | .tslotWrite _ _ _ => []
  | .controlWindowAccess _ => []
  | .tcsdWrite _ _ => []
  | .shootDownDone _ => []
  | .svcBind _ _ => []
  | .svcUnbind _ _ => []
  | .hotResetSelfHosted _ => []
  | .hotResetHostManaged _ => []
  | .functionLevelReset _ => []
  | .connectionEnable _ => []
  | .connectionWord5Write _ _ => []
  | .nvmeofConnected _ => []
  | .connectionFailure _ _ => []
  | .powerOn => []
  | .pinReset => []
  | .hvReset _ => []
  | .bootStart => []
  | .registerWrite _ _ _ => []
  | .ringHeadWrite _ _ _ _ => []
  | .hostLinkRetrained _ => []

/-- The destinations that an operation names (R62, R66). VDUP's depends on its partner. -/
def dests (i : Instr) : List Dest :=
  match i with
  | .bundleIssue _ => []
  | .idleCycle _ => []
  | .instructionFetch _ => []
  | .fixedLatencyLanding _ => []
  | .variableLatencyArrival _ => []
  | .lockstepStep _ => []
  | .add f => [.s f.d.toNat]
  | .sub f => [.s f.d.toNat]
  | .mul f => [.s f.d.toNat]
  | .mulh f => [.s f.d.toNat]
  | .div f => [.s f.d.toNat]
  | .rem f => [.s f.d.toNat]
  | .and f => [.s f.d.toNat]
  | .or f => [.s f.d.toNat]
  | .xor f => [.s f.d.toNat]
  | .shl f => [.s f.d.toNat]
  | .shr f => [.s f.d.toNat]
  | .sar f => [.s f.d.toNat]
  | .min f => [.s f.d.toNat]
  | .max f => [.s f.d.toNat]
  | .clz f => [.s f.d.toNat]
  | .addi f => [.s f.d.toNat]
  | .andi f => [.s f.d.toNat]
  | .ori f => [.s f.d.toNat]
  | .xori f => [.s f.d.toNat]
  | .shli f => [.s f.d.toNat]
  | .shri f => [.s f.d.toNat]
  | .sari f => [.s f.d.toNat]
  | .movi f => [.s f.d.toNat]
  | .moviIns f => [.s f.d.toNat]
  | .cmp f => [.s f.d.toNat]
  | .cmpi f => [.s f.d.toNat]
  | .sel f => [.s f.d.toNat]
  | .popc f => [.s f.d.toNat]
  | .lea f => [.s f.d.toNat]
  | .fadd f => [.s f.d.toNat]
  | .fsub f => [.s f.d.toNat]
  | .fmul f => [.s f.d.toNat]
  | .fma f => [.s f.d.toNat]
  | .fdiv f => [.s f.d.toNat]
  | .fsqrt f => [.s f.d.toNat]
  | .fmin f => [.s f.d.toNat]
  | .fmax f => [.s f.d.toNat]
  | .fcmp f => [.s f.d.toNat]
  | .fcvt f => [.s f.d.toNat]
  | .fsgn f => [.s f.d.toNat]
  | .ld f => [.s f.d.toNat]
  | .st _ => []
  | .amo f => [.s f.d.toNat]
  | .grant f => [.h f.d.toNat]
  | .revoke _ => []
  | .permld f => [.s f.d.toNat]
  | .cmpt _ => []
  | .cmptV _ => []
  | .fork _ => []
  | .join f => [.s f.d.toNat]
  | .pqpush _ => []
  | .pqpop f => [.s f.d.toNat, .s (f.d.toNat + 1)]
  | .barm _ => []
  | .barrive _ => []
  | .bwait _ => []
  | .gbarrive _ => []
  | .gbwait _ => []
  | .gangBarrierRelease _ _ => []
  | .qcfg _ => []
  | .drainR _ => []
  | .drainA _ => []
  | .drainBoth _ => []
  | .trap _ => []
  | .resume _ => []
  | .resumeServiceCore f => [.s f.d.toNat]
  | .resumeEnd f => [.s f.d.toNat]
  | .rdrec f => [.s f.d.toNat]
  | .wrrec _ => []
  | .vtsel _ => []
  | .srmovRead f => [.s f.d.toNat]
  | .srmovWrite _ => []
  | .cinv _ => []
  | .cflush _ => []
  | .waitt _ => []
  | .waittRelease _ => []
  | .snap f => [.s f.d.toNat]
  | .step _ => []
  | .phase _ => []
  | .phaseOff _ => []
  | .wdecl _ => []
  | .enrd f => [.s f.d.toNat]
  | .enrdIdle f => [.s f.d.toNat]
  | .enclr f => [.s f.d.toNat]
  | .yield _ => []
  | .halt _ => []
  | .br _ => []
  | .breq _ => []
  | .brne _ => []
  | .brlt _ => []
  | .brge _ => []
  | .brltu _ => []
  | .brgeu _ => []
  | .brall _ => []
  | .brnone _ => []
  | .call f => [.s f.d.toNat]
  | .callRegister f => [.s f.d.toNat]
  | .ret _ => []
  | .jr _ => []
  | .loop _ => []
  | .loopw _ => []
  | .vadd f => [vectorDest f.d]
  | .vsub f => [vectorDest f.d]
  | .vmul f => [vectorDest f.d]
  | .vfma f => [vectorDest f.d]
  | .vmin f => [vectorDest f.d]
  | .vmax f => [vectorDest f.d]
  | .vabs f => [vectorDest f.d]
  | .vneg f => [vectorDest f.d]
  | .vmulh f => [vectorDest f.d]
  | .vavg f => [vectorDest f.d]
  | .vshl f => [vectorDest f.d]
  | .vshr f => [vectorDest f.d]
  | .vsar f => [vectorDest f.d]
  | .vand f => [vectorDest f.d]
  | .vor f => [vectorDest f.d]
  | .vxor f => [vectorDest f.d]
  | .vcvt f => [vectorDest f.d]
  | .vcmp f => [.m f.d.toNat]
  | .vsel f => [vectorDest f.d]
  | .vshuf f => [vectorDest f.d]
  | .vperm f => [vectorDest f.d]
  | .vred f => [vectorDest f.d]
  | .vclmul f => [vectorDest f.d]
  | .vclmulh f => [vectorDest f.d]
  | .vrcp f => [vectorDest f.d]
  | .vrsq f => [vectorDest f.d]
  | .vexp f => [vectorDest f.d]
  | .vmov f => [vectorDest f.d]
  | .vmovi f => [vectorDest f.d]
  | .vld f => [.v f.d.toNat]
  | .vst _ => []
  | .vgath f => [.v f.d.toNat]
  | .vscat _ => []
  | .vamo f => [.v f.d.toNat]
  | .qpush _ => []
  | .qpop f => [.v f.d.toNat]
  | .vdup _ => []
  | .mldw _ => []
  | .mldwS _ => []
  | .mma _ => []
  | .mmas _ => []
  | .mzero _ => []
  | .mfuse _ => []
  | .mdrain _ => []
  | .mdrainV f => [.v (4 * (f.mstr.extractLsb' 0 4).toNat)]
  | .sequencerOpStart _ => []
  | .mmaRowStep _ => []
  | .mdrainEntryStep _ => []
  | .queueClaimArrival _ => []
  | .cpy f => [.s f.tok.toNat]
  | .cpy2 f => [.s f.tok.toNat]
  | .cpy3 f => [.s f.tok.toNat]
  | .cgath f => [.s f.tok.toNat]
  | .cscat f => [.s f.tok.toNat]
  | .cmcast f => [.s f.tok.toNat]
  | .cfill f => [.s f.tok.toNat]
  | .credI32 f => [.s f.tok.toNat]
  | .credFp32 f => [.s f.tok.toNat]
  | .credBf16 f => [.s f.tok.toNat]
  | .cpyAt f => [.s f.tok.toNat]
  | .cpy2At f => [.s f.tok.toNat]
  | .cpy3At f => [.s f.tok.toNat]
  | .cgathAt f => [.s f.tok.toNat]
  | .cscatAt f => [.s f.tok.toNat]
  | .cmcastAt f => [.s f.tok.toNat]
  | .cfillAt f => [.s f.tok.toNat]
  | .credI32At f => [.s f.tok.toNat]
  | .credFp32At f => [.s f.tok.toNat]
  | .credBf16At f => [.s f.tok.toNat]
  | .atCopyLaunch _ => []
  | .copyCompletion _ => []
  | .mcastLanding _ => []
  | .storeAcknowledge _ => []
  | .homeAccess _ => []
  | .pathAccess _ => []
  | .farAccessArrival _ => []
  | .pathResponseTimeout _ => []
  | .deferredFault _ => []
  | .stoppingComplete _ => []
  | .childTake _ => []
  | .stealComplete _ => []
  | .pqArrival _ => []
  | .pqClaimServe _ => []
  | .doorbell _ _ => []
  | .iqbaseWrite _ _ => []
  | .accessionCheck _ => []
  | .budgetIntervalStart _ => []
  | .placement _ _ => []
  | .startTick _ => []
  | .taskCompletion _ => []
  | .replayAccept _ => []
  | .nodeEvaluation _ => []
  | .replayEnd _ => []
  | .gangSwitchTick _ => []
  | .saveComplete _ _ => []
  | .saveDeadline _ => []
  | .restore _ => []
  | .sliceStart _ => []
  | .checkpointTimerTrigger _ _ => []
  | .snapTick _ _ => []
  | .drainFrameDone _ _ _ => []
  | .drainHeaderDone _ _ => []
  | .reserveHoldExpiry _ _ => []
  | .drainWriteError _ _ => []
  | .hbctlWrite _ _ _ => []
  | .governorWrite _ _ => []
  | .thermalGateOn _ => []
  | .thermalGateOff _ => []
  | .thermalTrip _ _ => []
  | .railFault _ _ => []
  | .carriedCheckMismatch _ => []
  | .eccErrorConsumed _ => []
  | .eccScrub _ _ _ _ => []
  | .laneWindowEnd _ => []
  | .quiesceRequest _ => []
  | .quiesceCancel _ => []
  | .quiesced _ => []
  | .quiesceTimeout _ => []
  | .pcfgWrite _ => []
  | .nbondWrite _ _ => []
  | .tslotWrite _ _ _ => []
  | .controlWindowAccess _ => []
  | .tcsdWrite _ _ => []
  | .shootDownDone _ => []
  | .svcBind _ _ => []
  | .svcUnbind _ _ => []
  | .hotResetSelfHosted _ => []
  | .hotResetHostManaged _ => []
  | .functionLevelReset _ => []
  | .connectionEnable _ => []
  | .connectionWord5Write _ _ => []
  | .nvmeofConnected _ => []
  | .connectionFailure _ _ => []
  | .powerOn => []
  | .pinReset => []
  | .hvReset _ => []
  | .bootStart => []
  | .registerWrite _ _ _ => []
  | .ringHeadWrite _ _ _ _ => []
  | .hostLinkRetrained _ => []

/-- When the result of an operation lands (the latency columns of its chapter). -/
def latency (i : Instr) : Latency :=
  match i with
  | .bundleIssue _ => .none
  | .idleCycle _ => .none
  | .instructionFetch _ => .none
  | .fixedLatencyLanding _ => .none
  | .variableLatencyArrival _ => .none
  | .lockstepStep _ => .none
  | .add _ => .fixed 1
  | .sub _ => .fixed 1
  | .mul _ => .fixed 3
  | .mulh _ => .fixed 3
  | .div _ => .variable
  | .rem _ => .variable
  | .and _ => .fixed 1
  | .or _ => .fixed 1
  | .xor _ => .fixed 1
  | .shl _ => .fixed 1
  | .shr _ => .fixed 1
  | .sar _ => .fixed 1
  | .min _ => .fixed 1
  | .max _ => .fixed 1
  | .clz _ => .fixed 1
  | .addi _ => .fixed 1
  | .andi _ => .fixed 1
  | .ori _ => .fixed 1
  | .xori _ => .fixed 1
  | .shli _ => .fixed 1
  | .shri _ => .fixed 1
  | .sari _ => .fixed 1
  | .movi _ => .fixed 1
  | .moviIns _ => .fixed 1
  | .cmp _ => .fixed 1
  | .cmpi _ => .fixed 1
  | .sel _ => .fixed 1
  | .popc _ => .fixed 1
  | .lea _ => .fixed 1
  | .fadd _ => .fixed 4
  | .fsub _ => .fixed 4
  | .fmul _ => .fixed 4
  | .fma _ => .fixed 5
  | .fdiv _ => .fixed 12
  | .fsqrt _ => .fixed 14
  | .fmin _ => .fixed 1
  | .fmax _ => .fixed 1
  | .fcmp _ => .fixed 1
  | .fcvt _ => .fixed 3
  | .fsgn _ => .fixed 1
  | .ld f => .handle 6 f.h
  | .st _ => .none
  | .amo f => .handle 8 f.h
  | .grant _ => .fixed 12
  | .revoke _ => .none
  | .permld _ => .fixed 2
  | .cmpt _ => .none
  | .cmptV _ => .none
  | .fork _ => .none
  | .join _ => .variable
  | .pqpush _ => .none
  | .pqpop _ => .variable
  | .barm _ => .none
  | .barrive _ => .none
  | .bwait _ => .none
  | .gbarrive _ => .none
  | .gbwait _ => .none
  | .gangBarrierRelease _ _ => .none
  | .qcfg _ => .none
  | .drainR _ => .none
  | .drainA _ => .none
  | .drainBoth _ => .none
  | .trap _ => .none
  | .resume _ => .none
  | .resumeServiceCore _ => .fixed 2
  | .resumeEnd _ => .fixed 2
  | .rdrec _ => .fixed 6
  | .wrrec _ => .none
  | .vtsel _ => .none
  | .srmovRead _ => .fixed 1
  | .srmovWrite _ => .none
  | .cinv _ => .none
  | .cflush _ => .none
  | .waitt _ => .none
  | .waittRelease _ => .none
  | .snap _ => .fixed 2
  | .step _ => .none
  | .phase _ => .none
  | .phaseOff _ => .none
  | .wdecl _ => .none
  | .enrd _ => .fixed 2
  | .enrdIdle _ => .fixed 2
  | .enclr _ => .fixed 2
  | .yield _ => .none
  | .halt _ => .none
  | .br _ => .none
  | .breq _ => .none
  | .brne _ => .none
  | .brlt _ => .none
  | .brge _ => .none
  | .brltu _ => .none
  | .brgeu _ => .none
  | .brall _ => .none
  | .brnone _ => .none
  | .call _ => .fixed 1
  | .callRegister _ => .fixed 1
  | .ret _ => .none
  | .jr _ => .none
  | .loop _ => .none
  | .loopw _ => .none
  | .vadd f => .fixed (if isFpTy f.ty then 4 else 2)
  | .vsub f => .fixed (if isFpTy f.ty then 4 else 2)
  | .vmul _ => .fixed 4
  | .vfma _ => .fixed 5
  | .vmin _ => .fixed 2
  | .vmax _ => .fixed 2
  | .vabs _ => .fixed 2
  | .vneg _ => .fixed 2
  | .vmulh _ => .fixed 4
  | .vavg _ => .fixed 2
  | .vshl _ => .fixed 2
  | .vshr _ => .fixed 2
  | .vsar _ => .fixed 2
  | .vand _ => .fixed 2
  | .vor _ => .fixed 2
  | .vxor _ => .fixed 2
  | .vcvt _ => .fixed 4
  | .vcmp _ => .fixed 2
  | .vsel _ => .fixed 2
  | .vshuf _ => .fixed 3
  | .vperm _ => .fixed 3
  | .vred _ => .fixed 8
  | .vclmul _ => .fixed 4
  | .vclmulh _ => .fixed 4
  | .vrcp _ => .fixed 6
  | .vrsq _ => .fixed 6
  | .vexp _ => .fixed 6
  | .vmov _ => .fixed 1
  | .vmovi _ => .fixed 1
  | .vld f => .handle 6 f.h
  | .vst _ => .none
  | .vgath f => .handle 8 f.h
  | .vscat _ => .none
  | .vamo f => .handle 10 f.h
  | .qpush _ => .none
  | .qpop _ => .variable
  | .vdup _ => .none
  | .mldw _ => .none
  | .mldwS _ => .none
  | .mma _ => .none
  | .mmas _ => .none
  | .mzero _ => .none
  | .mfuse _ => .none
  | .mdrain _ => .none
  | .mdrainV _ => .variable
  | .sequencerOpStart _ => .none
  | .mmaRowStep _ => .none
  | .mdrainEntryStep _ => .none
  | .queueClaimArrival _ => .none
  | .cpy _ => .variable
  | .cpy2 _ => .variable
  | .cpy3 _ => .variable
  | .cgath _ => .variable
  | .cscat _ => .variable
  | .cmcast _ => .variable
  | .cfill _ => .variable
  | .credI32 _ => .variable
  | .credFp32 _ => .variable
  | .credBf16 _ => .variable
  | .cpyAt _ => .variable
  | .cpy2At _ => .variable
  | .cpy3At _ => .variable
  | .cgathAt _ => .variable
  | .cscatAt _ => .variable
  | .cmcastAt _ => .variable
  | .cfillAt _ => .variable
  | .credI32At _ => .variable
  | .credFp32At _ => .variable
  | .credBf16At _ => .variable
  | .atCopyLaunch _ => .none
  | .copyCompletion _ => .none
  | .mcastLanding _ => .none
  | .storeAcknowledge _ => .none
  | .homeAccess _ => .none
  | .pathAccess _ => .none
  | .farAccessArrival _ => .none
  | .pathResponseTimeout _ => .none
  | .deferredFault _ => .none
  | .stoppingComplete _ => .none
  | .childTake _ => .none
  | .stealComplete _ => .none
  | .pqArrival _ => .none
  | .pqClaimServe _ => .none
  | .doorbell _ _ => .none
  | .iqbaseWrite _ _ => .none
  | .accessionCheck _ => .none
  | .budgetIntervalStart _ => .none
  | .placement _ _ => .none
  | .startTick _ => .none
  | .taskCompletion _ => .none
  | .replayAccept _ => .none
  | .nodeEvaluation _ => .none
  | .replayEnd _ => .none
  | .gangSwitchTick _ => .none
  | .saveComplete _ _ => .none
  | .saveDeadline _ => .none
  | .restore _ => .none
  | .sliceStart _ => .none
  | .checkpointTimerTrigger _ _ => .none
  | .snapTick _ _ => .none
  | .drainFrameDone _ _ _ => .none
  | .drainHeaderDone _ _ => .none
  | .reserveHoldExpiry _ _ => .none
  | .drainWriteError _ _ => .none
  | .hbctlWrite _ _ _ => .none
  | .governorWrite _ _ => .none
  | .thermalGateOn _ => .none
  | .thermalGateOff _ => .none
  | .thermalTrip _ _ => .none
  | .railFault _ _ => .none
  | .carriedCheckMismatch _ => .none
  | .eccErrorConsumed _ => .none
  | .eccScrub _ _ _ _ => .none
  | .laneWindowEnd _ => .none
  | .quiesceRequest _ => .none
  | .quiesceCancel _ => .none
  | .quiesced _ => .none
  | .quiesceTimeout _ => .none
  | .pcfgWrite _ => .none
  | .nbondWrite _ _ => .none
  | .tslotWrite _ _ _ => .none
  | .controlWindowAccess _ => .none
  | .tcsdWrite _ _ => .none
  | .shootDownDone _ => .none
  | .svcBind _ _ => .none
  | .svcUnbind _ _ => .none
  | .hotResetSelfHosted _ => .none
  | .hotResetHostManaged _ => .none
  | .functionLevelReset _ => .none
  | .connectionEnable _ => .none
  | .connectionWord5Write _ _ => .none
  | .nvmeofConnected _ => .none
  | .connectionFailure _ _ => .none
  | .powerOn => .none
  | .pinReset => .none
  | .hvReset _ => .none
  | .bootStart => .none
  | .registerWrite _ _ _ => .none
  | .ringHeadWrite _ _ _ _ => .none
  | .hostLinkRetrained _ => .none

/-- The operation of a stepped slot word (R63): the names that step. What steps in an address or an offset is in the operation's meaning. -/
def stepped (n : Nat) (i : Instr) : Instr :=
  match i with
  | .bundleIssue core => .bundleIssue core
  | .idleCycle core => .idleCycle core
  | .instructionFetch key => .instructionFetch key
  | .fixedLatencyLanding key => .fixedLatencyLanding key
  | .variableLatencyArrival key => .variableLatencyArrival key
  | .lockstepStep task => .lockstepStep task
  | .add f => .add (f.stepped n)
  | .sub f => .sub (f.stepped n)
  | .mul f => .mul (f.stepped n)
  | .mulh f => .mulh (f.stepped n)
  | .div f => .div (f.stepped n)
  | .rem f => .rem (f.stepped n)
  | .and f => .and (f.stepped n)
  | .or f => .or (f.stepped n)
  | .xor f => .xor (f.stepped n)
  | .shl f => .shl (f.stepped n)
  | .shr f => .shr (f.stepped n)
  | .sar f => .sar (f.stepped n)
  | .min f => .min (f.stepped n)
  | .max f => .max (f.stepped n)
  | .clz f => .clz (f.stepped n)
  | .addi f => .addi (f.stepped n)
  | .andi f => .andi (f.stepped n)
  | .ori f => .ori (f.stepped n)
  | .xori f => .xori (f.stepped n)
  | .shli f => .shli (f.stepped n)
  | .shri f => .shri (f.stepped n)
  | .sari f => .sari (f.stepped n)
  | .movi f => .movi (f.stepped n)
  | .moviIns f => .moviIns (f.stepped n)
  | .cmp f => .cmp (f.stepped n)
  | .cmpi f => .cmpi (f.stepped n)
  | .sel f => .sel (f.stepped n)
  | .popc f => .popc (f.stepped n)
  | .lea f => .lea (f.stepped n)
  | .fadd f => .fadd (f.stepped n)
  | .fsub f => .fsub (f.stepped n)
  | .fmul f => .fmul (f.stepped n)
  | .fma f => .fma (f.stepped n)
  | .fdiv f => .fdiv (f.stepped n)
  | .fsqrt f => .fsqrt (f.stepped n)
  | .fmin f => .fmin (f.stepped n)
  | .fmax f => .fmax (f.stepped n)
  | .fcmp f => .fcmp (f.stepped n)
  | .fcvt f => .fcvt (f.stepped n)
  | .fsgn f => .fsgn (f.stepped n)
  | .ld f => .ld (f.stepped n)
  | .st f => .st (f.stepped n)
  | .amo f => .amo f
  | .grant f => .grant f
  | .revoke f => .revoke f
  | .permld f => .permld f
  | .cmpt f => .cmpt f
  | .cmptV f => .cmptV f
  | .fork f => .fork f
  | .join f => .join f
  | .pqpush f => .pqpush f
  | .pqpop f => .pqpop f
  | .barm f => .barm f
  | .barrive f => .barrive f
  | .bwait f => .bwait f
  | .gbarrive f => .gbarrive f
  | .gbwait f => .gbwait f
  | .gangBarrierRelease task bar => .gangBarrierRelease task bar
  | .qcfg f => .qcfg f
  | .drainR f => .drainR f
  | .drainA f => .drainA f
  | .drainBoth f => .drainBoth f
  | .trap f => .trap f
  | .resume f => .resume f
  | .resumeServiceCore f => .resumeServiceCore f
  | .resumeEnd f => .resumeEnd f
  | .rdrec f => .rdrec f
  | .wrrec f => .wrrec f
  | .vtsel f => .vtsel f
  | .srmovRead f => .srmovRead f
  | .srmovWrite f => .srmovWrite f
  | .cinv f => .cinv f
  | .cflush f => .cflush f
  | .waitt f => .waitt f
  | .waittRelease key => .waittRelease key
  | .snap f => .snap f
  | .step f => .step f
  | .phase f => .phase f
  | .phaseOff f => .phaseOff f
  | .wdecl f => .wdecl f
  | .enrd f => .enrd f
  | .enrdIdle f => .enrdIdle f
  | .enclr f => .enclr f
  | .yield f => .yield f
  | .halt f => .halt f
  | .br f => .br f
  | .breq f => .breq f
  | .brne f => .brne f
  | .brlt f => .brlt f
  | .brge f => .brge f
  | .brltu f => .brltu f
  | .brgeu f => .brgeu f
  | .brall f => .brall f
  | .brnone f => .brnone f
  | .call f => .call f
  | .callRegister f => .callRegister f
  | .ret f => .ret f
  | .jr f => .jr f
  | .loop f => .loop f
  | .loopw f => .loopw f
  | .vadd f => .vadd (f.stepped n)
  | .vsub f => .vsub (f.stepped n)
  | .vmul f => .vmul (f.stepped n)
  | .vfma f => .vfma (f.stepped n)
  | .vmin f => .vmin (f.stepped n)
  | .vmax f => .vmax (f.stepped n)
  | .vabs f => .vabs (f.stepped n)
  | .vneg f => .vneg (f.stepped n)
  | .vmulh f => .vmulh (f.stepped n)
  | .vavg f => .vavg (f.stepped n)
  | .vshl f => .vshl (f.stepped n)
  | .vshr f => .vshr (f.stepped n)
  | .vsar f => .vsar (f.stepped n)
  | .vand f => .vand (f.stepped n)
  | .vor f => .vor (f.stepped n)
  | .vxor f => .vxor (f.stepped n)
  | .vcvt f => .vcvt (f.stepped n)
  | .vcmp f => .vcmp (f.stepped n)
  | .vsel f => .vsel (f.stepped n)
  | .vshuf f => .vshuf (f.stepped n)
  | .vperm f => .vperm (f.stepped n)
  | .vred f => .vred (f.stepped n)
  | .vclmul f => .vclmul (f.stepped n)
  | .vclmulh f => .vclmulh (f.stepped n)
  | .vrcp f => .vrcp (f.stepped n)
  | .vrsq f => .vrsq (f.stepped n)
  | .vexp f => .vexp (f.stepped n)
  | .vmov f => .vmov (f.stepped n)
  | .vmovi f => .vmovi (f.stepped n)
  | .vld f => .vld (f.stepped n)
  | .vst f => .vst (f.stepped n)
  | .vgath f => .vgath (f.stepped n)
  | .vscat f => .vscat (f.stepped n)
  | .vamo f => .vamo f
  | .qpush f => .qpush (f.stepped n)
  | .qpop f => .qpop (f.stepped n)
  | .vdup f => .vdup (f.stepped n)
  | .mldw f => .mldw f
  | .mldwS f => .mldwS f
  | .mma f => .mma f
  | .mmas f => .mmas f
  | .mzero f => .mzero f
  | .mfuse f => .mfuse f
  | .mdrain f => .mdrain f
  | .mdrainV f => .mdrainV f
  | .sequencerOpStart key => .sequencerOpStart key
  | .mmaRowStep key => .mmaRowStep key
  | .mdrainEntryStep key => .mdrainEntryStep key
  | .queueClaimArrival key => .queueClaimArrival key
  | .cpy f => .cpy f
  | .cpy2 f => .cpy2 f
  | .cpy3 f => .cpy3 f
  | .cgath f => .cgath f
  | .cscat f => .cscat f
  | .cmcast f => .cmcast f
  | .cfill f => .cfill f
  | .credI32 f => .credI32 f
  | .credFp32 f => .credFp32 f
  | .credBf16 f => .credBf16 f
  | .cpyAt f => .cpyAt f
  | .cpy2At f => .cpy2At f
  | .cpy3At f => .cpy3At f
  | .cgathAt f => .cgathAt f
  | .cscatAt f => .cscatAt f
  | .cmcastAt f => .cmcastAt f
  | .cfillAt f => .cfillAt f
  | .credI32At f => .credI32At f
  | .credFp32At f => .credFp32At f
  | .credBf16At f => .credBf16At f
  | .atCopyLaunch id => .atCopyLaunch id
  | .copyCompletion id => .copyCompletion id
  | .mcastLanding id => .mcastLanding id
  | .storeAcknowledge id => .storeAcknowledge id
  | .homeAccess id => .homeAccess id
  | .pathAccess id => .pathAccess id
  | .farAccessArrival a => .farAccessArrival a
  | .pathResponseTimeout id => .pathResponseTimeout id
  | .deferredFault d => .deferredFault d
  | .stoppingComplete key => .stoppingComplete key
  | .childTake key => .childTake key
  | .stealComplete key => .stealComplete key
  | .pqArrival die => .pqArrival die
  | .pqClaimServe die => .pqClaimServe die
  | .doorbell vf tail => .doorbell vf tail
  | .iqbaseWrite vf value => .iqbaseWrite vf value
  | .accessionCheck launch => .accessionCheck launch
  | .budgetIntervalStart quarter => .budgetIntervalStart quarter
  | .placement quarter cid => .placement quarter cid
  | .startTick task => .startTick task
  | .taskCompletion task => .taskCompletion task
  | .replayAccept launch => .replayAccept launch
  | .nodeEvaluation walker => .nodeEvaluation walker
  | .replayEnd launch => .replayEnd launch
  | .gangSwitchTick quarter => .gangSwitchTick quarter
  | .saveComplete quarter die => .saveComplete quarter die
  | .saveDeadline quarter => .saveDeadline quarter
  | .restore quarter => .restore quarter
  | .sliceStart quarter => .sliceStart quarter
  | .checkpointTimerTrigger quarter cid => .checkpointTimerTrigger quarter cid
  | .snapTick quarter cid => .snapTick quarter cid
  | .drainFrameDone quarter cid die => .drainFrameDone quarter cid die
  | .drainHeaderDone quarter cid => .drainHeaderDone quarter cid
  | .reserveHoldExpiry quarter cid => .reserveHoldExpiry quarter cid
  | .drainWriteError quarter cid => .drainWriteError quarter cid
  | .hbctlWrite quarter cid value => .hbctlWrite quarter cid value
  | .governorWrite share value => .governorWrite share value
  | .thermalGateOn die => .thermalGateOn die
  | .thermalGateOff die => .thermalGateOff die
  | .thermalTrip die reading => .thermalTrip die reading
  | .railFault die rail => .railFault die rail
  | .carriedCheckMismatch e => .carriedCheckMismatch e
  | .eccErrorConsumed e => .eccErrorConsumed e
  | .eccScrub die frame word uncorrectable => .eccScrub die frame word uncorrectable
  | .laneWindowEnd margins => .laneWindowEnd margins
  | .quiesceRequest quarter => .quiesceRequest quarter
  | .quiesceCancel quarter => .quiesceCancel quarter
  | .quiesced quarter => .quiesced quarter
  | .quiesceTimeout quarter => .quiesceTimeout quarter
  | .pcfgWrite value => .pcfgWrite value
  | .nbondWrite quarter value => .nbondWrite quarter value
  | .tslotWrite quarter k value => .tslotWrite quarter k value
  | .controlWindowAccess id => .controlWindowAccess id
  | .tcsdWrite die value => .tcsdWrite die value
  | .shootDownDone die => .shootDownDone die
  | .svcBind die j => .svcBind die j
  | .svcUnbind die j => .svcUnbind die j
  | .hotResetSelfHosted port => .hotResetSelfHosted port
  | .hotResetHostManaged port => .hotResetHostManaged port
  | .functionLevelReset vf => .functionLevelReset vf
  | .connectionEnable conn => .connectionEnable conn
  | .connectionWord5Write conn value => .connectionWord5Write conn value
  | .nvmeofConnected conn => .nvmeofConnected conn
  | .connectionFailure conn errc => .connectionFailure conn errc
  | .powerOn => .powerOn
  | .pinReset => .pinReset
  | .hvReset retry => .hvReset retry
  | .bootStart => .bootStart
  | .registerWrite unit off value => .registerWrite unit off value
  | .ringHeadWrite quarter cid eq head => .ringHeadWrite quarter cid eq head
  | .hostLinkRetrained port => .hostLinkRetrained port

/-- Whether an operation may be the partner of a VDUP: opcodes 0x01 to 0x1C of the V map (R70). -/
def isPartner (i : Instr) : Bool :=
  match encodeSlot i with
  | some (.v, w) => decide (1 ≤ (w.extractLsb' 56 8).toNat) && decide ((w.extractLsb' 56 8).toNat ≤ 0x1C)
  | _ => false

/-- The destination of a VDUP under its partner: a mask when the partner is VCMP (R140). -/
def vdupDest (partner : Instr) (d : OpName) : Dest :=
  match partner with
  | .vcmp _ => .m (d.toNat % 8)
  | _ => vectorDest d

/-- The register that a source field reads, if it names one of the main files. -/
def SourceUse.reg (u : SourceUse) : Option Dest :=
  if u.name.toNat < 64 then some (if u.space = .v then .v u.name.toNat else .s u.name.toNat) else none

/-- A literal name's value, -64 to 63 (R18, R65). -/
def literal (n : OpName) : Int := (n.extractLsb' 0 7).toInt

/-- A source of the S, M, C and B slots and field B of format X (R64, R65, R94). -/
def readS (c : Ctx) (i : Issue) (n : OpName) : Word :=
  if n.toNat < 64 then c.sreg n.toNat
  else if n = 0x48#8 then c.ls
  else if n = 0x4C#8 then c.lc0
  else if n = 0x4D#8 then c.lc1
  else if n = 0x50#8 then c.sreg i.bsrc.toNat
  else if n = 0x51#8 then i.bimm.signExtend 64
  else (n.extractLsb' 0 7).signExtend 64

/-- A pattern of w bits in every element. -/
def broadcast (w x : Nat) : Vec :=
  BitVec.ofNat 1024 ((List.range (1024 / w)).foldl (fun a i => a + (x % 2 ^ w) * 2 ^ (w * i)) 0)

/-- A literal in an element type: exact in the floating-point types, two's complement in the integer types (R65). -/
def literalElem (ty : BitVec 4) (n : OpName) : Nat :=
  if isFpTy ty then (Fp.ofInt (literal n)).toBits (fpOf ty) 0 0 else intBits (tyWidth ty) (literal n)

/-- A source of the V slots under an element type (R64, R65). -/
def readV (c : Ctx) (i : Issue) (ty : BitVec 4) (n : OpName) : Vec :=
  if n.toNat < 64 then c.vreg n.toNat
  else if n.toNat < 72 then c.oreg (n.toNat - 64)
  else if n = 0x49#8 then c.lv0
  else if n = 0x4A#8 then c.lv1
  else if n = 0x4B#8 then c.lm
  else if n = 0x50#8 then broadcast (tyWidth ty) (c.sreg i.bsrc.toNat).toNat
  else if n = 0x51#8 then broadcast (tyWidth ty)
    (if tyWidth ty = 64 then (i.bimm.signExtend 64).toNat else i.bimm.toNat)
  else broadcast (tyWidth ty) (literalElem ty n)

/-- Element i of a vector value under width w, as a number (R121). -/
def elem (w : Nat) (x : Vec) (i : Nat) : Nat := x.toNat / 2 ^ (w * i) % 2 ^ w

/-- The number of elements of a vector value under a type (R121). -/
def elemCount (ty : BitVec 4) : Nat := 1024 / tyWidth ty

/-- The active elements under a mask value, which is all ones where MEN is 0 (R122). -/
def activeElems (m : MaskVal) (n : Nat) : List Nat := (List.range n).filter fun i => m.getLsbD i

/-- The mask value that MSK names; all ones where MEN is 0. -/
def maskOf (c : Ctx) (msk : BitVec 4) : MaskVal :=
  if msk.getLsbD 3 then c.mreg (msk.extractLsb' 0 3).toNat else ~~~0#128

/-- A vector value made of elements of width w, with the bits of those elements as its write mask. -/
def ofElems (w : Nat) (xs : List (Nat × Nat)) : Vec × Vec :=
  (BitVec.ofNat 1024 (xs.foldl (fun a x => a + (x.2 % 2 ^ w) * 2 ^ (w * x.1)) 0),
   BitVec.ofNat 1024 (xs.foldl (fun a x => a + (2 ^ w - 1) * 2 ^ (w * x.1)) 0))

end Machine

/-- The handle number of an M word: A[43:40] (R58). -/
def FmtM.handle (f : FmtM) : Nat := (f.a.extractLsb' 0 4).toNat

/-- The unit of SUNIT in bytes (R59). -/
def unitBytes (u : BitVec 2) : Nat := match u.toNat with | 0 => 1 | 1 => 16 | 2 => 128 | _ => 1024

/-- The stepped offset of format X: value(B) + n * STRIDE * unit (R59). -/
def FmtX.offset (f : FmtX) (b : Word) (n : Nat) : Word :=
  b + BitVec.ofInt 64 ((n : Int) * f.stride.toInt * unitBytes f.sunit)

end Sys2Proof
end

