-- ==== Sys2Proof/Machine/Flags.lean ====
section
/-!
DEFINITION. Conditions and the treatment of exact results: the condition codes of compares and branches (R100, R103, R115, R129), the OVF
field (R124), and the demotion of a scope (R80).
-/
namespace Sys2Proof.Machine

/-- The operation width of the S slot (R95). -/
def opWidth (ty : BitVec 4) : Nat := if ty = 2#4 then 32 else 64
/-- A source as a signed operation reads it (R95). -/
def signedIn (ty : BitVec 4) (x : Word) : Word := if ty = 2#4 then (x.extractLsb' 0 32).signExtend 64 else x
/-- A source as an unsigned operation reads it (R95). -/
def unsignedIn (ty : BitVec 4) (x : Word) : Word := if ty = 2#4 then (x.extractLsb' 0 32).setWidth 64 else x
/-- A result as the operation writes it (R95). -/
def resultOut (ty : BitVec 4) (x : Word) : Word := signedIn ty x

/-- The conditions of CMP and CMPI on the values of the width (R100): 0 .eq, 1 .ne, 2 .lt, 3 .ge, 4 .ltu, 5 .geu. -/
def condition (cond : Nat) (ty : BitVec 4) (a b : Word) : Bool :=
  match cond with
  | 0 => unsignedIn ty a = unsignedIn ty b
  | 1 => unsignedIn ty a ≠ unsignedIn ty b
  | 2 => (signedIn ty a).slt (signedIn ty b)
  | 3 => !(signedIn ty a).slt (signedIn ty b)
  | 4 => (unsignedIn ty a).ult (unsignedIn ty b)
  | _ => !(unsignedIn ty a).ult (unsignedIn ty b)

/-- A truth value as the S slot writes it: 64-bit 1 or 0 (R98, R103). -/
def truth (b : Bool) : Word := if b then 1#64 else 0#64

/-- An exact integer result under OVF (R124): wrap, .sat or .usat, as a pattern of w bits. -/
def overflow (ovf : Nat) (w : Nat) (x : Int) : Nat :=
  match ovf with
  | 1 => intBits w (clampInt x (intLo w) (intHi w))
  | 2 => intBits w (clampInt x 0 (2 ^ w - 1))
  | _ => intBits w x

/-- The conditions of VCMP on elements under a type (R129). -/
def elemCondition (cond : Nat) (ty : BitVec 4) (x y : Nat) : Bool :=
  if isFpTy ty then fpCompare (fpOf ty) cond x y
  else
    let w := tyWidth ty
    match cond with
    | 0 => x = y
    | 1 => x ≠ y
    | 2 => decide (signedOf w x < signedOf w y)
    | 3 => !decide (signedOf w x < signedOf w y)
    | 4 => decide (x < y)
    | _ => !decide (x < y)

/-- The scope an operation acts at: SYS acts at PART where SYSOK is 0 (R79, R198, R201, R284). -/
def effectiveScope (c : Ctx) (scope : BitVec 3) : BitVec 3 := if scope = 4#3 ∧ !c.sysok then 3#3 else scope
/-- Whether an operation sets CTXSTAT.SCDEM: SYS executed at PART (R80, R221). -/
def demotes (c : Ctx) (scope : BitVec 3) : Bool := scope = 4#3 && !c.sysok

end Sys2Proof.Machine
end

