-- ==== Sys2Proof/Machine/Legality.lean ====
section
/-!
DEFINITION. The legality of an issue (R68): the faults of a slot word that depend on the issuing context (stage 2) and the faults across
slots (stage 3), and the checks of a declaration phase that need no operand value (R294, R377).
-/
namespace Sys2Proof.Machine

/-- WHY codes of ILLEGAL_SLOT and ILLEGAL_BUNDLE (R69). -/
def whyQuadrant : BitVec 8 := 0x06#8
def whySameReg : BitVec 8 := 0x13#8
def whyPorts : BitVec 8 := 0x14#8
def whyLanding : BitVec 8 := 0x15#8
def whyBroadcast : BitVec 8 := 0x16#8
def whyVdup : BitVec 8 := 0x17#8
def whyService : BitVec 8 := 0x18#8

/-! Units of the matrix array (R164, R165). -/

/-- The quadrants that an M word selects (R165). -/
def selectedQuads (c : Ctx) (qsel : BitVec 4) : BitVec 4 := if qsel = 0#4 then c.quads else qsel

/-- Whether quadrants form exactly one unit under a fusion (R164, R165). -/
def oneUnit (fuse : BitVec 2) (q : BitVec 4) : Bool :=
  match fuse.toNat with
  | 0 => q = 1#4 || q = 2#4 || q = 4#4 || q = 8#4
  | 1 => q = 3#4 || q = 12#4
  | _ => q = 15#4

/-- Kc, Nw, the rows, row0 and col0 of a unit (R164). -/
structure UnitShape where
  kc : Nat
  nw : Nat
  rows : Nat
  row0 : Nat
  col0 : Nat
  deriving DecidableEq, Repr

/-- The lowest-numbered quadrant of a selection. -/
def firstQuad (q : BitVec 4) : Nat :=
  if q.getLsbD 0 then 0 else if q.getLsbD 1 then 1 else if q.getLsbD 2 then 2 else 3

/-- The shape of the unit that quadrants form (R164). -/
def unitShape (fuse : BitVec 2) (q : BitVec 4) : UnitShape :=
  let j := firstQuad q
  match fuse.toNat with
  | 0 => ⟨32, 32, 32, 32 * (j / 2), 32 * (j % 2)⟩
  | 1 => ⟨32, 64, 32, 32 * (j / 2), 0⟩
  | _ => ⟨64, 64, 64, 0, 0⟩

/-- The key of a latch: its unit's first quadrant and its number (R166). -/
def latchKey (q : BitVec 4) (n : Nat) : Nat := firstQuad q * 4 + n

/-- The format of the latch that an MMA will meet: that of the latest MLDW issued before it, or I8 (R166, R176). An MFUSE in
flight resets it. -/
def pendingFormat (c : Ctx) (q : BitVec 4) (n : Nat) : BitVec 4 × Bool :=
  c.mops.foldl (fun a m =>
    match decodeSlot .m m.op.sw with
    | .ok (.mldw f) => if firstQuad m.quads = firstQuad q ∧ (f.tgt.extractLsb' 0 2).toNat = n then (f.ty, false) else a
    | .ok (.mldwS f) => if firstQuad m.quads = firstQuad q ∧ (f.tgt.extractLsb' 0 2).toNat = n then (f.ty, true) else a
    | .ok (.mfuse _) => (0#4, false)
    | _ => a) ((c.latch (latchKey q n)).fmt, (c.latch (latchKey q n)).sparse)

/-- The faults of an M word in a context (R59, R165, R184): one that owns no quadrant has none to select. -/
def quadFaults (c : Ctx) (unit : Bool) (qsel : BitVec 4) : List (BitVec 8) :=
  if c.quads = 0#4 then [whyQuadrant]
  else need (qsel &&& ~~~c.quads = 0#4) whyQuadrant ++ (if unit then need (oneUnit c.fuse (selectedQuads c qsel)) whyResv else [])

/-- The faults of the profile of an MMA (R159). -/
def profileFaults (c : Ctx) (f : FmtM) : List (BitVec 8) :=
  need (f.np ≠ 0#4 || !c.det) whyResv ++ need (c.profiles.getLsbD f.np.toNat) whyResv

/-- The faults of the pairing of an MMA with the latch of its unit (R153, R154). -/
def pairFaults (c : Ctx) (f : FmtM) : List (BitVec 8) :=
  let w := (pendingFormat c (selectedQuads c f.qsel) (f.tgt.extractLsb' 0 2).toNat).1
  let i8 := w = 0#4 && f.ty = 0#4
  need (i8 || (w ≠ 0#4 && f.ty ≠ 0#4)) whyType ++
  (match f.np.toNat with
   | 0 => []
   | 3 => need i8 whyType
   | _ => need (!i8) whyType)

/-- The faults of an MMA word in a context: its pairing is judged where it selects a unit, which has a latch (R184). -/
def mmaFaults (c : Ctx) (f : FmtM) : List (BitVec 8) :=
  quadFaults c true f.qsel ++ profileFaults c f ++ (if quadFaults c true f.qsel = [] then pairFaults c f else [])

/-- The faults of the binding of a queue (R160). -/
def bindingFaults (c : Ctx) (q : Nat) : List (BitVec 8) :=
  let b := c.qbind q
  need (queueFormat (qbSink b) && queueFormat (qbSource b)) whyType ++ need (decide ((qbRnd b).toNat < 5)) whyResv

/-- Whether a system register may be written in SERVICE only (R78). -/
def serviceOnly (n : Nat) : Bool :=
  n ≤ 1 || n = 5 || n = 6 || n = 9 || n = 0xA || (0x11 ≤ n && n ≤ 0x13) || (0x30 ≤ n && n ≤ 0x3E)

/-- What the checks of an issue read of the machine: the context, its key, and the issue. -/
structure View where
  c : Ctx
  key : Nat
  i : Issue
  now : Nat

/-- The view of the issue in progress. -/
def State.view (s : State) : View := ⟨s.ctx s.cur.key, s.cur.key, s.cur, s.now⟩
/-- Whether the issuing context is in SERVICE. -/
def View.inService (v : View) : Bool := v.c.mode = .service
/-- Whether the issuing context is one of a service core. -/
def View.onService (v : View) : Bool := isService (coreOf v.key)

/-- The faults of a slot word alone that depend on its context (stage 2 of R68): R288 and the fates of each chapter. -/
def contextFaults (v : View) (i : Instr) : List (BitVec 8) :=
  let c := v.c
  match i with
  | .resume _ => need (v.inService && !v.onService) whyResv
  | .resumeServiceCore _ => need v.onService whyResv
  | .resumeEnd _ => need v.onService whyResv
  | .rdrec _ => need (v.inService || v.onService) whyResv
  | .wrrec _ => need (v.inService || v.onService) whyResv
  | .permld _ => need (v.inService || v.onService) whyResv
  | .vtsel f =>
    let a := readS c v.i f.a
    need (v.inService || v.onService || a = ~~~0#64 || a.toNat = 4 * coreOf v.key + ctxOf v.key) whyResv
  | .srmovWrite f => need (!serviceOnly (f.sf.extractLsb' 0 12).toNat || v.inService || (v.onService && c.vtsel.isSome)) whyResv
  | .fork _ => need (!c.lock) whyResv
  | .phase _ => need (!c.lock) whyResv
  | .phaseOff _ => need (!c.lock) whyResv
  | .credFp32 _ => need (!c.det) whyResv
  | .credBf16 _ => need (!c.det) whyResv
  | .credFp32At _ => need (!c.det) whyResv
  | .credBf16At _ => need (!c.det) whyResv
  | .loop f => need (decide ((v.i.len : Int) + 8 ≤ f.disp.toInt * 8)) whyResv
  | .loopw f => need (decide ((v.i.len : Int) + 8 ≤ f.disp.toInt * 8)) whyResv
  | .mldw f => quadFaults c true f.qsel
  | .mldwS f => quadFaults c true f.qsel
  | .mma f => mmaFaults c f
  | .mmas f => mmaFaults c f
  | .mzero f => quadFaults c false f.qsel
  | .mfuse f =>
    need (match f.tgt.toNat with
      | 0 => c.quads ≠ 0#4
      | 1 => c.quads = 3#4 || c.quads = 12#4 || c.quads = 15#4
      | _ => c.quads = 15#4) whyQuadrant
  | .mdrain f => quadFaults c true f.qsel ++ bindingFaults c f.tgt.toNat
  | .mdrainV f => quadFaults c true f.qsel ++ bindingFaults c f.tgt.toNat
  | .qpush f => bindingFaults c (f.var.extractLsb' 0 3).toNat
  | .qpop f => bindingFaults c (f.var.extractLsb' 0 3).toNat
  | .vdup f =>
    match v.i.partner with
    | some (.vcmp _) => need (f.dstep = 0#2) whyStep ++ need (decide (f.d.toNat < 8)) whyResv
    | _ => []
  | _ => []

/-- The faults of a slot word alone: those of the word as given and those of its context (stage 2). The word's own faults are found
in the word as given: a stepped name is always legal where the unstepped one is. -/
def slotFaults (v : View) (i : Instr) : List (BitVec 8) :=
  let w := faults i
  w ++ contextFaults v i

/-- The operations of one issue: the slot and the stepped operation. -/
abbrev Ops := List (Nat × Instr)

/-- The other V slot's operation. -/
def partnerOf (ops : Ops) (slot : Nat) : Option Instr :=
  (ops.find? fun x => x.1 = 3 - slot ∧ (slot = 1 ∨ slot = 2)).map (·.2)

/-- The destinations that an operation of an issue names, s0 among them (R66). DESIGN CHOICE (log entry 48): an MDRAIN.V counts with the register
that it names, its D, and not with those that its further entries fill. -/
def writes (ops : Ops) (x : Nat × Instr) : List Dest :=
  match x.2 with
  | .vdup f => (match partnerOf ops x.1 with
    | some p => [vdupDest p f.d]
    | none => [])
  | i => dests i

/-- The registers that an operation of an issue reads (R66): each distinct one counts once in the issue. VDUP adds none. -/
def reads (x : Nat × Instr) : List Dest :=
  (sources x.2).filterMap fun u =>
    if u.name.toNat < 64 then some (if u.space = .v then .v u.name.toNat else .s u.name.toNat)
    else if u.space = .v ∧ u.name.toNat < 72 then some (.o (u.name.toNat - 64)) else none

/-- The distinct members of a list. -/
def distinct {α : Type} [DecidableEq α] : List α → List α
  | [] => []
  | a :: r => if a ∈ r then distinct r else a :: distinct r

def Dest.isS : Dest → Bool | .s _ => true | _ => false
def Dest.isV : Dest → Bool | .v _ => true | _ => false
def Dest.isO : Dest → Bool | .o _ => true | _ => false

/-- Whether a handle gives its accesses their fixed latency: a valid SPAD handle (R136). -/
def Handle.ownSpad (h : Handle) : Bool := h.v && h.kind = .spad

/-- The fixed latency of an operation in a context, if it has one (R86, R136). -/
def fixedLatency (c : Ctx) (ops : Ops) (x : Nat × Instr) : Option Nat :=
  let l := match x.2 with
    | .vdup _ => (match partnerOf ops x.1 with
      | some p => latency p
      | none => .none)
    | i => latency i
  match l with
  | .fixed n => some n
  | .handle n h => if (c.handle h.toNat).ownSpad then some n else none
  | _ => none

/-- The slots of the operations that satisfy a condition, as SLOTS. -/
def slotsOf (ops : Ops) (p : Nat × Instr → Bool) : BitVec 7 :=
  ops.foldl (fun a x => if p x then a ||| slotBit x.1 else a) 0#7

/-- A fault of stage 3: its WHY and the slots involved, where any is. -/
def crossFault (why : BitVec 8) (slots : BitVec 7) : List (BitVec 8 × BitVec 7) := if slots = 0#7 then [] else [(why, slots)]

/-- The landings that an issue would add: cycle, destination and slot. -/
def newLandings (v : View) (ops : Ops) : List (Nat × Dest × Nat) :=
  ops.flatMap fun x =>
    match fixedLatency v.c ops x with
    | some n => ((writes ops x).filter fun d => d.isS || d.isV || (match d with | .o _ => true | .m _ => true | _ => false)).map
        fun d => (v.now + n, d, x.1)
    | none => []

/-- The slots whose landings break R67 together with results in flight. -/
def landingFault (v : View) (ops : Ops) : BitVec 7 :=
  let new := newLandings v ops
  let flight := v.c.landings.map fun l => (l.due, l.dest, 7)
  let all := new ++ flight
  new.foldl (fun a x =>
    let same := all.filter fun y => y.1 = x.1
    let bad := (x.2.1 ≠ .s 0 && (same.filter fun y => y.2.1 = x.2.1).length > 1) ||
      (x.2.1.isV && (same.filter fun y => y.2.1.isV).length > 3) ||
      (x.2.1.isS && (same.filter fun y => y.2.1.isS).length > 2)
    if bad then a ||| slotBit x.2.2 else a) 0#7

/-- The faults across slots (stage 3 of R68): R53, R66, R67, R69, R70. DESIGN CHOICES where R68 is silent: two slots that both name s0 as their
destination write no register, and give no 0x13 (log entry 47); where s[BSRC] takes the scalar reads over their limit, SLOTS names the slots
that read scalar registers by name, and not a slot that names bc (log entry 49). -/
def crossFaults (v : View) (ops : Ops) (p q : BitVec 7) : List (BitVec 8 × BitVec 7) :=
  let c := v.c
  let rd := distinct (ops.flatMap reads ++ (if v.i.be then [Dest.s v.i.bsrc.toNat] else []))
  let wr := ops.flatMap (writes ops)
  let busy := p ||| q
  crossFault whySameReg (slotsOf ops fun x => (writes ops x).any fun d => d ≠ .s 0 && (wr.filter (· = d)).length > 1) ++
  crossFault whyPorts
    (if (rd.filter Dest.isV).length > 6 || (rd.filter Dest.isS).length > 4 || (rd.filter Dest.isO).length > 2 ||
        ((distinct wr).filter Dest.isV).length > 3 || ((distinct wr).filter Dest.isS).length > 2
     then slotsOf ops fun x =>
       ((rd.filter Dest.isV).length > 6 && (reads x).any Dest.isV) || ((rd.filter Dest.isS).length > 4 && (reads x).any Dest.isS) ||
       ((rd.filter Dest.isO).length > 2 && (reads x).any Dest.isO) ||
       (((distinct wr).filter Dest.isV).length > 3 && (writes ops x).any Dest.isV) ||
       (((distinct wr).filter Dest.isS).length > 2 && (writes ops x).any Dest.isS)
     else 0#7) ++
  crossFault whyLanding (landingFault v ops) ++
  crossFault whyBroadcast (slotsOf ops fun x => !v.i.be && (sources x.2).any fun u => u.name = 0x50#8) ++
  crossFault whyVdup (slotsOf ops fun x => match x.2 with
    | .vdup _ => !((partnerOf ops x.1).elim false isPartner)
    | _ => false) ++
  crossFault whyService (if (c.mode = .service || isService (coreOf v.key)) then busy &&& 0b0111110#7 else 0#7)

/-- The smallest code of a list. -/
def leastWhy : List (BitVec 8) → BitVec 8
  | [] => 0xFF#8
  | w :: r => if (leastWhy r).toNat < w.toNat then leastWhy r else w

/-- The trap that legality gives an issue (stages 2 and 3 of R68). -/
def legalityTrap (v : View) (ops : Ops) (p q : BitVec 7) : Option Trap :=
  let faultsOf (x : Nat × Instr) := slotFaults { v with i := { v.i with partner := partnerOf ops x.1 } } x.2
  let bad := ops.filter fun x => faultsOf x ≠ []
  if bad ≠ [] then
    let why := leastWhy (bad.flatMap faultsOf)
    some { code := codeIllegalSlot, why := why, slots := slotsOf bad fun _ => true,
           slot := (bad.find? fun x => why ∈ faultsOf x).map (·.1) }
  else
    match crossFaults v ops p q with
    | [] => none
    | l =>
      let why := leastWhy (l.map (·.1))
      let of_ := (l.filter (·.1 = why)).foldl (fun a x => a ||| x.2) 0#7
      some { code := codeIllegalBundle, why := why, slots := l.foldl (fun a x => a ||| x.2) 0#7,
             slot := (List.range 7).find? fun k => of_.getLsbD (6 - k) }

/-- The trap of a declaration phase that needs no operand value (R294, order 2 of R377). -/
def declarationTrap (v : View) (ops : Ops) : Option Trap :=
  if v.c.walk.act && v.c.walk.dph && v.c.mode ≠ .service then
    let decl := ops.any fun x => match x.2 with | .wdecl _ => true | _ => false
    let why := if !decl then 0x73#8 else if ops.any (fun x => decide (x.1 ≠ 0)) then 0x75#8
      else if v.c.walk.ndecl = 4#3 then 0x74#8 else 0#8
    if why = 0#8 then none else some { code := codeDeclAlign, why := why, slots := slotBit 0 }
  else none

/-- The source uses of an operation under the EP bits of its own word or of the VDUP that repeats it (R140). -/
def sourcesUnder (i : Instr) (ep : BitVec 3) : List SourceUse :=
  (sources i).zipIdx.map fun (u : SourceUse × Nat) => { u.1 with ep := u.1.ep || ep.getLsbD (2 - u.2) }

/-- The source uses of an operation of an issue that read an empty register. A VDUP and its partner read the partner's sources, under the EP
bits of either word (R140). -/
def emptyUses (c : Ctx) (ops : Ops) (x : Nat × Instr) : List SourceUse :=
  let us := match x.2, partnerOf ops x.1 with
    | .vdup f, some p => sourcesUnder p f.ep
    | .vdup _, none => []
    | i, some (.vdup f) => sourcesUnder i f.ep
    | i, _ => sources i
  us.filter fun u => match u.reg with
    | some d => d ≠ Dest.s 0 && c.isEmpty d
    | none => false

/-- Whether an issue waits for an empty source under EP = 0 (R29, R88); a broadcast reads s[BSRC] without an EP bit. -/
def waitsForSource (v : View) (ops : Ops) : Bool :=
  (ops.any fun x => (emptyUses v.c ops x).any fun u => !u.ep) ||
  (v.i.be && v.i.bsrc ≠ 0#6 && v.c.isEmpty (.s v.i.bsrc.toNat))

/-- The EMPTY_READ of an issue (R88, order 3 of R377). -/
def emptyReadTrap (v : View) (ops : Ops) : Option Trap :=
  let slots := slotsOf ops fun x => (emptyUses v.c ops x).any fun u => u.ep
  if slots = 0#7 then none else some { code := codeEmptyRead, slots := slots }

end Sys2Proof.Machine
end

