-- ==== Sys2Proof/Machine/Access.lean ====
section
/-!
DEFINITION. Memory accesses of an issue: the elements an operation reaches, the checks of its handle (R93) and of an overwriting walk (R296),
the choice of a home (R247, R249) and the start of an access in flight (R209 to R214, R255).
-/
namespace Sys2Proof.Machine

/-- An element of a memory operation: its number, its offset from the handle's base, and its length in bytes. -/
structure Elem where
  elem : Nat
  off : Word
  len : Nat
  deriving DecidableEq, Repr

/-- The number of bytes of a TY. -/
def tyBytes (ty : BitVec 4) : Nat := tyWidth ty / 8

/-- An offset moved by an element's signed offset (R137, R202). -/
def signedOffset (w : Nat) (x : Nat) : Word := BitVec.ofInt 64 (signedOf w x)

/-- The active elements of a vector memory operation (R122). -/
def vectorActive (c : Ctx) (ty msk : BitVec 4) : List Nat := activeElems (maskOf c msk) (elemCount ty)

/-- The elements of LD and ST (R106). -/
def scalarElems (c : Ctx) (i : Issue) (f : FmtX) : List Elem :=
  let size := tyBytes f.ty
  let idx := if f.c = 0x80#8 then 0#64 else readS c i f.c
  [⟨0, f.offset (readS c i f.b) i.step.toNat + idx * BitVec.ofNat 64 size, size⟩]

/-- The elements of VLD and VST (R136). -/
def vectorElems (c : Ctx) (i : Issue) (f : FmtX) : List Elem :=
  let off := f.offset (readS c i f.b) i.step.toNat
  (vectorActive c f.ty f.msk).map fun e => ⟨e, off + BitVec.ofNat 64 (e * tyBytes f.ty), tyBytes f.ty⟩

/-- The elements of VGATH and VSCAT (R137). -/
def gatherElems (c : Ctx) (i : Issue) (f : FmtX) : List Elem :=
  let off := f.offset (readS c i f.b) i.step.toNat
  let idx := readV c i f.ty f.c
  (vectorActive c f.ty f.msk).map fun e => ⟨e, off + signedOffset (tyWidth f.ty) (elem (tyWidth f.ty) idx e), tyBytes f.ty⟩

/-- The element of AMO (R200). -/
def atomicElems (c : Ctx) (i : Issue) (f : FmtA) : List Elem := [⟨0, readS c i f.b, tyBytes f.ty⟩]

/-- The elements of VAMO (R202). -/
def vamoElems (c : Ctx) (i : Issue) (f : FmtA) : List Elem :=
  let off := readS c i f.b
  let idx := readV c i f.ty f.c
  (vectorActive c f.ty f.msk).map fun e => ⟨e, off + signedOffset (tyWidth f.ty) (elem (tyWidth f.ty) idx e), tyBytes f.ty⟩

/-- The address of an offset through a handle: a virtual address, or an offset for the other kinds (R268). -/
def Handle.address (h : Handle) (off : Word) : Word := h.base + off

/-- check_handle of R93 for the permission bit `perm`: 0 read, 1 write, 2 atomic. An MCAST handle carries write permission only (R91).
The bound of BOUND is tested on two's complement offsets. -/
def checkHandle (h : Handle) (off : Word) (n : Nat) (perm : Nat) : Option (BitVec 16) :=
  let top := h.base.toNat + off.toInt + n
  if !h.v then some codeHandleInvalid
  else if off.toInt < 0 ∨ off.toInt + n > h.bound.toNat ∨
      ((h.kind = .spad ∨ h.kind = .mcast) ∧ top > programArea) ∨ (h.kind = .cluster ∧ top > windowEnd) then some codeHandleBound
  else if !h.perm.getLsbD perm || (h.kind = .mcast && perm ≠ 1) then some codeHandlePerm
  else none

/-- A trap of a slot that carries the address of an access (R370). -/
def accessTrap (i : Issue) (code : BitVec 16) (va : Word) (idx : Nat) (why : BitVec 8) : Trap :=
  { code := code, why := why, idx := BitVec.ofNat 16 idx, slots := slotBit i.slot, va := va.setWidth 52 }

/-- The check of one range through a handle, as a trap (R93). -/
def rangeTrap (i : Issue) (h : Handle) (off : Word) (n : Nat) (perm : Nat) (idx : Nat) : Option Trap :=
  (checkHandle h off n perm).map fun code => accessTrap i code (h.address off) idx 0#8

/-- The one check of VLD and VST: from the first to the last active element (R136). -/
def spanTrap (i : Issue) (h : Handle) (perm : Nat) (es : List Elem) : Option Trap :=
  match es.head?, es.getLast? with
  | some a, some b => rangeTrap i h a.off ((b.off - a.off).toNat + b.len) perm 0
  | _, _ => none

/-! The overwriting walk (R292, R296). -/

/-- The window of a walk: its kind, its first address and its cells, as the handle stands (R292). -/
def windowStart (c : Ctx) : Nat := ((c.handle c.walk.wh.toNat).address (c.walk.off.setWidth 64)).toNat
/-- The cell size of the walk (R291). -/
def cellSize (c : Ctx) : Nat := 2 ^ c.walk.cell.toNat
/-- Whether an address range overlaps the window of the walk; a range of another kind does not (R296). -/
def inWindow (c : Ctx) (kind : HandleKind) (addr n : Nat) : Bool :=
  kind = (c.handle c.walk.wh.toNat).kind && decide (addr < windowStart c + c.walk.ncell.toNat * cellSize c) &&
    decide (windowStart c < addr + n)
/-- Whether the accesses of an issue are checked by the walk (R296, R300). -/
def walkChecks (c : Ctx) : Bool := c.walk.act && c.mode ≠ .service && !c.walk.dph
/-- The place of the byte of the cover map that holds a cell's bit (R292). -/
def coverPlace (key j : Nat) : Nat := spadPlace (coreOf key) (carveOut (ctxOf key) + 0x24000 + j / 8)
/-- The cover bit of a cell (R292). -/
def covered (m : List Host.Cell) (key j : Nat) : Bool := (Memory.get m (coverPlace key j)).getLsbD (j % 8)
/-- Whether a cell belongs to the declaration set (R294). -/
def declared (c : Ctx) (j : Nat) : Bool := c.walk.decl.any fun r => decide (r.1 ≤ j) && decide (j < r.2)

/-- The trap of a checked access whose window handle is invalid (R301). -/
def windowInvalid (c : Ctx) (i : Issue) (h : Handle) (va : Word) (idx : Nat) : Option Trap :=
  if walkChecks c && h.kind = (c.handle c.walk.wh.toNat).kind && !(c.handle c.walk.wh.toNat).v then
    some (accessTrap i codeHandleInvalid va idx 0#8) else none

/-- The trap of an element that reads in the window (R296). -/
def readTrap (c : Ctx) (i : Issue) (h : Handle) (e : Elem) : Option Trap :=
  if walkChecks c then
    (windowInvalid c i h (h.address e.off) e.elem).orElse fun _ =>
      if inWindow c h.kind (h.address e.off).toNat e.len then some (accessTrap i codeReadInWindow (h.address e.off) e.elem 0#8) else none
  else none

/-- The trap of an element that stores in the window (R296). -/
def writeTrap (c : Ctx) (i : Issue) (h : Handle) (e : Elem) : Option Trap :=
  if walkChecks c then
    (windowInvalid c i h (h.address e.off) e.elem).orElse fun _ =>
      let a := (h.address e.off).toNat
      let j := (a - windowStart c) / cellSize c
      let err (why : BitVec 8) := some (accessTrap i codeUndeclaredWrite (h.address e.off) e.elem why)
      if !inWindow c h.kind a e.len then none
      else if a < windowStart c ∨ (a + e.len - 1 - windowStart c) / cellSize c ≠ j ∨ c.walk.ncell.toNat ≤ j then err 0x02#8
      else if !declared c j then err 0x01#8
      else none
  else none

/-- The checks of elements one after another: of each, its handle and what else its operation checks; the first failure sets IDX (R137,
R202, R296, order 4 of R377). -/
def elemsTrap (i : Issue) (h : Handle) (perm : Nat) (more : Elem → Option Trap) (es : List Elem) : Option Trap :=
  es.findSome? fun e => (rangeTrap i h e.off e.len perm e.elem).orElse fun _ => more e

/-- The elements of a store that the walk leaves: those in covered cells are suppressed (R296, R297). -/
def unsuppressed (m : List Host.Cell) (c : Ctx) (key : Nat) (h : Handle) (es : List Elem) : List Elem :=
  if walkChecks c then
    es.filter fun e =>
      let a := (h.address e.off).toNat
      !(inWindow c h.kind a e.len && covered m key ((a - windowStart c) / cellSize c))
  else es

/-! Homes (R245 to R249). -/

/-- The position of the k-th set bit of a mask, counted from bit 0 as the 0-th. -/
def nthSet (mask : Nat) : Nat → Nat → Nat → Nat
  | 0, _, d => d
  | fuel + 1, k, d => if mask / 2 ^ d % 2 = 1 then (if k = 0 then d else nthSet mask fuel (k - 1) (d + 1)) else nthSet mask fuel k (d + 1)

/-- The number of set bits among the first n of a mask. -/
def popCount (mask n : Nat) : Nat := ((List.range n).filter fun d => decide (mask / 2 ^ d % 2 = 1)).length

/-- The interleave range of an address in the partition of a quarter: its number, page size bit and controllers (R246, R247). -/
def rangeOf (q : Quarter) (va : Nat) : Option (Bool × Nat) :=
  (List.range 16).findSome? fun n =>
    let b := q.ilbase.get 0#64 n
    let l := q.illim.get 0#64 n
    let g := va / 2 ^ 25
    if b.getLsbD 0 && decide ((b.extractLsb' 25 27).toNat ≤ g) && decide (g ≤ (l.extractLsb' 25 27).toNat) &&
      l.extractLsb' 0 24 ≠ 0#24 then some (b.getLsbD 1, (l.extractLsb' 0 24).toNat) else none

/-- The page number of an address under a page size (R247). -/
def pageOf (big : Bool) (va : Nat) : Nat := if big then va / 2 ^ 25 else va / 2 ^ 16

/-- The home of an address among the controllers of a mask (R247). -/
def homeOf (r : Bool × Nat) (va : Nat) : Nat :=
  nthSet r.2 24 ((pageOf r.1 va * 0x9E3779B97F4A7C15 % 2 ^ 64 / 2 ^ 40) % popCount r.2 24) 0

/-- Whether an address lies in the path window (R249). -/
def inPathWindow (va : Nat) : Bool := va / 2 ^ 48 % 16 = 0xD
/-- Whether an address lies in the control window (R344, R346). -/
def inControlWindow (va : Nat) : Bool := va / 2 ^ 48 % 16 = 0xE

/-- The path entry of an address in a partition (R249). -/
def Quarter.pathEntry (q : Quarter) (va : Nat) : PathEntry :=
  let k := va / 2 ^ 40 % 256
  ⟨k, q.patha.get 0#64 k, q.pathb.get 0#64 k⟩

/-- The quarter's registers as an access met them at its issue: its path entries are those (R249). -/
def Quarter.met (q : Quarter) (l : List PathEntry) : Quarter :=
  l.foldl (fun q e => { q with patha := q.patha.set e.num e.a, pathb := q.pathb.set e.num e.b }) q

/-- Whether a path entry carries an access of a containment identifier (R249). -/
def pathCarries (q : Quarter) (cid : BitVec 8) (va n : Nat) : Bool :=
  let a := (q.pathEntry va).a
  a.getLsbD 63 && a.extractLsb' 48 8 = cid && decide (va % 2 ^ 40 + n ≤ 2 ^ 40)

/-- Whether a tenant has an enabled function on the host port of a path entry; entries of other kinds need none (R249, R352). -/
def hasFunction (s : State) (q : Quarter) (cid : BitVec 8) (va : Nat) : Bool :=
  let kind := (q.pathEntry va).a.extractLsb' 61 2
  decide (2 ≤ kind.toNat) ||
    s.vfs.any fun v => v.2.map.getLsbD 8 && v.2.map.setWidth 8 = cid && v.2.map.getLsbD 9 = kind.getLsbD 0

/-- The tenant slots of a partition that are valid, as CIDs (R348). -/
def boundCids (q : Quarter) : List (BitVec 8) :=
  q.tslot.filterMap fun x => if x.2.getLsbD 63 then some (x.2.setWidth 8) else none

/-- Whether an operation is an 8-byte LD or ST (R346). -/
def isDoubleWord (op : OpRec) : Bool :=
  match decodeSlot (slotClass op.slot) op.sw with
  | .ok (.ld f) => f.ty = 3#4
  | .ok (.st f) => f.ty = 3#4
  | _ => false

/-- The fault of an access of a core to the control window, if it may not be made (R346). -/
def controlFault (s : State) (core : Nat) (cid : BitVec 8) (op : OpRec) (va n : Nat) : Option (BitVec 16 × BitVec 8) :=
  let unit := va / 2 ^ 24 % 256
  let off := va % 2 ^ 24
  if !isService core ∨ n ≠ 8 ∨ va % 8 ≠ 0 ∨ !isDoubleWord op then some (codeNotPresent, 0x34#8)
  else if cid = 0xFF#8 then none
  else if 0x30 ≤ unit ∧ unit < 0x34 ∧ cid ∈ boundCids (s.quarter (unit - 0x30)) ∧
      (off = 0x18 ∨ (0x10000 + 128 * cid.toNat ≤ off ∧ off < 0x10080 + 128 * cid.toNat)) then none
  else some (codeOwnership, 0x39#8)

/-- Whether traffic of a partition passes to a quarter (R340, R343). -/
def passes (s : State) (part q : Nat) : Bool :=
  ((s.quarter part).open_.getD (1#4 <<< part)).getLsbD q

/-- The fault that an access part takes at its core on the cycle after its issue, when it is sent nowhere (R248, R249, R343, R346). `q` holds
the path entries that the access met, and `reach` the first address and the length of the access over its path. -/
def coreFault (s : State) (q : Quarter) (core : Nat) (cid : BitVec 8) (op : OpRec) (reach : Nat × Nat) (va n : Nat) :
    Option (BitVec 16 × BitVec 8) :=
  let part := partOf s.pkg core
  if inPathWindow va then
    (if pathCarries q cid reach.1 reach.2 && hasFunction s q cid reach.1 then none else some (codeNotPresent, 0x3A#8))
  else if inControlWindow va then controlFault s core cid op va n
  else match rangeOf q va with
    | none => some (codeNotPresent, 0x30#8)
    | some r =>
      if s.pkg.fenced.getLsbD (homeOf r va) then some (codeNotPresent, 0x30#8)
      else if passes s part (quarterOf (homeOf r va)) then none else some (codeNotPresent, 0x35#8)

/-! The start of an access. -/

/-- The parts of an element: one where its address is a multiple of its size, and otherwise its bytes apart (R107). `pos` is its
offset in the data of the access. -/
def elemParts (addr pos : Nat) (e : Elem) : List Part :=
  if addr % e.len = 0 then [⟨e.elem, pos, addr, e.len, 0, false⟩]
  else (List.range e.len).map fun b => ⟨e.elem, pos + b, addr + b, 1, 0, false⟩

/-- The parts of elements laid end to end in the data of an access. -/
def layParts (h : Handle) : Nat → List Elem → List Part
  | _, [] => []
  | pos, e :: r => elemParts (h.address e.off).toNat pos e ++ layParts h (pos + e.len) r

/-- Whether the elements of an access fault independently (R256). -/
def elementwise (op : OpRec) : Bool :=
  match decodeSlot (slotClass op.slot) op.sw with
  | .ok (.vgath _) => true
  | .ok (.vscat _) => true
  | .ok (.vamo _) => true
  | _ => false

/-- The first address and the length of the access over a path that a part belongs to (R249): its element where the elements fault
independently, and otherwise all that the operation reaches in the path window. -/
def pathReach (op : OpRec) (ps : List Part) (p : Part) : Nat × Nat :=
  let l := ps.filter fun x => inPathWindow x.va && (!elementwise op || x.elem = p.elem)
  let lo := l.foldl (fun a x => min a x.va) p.va
  (lo, l.foldl (fun a x => max a (x.va + x.len)) (p.va + p.len) - lo)

/-- The core whose scratchpad holds a cluster-window offset (R90). -/
def windowCore (core off : Nat) : Nat := core / 8 * 8 + off / 128 % 8

/-- Whether a part of an access reaches the own scratchpad through a CLUSTER handle: such parts perform in issue order with the accesses of
R212 (log entry 44). -/
def ownPart (core : Nat) (kind : HandleKind) (p : Part) : Bool := kind = .cluster && windowCore core p.va = core

/-- A cycle given to each part: the next one for a part with no place, this one in the own scratchpad, a free one otherwise (log entry 2). -/
def timeParts (s : State) (core : Nat) (cid : BitVec 8) (kind : HandleKind) (op : OpRec) (ps : List Part) : List Part :=
  ps.zipIdx.map fun x =>
    { x.1 with due := if ownPart core kind x.1 then s.now
        else s.now + 1 + (if kind = .global &&
            (coreFault s (s.quarter (partOf s.pkg core)) core cid op (pathReach op ps x.1) x.1.va x.1.len).isSome then 0
          else Config.freeOrder s.free x.2) }

/-- The path entries that an access meets at its issue (R249). -/
def pathsMet (s : State) (core : Nat) (kind : HandleKind) (ps : List Part) : List PathEntry :=
  if kind = .global then ((distinct ((ps.filter fun p => inPathWindow p.va).map fun p => p.va / 2 ^ 40)).map fun k =>
    (s.quarter (partOf s.pkg core)).pathEntry (k * 2 ^ 40)) else []

/-- The number of the issue that a context makes: none for a handler's (R82, R261). -/
def Ctx.issueBseq (c : Ctx) : BitVec 48 := if c.mode = .service then 0#48 else c.bseq

/-- The operation record of the slot in issue (R267, R268). -/
def opRec (s : State) : OpRec :=
  let c := s.ctx s.cur.key
  { bseq := c.issueBseq, ino := c.ino, slot := s.cur.slot, sw := s.cur.sw, step := s.cur.step, svc := c.mode = .service,
    fuse := c.fuse }

/-- What the accesses of a context are held behind: ordered atomics (R201), and for reads the reads before a DRAIN.A (R214). -/
def heldBehind (c : Ctx) (isRead : Bool) : List Hold := c.holdAll ++ if isRead then c.holdLoads else []

/-- Whether an access writes its place. -/
def AccessOp.writes : AccessOp → Bool
  | .store => true
  | .atomic _ _ => true
  | _ => false

/-- An access through a CLUSTER handle that reaches the own scratchpad is noted in the issue (log entry 44). -/
def noteNear (key id : Nat) (kind : HandleKind) (ps : List Part) : Act :=
  Act.when (ps.any (ownPart (coreOf key) kind)) (modCur fun i => { i with near := i.near ++ [id] })

/-- Start an access of a context. -/
def startAccess (key : Nat) (op : OpRec) (what : AccessOp) (kind : HandleKind) (parts : List Part) (data cmp : List Byte)
    (scope : BitVec 3) (buffered : Bool) (f : Nat → Act) : Act :=
  withId fun id s =>
    let c := s.ctx key
    Act.seqs [fun _ => [.free, .acc id (some
      { key := key, cid := c.cid, op := op, kind := kind, what := what, parts := timeParts s (coreOf key) c.cid kind op parts,
        data := data, cmp := cmp, scope := scope, after := heldBehind c what.reads, fresh := c.fresh, freshC := c.freshC,
        paths := pathsMet s (coreOf key) kind parts, buffered := buffered })], noteNear key id kind parts, f id] s

/-- The store buffer entries that a context holds (R255). -/
def entriesHeld (s : State) (key : Nat) : Nat := (s.accs.filter fun x => x.2.key = key && x.2.buffered).length

/-- Whether the store buffer refuses n further entries of a context (R255). -/
def bufferFull (s : State) (key : Nat) : Nat → Nat → Bool
  | _, 0 => false
  | more, n + 1 =>
    let core := coreOf key
    let others := (List.range (contextsOf core)).filter fun x => keyOf core x ≠ key && (s.ctx (keyOf core x)).mode ≠ .unbound
    let held := entriesHeld s key + more
    let total := held + (others.map fun x => entriesHeld s (keyOf core x)).foldl (· + ·) 0
    let owed := (others.map fun x => 16 - entriesHeld s (keyOf core x)).foldl (· + ·) 0
    decide (32 ≤ held) || (decide (16 ≤ held) && decide (64 < total + 1 + owed)) || bufferFull s key (more + 1) n

/-- The bytes of a scalar value (R4). -/
def wordBytes (w : Word) (n : Nat) : List Byte := leBytes w.toNat n
/-- The bytes of elements of a vector value, in the order of the elements. -/
def elemBytes (w : Nat) (x : Vec) (es : List Elem) : List Byte := es.flatMap fun e => leBytes (elem w x e.elem) e.len

/-- The targets of an MCAST handle: the cores of the gang positions in its mask (R91). -/
def mcastCores (s : State) (key : Nat) (tgt : BitVec 96) : List Nat :=
  (s.ctxs.filter fun x => (s.ctx key).task.isSome && x.2.task = (s.ctx key).task && x.2.index = 0 && tgt.getLsbD x.2.pos.toNat).map
    fun x => coreOf x.1

/-- The new value of an atomic's memory word (R199): `old` and `op` as patterns of w bits. -/
def atomicNew (aop : Nat) (w old op cmp : Nat) : Nat :=
  match aop with
  | 0 => (old + op) % 2 ^ w
  | 1 => old &&& op
  | 2 => old ||| op
  | 3 => old ^^^ op
  | 4 => if signedOf w op < signedOf w old then op else old
  | 5 => if signedOf w old < signedOf w op then op else old
  | 6 => if op < old then op else old
  | 7 => if old < op then op else old
  | 8 => op
  | 9 => if old = cmp then op else old
  | _ => fp32AddRne old op

/-! The own scratchpad within one issue (R107, R138, R212). -/

/-- Bytes put into the data of an access at a position. -/
def putBytes (data : List Byte) (pos : Nat) (bytes : List Byte) : List Byte := data.take pos ++ bytes ++ data.drop (pos + bytes.length)

/-- What the performing of an access releases (R201, R214, R215): accesses and contexts that it holds read afresh from then on, at the scope
of their hold. -/
def freshAfter (id stamp : Nat) (holds : List Hold) (old : Nat × Nat) : Nat × Nat :=
  holds.foldl (fun x h => if h.id ≠ id || h.scope = 0#3 then x else if h.scope = 1#3 then (x.1, max x.2 stamp) else (max x.1 stamp, x.2)) old

/-- The performing of an access: what it held reads afresh (R215). -/
def releaseHolds (key id : Nat) : Act := fun s =>
  let up (a : Access) : Access :=
    let x := freshAfter id s.free a.after (a.fresh, a.freshC)
    { a with fresh := x.1, freshC := x.2 }
  let c := s.ctx key
  let x := freshAfter id s.free (c.holdLoads ++ c.holdAll) (c.fresh, c.freshC)
  ((s.accs.filter fun y => y.2.after.any fun h => h.id = id && h.scope ≠ 0#3).map fun y => .acc y.1 (some (up y.2))) ++
  (if x = (c.fresh, c.freshC) then [] else [.ctx key { c with fresh := x.1, freshC := x.2 }])

/-- A part of an access is over; the access is performed with its last part (R198, R255). A store outside GLOBAL memory then leaves; a
GLOBAL write waits for its acknowledgement. -/
def finishPart (id : Nat) (p : Part) (bytes : Option (List Byte)) : Act := fun s =>
  match s.accs.find id with
  | none => []
  | some a =>
    let parts := a.parts.map fun q => if q.elem = p.elem ∧ q.pos = p.pos then { q with done := true } else q
    let a := { a with parts := parts, data := match bytes with | some b => putBytes a.data p.pos b | none => a.data }
    if parts.all (·.done) then
      let fault := a.faulted.isSome && !elementwise a.op
      let a := { a with performed := if a.faulted.isSome then none else some s.now, ack := s.now + 1 + Config.freeNat s.free }
      (if a.faulted.isSome then [] else releaseHolds a.key id s) ++
        (if !fault && a.faulted.isNone && a.what = .store && !a.buffered then [.free, .acc id none] else [.free, .acc id (some a)])
    else [.acc id (some a)]

/-- The new bytes of an atomic part, and the old ones (R199). -/
def atomicBytes (a : Access) (p : Part) (old : List Byte) : List Byte :=
  match a.what with
  | .atomic aop _ => leBytes (atomicNew aop.toNat (8 * p.len) (leNat old) (leNat ((a.data.drop p.pos).take p.len)) (leNat a.cmp)) p.len
  | _ => old

/-- The place of a byte of the own scratchpad that a part reaches. -/
def ownPlace (core : Nat) (p : Part) : Nat := windowPlace core p.va

/-- Whether a part that reaches the own scratchpad has a byte among places. -/
def partMeets (core : Nat) (places : List Nat) (p : Part) : Bool :=
  !p.done && windowCore core p.va = core && places.any fun a => decide (ownPlace core p ≤ a) && decide (a < ownPlace core p + p.len)

/-- The byte at a place with the stores of the issue so far. -/
def byteNow (s : State) (a : Nat) : Byte :=
  match s.cur.stores.reverse.find? fun x => x.1 = a with
  | some x => x.2
  | none => Memory.get s.mem a

/-- A part of an earlier slot's store or atomic takes its place among the stores of the issue, before a store that follows it there (R138). -/
def foldPart (id : Nat) (p : Part) : Act := fun s =>
  match s.accs.find id with
  | none => []
  | some a =>
    let place := ownPlace (coreOf a.key) p
    let old := (List.range p.len).map fun b => byteNow s (place + b)
    let new := match a.what with | .store => (a.data.drop p.pos).take p.len | _ => atomicBytes a p old
    let places := (List.range p.len).map fun b => place + b
    if !a.what.writes then []
    else Act.seq (modCur fun i => { i with stores := i.stores ++ places.zip new,
                                           rmw := if a.what.reads then i.rmw ++ places else i.rmw.filter fun x => decide (x ∉ places) })
      (finishPart id p (if a.what.reads then some old else none)) s

/-- The parts of the accesses of the issue that reach the own scratchpad at places. -/
def nearParts (s : State) (key : Nat) (places : List Nat) : List (Nat × Part) :=
  s.cur.near.flatMap fun id => match s.accs.find id with
    | some a => (a.parts.filter (partMeets (coreOf key) places)).map fun p => (id, p)
    | none => []

/-- The parts of the accesses of the issue that reach the own scratchpad, in the order of their slots. -/
def ownParts (s : State) (key : Nat) : List (Nat × Part) :=
  s.cur.near.flatMap fun id => match s.accs.find id with
    | some a => (a.parts.filter fun p => !p.done && windowCore (coreOf key) p.va = coreOf key).map fun p => (id, p)
    | none => []

/-- Earlier slots' writes through a CLUSTER handle come before an own-scratchpad write of the issue to the same bytes; all of them take their places,
so that their own order stands (R138). -/
def foldNear (key : Nat) (places : List Nat) : Act := fun s =>
  if nearParts s key places = [] then [] else Act.each (ownParts s key) (fun x => foldPart x.1 x.2) s

/-- Loads of the issue through a CLUSTER handle read before the own-scratchpad stores of the issue (R107). -/
def readNear (key : Nat) (places : List Nat) : Act := fun s =>
  Act.each (nearParts s key places) (fun x s => match s.accs.find x.1 with
    | some a => if a.what.writes then [] else finishPart x.1 x.2 (some (Memory.read s.mem (ownPlace (coreOf key) x.2) x.2.len)) s
    | none => []) s

/-- The line of the cluster window that holds a place of the own scratchpad (R90). -/
def windowLine (core place : Nat) : Nat := place % 2 ^ 22 / 128 * 8 + core % 8

/-- The own-scratchpad places that an issue reaches are noted: the lines that hold them serve no later load (R213, R215). -/
def touch (core : Nat) (places : List Nat) : Act :=
  modCur fun i => { i with touched := distinct (i.touched ++ places.map (windowLine core)) }

/-- The lines of the cluster window that the issue touched leave the vector data cache of its core (R213, R215). -/
def dropTouched (core : Nat) : Act := fun s =>
  if (s.core core).vcache.any fun l => l.window && decide (l.va ∈ s.cur.touched) then
    modCore core (fun x => { x with vcache := x.vcache.filter fun l => !(l.window && decide (l.va ∈ s.cur.touched)) }) s
  else []

/-- The places that elements reach in the own scratchpad through a handle, in their order. -/
def elemPlaces (core : Nat) (h : Handle) (es : List Elem) : List Nat :=
  es.flatMap fun e => (List.range e.len).map fun b => spadPlace core ((h.address e.off).toNat + b)

/-- The store of elements through a handle (R106, R136, R137): own-scratchpad stores perform at the end of the issue; an MCAST store
lands 24 cycles later; CLUSTER and GLOBAL stores go to their places. Data is laid end to end. -/
def storeElems (key : Nat) (op : OpRec) (h : Handle) (es : List Elem) (data : List Byte) : Act := fun s =>
  match h.kind with
  | .spad =>
    let places := elemPlaces (coreOf key) h es
    Act.seq (foldNear key places) (modCur fun i =>
      { i with stores := i.stores ++ places.zip data, rmw := i.rmw.filter fun a => decide (a ∉ places) }) s
  | .mcast =>
    withId (fun id s => [.mcast id (some
      { due := s.now + 24, pos := (s.ctx key).pos.toNat, key := key, op := op,
        after := (s.ctx key).holdAll.map (·.id), cores := mcastCores s key h.tgt,
        bytes := (es.flatMap fun e => (List.range e.len).map fun b => (h.address e.off).toNat + b).zip data })]) s
  | k => if es = [] then [] else
      startAccess key op .store k (layParts h 0 es) data [] 3#3 (k = .global) (fun _ => Act.skip) s

/-- The bytes of an element in the own scratchpad, as they stand before the stores of the issue (R107). -/
def spadBytes (s : State) (key : Nat) (h : Handle) (e : Elem) : List Byte :=
  Memory.read s.mem (spadPlace (coreOf key) (h.address e.off).toNat) e.len

/-- The bytes of an element in the own scratchpad with the stores of the issue so far: what an atomic of the issue meets. -/
def spadBytesNow (s : State) (key : Nat) (h : Handle) (e : Elem) : List Byte :=
  (List.range e.len).map fun b => byteNow s (spadPlace (coreOf key) ((h.address e.off).toNat + b))

/-- A loaded datum as LD writes it (R105). -/
def loadExtend (ty : BitVec 4) (x : Nat) : Word :=
  if isFpTy ty then BitVec.ofNat 64 x else BitVec.ofInt 64 (signedOf (tyWidth ty) x)
/-- The old value of an atomic as AMO writes it (R199). -/
def atomicOld (ty : BitVec 4) (x : Nat) : Word := if ty = 2#4 then BitVec.ofInt 64 (signedOf 32 x) else BitVec.ofNat 64 x

/-- Elements of width w placed from loaded bytes laid end to end. -/
def placeElems (w : Nat) (es : List Nat) (data : List Byte) : Vec × Vec :=
  ofElems w (es.zipIdx.map fun x => (x.1, leNat ((data.drop (x.2 * (w / 8))).take (w / 8))))

end Sys2Proof.Machine
end

