-- ==== Sys2Proof/Machine/Slot.lean ====
section
/-!
DEFINITION. The issue of operations: what refuses an issue for now (R29, R35, R139, R168, R191, R255, R266), the order of the traps of one
issue (R377), its commitment, and how operations deliver results (R86, R87).
-/
namespace Sys2Proof.Machine

/-- An operation of an issue: its slot, its slot word as given, its step and the stepped operation. -/
structure SlotIssue where
  slot : Nat
  sw : Word
  step : W32
  op : Instr
  deriving DecidableEq, Repr

/-- What an operation of an issue does: it takes a precise trap, or makes its changes. It reads the issue in `cur`. -/
abbrev SlotOp := State → Except Trap (List Effect)

/-- The slots and operations of an issue. -/
def opsOf (l : List SlotIssue) : Ops := l.map fun x => (x.slot, x.op)

/-! What an issue asks of the engines. -/

/-- Whether an operation is a variable-latency read (R265, R266). -/
def isVarRead (c : Ctx) (i : Instr) : Bool :=
  match i with
  | .ld f => !(c.handle f.h.toNat).ownSpad
  | .vld f => !(c.handle f.h.toNat).ownSpad
  | .vgath f => !(c.handle f.h.toNat).ownSpad
  | .div _ => true
  | .rem _ => true
  | .join _ => true
  | .qpop _ => true
  | .mdrainV _ => true
  | .pqpop _ => true
  | _ => false

/-- The variable-latency reads of a context that are issued and unfinished (R266). -/
def varReads (s : State) (key : Nat) : Nat :=
  let c := s.ctx key
  (c.pending.filter fun p => p.op.slot ≠ 3 && p.op.slot ≠ 4 && p.op.slot ≠ 5 && (match p.src with
    | .access id => (match s.accs.find id with
      | some a => a.what = .load
      | none => true)
    | _ => true)).length +
  (distinct ((c.pending.filter (·.op.slot = 3)).map (·.op.ino) ++ (c.mops.filter fun m => match decodeSlot .m m.op.sw with
    | .ok (.mdrainV _) => true
    | _ => false).map (·.op.ino))).length

/-- The copies of a context that are issued and unfinished (R266). -/
def copiesOf (s : State) (key : Nat) : Nat := (s.copies.filter fun x => x.2.key = key && !x.2.silent).length

/-- Whether an operation is a copy (R75), and whether it is an .AT form. -/
def copyKind (i : Instr) : Option Bool :=
  match encodeSlot i with
  | some (.c, w) => some (decide (0x10 ≤ (w.extractLsb' 56 8).toNat))
  | _ => none

/-- The copy engine of a slot of a core (R34). -/
def engineOf (core slot : Nat) : Nat := clusterOf core * 2 + (slot - 4)

/-- Whether an operation is an M operation. -/
def isMOp (i : Instr) : Bool :=
  match encodeSlot i with
  | some (.m, _) => true
  | _ => false

/-- Whether an operation takes a store buffer entry (R255): a GLOBAL store that writes something, or a GLOBAL atomic. -/
def takesEntry (s : State) (key : Nat) (x : SlotIssue) : Bool :=
  let c := s.ctx key
  let i := { s.cur with slot := x.slot, sw := x.sw, step := x.step }
  let g (h : BitVec 4) := (c.handle h.toNat).kind = .global
  match x.op with
  | .st f => g f.h && unsuppressed s.mem c key (c.handle f.h.toNat) (scalarElems c i f) ≠ []
  | .vst f => g f.h && unsuppressed s.mem c key (c.handle f.h.toNat) (vectorElems c i f) ≠ []
  | .vscat f => g f.h && unsuppressed s.mem c key (c.handle f.h.toNat) (gatherElems c i f) ≠ []
  | .amo f => g f.h
  | .vamo f => g f.h && vamoElems c i f ≠ []
  | _ => false

/-- The queue of a QPUSH. -/
def pushQueue (i : Instr) : Option Nat := match i with | .qpush f => some (f.var.extractLsb' 0 3).toNat | _ => none
/-- The queue of a QPOP. -/
def popQueue (i : Instr) : Option Nat := match i with | .qpop f => some (f.var.extractLsb' 0 3).toNat | _ => none

/-- The entries that a queue holds: those whose claims are not filled (R182). -/
def Queue.held (q : Queue) : Nat := (q.entries.filter fun e => !e.taken).length
/-- Whether a queue is full: it holds 16 entries, claimed ones included (R182). -/
def Queue.full (q : Queue) : Bool := decide (16 ≤ q.held)

/-- The unfilled claims of a context on a queue (R139). -/
def claimsOn (c : Ctx) (q : Nat) : Nat :=
  (c.pending.filter fun p => match p.src with | .claim k .. => k = q | _ => false).length

/-- Whether a barrier was armed at the start of this cycle (R195). DESIGN CHOICE (log entry 111): so a BWAIT that issues on the cycle on which a BARM takes
effect passes, where R223's sequence has it wait. -/
def armedAtStart (b : Barrier) (now : Nat) : Bool := if b.updated = now then b.before else b.armd

/-- The entries that a CID has in a die's priority queue, pushes on the way among them (R206). -/
def pqEntries (d : Die) (cid : BitVec 8) : Nat :=
  (d.pq.filter fun e => e.cid = cid).length + (d.pqMoves.filter fun m => m.push.isSome && m.cid = cid).length
/-- All entries of a die's priority queue. -/
def pqAll (d : Die) : Nat := d.pq.length + (d.pqMoves.filter fun m => m.push.isSome).length

/-- Whether a copy of key has unfinished work that a handler issued; RESUME waits for it (R280). -/
def handlerBusy (s : State) (key : Nat) : Bool :=
  let c := s.ctx key
  c.landings.any (·.op.svc) || c.pending.any (·.op.svc) || c.mops.any (·.op.svc) ||
  s.accs.any (fun x => x.2.key = key && x.2.op.svc) || s.copies.any (fun x => x.2.key = key && x.2.op.svc) ||
  s.mcasts.any fun x => x.2.key = key && x.2.op.svc && !x.2.landed

/-- Whether a result is a scalar one. -/
def scalarDest (d : Dest) : Bool := match d with | .s _ => true | _ => false

/-- Whether a scalar result of a context is in flight (R333): a landing, an arrival, or the token of a copy whose bytes are not all
performed. -/
def scalarInFlight (s : State) (key : Nat) : Bool :=
  let c := s.ctx key
  (c.landings.any fun l => scalarDest l.dest) || (c.pending.any fun p => p.dests.any scalarDest) ||
  s.copies.any fun x => x.2.key = key && decide (x.2.tok ≠ 0) && !x.2.silent

/-- The line of a core's instruction cache that holds an address (R48, R254). -/
def fetchedLine (s : State) (key va : Nat) : Option CacheLine :=
  (s.core (coreOf key)).icache.find? fun l => l.cid = effectiveCid (s.ctx key).cid va && l.va = va / 64

/-- The bytes from an address that lie in one fetched line (R48). -/
def fetchedBytes (s : State) (key va n : Nat) : Option (List Byte) := (fetchedLine s key va).map fun l => (l.data.drop (va % 64)).take n

/-- The metadata word at MPC, once it is fetched (R174, R175). -/
def fetchedMeta (s : State) (key : Nat) : Option (BitVec 256) :=
  (fetchedBytes s key (s.ctx key).mpc.toNat 32).map fun b => BitVec.ofNat 256 (leNat b)

/-- Whether one operation is refused on this cycle, whatever else the issue holds. -/
def refusedAlone (s : State) (key : Nat) (i : Instr) : Bool :=
  let c := s.ctx key
  let core := s.core (coreOf key)
  match i with
  | .bwait f => armedAtStart (core.bars.get {} (f.sf.extractLsb' 0 11).toNat) s.now
  | .gbarrive _ => c.ga.isSome
  | .gbwait f => c.ga = some (f.sf.extractLsb' 0 11).toNat
  | .fork _ => decide (64 ≤ core.deque.length) || c.jcnt = 65535#16
  | .pqpush _ =>
    let d := s.die (dieOf (coreOf key))
    decide ((s.block (partOf s.pkg (coreOf key)) c.cid.toNat).pqshare.toNat ≤ pqEntries d c.cid) || decide (65536 ≤ pqAll d)
  | .mldwS _ => (fetchedMeta s key).isNone
  | .resume _ => handlerBusy s key
  | .phase _ => scalarInFlight s key
  | .phaseOff _ => scalarInFlight s key
  | _ => false

/-- Whether an engine refuses an issue on this cycle (R29): `engines` says which copy engines accept an operation of the core. -/
def refused (s : State) (key : Nat) (engines : Nat → Bool) (l : List SlotIssue) : Bool :=
  let c := s.ctx key
  let count (p : Instr → Bool) := (l.filter fun x => p x.op).length
  let core := coreOf key
  l.any (fun x => refusedAlone s key x.op) ||
  (decide (0 < count (isVarRead c)) && decide (32 < varReads s key + count (isVarRead c))) ||
  (decide (0 < count fun i => (copyKind i).isSome) && decide (32 < copiesOf s key + count fun i => (copyKind i).isSome)) ||
  l.any (fun x => match copyKind x.op with
    | some at_ =>
      let e := engineOf core x.slot
      !engines e || (at_ && decide (8 ≤ (s.copies.filter fun y => y.2.engine = e && y.2.launch.isSome && !y.2.launched).length))
    | none => false) ||
  (decide (0 < count isMOp) && decide (4 ≤ (c.mops.filter fun m => !m.begun).length)) ||
  l.any (fun x => match pushQueue x.op with
    | some q => decide (16 < (c.queue q).held + count fun i => pushQueue i = some q)
    | none => false) ||
  l.any (fun x => match popQueue x.op with
    | some q => decide (8 < claimsOn c q + count fun i => popQueue i = some q)
    | none => false) ||
  bufferFull s key 0 (l.filter (takesEntry s key)).length

/-- The copy engines that have accepted nothing on this cycle (R35). -/
def freeEngines (s : State) (e : Nat) : Bool := (s.engine e).acceptedAt ≠ some s.now

/-! The judgement of an issue. -/

/-- What becomes of an issue: it waits, a precise trap takes it, or it commits. -/
inductive Verdict where
  | waits
  | traps (t : Trap)
  | commits (effects : List Effect)

/-- The operations of an issue in slot order; the first trap ends it (order 4 of R377). DESIGN CHOICE (log entry 108): so the QPOPs of an issue take their
ordinals before an MDRAIN.V of the same queue does (R181). -/
def runSlots : List (SlotIssue × SlotOp) → SlotOp
  | [], _ => .ok []
  | (x, op) :: r, s =>
    let e0 : List Effect := [.cur { s.cur with slot := x.slot, sw := x.sw, step := x.step }]
    match op (applyAll e0 s) with
    | .error t => .error t
    | .ok e1 =>
      match runSlots r (applyAll (e0 ++ e1) s) with
      | .error t => .error t
      | .ok e2 => .ok (e0 ++ e1 ++ e2)

/-- The own-scratchpad stores of an issue are applied after every load of the issue (R107, R138, R212). -/
def flushStores : Act := fun s =>
  let places := s.cur.stores.map (·.1)
  if s.cur.stores = [] then []
  else Act.seqs [readNear s.cur.key places, fun _ => s.cur.stores.map fun x => Effect.mem x.1 [x.2], modCur fun i => { i with stores := [] },
    touch (coreOf s.cur.key) places] s

/-- The partner of a VDUP in the issue, and the issue as its operations see it. -/
def withPartner (s : State) (ops : Ops) : State :=
  { s with cur := { s.cur with partner := ops.findSome? fun x => match x.2 with
      | .vdup _ => partnerOf ops x.1
      | _ => none } }

/-- The judgement of an issue: legality, waits for sources and engines, the declaration phase, EMPTY_READ and the traps of the
operations, in the order of R377 (log entry 21). `others` are operations of the same issue that are only looked at. -/
def judge (engines : Nat → Bool) (p q : BitVec 7) (others : Ops) (l : List (SlotIssue × SlotOp)) (s : State) : Verdict :=
  let ls := l.map (·.1)
  let v := s.view
  let ops := opsOf ls ++ others
  match legalityTrap v ops p q with
  | some t => .traps t
  | none =>
    if waitsForSource v ops || refused s s.cur.key engines ls then .waits
    else match declarationTrap v ops with
      | some t => .traps t
      | none => match emptyReadTrap v ops with
        | some t => .traps t
        | none =>
          let s' := withPartner s ops
          match runSlots l s' with
          | .error t => .traps t
          | .ok e => .commits (.cur s'.cur :: e ++ flushStores (applyAll (.cur s'.cur :: e) s))

/-- The stop that follows an issue which executed TRAP (R259, R279). -/
def softwareStop : Act := fun s =>
  match s.cur.trapped with
  | some idx => Act.seq (modCur fun i => { i with trapped := none })
      (takeStop s.cur.key .software { code := codeSwtrap, idx := idx, slots := slotBit 0 }) s
  | none => []

/-- The slot of an operation issued alone: that of the issue in progress where its class fits, else the first of its class. -/
def slotFor (s : State) (i : Instr) : Nat :=
  match encodeSlot i with
  | some (c, _) => if slotClass s.cur.slot = c then s.cur.slot else c.slot
  | none => 0

/-- The operation of the other V slot that a VDUP issued alone looks at: the partner of the issue in progress (R140). -/
def besides (s : State) (slot : Nat) (i : Instr) : Ops :=
  match i, s.cur.partner with
  | .vdup _, some p => [(3 - slot, p)]
  | _, _ => []

/-- The meaning of a slot operation: it is issued alone in the issue in progress. A context that may not issue does nothing. -/
def runOne (i : Instr) (op : SlotOp) (s : State) : Host.Outcome State Fault Refusal :=
  let m := (s.ctx s.cur.key).mode
  if m = .run ∨ m = .service then
    let x : SlotIssue := ⟨slotFor s i, s.cur.sw, s.cur.step, i⟩
    match judge (freeEngines s) (slotBit x.slot) 0#7 (besides s x.slot i) [(x, op)] s with
    | .waits => .next s
    | .traps t => done (takePrecise s.cur.key t) s
    | .commits e => done (Act.seq (fun _ => e) softwareStop) s
  else .next s

/-! Delivery of results. -/

/-- An operation that makes changes and takes no trap. -/
def act (f : Act) : SlotOp := fun s => .ok (f s)
/-- A fixed-latency result is on its way (R86). -/
def land (r : OpRec) (n : Nat) (d : Dest) (v : Result) : Act := fun s =>
  modCtx s.cur.key (fun c => { c with landings := c.landings ++ [⟨r, s.now + n, d, v⟩] }) s

/-- A variable-latency operation is under way: its destinations are empty (R87). -/
def pend (r : OpRec) (ds : List Dest) (src : Source) : Act := fun s =>
  modCtx s.cur.key (fun c =>
    ds.foldl (fun c d => c.markEmpty r.order d) { c with pending := c.pending ++ [⟨r, ds, src⟩] }) s

/-- The values of the source fields of an operation that reads the scalar space. -/
def scalarSources (s : State) (i : Instr) : List Word := (sources i).map fun u => readS (s.ctx s.cur.key) s.cur u.name

/-- A fixed-latency operation of the S slot (R94): it captures its sources and lands its result. -/
def scalarOp (i : Instr) (d : OpName) (f : Word → Word → Word → Word) : SlotOp := act fun s =>
  let v := scalarSources s i
  let a := v.getD 0 0#64
  let b := v.getD 1 0#64
  let x := v.getD 2 0#64
  match latency i with
  | .fixed n => land { opRec s with ca := a, cb := b, cc := x } n (.s d.toNat) (.word (f a b x)) s
  | _ => []

/-- An action of the S slot on issue + 1, with its captures. -/
def scalarAct (i : Instr) (a : Action) : Act := fun s =>
  let v := scalarSources s i
  land { opRec s with ca := v.getD 0 0#64, cb := v.getD 1 0#64, cc := v.getD 2 0#64 } 1 .none (.act a) s

end Sys2Proof.Machine
end

