-- ==== Sys2Proof/Machine/Scalar.lean ====
section
/-!
DEFINITION. The integer instructions of the S slot (R94 to R101).
-/
namespace Sys2Proof.Machine

/-- The high w bits of a product (R98): VAR 0 signed, 1 unsigned, 2 signed A times unsigned B. -/
def mulHigh (ty : BitVec 4) (var : Nat) (a b : Word) : Word :=
  let x : Int := if var = 1 then (unsignedIn ty a).toNat else (signedIn ty a).toInt
  let y : Int := if var = 0 then (signedIn ty b).toInt else (unsignedIn ty b).toNat
  BitVec.ofInt 64 (x * y / 2 ^ opWidth ty)

/-- The order of MIN and MAX: signed, or unsigned under VAR 1 (R98). -/
def lessThan (ty : BitVec 4) (var : BitVec 8) (a b : Word) : Bool :=
  if var = 0#8 then (signedIn ty a).slt (signedIn ty b) else (unsignedIn ty a).ult (unsignedIn ty b)

/-- The leading zero bits of the low w bits of a value (R98). -/
def leadingZeros (w : Nat) (a : Word) : Nat :=
  if a.toNat % 2 ^ w = 0 then w else w - 1 - Nat.log2 (a.toNat % 2 ^ w)

/-- A value with bits [16k + 15:16k] replaced (R101). -/
def insertField (a : Word) (k : Nat) (imm : BitVec 16) : Word :=
  (a &&& ~~~((0xFFFF#64) <<< (16 * k))) ||| (imm.setWidth 64 <<< (16 * k))

/-- ADD (R98): A + B. -/
def resAdd (f : FmtR) (a b _ : Word) : Word := resultOut f.ty (a + b)
/-- ADD in its slot: the result lands after its latency (R86). -/
def opAdd (f : FmtR) : SlotOp := scalarOp (.add f) f.d (resAdd f)
/-- The meaning of ADD. -/
def execAdd (f : FmtR) (s : State) : Host.Outcome State Fault Refusal := runOne (.add f) (opAdd f) s

/-- SUB (R98): A - B. -/
def resSub (f : FmtR) (a b _ : Word) : Word := resultOut f.ty (a - b)
/-- SUB in its slot: the result lands after its latency (R86). -/
def opSub (f : FmtR) : SlotOp := scalarOp (.sub f) f.d (resSub f)
/-- The meaning of SUB. -/
def execSub (f : FmtR) (s : State) : Host.Outcome State Fault Refusal := runOne (.sub f) (opSub f) s

/-- MUL (R98): the low bits of A times B. -/
def resMul (f : FmtR) (a b _ : Word) : Word := resultOut f.ty (a * b)
/-- MUL in its slot: the result lands after its latency (R86). -/
def opMul (f : FmtR) : SlotOp := scalarOp (.mul f) f.d (resMul f)
/-- The meaning of MUL. -/
def execMul (f : FmtR) (s : State) : Host.Outcome State Fault Refusal := runOne (.mul f) (opMul f) s

/-- MULH (R98): the high w bits of A times B. -/
def resMulh (f : FmtR) (a b _ : Word) : Word := resultOut f.ty (mulHigh f.ty f.var.toNat a b)
/-- MULH in its slot: the result lands after its latency (R86). -/
def opMulh (f : FmtR) : SlotOp := scalarOp (.mulh f) f.d (resMulh f)
/-- The meaning of MULH. -/
def execMulh (f : FmtR) (s : State) : Host.Outcome State Fault Refusal := runOne (.mulh f) (opMulh f) s

/-- AND (R98): A AND B. -/
def resAnd (f : FmtR) (a b _ : Word) : Word := resultOut f.ty (a &&& b)
/-- AND in its slot: the result lands after its latency (R86). -/
def opAnd (f : FmtR) : SlotOp := scalarOp (.and f) f.d (resAnd f)
/-- The meaning of AND. -/
def execAnd (f : FmtR) (s : State) : Host.Outcome State Fault Refusal := runOne (.and f) (opAnd f) s

/-- OR (R98): A OR B. -/
def resOr (f : FmtR) (a b _ : Word) : Word := resultOut f.ty (a ||| b)
/-- OR in its slot: the result lands after its latency (R86). -/
def opOr (f : FmtR) : SlotOp := scalarOp (.or f) f.d (resOr f)
/-- The meaning of OR. -/
def execOr (f : FmtR) (s : State) : Host.Outcome State Fault Refusal := runOne (.or f) (opOr f) s

/-- XOR (R98): A XOR B. -/
def resXor (f : FmtR) (a b _ : Word) : Word := resultOut f.ty (a ^^^ b)
/-- XOR in its slot: the result lands after its latency (R86). -/
def opXor (f : FmtR) : SlotOp := scalarOp (.xor f) f.d (resXor f)
/-- The meaning of XOR. -/
def execXor (f : FmtR) (s : State) : Host.Outcome State Fault Refusal := runOne (.xor f) (opXor f) s

/-- SHL (R98): A shifted left by B mod w. -/
def resShl (f : FmtR) (a b _ : Word) : Word := resultOut f.ty (a <<< (b.toNat % opWidth f.ty))
/-- SHL in its slot: the result lands after its latency (R86). -/
def opShl (f : FmtR) : SlotOp := scalarOp (.shl f) f.d (resShl f)
/-- The meaning of SHL. -/
def execShl (f : FmtR) (s : State) : Host.Outcome State Fault Refusal := runOne (.shl f) (opShl f) s

/-- SHR (R98): A shifted right by B mod w, zeros in. -/
def resShr (f : FmtR) (a b _ : Word) : Word := resultOut f.ty (unsignedIn f.ty a >>> (b.toNat % opWidth f.ty))
/-- SHR in its slot: the result lands after its latency (R86). -/
def opShr (f : FmtR) : SlotOp := scalarOp (.shr f) f.d (resShr f)
/-- The meaning of SHR. -/
def execShr (f : FmtR) (s : State) : Host.Outcome State Fault Refusal := runOne (.shr f) (opShr f) s

/-- SAR (R98): A shifted right by B mod w, sign copies in. -/
def resSar (f : FmtR) (a b _ : Word) : Word := resultOut f.ty ((signedIn f.ty a).sshiftRight (b.toNat % opWidth f.ty))
/-- SAR in its slot: the result lands after its latency (R86). -/
def opSar (f : FmtR) : SlotOp := scalarOp (.sar f) f.d (resSar f)
/-- The meaning of SAR. -/
def execSar (f : FmtR) (s : State) : Host.Outcome State Fault Refusal := runOne (.sar f) (opSar f) s

/-- MIN (R98): the lesser of A and B. -/
def resMin (f : FmtR) (a b _ : Word) : Word := resultOut f.ty (if lessThan f.ty f.var b a then b else a)
/-- MIN in its slot: the result lands after its latency (R86). -/
def opMin (f : FmtR) : SlotOp := scalarOp (.min f) f.d (resMin f)
/-- The meaning of MIN. -/
def execMin (f : FmtR) (s : State) : Host.Outcome State Fault Refusal := runOne (.min f) (opMin f) s

/-- MAX (R98): the greater of A and B. -/
def resMax (f : FmtR) (a b _ : Word) : Word := resultOut f.ty (if lessThan f.ty f.var a b then b else a)
/-- MAX in its slot: the result lands after its latency (R86). -/
def opMax (f : FmtR) : SlotOp := scalarOp (.max f) f.d (resMax f)
/-- The meaning of MAX. -/
def execMax (f : FmtR) (s : State) : Host.Outcome State Fault Refusal := runOne (.max f) (opMax f) s

/-- CLZ (R98): the leading zero bits of A. -/
def resClz (f : FmtR) (a _ _ : Word) : Word := BitVec.ofNat 64 (leadingZeros (opWidth f.ty) a)
/-- CLZ in its slot: the result lands after its latency (R86). -/
def opClz (f : FmtR) : SlotOp := scalarOp (.clz f) f.d (resClz f)
/-- The meaning of CLZ. -/
def execClz (f : FmtR) (s : State) : Host.Outcome State Fault Refusal := runOne (.clz f) (opClz f) s

/-- POPC (R98): the one bits of A. -/
def resPopc (f : FmtR) (a _ _ : Word) : Word := BitVec.ofNat 64 (popCount a.toNat (opWidth f.ty))
/-- POPC in its slot: the result lands after its latency (R86). -/
def opPopc (f : FmtR) : SlotOp := scalarOp (.popc f) f.d (resPopc f)
/-- The meaning of POPC. -/
def execPopc (f : FmtR) (s : State) : Host.Outcome State Fault Refusal := runOne (.popc f) (opPopc f) s

/-- SEL (R98): B when A is not 0, else C. -/
def resSel (_ : FmtR) (a b x : Word) : Word := if a ≠ 0#64 then b else x
/-- SEL in its slot: the result lands after its latency (R86). -/
def opSel (f : FmtR) : SlotOp := scalarOp (.sel f) f.d (resSel f)
/-- The meaning of SEL. -/
def execSel (f : FmtR) (s : State) : Host.Outcome State Fault Refusal := runOne (.sel f) (opSel f) s

/-- LEA (R98): A + B times 2^k. -/
def resLea (f : FmtR) (a b _ : Word) : Word := a + (b <<< f.var.toNat)
/-- LEA in its slot: the result lands after its latency (R86). -/
def opLea (f : FmtR) : SlotOp := scalarOp (.lea f) f.d (resLea f)
/-- The meaning of LEA. -/
def execLea (f : FmtR) (s : State) : Host.Outcome State Fault Refusal := runOne (.lea f) (opLea f) s

/-- CMP (R98, R100): 1 when the condition holds, else 0. -/
def resCmp (f : FmtR) (a b _ : Word) : Word := truth (condition f.var.toNat f.ty a b)
/-- CMP in its slot: the result lands after its latency (R86). -/
def opCmp (f : FmtR) : SlotOp := scalarOp (.cmp f) f.d (resCmp f)
/-- The meaning of CMP. -/
def execCmp (f : FmtR) (s : State) : Host.Outcome State Fault Refusal := runOne (.cmp f) (opCmp f) s

/-- ADDI (R101): A plus the immediate. -/
def resAddi (f : FmtI) (a _ _ : Word) : Word := resultOut f.ty (a + f.imm.signExtend 64)
/-- ADDI in its slot: the result lands after its latency (R86). -/
def opAddi (f : FmtI) : SlotOp := scalarOp (.addi f) f.d (resAddi f)
/-- The meaning of ADDI. -/
def execAddi (f : FmtI) (s : State) : Host.Outcome State Fault Refusal := runOne (.addi f) (opAddi f) s

/-- ANDI (R101): A AND the immediate. -/
def resAndi (f : FmtI) (a _ _ : Word) : Word := resultOut f.ty (a &&& f.imm.signExtend 64)
/-- ANDI in its slot: the result lands after its latency (R86). -/
def opAndi (f : FmtI) : SlotOp := scalarOp (.andi f) f.d (resAndi f)
/-- The meaning of ANDI. -/
def execAndi (f : FmtI) (s : State) : Host.Outcome State Fault Refusal := runOne (.andi f) (opAndi f) s

/-- ORI (R101): A OR the immediate. -/
def resOri (f : FmtI) (a _ _ : Word) : Word := resultOut f.ty (a ||| f.imm.signExtend 64)
/-- ORI in its slot: the result lands after its latency (R86). -/
def opOri (f : FmtI) : SlotOp := scalarOp (.ori f) f.d (resOri f)
/-- The meaning of ORI. -/
def execOri (f : FmtI) (s : State) : Host.Outcome State Fault Refusal := runOne (.ori f) (opOri f) s

/-- XORI (R101): A XOR the immediate. -/
def resXori (f : FmtI) (a _ _ : Word) : Word := resultOut f.ty (a ^^^ f.imm.signExtend 64)
/-- XORI in its slot: the result lands after its latency (R86). -/
def opXori (f : FmtI) : SlotOp := scalarOp (.xori f) f.d (resXori f)
/-- The meaning of XORI. -/
def execXori (f : FmtI) (s : State) : Host.Outcome State Fault Refusal := runOne (.xori f) (opXori f) s

/-- SHLI (R101): A shifted left by the immediate amount. -/
def resShli (f : FmtI) (a _ _ : Word) : Word := resultOut f.ty (a <<< (f.imm.toNat % opWidth f.ty))
/-- SHLI in its slot: the result lands after its latency (R86). -/
def opShli (f : FmtI) : SlotOp := scalarOp (.shli f) f.d (resShli f)
/-- The meaning of SHLI. -/
def execShli (f : FmtI) (s : State) : Host.Outcome State Fault Refusal := runOne (.shli f) (opShli f) s

/-- SHRI (R101): A shifted right by the immediate amount, zeros in. -/
def resShri (f : FmtI) (a _ _ : Word) : Word := resultOut f.ty (unsignedIn f.ty a >>> (f.imm.toNat % opWidth f.ty))
/-- SHRI in its slot: the result lands after its latency (R86). -/
def opShri (f : FmtI) : SlotOp := scalarOp (.shri f) f.d (resShri f)
/-- The meaning of SHRI. -/
def execShri (f : FmtI) (s : State) : Host.Outcome State Fault Refusal := runOne (.shri f) (opShri f) s

/-- SARI (R101): A shifted right by the immediate amount, sign copies in. -/
def resSari (f : FmtI) (a _ _ : Word) : Word := resultOut f.ty ((signedIn f.ty a).sshiftRight (f.imm.toNat % opWidth f.ty))
/-- SARI in its slot: the result lands after its latency (R86). -/
def opSari (f : FmtI) : SlotOp := scalarOp (.sari f) f.d (resSari f)
/-- The meaning of SARI. -/
def execSari (f : FmtI) (s : State) : Host.Outcome State Fault Refusal := runOne (.sari f) (opSari f) s

/-- MOVI (R101): the immediate. -/
def resMovi (f : FmtI) (_ _ _ : Word) : Word := f.imm.signExtend 64
/-- MOVI in its slot: the result lands after its latency (R86). -/
def opMovi (f : FmtI) : SlotOp := scalarOp (.movi f) f.d (resMovi f)
/-- The meaning of MOVI. -/
def execMovi (f : FmtI) (s : State) : Host.Outcome State Fault Refusal := runOne (.movi f) (opMovi f) s

/-- MOVI_INS (R101): A with one 16-bit field replaced. -/
def resMoviIns (f : FmtI) (a _ _ : Word) : Word := insertField a (f.var.extractLsb' 0 2).toNat f.imm
/-- MOVI_INS in its slot: the result lands after its latency (R86). -/
def opMoviIns (f : FmtI) : SlotOp := scalarOp (.moviIns f) f.d (resMoviIns f)
/-- The meaning of MOVI_INS. -/
def execMoviIns (f : FmtI) (s : State) : Host.Outcome State Fault Refusal := runOne (.moviIns f) (opMoviIns f) s

/-- CMPI (R101, R100): 1 when the condition holds of A and the immediate, else 0. -/
def resCmpi (f : FmtI) (a _ _ : Word) : Word := truth (condition f.var.toNat f.ty a (f.imm.signExtend 64))
/-- CMPI in its slot: the result lands after its latency (R86). -/
def opCmpi (f : FmtI) : SlotOp := scalarOp (.cmpi f) f.d (resCmpi f)
/-- The meaning of CMPI. -/
def execCmpi (f : FmtI) (s : State) : Host.Outcome State Fault Refusal := runOne (.cmpi f) (opCmpi f) s

/-- The quotient and the remainder of DIV and REM (R99). -/
def divide (ty : BitVec 4) (var : BitVec 8) (a b : Word) : Word × Word :=
  let w := opWidth ty
  if var = 0#8 then
    let x := (signedIn ty a).toInt
    let y := (signedIn ty b).toInt
    if y = 0 then (~~~0#64, resultOut ty a)
    else if x = -(2 ^ (w - 1)) ∧ y = -1 then (resultOut ty a, 0#64)
    else (resultOut ty (BitVec.ofInt 64 (x.tdiv y)), resultOut ty (BitVec.ofInt 64 (x - x.tdiv y * y)))
  else
    let x := unsignedIn ty a
    let y := unsignedIn ty b
    if y = 0#64 then (~~~0#64, resultOut ty a)
    else (resultOut ty (x / y), resultOut ty (x % y))

/-- DIV (R99): the quotient. -/
def resDiv (f : FmtR) (a b _ : Word) : Word := (divide f.ty f.var a b).1
/-- REM (R99): the remainder. -/
def resRem (f : FmtR) (a b _ : Word) : Word := (divide f.ty f.var a b).2

/-- The divider (R99): the result arrives 12 to 40 cycles after the issue, on a free cycle (log entry 2). -/
def dividerOp (i : Instr) (d : OpName) (f : Word → Word → Word → Word) : SlotOp := act fun s =>
  let v := scalarSources s i
  let a := v.getD 0 0#64
  let b := v.getD 1 0#64
  withLatency 12 29 (fun due => pend { opRec s with ca := a, cb := b } [.s d.toNat] (.value due [.word (f a b 0#64)])) s

/-- DIV in its slot. -/
def opDiv (f : FmtR) : SlotOp := dividerOp (.div f) f.d (resDiv f)
/-- The meaning of DIV. -/
def execDiv (f : FmtR) (s : State) : Host.Outcome State Fault Refusal := runOne (.div f) (opDiv f) s
/-- REM in its slot. -/
def opRem (f : FmtR) : SlotOp := dividerOp (.rem f) f.d (resRem f)
/-- The meaning of REM. -/
def execRem (f : FmtR) (s : State) : Host.Outcome State Fault Refusal := runOne (.rem f) (opRem f) s

end Sys2Proof.Machine
end

