-- ==== Sys2Proof/Machine/Float.lean ====
section
/-!
DEFINITION. The FP32 instructions of the S slot (R102 to R104).
-/
namespace Sys2Proof.Machine

/-- Bits [31:0] of a source (R102). -/
def low32 (a : Word) : Nat := a.toNat % 2 ^ 32
/-- A result as it is written: zero-extended (R102). -/
def fpWord (x : Nat) : Word := BitVec.ofNat 64 (x % 2 ^ 32)

/-- FSGN (R103): A[30:0] with sign B[31], NOT B[31], or A[31] XOR B[31]. -/
def signOf (var a b : Nat) : Nat :=
  let s := b / 2 ^ 31 % 2
  a % 2 ^ 31 + 2 ^ 31 * (match var with
    | 0 => s
    | 1 => 1 - s
    | _ => (a / 2 ^ 31 + s) % 2)

/-- The conversions of FCVT (R104). -/
def convertScalar (var rnd : Nat) (a : Word) : Word :=
  match var with
  | 0 => BitVec.ofInt 64 ((Fp.ofBits fp32 (low32 a)).toInt rnd 0 (intLo 64) (intHi 64))
  | 1 => BitVec.ofInt 64 ((Fp.ofBits fp32 (low32 a)).toInt rnd 0 (intLo 32) (intHi 32))
  | 2 => fpWord ((Fp.ofInt a.toInt).toBits fp32 rnd 0)
  | _ => fpWord ((Fp.ofInt (signedOf 32 (low32 a))).toBits fp32 rnd 0)

/-- FADD (R103): A + B rounded. -/
def resFadd (f : FmtR) (a b _ : Word) : Word := fpWord (fpAdd fp32 f.rnd.toNat (low32 a) (low32 b))
/-- FADD in its slot: the result lands after its latency (R86). -/
def opFadd (f : FmtR) : SlotOp := scalarOp (.fadd f) f.d (resFadd f)
/-- The meaning of FADD. -/
def execFadd (f : FmtR) (s : State) : Host.Outcome State Fault Refusal := runOne (.fadd f) (opFadd f) s

/-- FSUB (R103): A - B rounded. -/
def resFsub (f : FmtR) (a b _ : Word) : Word := fpWord (fpSub fp32 f.rnd.toNat (low32 a) (low32 b))
/-- FSUB in its slot: the result lands after its latency (R86). -/
def opFsub (f : FmtR) : SlotOp := scalarOp (.fsub f) f.d (resFsub f)
/-- The meaning of FSUB. -/
def execFsub (f : FmtR) (s : State) : Host.Outcome State Fault Refusal := runOne (.fsub f) (opFsub f) s

/-- FMUL (R103): A times B rounded. -/
def resFmul (f : FmtR) (a b _ : Word) : Word := fpWord (fpMul fp32 f.rnd.toNat (low32 a) (low32 b))
/-- FMUL in its slot: the result lands after its latency (R86). -/
def opFmul (f : FmtR) : SlotOp := scalarOp (.fmul f) f.d (resFmul f)
/-- The meaning of FMUL. -/
def execFmul (f : FmtR) (s : State) : Host.Outcome State Fault Refusal := runOne (.fmul f) (opFmul f) s

/-- FMA (R103): A times B plus C, one rounding. -/
def resFma (f : FmtR) (a b x : Word) : Word := fpWord (fpFma fp32 f.rnd.toNat false false (low32 a) (low32 b) (low32 x))
/-- FMA in its slot: the result lands after its latency (R86). -/
def opFma (f : FmtR) : SlotOp := scalarOp (.fma f) f.d (resFma f)
/-- The meaning of FMA. -/
def execFma (f : FmtR) (s : State) : Host.Outcome State Fault Refusal := runOne (.fma f) (opFma f) s

/-- FDIV (R103): A / B rounded. -/
def resFdiv (f : FmtR) (a b _ : Word) : Word := fpWord (fpDiv fp32 f.rnd.toNat (low32 a) (low32 b))
/-- FDIV in its slot: the result lands after its latency (R86). -/
def opFdiv (f : FmtR) : SlotOp := scalarOp (.fdiv f) f.d (resFdiv f)
/-- The meaning of FDIV. -/
def execFdiv (f : FmtR) (s : State) : Host.Outcome State Fault Refusal := runOne (.fdiv f) (opFdiv f) s

/-- FSQRT (R103): the square root of A rounded. -/
def resFsqrt (f : FmtR) (a _ _ : Word) : Word := fpWord (fpSqrt fp32 f.rnd.toNat (low32 a))
/-- FSQRT in its slot: the result lands after its latency (R86). -/
def opFsqrt (f : FmtR) : SlotOp := scalarOp (.fsqrt f) f.d (resFsqrt f)
/-- The meaning of FSQRT. -/
def execFsqrt (f : FmtR) (s : State) : Host.Outcome State Fault Refusal := runOne (.fsqrt f) (opFsqrt f) s

/-- FMIN (R103): the lesser of A and B. -/
def resFmin (_ : FmtR) (a b _ : Word) : Word := fpWord (fpMinMax fp32 false (low32 a) (low32 b))
/-- FMIN in its slot: the result lands after its latency (R86). -/
def opFmin (f : FmtR) : SlotOp := scalarOp (.fmin f) f.d (resFmin f)
/-- The meaning of FMIN. -/
def execFmin (f : FmtR) (s : State) : Host.Outcome State Fault Refusal := runOne (.fmin f) (opFmin f) s

/-- FMAX (R103): the greater of A and B. -/
def resFmax (_ : FmtR) (a b _ : Word) : Word := fpWord (fpMinMax fp32 true (low32 a) (low32 b))
/-- FMAX in its slot: the result lands after its latency (R86). -/
def opFmax (f : FmtR) : SlotOp := scalarOp (.fmax f) f.d (resFmax f)
/-- The meaning of FMAX. -/
def execFmax (f : FmtR) (s : State) : Host.Outcome State Fault Refusal := runOne (.fmax f) (opFmax f) s

/-- FCMP (R103): 1 when the condition holds, else 0. -/
def resFcmp (f : FmtR) (a b _ : Word) : Word := truth (fpCompare fp32 f.var.toNat (low32 a) (low32 b))
/-- FCMP in its slot: the result lands after its latency (R86). -/
def opFcmp (f : FmtR) : SlotOp := scalarOp (.fcmp f) f.d (resFcmp f)
/-- The meaning of FCMP. -/
def execFcmp (f : FmtR) (s : State) : Host.Outcome State Fault Refusal := runOne (.fcmp f) (opFcmp f) s

/-- FCVT (R104): A converted. -/
def resFcvt (f : FmtR) (a _ _ : Word) : Word := convertScalar f.var.toNat f.rnd.toNat a
/-- FCVT in its slot: the result lands after its latency (R86). -/
def opFcvt (f : FmtR) : SlotOp := scalarOp (.fcvt f) f.d (resFcvt f)
/-- The meaning of FCVT. -/
def execFcvt (f : FmtR) (s : State) : Host.Outcome State Fault Refusal := runOne (.fcvt f) (opFcvt f) s

/-- FSGN (R103): A with the sign that VAR selects. -/
def resFsgn (f : FmtR) (a b _ : Word) : Word := fpWord (signOf f.var.toNat (low32 a) (low32 b))
/-- FSGN in its slot: the result lands after its latency (R86). -/
def opFsgn (f : FmtR) : SlotOp := scalarOp (.fsgn f) f.d (resFsgn f)
/-- The meaning of FSGN. -/
def execFsgn (f : FmtR) (s : State) : Host.Outcome State Fault Refusal := runOne (.fsgn f) (opFsgn f) s

/-- The result of a fixed-latency operation of the S slot from its captures; SRMOV reads and the operations with no result of this kind
are not of this table (R268, R271). -/
def scalarResult (i : Instr) (a b x : Word) : Option Word :=
  match i with
  | .add f => some (resAdd f a b x)
  | .sub f => some (resSub f a b x)
  | .mul f => some (resMul f a b x)
  | .mulh f => some (resMulh f a b x)
  | .and f => some (resAnd f a b x)
  | .or f => some (resOr f a b x)
  | .xor f => some (resXor f a b x)
  | .shl f => some (resShl f a b x)
  | .shr f => some (resShr f a b x)
  | .sar f => some (resSar f a b x)
  | .min f => some (resMin f a b x)
  | .max f => some (resMax f a b x)
  | .clz f => some (resClz f a b x)
  | .popc f => some (resPopc f a b x)
  | .sel f => some (resSel f a b x)
  | .lea f => some (resLea f a b x)
  | .cmp f => some (resCmp f a b x)
  | .addi f => some (resAddi f a b x)
  | .andi f => some (resAndi f a b x)
  | .ori f => some (resOri f a b x)
  | .xori f => some (resXori f a b x)
  | .shli f => some (resShli f a b x)
  | .shri f => some (resShri f a b x)
  | .sari f => some (resSari f a b x)
  | .movi f => some (resMovi f a b x)
  | .moviIns f => some (resMoviIns f a b x)
  | .cmpi f => some (resCmpi f a b x)
  | .fadd f => some (resFadd f a b x)
  | .fsub f => some (resFsub f a b x)
  | .fmul f => some (resFmul f a b x)
  | .fma f => some (resFma f a b x)
  | .fdiv f => some (resFdiv f a b x)
  | .fsqrt f => some (resFsqrt f a b x)
  | .fmin f => some (resFmin f a b x)
  | .fmax f => some (resFmax f a b x)
  | .fcmp f => some (resFcmp f a b x)
  | .fcvt f => some (resFcvt f a b x)
  | .fsgn f => some (resFsgn f a b x)
  | _ => none

end Sys2Proof.Machine
end

