-- ==== Sys2Proof/Machine/Branch.lean ====
section
/-!
DEFINITION. The B slot (R113 to R120, R289, R290): branches, calls and loops. A branch leaves its target in the issue; the end of the
issue moves the program counter.
-/
namespace Sys2Proof.Machine

/-- The bits of an address that PC holds (R47, R78). -/
def pcMask (a : Word) : Word := a &&& 0x000FFFFFFFFFFFF8#64
/-- The direct target of format J (R60). -/
def directJ (i : Issue) (f : FmtJ) : Word := pcMask (i.pc + f.disp.signExtend 64 * 8#64)
/-- The direct target of format L (R60). -/
def directL (i : Issue) (f : FmtL) : Word := pcMask (i.pc + f.disp.signExtend 64 * 8#64)

/-- The next issue comes from an address (R50, R113); the outcome of the branch slot is what sends it there from slot B (R43). -/
def goTo (a : Word) : Act := modCur fun i => { i with target := some a, branch := if i.slot = 6 then some a else i.branch }
/-- The cost of a branch in cycles: a fetch wait of the context (R114). -/
def branchCost (n : Nat) : Act := fun s =>
  if n = 0 then [] else modCtx s.cur.key (fun c => { c with notBefore := max c.notBefore (s.now + 1 + n) }) s
/-- A conditional branch: its outcome, and its cost where HINT says otherwise; no hint counts as not taken (R114). -/
def branchOn (f : FmtJ) (taken : Bool) : Act := fun s =>
  Act.seq (Act.when taken (goTo (directJ s.cur f))) (branchCost (if taken = decide (f.hint = 1#2) then 0 else 3)) s

/-- BR (R115). -/
def opBr (f : FmtJ) : SlotOp := act fun s => goTo (directJ s.cur f) s
/-- The meaning of BR. -/
def execBr (f : FmtJ) (s : State) : Host.Outcome State Fault Refusal := runOne (.br f) (opBr f) s

/-- A branch on a comparison of two 64-bit values (R115). -/
def compareBranch (f : FmtJ) (cond : Word → Word → Bool) : SlotOp := act fun s =>
  let c := s.ctx s.cur.key
  branchOn f (cond (readS c s.cur f.a) (readS c s.cur f.b)) s

/-- BREQ: taken when A = B (R115). -/
def opBreq (f : FmtJ) : SlotOp := compareBranch f fun a b => decide (a = b)
/-- The meaning of BREQ. -/
def execBreq (f : FmtJ) (s : State) : Host.Outcome State Fault Refusal := runOne (.breq f) (opBreq f) s

/-- BRNE: taken when A differs from B (R115). -/
def opBrne (f : FmtJ) : SlotOp := compareBranch f fun a b => decide (a ≠ b)
/-- The meaning of BRNE. -/
def execBrne (f : FmtJ) (s : State) : Host.Outcome State Fault Refusal := runOne (.brne f) (opBrne f) s

/-- BRLT: taken when A < B signed (R115). -/
def opBrlt (f : FmtJ) : SlotOp := compareBranch f fun a b => a.slt b
/-- The meaning of BRLT. -/
def execBrlt (f : FmtJ) (s : State) : Host.Outcome State Fault Refusal := runOne (.brlt f) (opBrlt f) s

/-- BRGE: taken when A is at least B, signed (R115). -/
def opBrge (f : FmtJ) : SlotOp := compareBranch f fun a b => !a.slt b
/-- The meaning of BRGE. -/
def execBrge (f : FmtJ) (s : State) : Host.Outcome State Fault Refusal := runOne (.brge f) (opBrge f) s

/-- BRLTU: taken when A < B unsigned (R115). -/
def opBrltu (f : FmtJ) : SlotOp := compareBranch f fun a b => a.ult b
/-- The meaning of BRLTU. -/
def execBrltu (f : FmtJ) (s : State) : Host.Outcome State Fault Refusal := runOne (.brltu f) (opBrltu f) s

/-- BRGEU: taken when A is at least B, unsigned (R115). -/
def opBrgeu (f : FmtJ) : SlotOp := compareBranch f fun a b => !a.ult b
/-- The meaning of BRGEU. -/
def execBrgeu (f : FmtJ) (s : State) : Host.Outcome State Fault Refusal := runOne (.brgeu f) (opBrgeu f) s

/-- The number of mask bits that BRALL and BRNONE examine (R116). -/
def maskCount (b : OpName) : Nat :=
  match b.toNat with
  | 0x80 => 128
  | 0x81 => 64
  | 0x82 => 32
  | _ => 16

/-- BRALL and BRNONE (R116): a mixed mask is NONUNIFORM. -/
def maskBranch (f : FmtJ) (ones : Bool) : SlotOp := fun s =>
  let n := maskCount f.b
  let k := popCount ((s.ctx s.cur.key).mreg (f.a.extractLsb' 0 3).toNat).toNat n
  if k = n then .ok (branchOn f ones s)
  else if k = 0 then .ok (branchOn f (!ones) s)
  else .error { code := codeNonuniform, slots := slotBit s.cur.slot }

/-- BRALL (R116). -/
def opBrall (f : FmtJ) : SlotOp := maskBranch f true
/-- The meaning of BRALL. -/
def execBrall (f : FmtJ) (s : State) : Host.Outcome State Fault Refusal := runOne (.brall f) (opBrall f) s
/-- BRNONE (R116). -/
def opBrnone (f : FmtJ) : SlotOp := maskBranch f false
/-- The meaning of BRNONE. -/
def execBrnone (f : FmtJ) (s : State) : Host.Outcome State Fault Refusal := runOne (.brnone f) (opBrnone f) s

/-- The link of a CALL: the address after its bundle, with latency 1 (R117). -/
def linkValue (i : Issue) : Word := i.pc + BitVec.ofNat 64 i.len
/-- A CALL writes its link and pushes it on the 8-entry return predictor (R114, R117), whose record captures a value (R268). DESIGN CHOICE (log entry 57): each
context has a predictor, and a push on a full one drops its oldest entry. -/
def callLink (d : OpName) (ca : Word) : Act := fun s =>
  Act.seq (land { opRec s with ca := ca } 1 (.s d.toNat) (.word (linkValue s.cur)))
    (modCtx s.cur.key fun c => { c with predictor := (linkValue s.cur :: c.predictor).take 8 }) s

/-- Direct CALL (R117). -/
def opCall (f : FmtJ) : SlotOp := act fun s => Act.seq (callLink f.d 0#64) (goTo (directJ s.cur f)) s
/-- The meaning of a direct CALL. -/
def execCall (f : FmtJ) (s : State) : Host.Outcome State Fault Refusal := runOne (.call f) (opCall f) s
/-- Register CALL (R117). -/
def opCallRegister (f : FmtJ) : SlotOp := act fun s =>
  let a := readS (s.ctx s.cur.key) s.cur f.a
  Act.seqs [callLink f.d a, goTo (pcMask a), branchCost 3] s
/-- The meaning of a register CALL. -/
def execCallRegister (f : FmtJ) (s : State) : Host.Outcome State Fault Refusal := runOne (.callRegister f) (opCallRegister f) s
/-- RET (R114, R117): it costs nothing when the return predictor's top names the target. -/
def opRet (f : FmtJ) : SlotOp := act fun s =>
  let c := s.ctx s.cur.key
  let t := pcMask (readS c s.cur f.a)
  Act.seqs [goTo t, branchCost (if c.predictor.head? = some t then 0 else 3),
    modCtx s.cur.key fun c => { c with predictor := c.predictor.drop 1 }] s
/-- The meaning of RET. -/
def execRet (f : FmtJ) (s : State) : Host.Outcome State Fault Refusal := runOne (.ret f) (opRet f) s
/-- JR (R117). -/
def opJr (f : FmtJ) : SlotOp := act fun s => Act.seq (goTo (pcMask (readS (s.ctx s.cur.key) s.cur f.a))) (branchCost 3) s
/-- The meaning of JR. -/
def execJr (f : FmtJ) (s : State) : Host.Outcome State Fault Refusal := runOne (.jr f) (opJr f) s

/-! Loops. -/

/-- A frame activated: the most recently activated is tested first (R120). -/
def Ctx.openFrame (c : Ctx) (n : Nat) (fr : Frame) : Ctx :=
  { c with frames := c.frames.set n fr, order := n :: c.order.filter fun x => decide (x ≠ n) }
/-- A frame made inactive. -/
def Ctx.closeFrame (c : Ctx) (n : Nat) : Ctx := { c with frames := c.frames.set n { c.frame n with act := false } }
/-- end_walk of R290. -/
def Ctx.endWalk (c : Ctx) : Ctx :=
  { c.closeFrame c.walk.lp.toNat with walk := { c.walk with act := false, dph := false, decl := [] } }

/-- The issue holds a loop instruction: no back-edge test follows it (R120). -/
def markLoop : Act := modCur fun i => { i with loopIssued := true }

/-- The frame of a loop at an issue: the body from the next bundle to the exit (R119). -/
def bodyFrame (i : Issue) (exit_ : Word) (ow : Bool) : Frame := { act := true, beg := linkValue i, fin := exit_, ow := ow }

/-- LOOP (R119, R301). -/
def opLoop (f : FmtL) : SlotOp := fun s =>
  let c := s.ctx s.cur.key
  let cnt := readS c s.cur f.a
  let n := f.lp.toNat
  let exit_ := directL s.cur f
  if 2 ^ 32 ≤ cnt.toNat then .error { code := codeLoopRange, slots := slotBit s.cur.slot }
  else if c.walk.act && c.walk.lp = f.lp then .error { code := codeWalkState, why := 0x7A#8, slots := slotBit s.cur.slot }
  else if cnt = 0#64 then
    .ok (Act.seqs [markLoop, modCtx s.cur.key fun c => { c.closeFrame n with lp := c.lp.set n cnt }, goTo exit_] s)
  else
    .ok (Act.seqs [markLoop, modCtx s.cur.key fun c =>
      { c.openFrame n (bodyFrame s.cur exit_ false) with lp := c.lp.set n cnt }] s)
/-- The meaning of LOOP. -/
def execLoop (f : FmtL) (s : State) : Host.Outcome State Fault Refusal := runOne (.loop f) (opLoop f) s

/-- Cover bits 0 to n - 1 of a context cleared (R290, R292). -/
def clearCover (key n : Nat) : Act := fun s =>
  let a := coverPlace key 0
  let last := Memory.get s.mem (a + n / 8)
  [.mem a (List.replicate (n / 8) 0#8)] ++
  (if n % 8 = 0 then [] else [.mem (a + n / 8) [last &&& ~~~(BitVec.ofNat 8 (2 ^ (n % 8) - 1))]])

/-- LOOPW (R290, R301). -/
def opLoopw (f : FmtL) : SlotOp := fun s =>
  let c := s.ctx s.cur.key
  let cnt := readS c s.cur f.a
  let off := readS c s.cur f.b
  let len := readS c s.cur f.c
  let cs := 2 ^ f.cell.toNat
  let n := f.lp.toNat
  let exit_ := directL s.cur f
  let h := c.handle f.wh.toNat
  let walkState (why : BitVec 8) : Trap := { code := codeWalkState, why := why, slots := slotBit s.cur.slot }
  if 2 ^ 32 ≤ cnt.toNat then .error { code := codeLoopRange, slots := slotBit s.cur.slot }
  else if c.walk.act then
    if c.walk.lp = f.lp ∧ cnt = 0#64 then .ok (Act.seqs [markLoop, modCtx s.cur.key Ctx.endWalk, goTo exit_] s)
    else .error (walkState 0x79#8)
  else if len = 0#64 ∨ off.toNat % cs ≠ 0 ∨ len.toNat % cs ≠ 0 ∨ 2 ^ (20 + f.cell.toNat) < len.toNat ∨ 2 ^ 32 ≤ off.toNat then
    .error (walkState 0x78#8)
  else match (if h.kind = .mcast ∧ checkHandle h off len.toNat 1 = none then some codeHandlePerm else checkHandle h off len.toNat 1) with
    | some code => .error (accessTrap s.cur code (h.address off) 0 0#8)
    | none =>
      let trip : Walk → Walk := fun w => { w with trip := cnt.setWidth 32, nrun := 0#32 }
      if cnt = 0#64 then
        .ok (Act.seqs [markLoop, modCtx s.cur.key fun c =>
          { c.closeFrame n with lp := c.lp.set n 0#64, walk := trip c.walk }, goTo exit_] s)
      else
        let nc := len.toNat / cs
        .ok (Act.seqs [markLoop, modCtx s.cur.key fun c =>
          { c.openFrame n (bodyFrame s.cur exit_ true) with
            lp := c.lp.set n (cnt - 1#64)
            notBefore := max c.notBefore (s.now + 1 + (nc + 8191) / 8192)
            walk := { trip c.walk with act := true, wh := f.wh, cell := f.cell, lp := f.lp, ncell := BitVec.ofNat 21 nc, off := off.setWidth 32,
                                       iter := (cnt - 1#64).setWidth 32, dph := true, ndecl := 0#3, decl := [] } },
          clearCover s.cur.key nc] s)
/-- The meaning of LOOPW. -/
def execLoopw (f : FmtL) (s : State) : Host.Outcome State Fault Refusal := runOne (.loopw f) (opLoopw f) s

end Sys2Proof.Machine
end

