-- ==== Sys2Proof/Machine/Vector.lean ====
section
/-!
DEFINITION. The vector instructions that compute (R121 to R135) and VDUP (R140).
-/
namespace Sys2Proof.Machine

/-- An element-wise result: every active element of D receives a value (R122). -/
def eachElem (ty : BitVec 4) (m : MaskVal) (f : Nat → Nat) : Result :=
  let r := ofElems (tyWidth ty) ((activeElems m (elemCount ty)).map fun i => (i, f i))
  .vec r.1 r.2

/-- An integer element, read signed or unsigned (R124). -/
def readInt (unsigned : Bool) (w x : Nat) : Int := if unsigned then (x : Int) else signedOf w x
/-- The rounding term of the suffix .r for a right shift by k: 2^(k-1), and none when k is 0 (R126). -/
def roundBit (f : FmtR) (k : Nat) : Int := if f.var.getLsbD 2 ∧ k ≠ 0 then 2 ^ (k - 1) else 0
/-- VADD, VSUB and VMUL on one element (R124, R126). -/
def addElem (f : FmtR) (int : Int → Int → Int) (fp : Nat → Nat → Nat) (x y : Nat) : Nat :=
  if isFpTy f.ty then fp x y
  else
    let u := f.var.extractLsb' 0 2 = 2#2
    overflow (f.var.extractLsb' 0 2).toNat (tyWidth f.ty) (int (readInt u (tyWidth f.ty) x) (readInt u (tyWidth f.ty) y))
/-- VMIN and VMAX on one element (R126). -/
def minMaxElem (f : FmtR) (isMax : Bool) (x y : Nat) : Nat :=
  if isFpTy f.ty then fpMinMax (fpOf f.ty) isMax x y
  else if decide (readInt (f.var.getLsbD 3) (tyWidth f.ty) x < readInt (f.var.getLsbD 3) (tyWidth f.ty) y) != isMax then x else y

/-- The source type of VCVT (R128). -/
def cvtSource (f : FmtR) : BitVec 4 := f.var.extractLsb' 0 4
/-- conv() of R128 on one element. -/
def convertElem (src dst : BitVec 4) (unsigned : Bool) (rnd x : Nat) : Nat :=
  let ws := tyWidth src
  let wd := tyWidth dst
  let lo : Int := if unsigned then 0 else intLo wd
  let hi : Int := if unsigned then 2 ^ wd - 1 else intHi wd
  if isFpTy src then
    if isFpTy dst then (Fp.ofBits (fpOf src) x).toBits (fpOf dst) rnd 0
    else intBits wd ((Fp.ofBits (fpOf src) x).toInt rnd 0 lo hi)
  else if isFpTy dst then (Fp.ofInt (readInt unsigned ws x)).toBits (fpOf dst) rnd 0
  else if wd < ws then intBits wd (clampInt (readInt unsigned ws x) lo hi)
  else intBits wd (readInt unsigned ws x)
/-- VCVT: widening, narrowing into a part, or equal widths (R128). -/
def convertElems (f : FmtR) (a : Vec) (m : MaskVal) : Result :=
  let src := cvtSource f
  let ws := tyWidth src
  let wd := tyWidth f.ty
  let part := (f.var.extractLsb' 4 3).toNat
  let conv (j : Nat) := convertElem src f.ty (f.var.getLsbD 7) f.rnd.toNat (elem ws a j)
  let nd := elemCount f.ty
  let ns := elemCount src
  if wd < ws then
    let r := ofElems wd (((activeElems m nd).filter fun i => decide (part * ns ≤ i) && decide (i < (part + 1) * ns)).map
      fun i => (i, conv (i - part * ns)))
    .vec r.1 r.2
  else eachElem f.ty m fun i => conv (part * (if ws < wd then nd else 0) + i)

/-- VCMP: the mask of the condition; inactive bits and bits from n on are 0 (R129). -/
def compareElems (f : FmtR) (a b : Vec) (m : MaskVal) : Result :=
  let w := tyWidth f.ty
  .mask (BitVec.ofNat 128 ((activeElems m (elemCount f.ty)).foldl (fun x i =>
    if elemCondition f.var.toNat f.ty (elem w a i) (elem w b i) then x + 2 ^ i else x) 0))

/-- (A:B)[j mod 2n] (R131). -/
def pairElem (ty : BitVec 4) (a b : Vec) (j : Nat) : Nat :=
  let n := elemCount ty
  let k := j % (2 * n)
  if k < n then elem (tyWidth ty) a k else elem (tyWidth ty) b (k - n)

/-- The patterns of VPERM (R132). -/
def permElem (ty : BitVec 4) (pat : Nat) (a b : Vec) (i : Nat) : Nat :=
  let n := elemCount ty
  let w := tyWidth ty
  let h := n / 2
  let s := elem w b 0
  match pat with
  | 0 => elem w a ((i + s) % n)
  | 1 => elem w (if i % 2 = 0 then a else b) (i / 2)
  | 2 => elem w (if i % 2 = 0 then a else b) (i / 2 + h)
  | 3 => if i < h then elem w a (2 * i) else elem w b (2 * (i - h))
  | 4 => if i < h then elem w a (2 * i + 1) else elem w b (2 * (i - h) + 1)
  | 5 => elem w a (n - 1 - i)
  | _ => elem w a (s % n)

/-- One level of the pairwise tree of VRED (R133). -/
def pairs (op : Nat → Nat → Nat) : List Nat → List Nat
  | x :: y :: r => op x y :: pairs op r
  | l => l
/-- The pairwise tree of VRED over 2^k values (R133). -/
def reduceTree (op : Nat → Nat → Nat) : Nat → List Nat → Nat
  | 0, l => l.getD 0 0
  | k + 1, l => reduceTree op k (pairs op l)

/-- The integer form of VRED (R133). -/
def reduceInt (op : Nat) (u : Bool) (w : Nat) (xs : List (Option Nat)) : Int :=
  let v := xs.map fun x => x.map (readInt u w)
  let lo : Int := if u then 0 else intLo w
  let hi : Int := if u then 2 ^ w - 1 else intHi w
  match op with
  | 0 => v.foldl (fun a x => a + x.getD 0) 0
  | 1 => v.foldl (fun a x => min a (x.getD hi)) hi
  | _ => v.foldl (fun a x => max a (x.getD lo)) lo

/-- VRED (R133): D is written whole. -/
def reduceElems (f : FmtR) (a : Vec) (m : MaskVal) : Result :=
  let w := tyWidth f.ty
  let n := elemCount f.ty
  let act := activeElems m n
  let op := (f.var.extractLsb' 0 3).toNat
  if isFpTy f.ty then
    let xs := (List.range n).map fun i =>
      if i ∈ act then (Fp.ofBits (fpOf f.ty) (elem w a i)).toBits fp32 0 0
      else (match op with
        | 0 => 0
        | 1 => fp32.infBits false
        | _ => fp32.infBits true)
    let g (x y : Nat) := match op with
      | 0 => fpAdd fp32 f.rnd.toNat x y
      | 1 => fpMinMax fp32 false x y
      | _ => fpMinMax fp32 true x y
    .vec (BitVec.ofNat 1024 (reduceTree g (Nat.log2 n) xs)) (~~~0#1024)
  else
    let xs := (List.range n).map fun i => if i ∈ act then some (elem w a i) else none
    .vec (BitVec.ofNat 1024 (intBits 64 (reduceInt op (f.var.getLsbD 3) w xs))) (~~~0#1024)

/-- The carry-less product of two 64-bit values (R134). -/
def clmul (a b : Nat) : Nat :=
  (List.range 64).foldl (fun p k => if b / 2 ^ k % 2 = 1 then p ^^^ (a * 2 ^ k) else p) 0
/-- VCLMUL and VCLMULH: element 2j + e of each lane (R134). -/
def carryless (e : Nat) (a b : Vec) : Result :=
  .vec (BitVec.ofNat 1024 ((List.range 8).foldl (fun x j =>
    x + clmul (elem 64 a (2 * j + e)) (elem 64 b (2 * j + e)) * 2 ^ (128 * j)) 0)) (~~~0#1024)

/-- The element that VMOVI writes (R127). -/
def immElem (ty : BitVec 4) (imm : BitVec 16) : Nat :=
  if ty = 6#4 then imm.toNat * 2 ^ 16 else if isFpTy ty then imm.toNat else intBits (tyWidth ty) imm.toInt

/-- The images of the vector sources of an operation under a type, in the order A, B, C. -/
def vectorSources (s : State) (ty : BitVec 4) (i : Instr) : List Vec :=
  (sources i).map fun u => readV (s.ctx s.cur.key) s.cur ty u.name

/-- The record of a V-slot operation: its mask and its images (R268). -/
def vectorRec (s : State) (m : MaskVal) (imgs : List Vec) : OpRec :=
  { opRec s with ca := m.extractLsb' 0 64, cb := m.extractLsb' 64 64, imgs := imgs }

/-- A fixed-latency operation of a V slot: it captures its mask and its images and lands its result. -/
def vectorOp (i : Instr) (d : Dest) (ty msk : BitVec 4) (f : Vec → Vec → Vec → MaskVal → Result) : SlotOp := act fun s =>
  let m := maskOf (s.ctx s.cur.key) msk
  let imgs := vectorSources s ty i
  match latency i with
  | .fixed n => land (vectorRec s m imgs) n d (f (imgs.getD 0 0#1024) (imgs.getD 1 0#1024) (imgs.getD 2 0#1024) m) s
  | _ => []

/-- VADD (R126): A + B. -/
def resVadd (f : FmtR) (a b _ : Vec) (m : MaskVal) : Result :=
  eachElem f.ty m fun i => addElem f (fun x y => x + y) (fpAdd (fpOf f.ty) f.rnd.toNat) (elem (tyWidth f.ty) a i) (elem (tyWidth f.ty) b i)
/-- VADD in its slot. -/
def opVadd (f : FmtR) : SlotOp := vectorOp (.vadd f) (vectorDest f.d) f.ty f.msk (resVadd f)
/-- The meaning of VADD. -/
def execVadd (f : FmtR) (s : State) : Host.Outcome State Fault Refusal := runOne (.vadd f) (opVadd f) s

/-- VSUB (R126): A - B. -/
def resVsub (f : FmtR) (a b _ : Vec) (m : MaskVal) : Result :=
  eachElem f.ty m fun i => addElem f (fun x y => x - y) (fpSub (fpOf f.ty) f.rnd.toNat) (elem (tyWidth f.ty) a i) (elem (tyWidth f.ty) b i)
/-- VSUB in its slot. -/
def opVsub (f : FmtR) : SlotOp := vectorOp (.vsub f) (vectorDest f.d) f.ty f.msk (resVsub f)
/-- The meaning of VSUB. -/
def execVsub (f : FmtR) (s : State) : Host.Outcome State Fault Refusal := runOne (.vsub f) (opVsub f) s

/-- VMUL (R126): A times B. -/
def resVmul (f : FmtR) (a b _ : Vec) (m : MaskVal) : Result :=
  eachElem f.ty m fun i => addElem f (fun x y => x * y) (fpMul (fpOf f.ty) f.rnd.toNat) (elem (tyWidth f.ty) a i) (elem (tyWidth f.ty) b i)
/-- VMUL in its slot. -/
def opVmul (f : FmtR) : SlotOp := vectorOp (.vmul f) (vectorDest f.d) f.ty f.msk (resVmul f)
/-- The meaning of VMUL. -/
def execVmul (f : FmtR) (s : State) : Host.Outcome State Fault Refusal := runOne (.vmul f) (opVmul f) s

/-- VFMA (R126): a fused multiply-add form. -/
def resVfma (f : FmtR) (a b x : Vec) (m : MaskVal) : Result :=
  eachElem f.ty m fun i => fpFma (fpOf f.ty) f.rnd.toNat (f.var.getLsbD 1) (f.var.getLsbD 0) (elem (tyWidth f.ty) a i) (elem (tyWidth f.ty) b i) (elem (tyWidth f.ty) x i)
/-- VFMA in its slot. -/
def opVfma (f : FmtR) : SlotOp := vectorOp (.vfma f) (vectorDest f.d) f.ty f.msk (resVfma f)
/-- The meaning of VFMA. -/
def execVfma (f : FmtR) (s : State) : Host.Outcome State Fault Refusal := runOne (.vfma f) (opVfma f) s

/-- VMIN (R126): the lesser elements. -/
def resVmin (f : FmtR) (a b _ : Vec) (m : MaskVal) : Result :=
  eachElem f.ty m fun i => minMaxElem f false (elem (tyWidth f.ty) a i) (elem (tyWidth f.ty) b i)
/-- VMIN in its slot. -/
def opVmin (f : FmtR) : SlotOp := vectorOp (.vmin f) (vectorDest f.d) f.ty f.msk (resVmin f)
/-- The meaning of VMIN. -/
def execVmin (f : FmtR) (s : State) : Host.Outcome State Fault Refusal := runOne (.vmin f) (opVmin f) s

/-- VMAX (R126): the greater elements. -/
def resVmax (f : FmtR) (a b _ : Vec) (m : MaskVal) : Result :=
  eachElem f.ty m fun i => minMaxElem f true (elem (tyWidth f.ty) a i) (elem (tyWidth f.ty) b i)
/-- VMAX in its slot. -/
def opVmax (f : FmtR) : SlotOp := vectorOp (.vmax f) (vectorDest f.d) f.ty f.msk (resVmax f)
/-- The meaning of VMAX. -/
def execVmax (f : FmtR) (s : State) : Host.Outcome State Fault Refusal := runOne (.vmax f) (opVmax f) s

/-- VABS (R126): absolute values. -/
def resVabs (f : FmtR) (a _ _ : Vec) (m : MaskVal) : Result :=
  eachElem f.ty m fun i => if isFpTy f.ty then (elem (tyWidth f.ty) a i) % 2 ^ (tyWidth f.ty - 1) else overflow f.var.toNat (tyWidth f.ty) (signedOf (tyWidth f.ty) (elem (tyWidth f.ty) a i)).natAbs
/-- VABS in its slot. -/
def opVabs (f : FmtR) : SlotOp := vectorOp (.vabs f) (vectorDest f.d) f.ty f.msk (resVabs f)
/-- The meaning of VABS. -/
def execVabs (f : FmtR) (s : State) : Host.Outcome State Fault Refusal := runOne (.vabs f) (opVabs f) s

/-- VNEG (R126): negated elements. -/
def resVneg (f : FmtR) (a _ _ : Vec) (m : MaskVal) : Result :=
  eachElem f.ty m fun i => if isFpTy f.ty then (elem (tyWidth f.ty) a i) ^^^ 2 ^ (tyWidth f.ty - 1) else overflow f.var.toNat (tyWidth f.ty) (-signedOf (tyWidth f.ty) (elem (tyWidth f.ty) a i))
/-- VNEG in its slot. -/
def opVneg (f : FmtR) : SlotOp := vectorOp (.vneg f) (vectorDest f.d) f.ty f.msk (resVneg f)
/-- The meaning of VNEG. -/
def execVneg (f : FmtR) (s : State) : Host.Outcome State Fault Refusal := runOne (.vneg f) (opVneg f) s

/-- VMULH (R126): high halves of products. -/
def resVmulh (f : FmtR) (a b _ : Vec) (m : MaskVal) : Result :=
  eachElem f.ty m fun i => intBits (tyWidth f.ty) ((readInt (f.var.getLsbD 3) (tyWidth f.ty) (elem (tyWidth f.ty) a i) * readInt (f.var.getLsbD 3) (tyWidth f.ty) (elem (tyWidth f.ty) b i) + roundBit f (tyWidth f.ty)) / 2 ^ tyWidth f.ty)
/-- VMULH in its slot. -/
def opVmulh (f : FmtR) : SlotOp := vectorOp (.vmulh f) (vectorDest f.d) f.ty f.msk (resVmulh f)
/-- The meaning of VMULH. -/
def execVmulh (f : FmtR) (s : State) : Host.Outcome State Fault Refusal := runOne (.vmulh f) (opVmulh f) s

/-- VAVG (R126): averages. -/
def resVavg (f : FmtR) (a b _ : Vec) (m : MaskVal) : Result :=
  eachElem f.ty m fun i => intBits (tyWidth f.ty) ((readInt (f.var.getLsbD 3) (tyWidth f.ty) (elem (tyWidth f.ty) a i) + readInt (f.var.getLsbD 3) (tyWidth f.ty) (elem (tyWidth f.ty) b i) + roundBit f 1) / 2)
/-- VAVG in its slot. -/
def opVavg (f : FmtR) : SlotOp := vectorOp (.vavg f) (vectorDest f.d) f.ty f.msk (resVavg f)
/-- The meaning of VAVG. -/
def execVavg (f : FmtR) (s : State) : Host.Outcome State Fault Refusal := runOne (.vavg f) (opVavg f) s

/-- VSHL (R126): A times 2^k. -/
def resVshl (f : FmtR) (a b _ : Vec) (m : MaskVal) : Result :=
  eachElem f.ty m fun i => overflow f.var.toNat (tyWidth f.ty) (readInt (f.var = 2#8) (tyWidth f.ty) (elem (tyWidth f.ty) a i) * 2 ^ (elem (tyWidth f.ty) b i % tyWidth f.ty))
/-- VSHL in its slot. -/
def opVshl (f : FmtR) : SlotOp := vectorOp (.vshl f) (vectorDest f.d) f.ty f.msk (resVshl f)
/-- The meaning of VSHL. -/
def execVshl (f : FmtR) (s : State) : Host.Outcome State Fault Refusal := runOne (.vshl f) (opVshl f) s

/-- VSHR (R126): A shifted right logically. -/
def resVshr (f : FmtR) (a b _ : Vec) (m : MaskVal) : Result :=
  eachElem f.ty m fun i => intBits (tyWidth f.ty) ((readInt true (tyWidth f.ty) (elem (tyWidth f.ty) a i) + roundBit f (elem (tyWidth f.ty) b i % tyWidth f.ty)) / 2 ^ (elem (tyWidth f.ty) b i % tyWidth f.ty))
/-- VSHR in its slot. -/
def opVshr (f : FmtR) : SlotOp := vectorOp (.vshr f) (vectorDest f.d) f.ty f.msk (resVshr f)
/-- The meaning of VSHR. -/
def execVshr (f : FmtR) (s : State) : Host.Outcome State Fault Refusal := runOne (.vshr f) (opVshr f) s

/-- VSAR (R126): A shifted right arithmetically. -/
def resVsar (f : FmtR) (a b _ : Vec) (m : MaskVal) : Result :=
  eachElem f.ty m fun i => intBits (tyWidth f.ty) ((readInt false (tyWidth f.ty) (elem (tyWidth f.ty) a i) + roundBit f (elem (tyWidth f.ty) b i % tyWidth f.ty)) / 2 ^ (elem (tyWidth f.ty) b i % tyWidth f.ty))
/-- VSAR in its slot. -/
def opVsar (f : FmtR) : SlotOp := vectorOp (.vsar f) (vectorDest f.d) f.ty f.msk (resVsar f)
/-- The meaning of VSAR. -/
def execVsar (f : FmtR) (s : State) : Host.Outcome State Fault Refusal := runOne (.vsar f) (opVsar f) s

/-- VAND (R126): bitwise AND. -/
def resVand (f : FmtR) (a b _ : Vec) (m : MaskVal) : Result :=
  eachElem f.ty m fun i => (elem (tyWidth f.ty) a i) &&& (elem (tyWidth f.ty) b i)
/-- VAND in its slot. -/
def opVand (f : FmtR) : SlotOp := vectorOp (.vand f) (vectorDest f.d) f.ty f.msk (resVand f)
/-- The meaning of VAND. -/
def execVand (f : FmtR) (s : State) : Host.Outcome State Fault Refusal := runOne (.vand f) (opVand f) s

/-- VOR (R126): bitwise OR. -/
def resVor (f : FmtR) (a b _ : Vec) (m : MaskVal) : Result :=
  eachElem f.ty m fun i => (elem (tyWidth f.ty) a i) ||| (elem (tyWidth f.ty) b i)
/-- VOR in its slot. -/
def opVor (f : FmtR) : SlotOp := vectorOp (.vor f) (vectorDest f.d) f.ty f.msk (resVor f)
/-- The meaning of VOR. -/
def execVor (f : FmtR) (s : State) : Host.Outcome State Fault Refusal := runOne (.vor f) (opVor f) s

/-- VXOR (R126): bitwise XOR. -/
def resVxor (f : FmtR) (a b _ : Vec) (m : MaskVal) : Result :=
  eachElem f.ty m fun i => (elem (tyWidth f.ty) a i) ^^^ (elem (tyWidth f.ty) b i)
/-- VXOR in its slot. -/
def opVxor (f : FmtR) : SlotOp := vectorOp (.vxor f) (vectorDest f.d) f.ty f.msk (resVxor f)
/-- The meaning of VXOR. -/
def execVxor (f : FmtR) (s : State) : Host.Outcome State Fault Refusal := runOne (.vxor f) (opVxor f) s

/-- VCVT (R128): the elements of A converted. -/
def resVcvt (f : FmtR) (a _ _ : Vec) (m : MaskVal) : Result :=
  convertElems f a m
/-- VCVT in its slot. -/
def opVcvt (f : FmtR) : SlotOp := vectorOp (.vcvt f) (vectorDest f.d) (cvtSource f) f.msk (resVcvt f)
/-- The meaning of VCVT. -/
def execVcvt (f : FmtR) (s : State) : Host.Outcome State Fault Refusal := runOne (.vcvt f) (opVcvt f) s

/-- VCMP (R129): a mask of the condition. -/
def resVcmp (f : FmtR) (a b _ : Vec) (m : MaskVal) : Result :=
  compareElems f a b m
/-- VCMP in its slot. -/
def opVcmp (f : FmtR) : SlotOp := vectorOp (.vcmp f) (.m (f.d.toNat % 8)) f.ty f.msk (resVcmp f)
/-- The meaning of VCMP. -/
def execVcmp (f : FmtR) (s : State) : Host.Outcome State Fault Refusal := runOne (.vcmp f) (opVcmp f) s

/-- VSEL (R130): elements of A or B by the mask. -/
def resVsel (f : FmtR) (a b _ : Vec) (m : MaskVal) : Result :=
  eachElem f.ty (~~~0#128) fun i => elem (tyWidth f.ty) (if m.getLsbD i then a else b) i
/-- VSEL in its slot. -/
def opVsel (f : FmtR) : SlotOp := vectorOp (.vsel f) (vectorDest f.d) f.ty f.msk (resVsel f)
/-- The meaning of VSEL. -/
def execVsel (f : FmtR) (s : State) : Host.Outcome State Fault Refusal := runOne (.vsel f) (opVsel f) s

/-- VSHUF (R131): elements of A:B by the indices of C. -/
def resVshuf (f : FmtR) (a b x : Vec) (m : MaskVal) : Result :=
  eachElem f.ty m fun i => pairElem f.ty a b (elem (tyWidth f.ty) x i)
/-- VSHUF in its slot. -/
def opVshuf (f : FmtR) : SlotOp := vectorOp (.vshuf f) (vectorDest f.d) f.ty f.msk (resVshuf f)
/-- The meaning of VSHUF. -/
def execVshuf (f : FmtR) (s : State) : Host.Outcome State Fault Refusal := runOne (.vshuf f) (opVshuf f) s

/-- VPERM (R132): elements of A and B in a fixed pattern. -/
def resVperm (f : FmtR) (a b _ : Vec) (m : MaskVal) : Result :=
  eachElem f.ty m fun i => permElem f.ty f.var.toNat a b i
/-- VPERM in its slot. -/
def opVperm (f : FmtR) : SlotOp := vectorOp (.vperm f) (vectorDest f.d) f.ty f.msk (resVperm f)
/-- The meaning of VPERM. -/
def execVperm (f : FmtR) (s : State) : Host.Outcome State Fault Refusal := runOne (.vperm f) (opVperm f) s

/-- VRED (R133): a reduction. -/
def resVred (f : FmtR) (a _ _ : Vec) (m : MaskVal) : Result :=
  reduceElems f a m
/-- VRED in its slot. -/
def opVred (f : FmtR) : SlotOp := vectorOp (.vred f) (vectorDest f.d) f.ty f.msk (resVred f)
/-- The meaning of VRED. -/
def execVred (f : FmtR) (s : State) : Host.Outcome State Fault Refusal := runOne (.vred f) (opVred f) s

/-- VCLMUL (R134): carry-less products of low lane halves. -/
def resVclmul (_ : FmtR) (a b _ : Vec) (_ : MaskVal) : Result :=
  carryless 0 a b
/-- VCLMUL in its slot. -/
def opVclmul (f : FmtR) : SlotOp := vectorOp (.vclmul f) (vectorDest f.d) f.ty f.msk (resVclmul f)
/-- The meaning of VCLMUL. -/
def execVclmul (f : FmtR) (s : State) : Host.Outcome State Fault Refusal := runOne (.vclmul f) (opVclmul f) s

/-- VCLMULH (R134): carry-less products of high lane halves. -/
def resVclmulh (_ : FmtR) (a b _ : Vec) (_ : MaskVal) : Result :=
  carryless 1 a b
/-- VCLMULH in its slot. -/
def opVclmulh (f : FmtR) : SlotOp := vectorOp (.vclmulh f) (vectorDest f.d) f.ty f.msk (resVclmulh f)
/-- The meaning of VCLMULH. -/
def execVclmulh (f : FmtR) (s : State) : Host.Outcome State Fault Refusal := runOne (.vclmulh f) (opVclmulh f) s

/-- VRCP (R135): reciprocal estimates. -/
def resVrcp (f : FmtR) (a _ _ : Vec) (m : MaskVal) : Result :=
  eachElem f.ty m fun i => estimateRcp (fpOf f.ty) (elem (tyWidth f.ty) a i)
/-- VRCP in its slot. -/
def opVrcp (f : FmtR) : SlotOp := vectorOp (.vrcp f) (vectorDest f.d) f.ty f.msk (resVrcp f)
/-- The meaning of VRCP. -/
def execVrcp (f : FmtR) (s : State) : Host.Outcome State Fault Refusal := runOne (.vrcp f) (opVrcp f) s

/-- VRSQ (R135): reciprocal square root estimates. -/
def resVrsq (f : FmtR) (a _ _ : Vec) (m : MaskVal) : Result :=
  eachElem f.ty m fun i => estimateRsq (fpOf f.ty) (elem (tyWidth f.ty) a i)
/-- VRSQ in its slot. -/
def opVrsq (f : FmtR) : SlotOp := vectorOp (.vrsq f) (vectorDest f.d) f.ty f.msk (resVrsq f)
/-- The meaning of VRSQ. -/
def execVrsq (f : FmtR) (s : State) : Host.Outcome State Fault Refusal := runOne (.vrsq f) (opVrsq f) s

/-- VEXP (R135): power of two estimates. -/
def resVexp (f : FmtR) (a _ _ : Vec) (m : MaskVal) : Result :=
  eachElem f.ty m fun i => estimateExp (fpOf f.ty) (elem (tyWidth f.ty) a i)
/-- VEXP in its slot. -/
def opVexp (f : FmtR) : SlotOp := vectorOp (.vexp f) (vectorDest f.d) f.ty f.msk (resVexp f)
/-- The meaning of VEXP. -/
def execVexp (f : FmtR) (s : State) : Host.Outcome State Fault Refusal := runOne (.vexp f) (opVexp f) s

/-- VMOV (R126): A. -/
def resVmov (f : FmtR) (a _ _ : Vec) (m : MaskVal) : Result :=
  eachElem f.ty m fun i => (elem (tyWidth f.ty) a i)
/-- VMOV in its slot. -/
def opVmov (f : FmtR) : SlotOp := vectorOp (.vmov f) (vectorDest f.d) f.ty f.msk (resVmov f)
/-- The meaning of VMOV. -/
def execVmov (f : FmtR) (s : State) : Host.Outcome State Fault Refusal := runOne (.vmov f) (opVmov f) s

/-- VMOVI (R127): the immediate. -/
def resVmovi (f : FmtI) (_ _ _ : Vec) (m : MaskVal) : Result :=
  eachElem f.ty m fun i => immElem f.ty f.imm
/-- VMOVI in its slot. -/
def opVmovi (f : FmtI) : SlotOp := vectorOp (.vmovi f) (vectorDest f.d) f.ty f.msk (resVmovi f)
/-- The meaning of VMOVI. -/
def execVmovi (f : FmtI) (s : State) : Host.Outcome State Fault Refusal := runOne (.vmovi f) (opVmovi f) s

/-- The result of a V-slot operation from its images and its mask (R140, R271). -/
def vectorResult (i : Instr) (a b x : Vec) (m : MaskVal) : Option Result :=
  match i with
  | .vadd f => some (resVadd f a b x m)
  | .vsub f => some (resVsub f a b x m)
  | .vmul f => some (resVmul f a b x m)
  | .vfma f => some (resVfma f a b x m)
  | .vmin f => some (resVmin f a b x m)
  | .vmax f => some (resVmax f a b x m)
  | .vabs f => some (resVabs f a b x m)
  | .vneg f => some (resVneg f a b x m)
  | .vmulh f => some (resVmulh f a b x m)
  | .vavg f => some (resVavg f a b x m)
  | .vshl f => some (resVshl f a b x m)
  | .vshr f => some (resVshr f a b x m)
  | .vsar f => some (resVsar f a b x m)
  | .vand f => some (resVand f a b x m)
  | .vor f => some (resVor f a b x m)
  | .vxor f => some (resVxor f a b x m)
  | .vcvt f => some (resVcvt f a b x m)
  | .vcmp f => some (resVcmp f a b x m)
  | .vsel f => some (resVsel f a b x m)
  | .vshuf f => some (resVshuf f a b x m)
  | .vperm f => some (resVperm f a b x m)
  | .vred f => some (resVred f a b x m)
  | .vclmul f => some (resVclmul f a b x m)
  | .vclmulh f => some (resVclmulh f a b x m)
  | .vrcp f => some (resVrcp f a b x m)
  | .vrsq f => some (resVrsq f a b x m)
  | .vexp f => some (resVexp f a b x m)
  | .vmov f => some (resVmov f a b x m)
  | .vmovi f => some (resVmovi f a b x m)
  | _ => none

/-- The type under which the sources of a V-slot operation read. -/
def sourceType (i : Instr) : BitVec 4 :=
  match i with
  | .vadd f => f.ty
  | .vsub f => f.ty
  | .vmul f => f.ty
  | .vfma f => f.ty
  | .vmin f => f.ty
  | .vmax f => f.ty
  | .vabs f => f.ty
  | .vneg f => f.ty
  | .vmulh f => f.ty
  | .vavg f => f.ty
  | .vshl f => f.ty
  | .vshr f => f.ty
  | .vsar f => f.ty
  | .vand f => f.ty
  | .vor f => f.ty
  | .vxor f => f.ty
  | .vcvt f => cvtSource f
  | .vcmp f => f.ty
  | .vsel f => f.ty
  | .vshuf f => f.ty
  | .vperm f => f.ty
  | .vred f => f.ty
  | .vclmul f => f.ty
  | .vclmulh f => f.ty
  | .vrcp f => f.ty
  | .vrsq f => f.ty
  | .vexp f => f.ty
  | .vmov f => f.ty
  | .vmovi f => f.ty
  | _ => 0#4
/-- The MSK field of a V-slot operation. -/
def maskField (i : Instr) : BitVec 4 :=
  match i with
  | .vadd f => f.msk
  | .vsub f => f.msk
  | .vmul f => f.msk
  | .vfma f => f.msk
  | .vmin f => f.msk
  | .vmax f => f.msk
  | .vabs f => f.msk
  | .vneg f => f.msk
  | .vmulh f => f.msk
  | .vavg f => f.msk
  | .vshl f => f.msk
  | .vshr f => f.msk
  | .vsar f => f.msk
  | .vand f => f.msk
  | .vor f => f.msk
  | .vxor f => f.msk
  | .vcvt f => f.msk
  | .vcmp f => f.msk
  | .vsel f => f.msk
  | .vshuf f => f.msk
  | .vperm f => f.msk
  | .vred f => f.msk
  | .vclmul f => f.msk
  | .vclmulh f => f.msk
  | .vrcp f => f.msk
  | .vrsq f => f.msk
  | .vexp f => f.msk
  | .vmov f => f.msk
  | .vmovi f => f.msk
  | _ => 0#4

/-- VDUP (R140): the partner's operation with its stepped sources, into VDUP's own D after the partner's latency. -/
def opVdup (f : FmtR) : SlotOp := act fun s =>
  match s.cur.partner with
  | none => []
  | some p =>
    let m := maskOf (s.ctx s.cur.key) (maskField p)
    let imgs := vectorSources s (sourceType p) p
    match latency p, vectorResult p (imgs.getD 0 0#1024) (imgs.getD 1 0#1024) (imgs.getD 2 0#1024) m with
    | .fixed n, some v => land (vectorRec s m imgs) n (vdupDest p f.d) v s
    | _, _ => []
/-- The meaning of VDUP. -/
def execVdup (f : FmtR) (s : State) : Host.Outcome State Fault Refusal := runOne (.vdup f) (opVdup f) s

end Sys2Proof.Machine
end

