-- ==== Sys2Proof/Machine/LoadStore.lean ====
section
/-!
DEFINITION. Loads, stores, gathers, scatters and atomics (R105 to R107, R136 to R138, R199 to R202).
-/
namespace Sys2Proof.Machine

/-- The record of a memory operation: its captures and its handle (R267, R268). -/
def memRec (s : State) (h : Handle) (ca cb cc : Word) (imgs : List Vec) : OpRec :=
  { opRec s with ca := ca, cb := cb, cc := cc, imgs := imgs, hka := h.kind.bits, prma := h.perm }

/-- The mask that a record captures: the mask operand without the elements that are suppressed (R268, log entry 42). -/
def maskLess (m : MaskVal) (es left : List Elem) : MaskVal :=
  es.foldl (fun x e => if left.contains e then x else x &&& ~~~(1#128 <<< e.elem)) m

/-- The number of data bytes of elements laid end to end. -/
def dataLength (es : List Elem) : Nat := (es.map (·.len)).foldl (· + ·) 0

/-- LD (R105, R106): through a SPAD handle the datum lands in 6 cycles, and otherwise it arrives when its place has been read. -/
def opLd (f : FmtX) : SlotOp := fun s =>
  let c := s.ctx s.cur.key
  let h := c.handle f.h.toNat
  let es := scalarElems c s.cur f
  match elemsTrap s.cur h 0 (readTrap c s.cur h) es with
  | some t => .error t
  | none =>
    let r := memRec s h (h.address ((es.head?.map (·.off)).getD 0#64)) 0#64 0#64 []
    if h.kind = .spad then
      .ok (Act.seq (touch (coreOf s.cur.key) (elemPlaces (coreOf s.cur.key) h es))
        (land r 6 (.s f.d.toNat) (.word (loadExtend f.ty (leNat (es.flatMap (spadBytes s s.cur.key h)))))) s)
    else
      .ok (startAccess s.cur.key r .load h.kind (layParts h 0 es) (List.replicate (dataLength es) 0#8) [] 3#3 false
        (fun id => pend r [.s f.d.toNat] (.access id)) s)
/-- The meaning of LD. -/
def execLd (f : FmtX) (s : State) : Host.Outcome State Fault Refusal := runOne (.ld f) (opLd f) s

/-- ST (R105, R106). -/
def opSt (f : FmtX) : SlotOp := fun s =>
  let c := s.ctx s.cur.key
  let h := c.handle f.h.toNat
  let es := scalarElems c s.cur f
  match elemsTrap s.cur h 1 (writeTrap c s.cur h) es with
  | some t => .error t
  | none =>
    let d := readS c s.cur f.d
    .ok (storeElems s.cur.key (memRec s h (h.address ((es.head?.map (·.off)).getD 0#64)) d 0#64 []) h
      (unsuppressed s.mem c s.cur.key h es) (wordBytes d (tyBytes f.ty)) s)
/-- The meaning of ST. -/
def execSt (f : FmtX) (s : State) : Host.Outcome State Fault Refusal := runOne (.st f) (opSt f) s

/-- The captures of a vector memory operation: its address and its mask (R268). -/
def vectorMemRec (s : State) (h : Handle) (off : Word) (m : MaskVal) (imgs : List Vec) : OpRec :=
  memRec s h (h.address off) (m.extractLsb' 0 64) (m.extractLsb' 64 64) imgs

/-- A vector load or gather (R136, R137): fixed latency through a SPAD handle, and otherwise variable. One with no active element makes
no access and still delivers a result that writes nothing; so does a VAMO with none (R202), at its own latency (DESIGN CHOICE, log entry 51). -/
def vectorLoad (d : OpName) (w : Nat) (h : Handle) (r : OpRec) (es : List Elem) (n : Nat) : Act := fun s =>
  if es = [] then
    if h.ownSpad then land r n (.v d.toNat) (.vec 0#1024 0#1024) s
    else pend r [.v d.toNat] (.value (s.now + 1) [.vec 0#1024 0#1024]) s
  else if h.kind = .spad then
    let x := placeElems w (es.map (·.elem)) (es.flatMap (spadBytes s s.cur.key h))
    Act.seq (touch (coreOf s.cur.key) (elemPlaces (coreOf s.cur.key) h es)) (land r n (.v d.toNat) (.vec x.1 x.2)) s
  else
    startAccess s.cur.key r .load h.kind (layParts h 0 es) (List.replicate (dataLength es) 0#8) [] 3#3 false
      (fun id => pend r [.v d.toNat] (.access id)) s

/-- VLD (R136). -/
def opVld (f : FmtX) : SlotOp := fun s =>
  let c := s.ctx s.cur.key
  let h := c.handle f.h.toNat
  let es := vectorElems c s.cur f
  match (spanTrap s.cur h 0 es).orElse fun _ => es.findSome? (readTrap c s.cur h) with
  | some t => .error t
  | none =>
    .ok (vectorLoad f.d (tyWidth f.ty) h (vectorMemRec s h (f.offset (readS c s.cur f.b) s.cur.step.toNat) (maskOf c f.msk) []) es 6 s)
/-- The meaning of VLD. -/
def execVld (f : FmtX) (s : State) : Host.Outcome State Fault Refusal := runOne (.vld f) (opVld f) s

/-- VGATH (R137). -/
def opVgath (f : FmtX) : SlotOp := fun s =>
  let c := s.ctx s.cur.key
  let h := c.handle f.h.toNat
  let es := gatherElems c s.cur f
  match elemsTrap s.cur h 0 (readTrap c s.cur h) es with
  | some t => .error t
  | none =>
    .ok (vectorLoad f.d (tyWidth f.ty) h
      (vectorMemRec s h (f.offset (readS c s.cur f.b) s.cur.step.toNat) (maskOf c f.msk) [readV c s.cur f.ty f.c]) es 8 s)
/-- The meaning of VGATH. -/
def execVgath (f : FmtX) (s : State) : Host.Outcome State Fault Refusal := runOne (.vgath f) (opVgath f) s

/-- VST (R136). -/
def opVst (f : FmtX) : SlotOp := fun s =>
  let c := s.ctx s.cur.key
  let h := c.handle f.h.toNat
  let es := vectorElems c s.cur f
  match (spanTrap s.cur h 1 es).orElse fun _ => es.findSome? (writeTrap c s.cur h) with
  | some t => .error t
  | none =>
    let d := readV c s.cur f.ty f.d
    let left := unsuppressed s.mem c s.cur.key h es
    if left = [] then .ok []
    else .ok (storeElems s.cur.key (vectorMemRec s h (f.offset (readS c s.cur f.b) s.cur.step.toNat) (maskLess (maskOf c f.msk) es left) [d]) h left
      (elemBytes (tyWidth f.ty) d left) s)
/-- The meaning of VST. -/
def execVst (f : FmtX) (s : State) : Host.Outcome State Fault Refusal := runOne (.vst f) (opVst f) s

/-- VSCAT (R137): elements perform in ascending order (R138). -/
def opVscat (f : FmtX) : SlotOp := fun s =>
  let c := s.ctx s.cur.key
  let h := c.handle f.h.toNat
  let es := gatherElems c s.cur f
  match elemsTrap s.cur h 1 (writeTrap c s.cur h) es with
  | some t => .error t
  | none =>
    let d := readV c s.cur f.ty f.d
    let left := unsuppressed s.mem c s.cur.key h es
    if left = [] then .ok []
    else .ok (storeElems s.cur.key
      (vectorMemRec s h (f.offset (readS c s.cur f.b) s.cur.step.toNat) (maskLess (maskOf c f.msk) es left) [d, readV c s.cur f.ty f.c]) h left
      (elemBytes (tyWidth f.ty) d left) s)
/-- The meaning of VSCAT. -/
def execVscat (f : FmtX) (s : State) : Host.Outcome State Fault Refusal := runOne (.vscat f) (opVscat f) s

/-! Atomics. -/

/-- The check of an atomic's alignment, which follows that of its handle (R200). -/
def alignTrap (i : Issue) (h : Handle) (e : Elem) : Option Trap :=
  if (h.address e.off).toNat % e.len ≠ 0 then some (accessTrap i codeAtomicAlign (h.address e.off) e.elem 0#8) else none

/-- One own-scratchpad atomic after another, within the issue (R200, R202): it gives the old values. The places stand in `rmw`, for a landing of
the cycle that the atomic has read (R219). -/
def atomicsInOrder (h : Handle) (aop w cmp : Nat) : List (Elem × Nat) → State → List Effect × List Nat
  | [], _ => ([], [])
  | (e, x) :: r, s =>
    let old := leNat (spadBytesNow s s.cur.key h e)
    let new := leBytes (atomicNew aop w old x cmp) e.len
    let places := elemPlaces (coreOf s.cur.key) h [e]
    let i : Issue := { s.cur with stores := s.cur.stores ++ places.zip new, rmw := s.cur.rmw ++ places }
    let t := atomicsInOrder h aop w cmp r (applyEffect (.cur i) s)
    (.cur i :: t.1, old :: t.2)

/-- The own-scratchpad atomics of an operation, after the writes of earlier slots to their places (R138). -/
def spadAtomics (h : Handle) (aop w cmp : Nat) (l : List (Elem × Nat)) (s : State) : List Effect × List Nat :=
  let e := foldNear s.cur.key (elemPlaces (coreOf s.cur.key) h (l.map (·.1))) s
  let t := atomicsInOrder h aop w cmp l (applyAll e s)
  (e ++ t.1, t.2)

/-- An atomic that is ordered holds what the context does later (R201), which reads afresh once it has performed (R215). -/
def atomicMarks (f : FmtA) (id : Nat) : Act := fun s =>
  modCtx s.cur.key (fun c => { c with holdAll := if f.ord = 1#1 then c.holdAll ++ [⟨id, 3#3⟩] else c.holdAll }) s
/-- An ordered atomic of the own scratchpad has performed at its issue: what the context accesses later reads afresh (R201, R215). -/
def spadOrdered (f : FmtA) : Act := fun s =>
  if f.ord = 1#1 then [.free, .ctx s.cur.key { s.ctx s.cur.key with fresh := s.free + 1 }] else []
/-- SCDEM after an atomic whose scope is demoted (R80, R201, R221). -/
def atomicDemote (f : FmtA) : Act := fun s =>
  if demotes (s.ctx s.cur.key) f.scope then modCtx s.cur.key (fun c => { c with scdem := true }) s else []

/-- AMO (R199 to R201). -/
def opAmo (f : FmtA) : SlotOp := fun s =>
  let c := s.ctx s.cur.key
  let h := c.handle f.h.toNat
  let es := atomicElems c s.cur f
  match elemsTrap s.cur h 2 (fun e => (alignTrap s.cur h e).orElse fun _ => readTrap c s.cur h e) es with
  | some t => .error t
  | none =>
    let w := tyWidth f.ty
    let x := (readS c s.cur f.c).toNat % 2 ^ w
    let cmp := (readS c s.cur f.d).toNat % 2 ^ w
    let r := memRec s h (h.address ((es.head?.map (·.off)).getD 0#64)) (readS c s.cur f.c) (if f.aop = 9#4 then readS c s.cur f.d else 0#64) []
    if h.kind = .spad then
      let t := spadAtomics h f.aop.toNat w cmp (es.map fun e => (e, x)) s
      .ok (t.1 ++ Act.seq (land r 8 (.s f.d.toNat) (.word (atomicOld f.ty (t.2.getD 0 0)))) (Act.seq (atomicDemote f) (spadOrdered f)) (applyAll t.1 s))
    else
      .ok (startAccess s.cur.key r (.atomic f.aop (f.ty = 6#4)) h.kind (layParts h 0 es) (leBytes x (w / 8)) (leBytes cmp (w / 8))
        (effectiveScope c f.scope) (h.kind = .global)
        (fun id => Act.seqs [pend r [.s f.d.toNat] (.access id), atomicMarks f id, atomicDemote f]) s)
/-- The meaning of AMO. -/
def execAmo (f : FmtA) (s : State) : Host.Outcome State Fault Refusal := runOne (.amo f) (opAmo f) s

/-- VAMO (R202): one atomic per active element, in ascending order. -/
def opVamo (f : FmtA) : SlotOp := fun s =>
  let c := s.ctx s.cur.key
  let h := c.handle f.h.toNat
  let es := vamoElems c s.cur f
  match elemsTrap s.cur h 2 (fun e => (alignTrap s.cur h e).orElse fun _ => readTrap c s.cur h e) es with
  | some t => .error t
  | none =>
    let w := tyWidth f.ty
    let d := readV c s.cur f.ty f.d
    let r := vectorMemRec s h (readS c s.cur f.b) (maskOf c f.msk) [d, readV c s.cur f.ty f.c]
    if es = [] then .ok (Act.seq (vectorLoad f.d w h r es 10) (atomicDemote f) s)
    else if h.kind = .spad then
      let t := spadAtomics h f.aop.toNat w 0 (es.map fun e => (e, elem w d e.elem)) s
      let v := ofElems w ((es.map (·.elem)).zip t.2)
      .ok (t.1 ++ Act.seq (land r 10 (.v f.d.toNat) (.vec v.1 v.2)) (Act.seq (atomicDemote f) (spadOrdered f)) (applyAll t.1 s))
    else
      .ok (startAccess s.cur.key r (.atomic f.aop (f.ty = 6#4)) h.kind (layParts h 0 es) (elemBytes w d es) [] (effectiveScope c f.scope)
        (h.kind = .global) (fun id => Act.seqs [pend r [.v f.d.toNat] (.access id), atomicMarks f id, atomicDemote f]) s)
/-- The meaning of VAMO. -/
def execVamo (f : FmtA) (s : State) : Host.Outcome State Fault Refusal := runOne (.vamo f) (opVamo f) s

end Sys2Proof.Machine
end

