-- ==== Sys2Proof/Machine/Handles.lean ====
section
/-!
DEFINITION. GRANT and REVOKE (R108 to R110), CMPT (R332), QCFG (R183), and the system registers with SRMOV (R78 to R81, R111, R291).
-/
namespace Sys2Proof.Machine

/-- The walk state trap of an instruction that the active walk excludes (R301). -/
def walkTrap (i : Issue) (why : BitVec 8) : Trap := { code := codeWalkState, why := why, slots := slotBit i.slot }

/-- The handle that GRANT derives from an entry, if it may (R108). -/
def grantHandle (c : Ctx) (e off len : Word) : Option Handle :=
  let t := c.permEntry e.toNat
  let n : Int := if len = 0#64 then (t.bound.toNat : Int) - off.toNat else len.toNat
  if 255 < e.toNat ∨ t.v = false ∨ t.bound.toNat ≤ off.toNat ∨ (t.bound.toNat : Int) < off.toNat + n then none
  else some { v := true, kind := t.kind, perm := t.perm, base := t.base.setWidth 64 + off, bound := BitVec.ofInt 64 n, tgt := t.tgt,
              entry := e.toNat }

/-- GRANT (R108, R301): the handle lands in 12 cycles. -/
def opGrant (f : FmtY) : SlotOp := fun s =>
  let c := s.ctx s.cur.key
  let e := readS c s.cur f.a
  let off := if f.b = 0x80#8 then 0#64 else readS c s.cur f.b
  let len := if f.c = 0x80#8 then 0#64 else readS c s.cur f.c
  match grantHandle c e off len with
  | none => .error { code := codeGrantDenied, idx := e.setWidth 16, slots := slotBit s.cur.slot }
  | some h =>
    if c.walk.act && c.walk.wh = f.d.setWidth 4 then .error (walkTrap s.cur 0x7B#8)
    else .ok (land { opRec s with ca := e, cb := off, cc := len } 12 (.h (f.d.toNat % 16)) (.handle h) s)
/-- The meaning of GRANT. -/
def execGrant (f : FmtY) (s : State) : Host.Outcome State Fault Refusal := runOne (.grant f) (opGrant f) s

/-- REVOKE (R110, R301). -/
def opRevoke (f : FmtY) : SlotOp := fun s =>
  let c := s.ctx s.cur.key
  if c.walk.act && c.walk.wh = f.d.setWidth 4 then .error (walkTrap s.cur 0x7B#8)
  else .ok (scalarAct (.revoke f) (.revoke (f.d.toNat % 16)) s)
/-- The meaning of REVOKE. -/
def execRevoke (f : FmtY) (s : State) : Host.Outcome State Fault Refusal := runOne (.revoke f) (opRevoke f) s

/-- The lowest 64-bit word in which two values differ (R332). -/
def differsAt (a b : Vec) : Option Nat := (List.range 16).find? fun i => elem 64 a i ≠ elem 64 b i

/-- The trap of CMPT (R332). -/
def dupTrap (i : Issue) (idx : Nat) : Trap := { code := codeDupMismatch, idx := BitVec.ofNat 16 idx, slots := slotBit i.slot }

/-- CMPT on scalar copies (R332). -/
def opCmpt (f : FmtY) : SlotOp := fun s =>
  let c := s.ctx s.cur.key
  if readS c s.cur f.a = readS c s.cur f.b then .ok [] else .error (dupTrap s.cur 0)
/-- The meaning of CMPT. -/
def execCmpt (f : FmtY) (s : State) : Host.Outcome State Fault Refusal := runOne (.cmpt f) (opCmpt f) s
/-- CMPT on vector copies (R332). -/
def opCmptV (f : FmtY) : SlotOp := fun s =>
  let c := s.ctx s.cur.key
  match differsAt (readV c s.cur 3#4 f.a) (readV c s.cur 3#4 f.b) with
  | none => .ok []
  | some i => .error (dupTrap s.cur i)
/-- The meaning of CMPT on vector registers. -/
def execCmptV (f : FmtY) (s : State) : Host.Outcome State Fault Refusal := runOne (.cmptV f) (opCmptV f) s

/-- The binding that QCFG writes (R78, R183). -/
def qcfgValue (f : FmtY) (tid : Word) : Word :=
  tid.extractLsb' 0 32 ++ 0#20 ++ f.msk ++ f.ty ++ 0#1 ++ f.sf.extractLsb' 0 3

/-- QCFG (R183): on issue + 1. -/
def opQcfg (f : FmtY) : SlotOp := act fun s =>
  let tid := if f.a = 0x80#8 then 0#64 else readS (s.ctx s.cur.key) s.cur f.a
  scalarAct (.qcfg f) (.qcfg (f.d.toNat % 8) (qcfgValue f tid)) s
/-- The meaning of QCFG. -/
def execQcfg (f : FmtY) (s : State) : Host.Outcome State Fault Refusal := runOne (.qcfg f) (opQcfg f) s

/-! System registers. -/

/-- The encoding of a context's state (R80). -/
def Mode.bits : Mode → BitVec 3
  | .unbound => 0#3
  | .run => 1#3
  | .service => 2#3
  | .stopping => 3#3
  | .parked => 4#3
  | .saved => 5#3
  | .halted => 6#3

/-- CTXCFG (R79). -/
def Ctx.ctxcfg (c : Ctx) : Word :=
  0#32 ++ c.cid ++ c.pos ++ BitVec.ofBool c.lock ++ 0#2 ++ BitVec.ofBool c.det ++ BitVec.ofBool c.sysok ++ 0#2 ++ c.fuse ++ c.quads ++ 0#1 ++ c.pri
/-- CTXSTAT (R80). -/
def Ctx.ctxstat (c : Ctx) : Word :=
  0#56 ++ BitVec.ofBool c.phase.held ++ BitVec.ofBool c.walk.act ++ BitVec.ofBool c.ensat ++ BitVec.ofBool c.scdem ++ 0#1 ++ c.mode.bits
/-- CMAPCFG (R291). -/
def Walk.cmapcfg (w : Walk) : Word := w.wh ++ w.cell ++ w.lp ++ 0#2 ++ w.ncell ++ w.off
/-- LWI (R291). -/
def Walk.lwi (w : Walk) : Word := 0#24 ++ BitVec.ofBool w.dph ++ w.ndecl ++ 0#4 ++ w.iter
/-- LWN (R291). -/
def Walk.lwn (w : Walk) : Word := w.nrun ++ w.trip
/-- SLOTN of a slot (R51). -/
def Sticky.slotn (k : Sticky) : Word := 0#31 ++ BitVec.ofBool k.idle ++ k.n
/-- The sticky state of a slot as SRMOV sees it: S and B of an interrupted program were set aside (R111). -/
def Ctx.visibleSlot (c : Ctx) (k : Nat) : Sticky :=
  match c.aside with
  | some a => if k = 0 then a.s0w else if k = 6 then a.s6w else c.sticky k
  | none => c.sticky k
/-- PC as SRMOV sees it (R111). -/
def Ctx.visiblePc (c : Ctx) : Word := match c.aside with | some a => a.pc | none => c.pc
/-- BSEQ as SRMOV sees it (R111). -/
def Ctx.visibleBseq (c : Ctx) : BitVec 48 := match c.aside with | some a => a.bseq | none => c.bseq

/-- A system register of a context, by number (R78). DESIGN CHOICE (log entry 103): VTBASE of contexts 4 to 7 of a service core goes on where R89 places
those of contexts 0 to 3. -/
def sysReg (key now : Nat) (c : Ctx) (n : Nat) : Word :=
  match n with
  | 0x000 => c.visiblePc
  | 0x001 => c.visibleBseq.setWidth 64
  | 0x002 => c.mpc
  | 0x003 => c.ctxstat
  | 0x004 => c.ctxcfg
  | 0x005 => c.trapcause
  | 0x006 => c.trapinfo
  | 0x008 => BitVec.ofNat 64 (carveOut (ctxOf key))
  | 0x009 => c.vthead.setWidth 64
  | 0x00A => c.vtcount.setWidth 64
  | 0x010 => c.enctr.setWidth 64
  | 0x011 => c.walk.lwi
  | 0x012 => c.walk.lwn
  | 0x013 => c.walk.cmapcfg
  | 0x018 => BitVec.ofNat 64 now
  | n =>
    if n < 0x24 then c.lpreg (n - 0x20)
    else if n < 0x30 then c.qbind (n - 0x28)
    else if n < 0x37 then (c.visibleSlot (n - 0x30)).w
    else (c.visibleSlot (n - 0x38)).slotn

/-- A write of lpN by SRMOV (R120, R301). -/
def Ctx.writeLp (c : Ctx) (n : Nat) (v : Word) (service : Bool) : Ctx :=
  let c := { c with lp := c.lp.set n v }
  if service && c.walk.act && c.walk.lp.toNat = n then { c with walk := { c.walk with iter := v.setWidth 32 } }
  else if v = 0#64 then c.closeFrame n
  else c

/-- A write of the sticky state of a slot: the set-aside state of an interrupted program where it was set aside (R111). -/
def Ctx.writeSlot (c : Ctx) (k : Nat) (f : Sticky → Sticky) : Ctx :=
  match c.aside with
  | some a =>
    if k = 0 then { c with aside := some { a with s0w := f a.s0w } }
    else if k = 6 then { c with aside := some { a with s6w := f a.s6w } }
    else { c with slots := c.slots.set k (f (c.sticky k)) }
  | none => { c with slots := c.slots.set k (f (c.sticky k)) }

/-- A binding written: the queue's entry ordinal becomes 0 (R162). -/
def Ctx.writeQb (c : Ctx) (q : Nat) (v : Word) : Ctx :=
  { c with qb := c.qb.set q (v &&& 0xFFFFFFFF00000FF7#64), queues := c.queues.set q { c.queue q with ordinal := 0#40 } }

/-- A write of a system register as the Write column of R78 permits; `service` says that the context is in SERVICE or that a service
core writes. -/
def writeSysReg (c : Ctx) (n : Nat) (v : Word) (service : Bool) : Ctx :=
  match n with
  | 0x000 => match c.aside with
    | some a => { c with aside := some { a with pc := pcMask v } }
    | none => { c with pc := pcMask v }
  | 0x001 => match c.aside with
    | some a => { c with aside := some { a with bseq := v.setWidth 48 } }
    | none => { c with bseq := v.setWidth 48 }
  | 0x002 => { c with mpc := v &&& 0x000FFFFFFFFFFFE0#64 }
  | 0x003 => { c with ensat := c.ensat && !v.getLsbD 5, scdem := c.scdem && !v.getLsbD 4 }
  | 0x004 => { c with pri := v.setWidth 3 }
  | 0x005 => { c with trapcause := v &&& 0x7FFFF#64 }
  | 0x006 => { c with trapinfo := v &&& 0xFFFFFF7F#64 }
  | 0x008 => c
  | 0x009 => { c with vthead := v.setWidth 8 }
  | 0x00A => { c with vtcount := v.setWidth 9 }
  | 0x010 => c
  | 0x011 => { c with walk := { c.walk with iter := v.setWidth 32 } }
  | 0x012 => { c with walk := { c.walk with trip := v.setWidth 32 } }
  | 0x013 => { c with walk := { c.walk with wh := v.extractLsb' 60 4, cell := v.extractLsb' 57 3, lp := v.extractLsb' 55 2,
                                            ncell := v.extractLsb' 32 21, off := v.extractLsb' 0 32 } }
  | 0x018 => c
  | n =>
    if n < 0x24 then c.writeLp (n - 0x20) v service
    else if n < 0x30 then c.writeQb (n - 0x28) v
    else if n < 0x37 then c.writeSlot (n - 0x30) fun k => { k with w := v }
    else c.writeSlot (n - 0x38) fun k => { k with idle := v.getLsbD 32, n := v.setWidth 32 }

/-- The context that SRMOV, RDREC, WRREC, PERMLD and RESUME act on (R282). -/
def selectedCtx (s : State) : Nat := ((s.ctx s.cur.key).vtsel).getD s.cur.key

/-- A context as SRMOV reads it: of the issuing context, the sticky state as it stood before the issue (R52, R111, log entry 41). -/
def readCtx (s : State) (k : Nat) : Ctx := if k = s.cur.key then { s.ctx k with slots := s.cur.slots } else s.ctx k

/-- SRMOV, the read form (R111). -/
def opSrmovRead (f : FmtY) : SlotOp := act fun s =>
  let k := selectedCtx s
  let v := sysReg k s.now (readCtx s k) (f.sf.extractLsb' 0 12).toNat
  land { opRec s with ca := v } 1 (.s f.d.toNat) (.word v) s
/-- The meaning of SRMOV, reading. -/
def execSrmovRead (f : FmtY) (s : State) : Host.Outcome State Fault Refusal := runOne (.srmovRead f) (opSrmovRead f) s
/-- SRMOV, the write form (R111): it takes effect on issue + 1. -/
def opSrmovWrite (f : FmtY) : SlotOp := act fun s =>
  scalarAct (.srmovWrite f) (.srWrite (selectedCtx s) (f.sf.extractLsb' 0 12).toNat (readS (s.ctx s.cur.key) s.cur f.a)) s
/-- The meaning of SRMOV, writing. -/
def execSrmovWrite (f : FmtY) (s : State) : Host.Outcome State Fault Refusal := runOne (.srmovWrite f) (opSrmovWrite f) s

end Sys2Proof.Machine
end

