-- ==== Sys2Proof/Machine/Queue.lean ====
section
/-!
DEFINITION. The queues (R139, R160 to R163, R182): appending, claiming and filling.
-/
namespace Sys2Proof.Machine

/-- The bits that n elements of a format take in an image (R161). -/
def imageBits (ty : BitVec 4) (n : Nat) : Nat := if isSe ty then (n + 15) / 16 * seBlock ty else n * tyWidth ty

/-- An entry made of the first n elements of an image (R161, R162). -/
def makeEntry (src : BitVec 4) (n img now : Nat) : QEntry := { image := leBytes (img % 2 ^ imageBits src n) 128, n := n, src := src, appended := now }

/-- A queue with an entry appended (R182). -/
def Queue.append (q : Queue) (e : QEntry) : Queue := { q with entries := q.entries ++ [e] }
/-- A claim of the oldest unclaimed entry, or of the next to be appended; it takes the current ordinal (R162, R182). -/
def Queue.claim (q : Queue) : Queue := { q with claimed := q.claimed + 1, ordinal := q.ordinal + 1#40 }
/-- The entry of a claim number, if it has been appended. -/
def Queue.entryOf (q : Queue) (number : Nat) : Option QEntry := if number < q.base then none else q.entries[number - q.base]?
/-- The first claims of a queue that are filled are no longer counted. -/
def Queue.dropTaken (q : Queue) : Queue :=
  let n := (q.entries.takeWhile (·.taken)).length
  { q with entries := q.entries.drop n, base := q.base + n, claimed := q.claimed - n }
/-- A claim is filled: its entry leaves the queue (R182). Its place stays while an earlier claim waits. -/
def Queue.fill (q : Queue) (number : Nat) : Queue :=
  ({ q with entries := q.entries.zipIdx.map fun x => if x.2 + q.base = number then { x.1 with image := [], taken := true } else x.1 } : Queue).dropTaken

/-- QPUSH (R139, R161): it appends one entry at issue. -/
def opQpush (f : FmtR) : SlotOp := act fun s =>
  let c := s.ctx s.cur.key
  let q := (f.var.extractLsb' 0 3).toNat
  let b := c.qbind q
  let n := min (capacity (qbSource b)) (capacity (qbSink b))
  let e := makeEntry (qbSource b) n (readV c s.cur 0#4 f.a).toNat s.now
  modCtx s.cur.key (fun c => { c with queues := c.queues.set q ((c.queue q).append e) }) s
/-- The meaning of QPUSH. -/
def execQpush (f : FmtR) (s : State) : Host.Outcome State Fault Refusal := runOne (.qpush f) (opQpush f) s

/-- QPOP (R139, R162): it claims an entry; its captures are the claim number, the binding and the ordinal (R268). -/
def opQpop (f : FmtR) : SlotOp := act fun s =>
  let c := s.ctx s.cur.key
  let q := (f.var.extractLsb' 0 3).toNat
  let k := (c.queue q).base + (c.queue q).claimed
  let o := (c.queue q).ordinal
  Act.seq (pend { opRec s with ca := BitVec.ofNat 64 k, cb := c.qbind q, cc := o.setWidth 64 } [.v f.d.toNat]
      (.claim q k o (c.qbind q) s.now))
    (modCtx s.cur.key fun c => { c with queues := c.queues.set q (c.queue q).claim }) s
/-- The meaning of QPOP. -/
def execQpop (f : FmtR) (s : State) : Host.Outcome State Fault Refusal := runOne (.qpop f) (opQpop f) s

end Sys2Proof.Machine
end

