-- ==== Sys2Proof/Machine/Landing.lean ====
section
/-!
DEFINITION. Results reach the registers: fixed-latency landings (R86, R87), actions on issue + 1, variable-latency arrivals under the write
ports that landings leave free (R67, R87), and the claims of the queues (R182).
-/
namespace Sys2Proof.Machine

/-! The Vitrine as memory (R267, R269, R281). -/

/-- The place of a word of a context's Vitrine, by its word index (R281). -/
def vitrinePlace (key index : Nat) : Nat :=
  spadPlace (coreOf key) (carveOut (ctxOf key) + (if index < 2048 then 8 * index else 0x4000 + 8 * (index - 2048)))
/-- The bits of a record word that WRREC may write (R267). -/
def recordMask (word : Nat) : Word :=
  match word with
  | 1 => 0x0000000000000800#64
  | 2 => 0xFFFF0000FFFFFFFF#64
  | 3 => 0xFFFFFFFFFFFC0000#64
  | 7 => 0#64
  | _ => ~~~0#64
/-- A word of a Vitrine. -/
def vitrineWord (m : List Host.Cell) (key index : Nat) : Word := BitVec.ofNat 64 (leNat (Memory.read m (vitrinePlace key index) 8))
/-- WRREC's write of a word, keeping RO fields; a word index from 18,432 on does nothing (R281). -/
def writeVitrine (key index : Nat) (v : Word) : Act := fun s =>
  if 18432 ≤ index then []
  else
    let old := vitrineWord s.mem key index
    let mask := if index < 2048 then recordMask (index % 8) else ~~~0#64
    [.mem (vitrinePlace key index) (wordBytes ((old &&& ~~~mask) ||| (v &&& mask)) 8)]

/-! Snapshot triggers (R304 to R306). -/

/-- A snapshot is accepted on this cycle (R304). -/
def acceptSnap (q cid : Nat) (inc : Bool) : Act :=  fun s =>
  modBlock q cid (fun b => { b with state := 1#2, snap := { tick := s.now + 4096, inc := inc, gen := b.gen } }) s
/-- A trigger (R306): accepted as a SNAP, deferred while a snapshot is in flight, discarded while EN is 0. -/
def trigger (q cid : Nat) : Act := fun s =>
  let b := s.block q cid
  if !b.hbctl.getLsbD 0 then []
  else if b.state = 0#2 then acceptSnap q cid (b.hbctl.getLsbD 2) s
  else modBlock q cid (fun b => { b with defer_ := true }) s
/-- A step is counted; the step count that CKPT_STEPS names starts again and triggers (R305). -/
def countStep (q cid : Nat) : Act := fun s =>
  let b := s.block q cid
  let n := b.stepcnt + 1#16
  let lim := b.hbctl.extractLsb' 48 16
  if lim ≠ 0#16 ∧ n = lim then Act.seq (modBlock q cid fun b => { b with stepcnt := 0#16 }) (trigger q cid) s
  else modBlock q cid (fun b => { b with stepcnt := n }) s

/-! Landings. -/

/-- A landing of a fixed-latency result in its register: discarded behind a newer pending writer; otherwise it writes, and it makes
the register full and cancels an older pending writer (R87). DESIGN CHOICES: a mask that lands is no value of l.v0 or l.v1 (R84, R123, log
entry 53); the landing of an empty VLD through a SPAD handle counts as a write of D, and so makes D full (R136, log entry 54). -/
def Ctx.landValue (c : Ctx) (op : OpRec) (d : Dest) (v : Result) : Ctx :=
  match c.writer d with
  | some w => if op.order < w then c else write c
  | none => write c
where
  write (c : Ctx) : Ctx :=
    match d, v with
    | .s r, .word w => (c.writeS op.slot r w).markFull d
    | .v r, .vec x m => (c.writeV op.slot r x m).markFull d
    | .o r, .vec x m => c.writeO op.slot r x m
    | .m r, .mask x => { c with m := c.m.set r x }
    | .h r, .handle h => { c with h := c.h.set r h }
    | _, _ => c

/-- A REVOKE takes effect: the handle is invalid, and landings of earlier GRANTs to it are cancelled (R109, R110). -/
def Ctx.revoke (c : Ctx) (op : OpRec) (h : Nat) : Ctx :=
  { c with h := c.h.set h { c.handle h with v := false },
           landings := c.landings.filter fun l => !(l.dest = .h h && decide (l.op.ino < op.ino)) }

/-- A permission-table entry changes: handles granted from it are invalid, and a GRANT from it in flight lands V = 0 (R109, R244). -/
def Ctx.setPerm (c : Ctx) (e : Nat) (p : PermEntry) : Ctx :=
  { c with perm := c.perm.set e p,
           h := c.h.map fun x => if x.2.entry = e then (x.1, { x.2 with v := false }) else x,
           landings := c.landings.map fun l => match l.val with
             | .handle h => if h.entry = e then { l with val := .handle { h with v := false } } else l
             | _ => l }

/-- The context as it stood before this cycle's landings is kept, once per cycle (R265). -/
def keepBefore (key : Nat) : Act := fun s =>
  match beforeNow s key with
  | some _ => []
  | none => [.before key { cycle := s.now, ctx := s.ctx key }]

/-- What a landing is about to change outside its context is noted (R265). -/
def noteUndo (key : Nat) (u : Undo) : Act := fun s =>
  match s.before.find key with
  | some b => [.before key { b with undo := u :: b.undo }]
  | none => []

/-- A change of a context by a landing of another one: noted where it is another (R265). -/
def modSelected (key t : Nat) (f : Ctx → Ctx) : Act := fun s =>
  Act.seq (Act.when (t ≠ key) (noteUndo key (.ctx t (s.ctx t)))) (modCtx t f) s

/-- An action takes effect. Writes to a selected context that is no longer PARKED have no effect (R282). -/
def applyAction (key : Nat) (op : OpRec) (a : Action) : Act := fun s =>
  let c := s.ctx key
  let reach (t : Nat) : Bool := t = key || (s.ctx t).mode = .parked
  match a with
  | .srWrite t n v => Act.when (reach t) (modSelected key t fun c => writeSysReg c n v (c.mode = .service || t ≠ key)) s
  | .revoke h => modCtx key (fun c => c.revoke op h) s
  | .qcfg q v => modCtx key (fun c => c.writeQb q v) s
  | .fuse f => modCtx key (fun c => { c with fuse := f }) s
  | .vtsel t => modCtx key (fun c => { c with vtsel := t }) s
  | .wrrec t i v => Act.when (reach t)
      (Act.seq (noteUndo key (.bytes (vitrinePlace t i) (Memory.read s.mem (vitrinePlace t i) 8))) (writeVitrine t i v)) s
  | .permld t e p => Act.when (reach t) (modSelected key t fun c => c.setPerm e p) s
  | .countStep =>
    let q := partOf s.pkg (coreOf key)
    Act.seq (noteUndo key (.step (q * 256 + c.cid.toNat) (s.block q c.cid.toNat).defer_)) (countStep q c.cid.toNat) s

/-- One landing. -/
def landOne (key : Nat) (l : Landing) : Act := fun s =>
  match l.val with
  | .act a => applyAction key l.op a s
  | v => modCtx key (fun c => c.landValue l.op l.dest v) s

/-- Whether the operations of a context in a state go on: it is not stopping or saved (R33, R265). -/
def Mode.flows (m : Mode) : Bool := match m with | .stopping => false | .saved => false | .parked => false | .unbound => false | _ => true

/-- Whether the operations of a context go on. A handler's unfinished operations are drained when its context stops (R262). -/
def Ctx.flows (c : Ctx) : Bool := c.mode.flows || (c.mode = .stopping && c.stop.any (·.fromService))

/-- Whether an error that a context consumes rolls its buffer phase back (R336): in RUN, or while a stop out of RUN goes on. -/
def Ctx.rollsBack (c : Ctx) : Bool :=
  c.phase.held && c.phase.stage = 0 && (c.mode = .run || (c.mode = .stopping && c.stop.any fun st => !st.fromService && !st.wasHalted))

/-- The landings of a context that are due. -/
def dueLandings (s : State) (key : Nat) : List Landing := (s.ctx key).landings.filter fun l => decide (l.due ≤ s.now)

/-- The ports that landings take on this cycle: scalar and vector writes (R67). -/
def portCount (ls : List Landing) : Nat × Nat :=
  ((ls.filter fun l => l.dest.isS).length, (ls.filter fun l => l.dest.isV).length)

/-- FIXED_LATENCY_LANDING: every result of a context due on this cycle is written, in issue order (R86). DESIGN CHOICE (log entry 104): of two results of one
slot that reach different registers on one cycle, the last-result register holds the later one of this order, and of a landing and an arrival that of the
arrival (R84). -/
def landDue (key : Nat) : Act := fun s =>
  let due := dueLandings s key
  if !(s.ctx key).flows || due = [] then []
  else
    Act.seqs [keepBefore key, modCtx key fun c =>
        { c with landings := c.landings.filter fun l => !decide (l.due ≤ s.now), portAt := s.now, portS := (portCount due).1,
                 portV := (portCount due).2 },
      Act.each due (landOne key)] s

/-- The meaning of FIXED_LATENCY_LANDING. -/
def execFixedLatencyLanding (key : Nat) (s : State) : Host.Outcome State Fault Refusal := done (landDue key) s

/-! Arrivals. -/

/-- The values of a read from the bytes of its access, by its slot word (R105, R136, R137, R199, R202). -/
def accessVals (op : OpRec) (data : List Byte) : List Result :=
  let es (m : MaskVal) (n : Nat) := (List.range n).filter fun i => m.getLsbD i
  match decodeSlot (slotClass op.slot) op.sw with
  | .ok (.ld f) => [.word (loadExtend f.ty (leNat data))]
  | .ok (.amo f) => [.word (atomicOld f.ty (leNat data))]
  | .ok (.vld f) => let x := placeElems (tyWidth f.ty) (es (op.cc ++ op.cb) (elemCount f.ty)) data; [.vec x.1 x.2]
  | .ok (.vgath f) => let x := placeElems (tyWidth f.ty) (es (op.cc ++ op.cb) (elemCount f.ty)) data; [.vec x.1 x.2]
  | .ok (.vamo f) => let x := placeElems (tyWidth f.ty) (es (op.cc ++ op.cb) (elemCount f.ty)) data; [.vec x.1 x.2]
  | _ => []

/-- The converted value of a claim (R162): D is written whole. DESIGN CHOICE (log entry 55): of elements that do not fit in D, because the binding
changed after the push, the low 1,024 bits stand. -/
def claimValue (e : QEntry) (ordinal : BitVec 40) (qb : Word) : Result :=
  .vec (BitVec.ofNat 1024 (convertEntry qb ordinal e.src e.n (leNat e.image))) (~~~0#1024)

/-- The cycle on which a pending operation arrives and its values, once they exist (R87, R99, R182, R205). -/
def arrival (s : State) (key : Nat) (p : Pending) : Option (Nat × List Result) :=
  let c := s.ctx key
  match p.src with
  | .value due vals => some (due, vals)
  | .access id => match s.accs.find id with
    | some a => if a.faulted.isSome then none else a.performed.map fun t => (t + 1, accessVals p.op a.data)
    | none => none
  | .claim q n o b since => ((c.queue q).entryOf n).map fun e => (max since e.appended + 3, [claimValue e o b])
  | .join _ due => due.map fun t => (t, [.word (c.done.setWidth 64)])
  | .pqClaim _ => none
  | .drain => none

/-- Whether a destination takes the arrival of an operation: it is the pending writer (R87); s0 discards (R77). -/
def Ctx.takes (c : Ctx) (op : OpRec) (d : Dest) : Bool := d = .s 0 || c.writer d = some op.order

/-- Whether the free write ports of this cycle suffice for an arrival (R67). -/
def portsFree (c : Ctx) (now : Nat) (p : Pending) : Bool :=
  let used := if c.portAt = now then (c.portS, c.portV) else (0, 0)
  let ds := p.dests.filter fun d => c.takes p.op d && d ≠ .s 0
  decide (used.1 + (ds.filter Dest.isS).length ≤ 2) && decide (used.2 + (ds.filter Dest.isV).length ≤ 3)

/-- Whether a pending operation of a stopping context still arrives: a served claim of the priority queue, the token of a copy whose
bytes are performed, and the old value of an atomic outside the own scratchpad (R265). -/
def Pending.outlivesStop (p : Pending) : Bool :=
  let served := match p.src with | .value _ _ => true | _ => false
  match decodeSlot (slotClass p.op.slot) p.op.sw with
  | .ok (.pqpop _) => served
  | .ok (.amo _) => true
  | .ok (.vamo _) => true
  | _ => p.op.slot = 4 || p.op.slot = 5

/-- Whether a pending operation may arrive in the state of its context; those of a handler are drained in a context that has parked (R262). -/
def mayArrive (c : Ctx) (p : Pending) : Bool := c.flows || (c.mode = .stopping && p.outlivesStop) || (c.mode = .parked && p.op.svc)

/-- The first pending operation of a context, in issue order, that arrives now. DESIGN CHOICE (log entry 102): one that writes two registers waits until both
write ports are free on one cycle, and a later arrival may pass it meanwhile (R67). -/
def nextArrival (s : State) (key : Nat) : Option Pending :=
  let c := s.ctx key
  c.pending.find? fun p => mayArrive c p && portsFree c s.now p && (match arrival s key p with
    | some (t, _) => decide (t ≤ s.now)
    | none => false)

/-- Whether a pending operation is a claim on a queue. -/
def Pending.isClaim (p : Pending) : Bool := match p.src with | .claim .. => true | _ => false

/-- One destination of an arrival written and marked full (R87). -/
def Ctx.arrive (c : Ctx) (op : OpRec) (d : Dest) (v : Result) : Ctx :=
  if c.takes op d then
    match d, v with
    | .s r, .word w => (c.writeS op.slot r w).markFull d
    | .v r, .vec x m =>
      let c' := (c.writeV op.slot r x m).markFull d
      if op.slot = 3 then { c' with lm := c'.vreg r } else c'
    | _, _ => c
  else c

/-- The values of an arrival that leaves its access stand in what is kept of its context (R265). -/
def keepValue (key : Nat) (p : Pending) (vals : List Result) : Act := fun s =>
  match p.src, s.before.find key with
  | .access _, some b => [.before key { b with ctx := { b.ctx with
      pending := b.ctx.pending.map fun q => if q = p then { q with src := .value s.now vals } else q } }]
  | _, _ => []

/-- An arrival: its values reach the destinations that still wait for it, and what it came from is released (R87, R182, R205). -/
def arriveOne (key : Nat) (p : Pending) : Act := fun s =>
  match arrival s key p with
  | none => []
  | some (_, vals) =>
    let ds := p.dests.filter fun d => (s.ctx key).takes p.op d && d ≠ .s 0
    Act.seqs [keepBefore key, keepValue key p vals, modCtx key fun c =>
        let c := { c with pending := c.pending.erase p,
                          portS := (if c.portAt = s.now then c.portS else 0) + (ds.filter Dest.isS).length,
                          portV := (if c.portAt = s.now then c.portV else 0) + (ds.filter Dest.isV).length, portAt := s.now }
        let c := match p.src with
          | .claim q n .. => { c with queues := c.queues.set q ((c.queue q).fill n) }
          | .join _ _ => { c with done := 0#16 }
          | _ => c
        (p.dests.zip vals).foldl (fun c x => c.arrive p.op x.1 x.2) c,
      fun s => match p.src with
        | .access id => (match s.accs.find id with
          | some a => if a.buffered then [] else [.acc id none]
          | none => [])
        | _ => []] s

/-- VARIABLE_LATENCY_ARRIVAL: the next arrival of a context, when it is not a claim on a queue (R87). -/
def arriveValue (key : Nat) : Act := fun s =>
  match nextArrival s key with
  | some p => if p.isClaim then [] else arriveOne key p s
  | none => []
/-- The meaning of VARIABLE_LATENCY_ARRIVAL. -/
def execVariableLatencyArrival (key : Nat) (s : State) : Host.Outcome State Fault Refusal := done (arriveValue key) s

/-- QUEUE_CLAIM_ARRIVAL: the next arrival of a context, when it is a claim on a queue (R182). -/
def arriveClaim (key : Nat) : Act := fun s =>
  match nextArrival s key with
  | some p => if p.isClaim then arriveOne key p s else []
  | none => []
/-- The meaning of QUEUE_CLAIM_ARRIVAL. -/
def execQueueClaimArrival (key : Nat) (s : State) : Host.Outcome State Fault Refusal := done (arriveClaim key) s

end Sys2Proof.Machine
end

