-- ==== Sys2Proof/Machine/Copy.lean ====
section
/-!
DEFINITION. Copy operations (R185 to R193): their checks, their acceptance by an engine, and what a complete copy delivers.
-/
namespace Sys2Proof.Machine

/-- The shape of a copy: rows of len0 bytes, n1 rows in each of n2 planes, and the strides (R187, R189). -/
structure Shape where
  len0 : Nat
  n1 : Nat := 1
  n2 : Nat := 1
  d1 : Int := 0
  s1 : Int := 0
  d2 : Int := 0
  s2 : Int := 0
  ioff : Nat := 0
  t : Nat := 0
  deriving DecidableEq, Repr

/-- Whether a copy adds into its destination (R190). -/
def CopyForm.isRed : CopyForm → Bool | .credI32 => true | .credFp32 => true | .credBf16 => true | _ => false
/-- Whether a copy follows an index list (R189). -/
def CopyForm.isIndexed : CopyForm → Bool | .cgath => true | .cscat => true | _ => false
/-- The element size of a reduction (R190). -/
def CopyForm.elem : CopyForm → Nat | .credI32 => 4 | .credFp32 => 4 | .credBf16 => 2 | _ => 1

/-- The rule of a descriptor's words for a form, as the smallest IDX of a word that breaks it (R187, R188). -/
def descFault (form : CopyForm) (at_ : Bool) (d0 d1 d2 d3 : Word) : Option Nat :=
  let len0 := (d0.extractLsb' 0 32).toNat
  let n1 := (d0.extractLsb' 32 16).toNat
  let n2 := (d0.extractLsb' 48 16).toNat
  let linear := form = .cpy || form = .cfill || form.isRed
  let bad0 := len0 = 0 || n1 = 0 || n2 = 0 || (linear && n1 ≠ 1) || (form ≠ .cpy3 && n2 ≠ 1) || decide (2 ^ 32 ≤ len0 * n1 * n2) ||
    len0 * n1 * n2 % form.elem ≠ 0
  let bad1 := linear && d1 ≠ 0#64
  let bad2 := (form.isIndexed && d2.extractLsb' 32 32 ≠ 0#32) || (!form.isIndexed && form ≠ .cpy3 && d2 ≠ 0#64)
  let bad3 := !at_ && d3 ≠ 0#64
  if bad0 then some 1 else if bad1 then some 2 else if bad2 then some 3 else if bad3 then some 4
  else if form.isIndexed && decide (programArea < (d1.extractLsb' 0 32).toNat + 4 * n1) then some 5 else none

/-- The shape that a descriptor gives (R187). -/
def descShape (d0 d1 d2 d3 : Word) : Shape :=
  { len0 := (d0.extractLsb' 0 32).toNat, n1 := (d0.extractLsb' 32 16).toNat, n2 := (d0.extractLsb' 48 16).toNat,
    d1 := (d1.extractLsb' 32 32).toInt, s1 := (d1.extractLsb' 0 32).toInt, d2 := (d2.extractLsb' 32 32).toInt,
    s2 := (d2.extractLsb' 0 32).toInt, ioff := (d1.extractLsb' 0 32).toNat, t := d3.toNat }

/-- The four words of a descriptor in the own scratchpad (R187). -/
def descWords (m : List Host.Cell) (core desc : Nat) : List Word :=
  (List.range 4).map fun i => BitVec.ofNat 64 (leNat (Memory.read m (spadPlace core (desc + 8 * i)) 8))

/-- The index list of an indexed copy, read at issue (R189). -/
def indexList (m : List Host.Cell) (core : Nat) (sh : Shape) : List Int :=
  (List.range sh.n1).map fun r => signedOf 32 (leNat (Memory.read m (spadPlace core (sh.ioff + 4 * r)) 4))

/-- The lowest offset and the end of the highest that a strided side touches (R189). -/
def sideRange (off : Int) (len0 n1 n2 : Nat) (st1 st2 : Int) : Int × Int :=
  let a := (n1 - 1 : Int) * st1
  let b := (n2 - 1 : Int) * st2
  (off + min 0 a + min 0 b, off + max 0 a + max 0 b + len0)

/-- The check of a range given by exact offsets through a handle of a copy, with the kinds and permissions of R186: each bit of `perms`
is needed. -/
def copyCheck (h : Handle) (lo hi : Int) (perms : List Nat) (mcast : Bool) : Option (BitVec 16) :=
  if !h.v then some codeHandleInvalid
  else if lo < 0 ∨ (h.bound.toNat : Int) < hi ∨
      ((h.kind = .spad ∨ h.kind = .mcast) ∧ (programArea : Int) < h.base.toNat + hi) ∨
      (h.kind = .cluster ∧ (windowEnd : Int) < h.base.toNat + hi) then some codeHandleBound
  else if decide (h.kind = .mcast) != mcast || perms.any fun p => !h.perm.getLsbD p then some codeHandlePerm
  else none

/-- The rows of a copy as offsets of the destination and of the source (R189), from row k on. -/
def rowOffsets (form : CopyForm) (sh : Shape) (idx : List Int) (doff soff : Int) (k : Nat) : Int × Int :=
  let p : Int := (k / sh.n1 : Nat)
  let r : Int := (k % sh.n1 : Nat)
  match form with
  | .cgath => (doff + r * sh.d1, soff + idx.getD k 0 * sh.s2)
  | .cscat => (doff + idx.getD k 0 * sh.s2, soff + r * sh.d1)
  | _ => (doff + p * sh.d2 + r * sh.d1, soff + p * sh.s2 + r * sh.s1)

/-- The bound against which the rows of an indexed side are checked as the engine reaches them: none where the handle is invalid or lacks a
permission (R189). -/
def sideBound (h : Handle) (perms : List Nat) : Nat := if h.v && perms.all fun p => h.perm.getLsbD p then h.bound.toNat else 0

/-- Whether a row of n bytes at an address fails the check of an indexed side of a copy (R93, R189): the offset is two's complement. -/
def rowOutside (kind : HandleKind) (base bound : Nat) (a : Int) (n : Nat) : Bool :=
  let off := (BitVec.ofInt 64 (a - base)).toInt
  let top : Int := base + off + n
  decide (off < 0) || decide ((bound : Int) < off + n) || (kind = .spad && decide ((programArea : Int) < top)) ||
    (kind = .cluster && decide ((windowEnd : Int) < top))

/-- The trap of a copy whose rows reach the window of an active walk (R296, R301): the rows that its engine would reach. -/
def copyWalkTrap (c : Ctx) (i : Issue) (form : CopyForm) (sh : Shape) (idx : List Int) (hd hs : Handle) (doff soff : Int) : Option Trap :=
  if walkChecks c then
    let dst (k : Nat) : Word := hd.address (BitVec.ofInt 64 (rowOffsets form sh idx doff soff k).1)
    let src (k : Nat) : Word := hs.address (BitVec.ofInt 64 (rowOffsets form sh idx doff soff k).2)
    let reached (k : Nat) : Bool := match form with
      | .cgath => !rowOutside hs.kind hs.base.toNat (sideBound hs [0]) (src k).toNat sh.len0
      | .cscat => !rowOutside hd.kind hd.base.toNat (sideBound hd [1]) (dst k).toNat sh.len0
      | _ => true
    ((List.range (sh.n1 * sh.n2)).takeWhile reached).findSome? fun k =>
      ((windowInvalid c i hd (dst k) 0).orElse fun _ =>
        if inWindow c hd.kind (dst k).toNat sh.len0 then some (accessTrap i codeUndeclaredWrite (dst k) 0 0x03#8) else none).orElse fun _ =>
      if form = .cfill then none
      else (windowInvalid c i hs (src k) 0).orElse fun _ =>
        if inWindow c hs.kind (src k).toNat sh.len0 then some (accessTrap i codeReadInWindow (src k) 0 0#8) else none
  else none

/-- Whether a barrier lies in the range that the context's image claims (R194). -/
def barrierClaimed (c : Ctx) (k : Nat) : Bool := decide (c.barFirst ≤ k) && decide (k < c.barFirst + c.barCount)
/-- BARRIER_RANGE (R194). -/
def barrierTrap (i : Issue) (k : Nat) : Trap := { code := codeBarrierRange, idx := BitVec.ofNat 16 k, slots := slotBit i.slot }

/-- COPY_DESC (R188). -/
def copyDescTrap (i : Issue) (idx : Nat) : Trap := { code := codeCopyDesc, idx := BitVec.ofNat 16 idx, slots := slotBit i.slot }

/-- The shape of a copy and the offset of its descriptor's words, or the IDX of the fault (R185, R187, R188). -/
def copyShape (s : State) (form : CopyForm) (at_ : Bool) (f : FmtC) (doff soff : Word) : Except Nat (Shape × List Word) :=
  let c := s.ctx s.cur.key
  let n := if f.cstep = 1#1 then s.cur.step.toNat else 0
  let len := readS c s.cur f.len
  let e := form.elem
  let odd := doff.toNat % e ≠ 0 || (form ≠ .cfill && soff.toNat % e ≠ 0)
  if !at_ && (form = .cpy || form = .cfill || form.isRed) then
    if 2 ^ 32 ≤ len.toNat ∨ len.toNat % e ≠ 0 ∨ odd then .error 0 else .ok ({ len0 := len.toNat }, [])
  else
    let desc := (len + BitVec.ofNat 64 (32 * n)).toNat
    if desc % 8 ≠ 0 ∨ programArea < desc + 32 then .error 0
    else
      let w := descWords s.mem (coreOf s.cur.key) desc
      let d (i : Nat) := w.getD i 0#64
      if odd then .error 0
      else match descFault form at_ (d 0) (d 1) (d 2) (d 3) with
        | some k => .error k
        | none => .ok (descShape (d 0) (d 1) (d 2) (d 3), w)

/-- The offsets of a copy after CSTEP stepping (R63): in the linear forms they advance by the length, in the descriptor forms the
descriptor's offset does. -/
def copyOffsets (s : State) (form : CopyForm) (at_ : Bool) (f : FmtC) : Word × Word :=
  let c := s.ctx s.cur.key
  let linear := !at_ && (form = .cpy || form = .cfill || form.isRed)
  let adv := if linear && f.cstep = 1#1 then s.cur.step.setWidth 64 * readS c s.cur f.len else 0#64
  (readS c s.cur f.doff + adv, readS c s.cur f.soff + (if form = .cfill then 0#64 else adv))

/-- The trap that the handles of a copy give: the destination first (R186, R189). -/
def copyHandleTrap (i : Issue) (form : CopyForm) (sh : Shape) (hd hs : Handle) (doff soff : Int) : Option Trap :=
  let d := sideRange doff sh.len0 sh.n1 sh.n2 sh.d1 sh.d2
  let t := if form = .cscat then sideRange soff sh.len0 sh.n1 1 sh.d1 0 else sideRange soff sh.len0 sh.n1 sh.n2 sh.s1 sh.s2
  let dp := if form.isRed then [1, 2] else [1]
  let kindOnly (h : Handle) : Option (BitVec 16) := if h.kind = .mcast then some codeHandlePerm else none
  let dt := if form = .cscat then kindOnly hd
    else if form = .cgath then copyCheck hd (sideRange doff sh.len0 sh.n1 1 sh.d1 0).1 (sideRange doff sh.len0 sh.n1 1 sh.d1 0).2 dp false
    else copyCheck hd d.1 d.2 dp (form = .cmcast)
  let st := if form = .cfill then none else if form = .cgath then kindOnly hs else copyCheck hs t.1 t.2 [0] false
  match dt with
  | some code => some (accessTrap i code (hd.address (BitVec.ofInt 64 doff)) 0 0#8)
  | none => st.map fun code => accessTrap i code (hs.address (BitVec.ofInt 64 soff)) 0 0#8

/-- The copies of the phase that is held enter its log with their captures; a seventeenth overflows it (R334). -/
def logCopy (c : Ctx) (op : OpRec) (desc : List Word) : Ctx :=
  if c.phase.held then
    if c.phase.log.length < 16 then { c with phase := { c.phase with log := c.phase.log ++ [⟨op, desc⟩] } }
    else { c with phase := { c.phase with overflow := true } }
  else c

/-- A copy operation (R185 to R191): its checks, in the order length and descriptor, handles, barrier, walk; then the engine accepts it
(log entry 22). DESIGN CHOICE (log entry 109): a copy with L = 0, which makes no check (R189), still has its offsets' alignment and its barrier judged. -/
def copyOp (form : CopyForm) (at_ : Bool) (f : FmtC) : SlotOp := fun s =>
  let c := s.ctx s.cur.key
  let core := coreOf s.cur.key
  let hd := c.handle f.dh.toNat
  let hs := if form = .cfill then {} else c.handle f.sh.toNat
  let o := copyOffsets s form at_ f
  match copyShape s form at_ f o.1 o.2 with
  | .error k => .error (copyDescTrap s.cur k)
  | .ok (sh, w) =>
    let total := sh.len0 * sh.n1 * sh.n2
    let idx := if form.isIndexed then indexList s.mem core sh else []
    let ht := if total = 0 then none else copyHandleTrap s.cur form sh hd hs o.1.toInt o.2.toInt
    match ht with
    | some t => .error t
    | none =>
      if f.ben = 1#1 && !barrierClaimed c f.bar.toNat then .error (barrierTrap s.cur f.bar.toNat)
      else match (if total = 0 then none else copyWalkTrap c s.cur form sh idx hd hs o.1.toInt o.2.toInt) with
        | some t => .error t
        | none =>
          let e := engineOf core s.cur.slot
          let r := { opRec s with ca := hd.address o.1, cb := (if form = .cfill then o.2 else hs.address o.2), cc := BitVec.ofNat 64 total,
                                  hka := hd.kind.bits, hkb := hs.kind.bits, prma := hd.perm, prmb := hs.perm }
          .ok (withId (fun id => Act.seqs [fun s => [.free, .copy id (some
              { key := s.cur.key, cid := c.cid, op := r, engine := e, form := form, dk := hd.kind, sk := hs.kind,
                dst := (hd.address o.1).toNat, src := (hs.address o.2).toNat, dbound := sideBound hd [1], sbound := sideBound hs [0],
                dbase := hd.base.toNat, sbase := hs.base.toNat, tgt := hd.tgt, fill := o.2, len0 := sh.len0, n1 := sh.n1, n2 := sh.n2,
                d1 := sh.d1, s1 := sh.s1, d2 := sh.d2, s2 := sh.s2, idx := idx, desc := w, tok := f.tok.toNat,
                bar := if f.ben = 1#1 then some f.bar.toNat else none,
                launch := if at_ then some (max sh.t (s.now + 1)) else none, launched := !at_,
                patha := (s.quarter (partOf s.pkg core)).patha, pathb := (s.quarter (partOf s.pkg core)).pathb,
                ready := s.now + 1 + Config.freeNat s.free, after := (heldBehind c true).map (·.id),
                phase := if c.phase.held then some c.phase.number else none })],
            modCtx s.cur.key fun c => (logCopy c r w).markEmpty r.order (.s f.tok.toNat),
            fun s => [.engine e { s.engine e with last := core % 8, acceptedAt := some s.now }]]) s)

/-- CPY (R189). -/
def opCpy (f : FmtC) : SlotOp := copyOp .cpy false f
/-- The meaning of CPY. -/
def execCpy (f : FmtC) (s : State) : Host.Outcome State Fault Refusal := runOne (.cpy f) (opCpy f) s
/-- CPY2 (R189). -/
def opCpy2 (f : FmtC) : SlotOp := copyOp .cpy2 false f
/-- The meaning of CPY2. -/
def execCpy2 (f : FmtC) (s : State) : Host.Outcome State Fault Refusal := runOne (.cpy2 f) (opCpy2 f) s
/-- CPY3 (R189). -/
def opCpy3 (f : FmtC) : SlotOp := copyOp .cpy3 false f
/-- The meaning of CPY3. -/
def execCpy3 (f : FmtC) (s : State) : Host.Outcome State Fault Refusal := runOne (.cpy3 f) (opCpy3 f) s
/-- CGATH (R189). -/
def opCgath (f : FmtC) : SlotOp := copyOp .cgath false f
/-- The meaning of CGATH. -/
def execCgath (f : FmtC) (s : State) : Host.Outcome State Fault Refusal := runOne (.cgath f) (opCgath f) s
/-- CSCAT (R189). -/
def opCscat (f : FmtC) : SlotOp := copyOp .cscat false f
/-- The meaning of CSCAT. -/
def execCscat (f : FmtC) (s : State) : Host.Outcome State Fault Refusal := runOne (.cscat f) (opCscat f) s
/-- CMCAST (R189). -/
def opCmcast (f : FmtC) : SlotOp := copyOp .cmcast false f
/-- The meaning of CMCAST. -/
def execCmcast (f : FmtC) (s : State) : Host.Outcome State Fault Refusal := runOne (.cmcast f) (opCmcast f) s
/-- CFILL (R189). -/
def opCfill (f : FmtC) : SlotOp := copyOp .cfill false f
/-- The meaning of CFILL. -/
def execCfill (f : FmtC) (s : State) : Host.Outcome State Fault Refusal := runOne (.cfill f) (opCfill f) s
/-- CRED.I32 (R189, R190). -/
def opCredI32 (f : FmtC) : SlotOp := copyOp .credI32 false f
/-- The meaning of CRED.I32. -/
def execCredI32 (f : FmtC) (s : State) : Host.Outcome State Fault Refusal := runOne (.credI32 f) (opCredI32 f) s
/-- CRED.FP32 (R189, R190). -/
def opCredFp32 (f : FmtC) : SlotOp := copyOp .credFp32 false f
/-- The meaning of CRED.FP32. -/
def execCredFp32 (f : FmtC) (s : State) : Host.Outcome State Fault Refusal := runOne (.credFp32 f) (opCredFp32 f) s
/-- CRED.BF16 (R189, R190). -/
def opCredBf16 (f : FmtC) : SlotOp := copyOp .credBf16 false f
/-- The meaning of CRED.BF16. -/
def execCredBf16 (f : FmtC) (s : State) : Host.Outcome State Fault Refusal := runOne (.credBf16 f) (opCredBf16 f) s
/-- CPY.AT (R189, R191). -/
def opCpyAt (f : FmtC) : SlotOp := copyOp .cpy true f
/-- The meaning of CPY.AT. -/
def execCpyAt (f : FmtC) (s : State) : Host.Outcome State Fault Refusal := runOne (.cpyAt f) (opCpyAt f) s
/-- CPY2.AT (R189, R191). -/
def opCpy2At (f : FmtC) : SlotOp := copyOp .cpy2 true f
/-- The meaning of CPY2.AT. -/
def execCpy2At (f : FmtC) (s : State) : Host.Outcome State Fault Refusal := runOne (.cpy2At f) (opCpy2At f) s
/-- CPY3.AT (R189, R191). -/
def opCpy3At (f : FmtC) : SlotOp := copyOp .cpy3 true f
/-- The meaning of CPY3.AT. -/
def execCpy3At (f : FmtC) (s : State) : Host.Outcome State Fault Refusal := runOne (.cpy3At f) (opCpy3At f) s
/-- CGATH.AT (R189, R191). -/
def opCgathAt (f : FmtC) : SlotOp := copyOp .cgath true f
/-- The meaning of CGATH.AT. -/
def execCgathAt (f : FmtC) (s : State) : Host.Outcome State Fault Refusal := runOne (.cgathAt f) (opCgathAt f) s
/-- CSCAT.AT (R189, R191). -/
def opCscatAt (f : FmtC) : SlotOp := copyOp .cscat true f
/-- The meaning of CSCAT.AT. -/
def execCscatAt (f : FmtC) (s : State) : Host.Outcome State Fault Refusal := runOne (.cscatAt f) (opCscatAt f) s
/-- CMCAST.AT (R189, R191). -/
def opCmcastAt (f : FmtC) : SlotOp := copyOp .cmcast true f
/-- The meaning of CMCAST.AT. -/
def execCmcastAt (f : FmtC) (s : State) : Host.Outcome State Fault Refusal := runOne (.cmcastAt f) (opCmcastAt f) s
/-- CFILL.AT (R189, R191). -/
def opCfillAt (f : FmtC) : SlotOp := copyOp .cfill true f
/-- The meaning of CFILL.AT. -/
def execCfillAt (f : FmtC) (s : State) : Host.Outcome State Fault Refusal := runOne (.cfillAt f) (opCfillAt f) s
/-- CRED.I32.AT (R189, R190, R191). -/
def opCredI32At (f : FmtC) : SlotOp := copyOp .credI32 true f
/-- The meaning of CRED.I32.AT. -/
def execCredI32At (f : FmtC) (s : State) : Host.Outcome State Fault Refusal := runOne (.credI32At f) (opCredI32At f) s
/-- CRED.FP32.AT (R189, R190, R191). -/
def opCredFp32At (f : FmtC) : SlotOp := copyOp .credFp32 true f
/-- The meaning of CRED.FP32.AT. -/
def execCredFp32At (f : FmtC) (s : State) : Host.Outcome State Fault Refusal := runOne (.credFp32At f) (opCredFp32At f) s
/-- CRED.BF16.AT (R189, R190, R191). -/
def opCredBf16At (f : FmtC) : SlotOp := copyOp .credBf16 true f
/-- The meaning of CRED.BF16.AT. -/
def execCredBf16At (f : FmtC) (s : State) : Host.Outcome State Fault Refusal := runOne (.credBf16At f) (opCredBf16At f) s

/-! What a complete copy delivers. -/

/-- The rows of a copy in flight, as addresses modulo 2^64 (R189). -/
def Copy.row (c : Copy) (k : Nat) : Int × Int :=
  let o := rowOffsets c.form { len0 := c.len0, n1 := c.n1, n2 := c.n2, d1 := c.d1, s1 := c.s1, d2 := c.d2, s2 := c.s2 } c.idx c.dst c.src k
  (o.1 % 2 ^ 64, o.2 % 2 ^ 64)
/-- The token of a copy (R192). -/
def Copy.token (c : Copy) : Word :=
  if c.status = 0 then BitVec.ofNat 64 c.total else (1#64 <<< 63) ||| BitVec.ofNat 64 (c.status * 2 ^ 32 + c.movedBytes)

/-- The window bytes below an offset that a member holds (R90). -/
def memberBelow (m x : Nat) : Nat := x / 1024 * 128 + min 128 (x % 1024 - 128 * m)
/-- The bytes of a copy's map that land in a member's scratchpad (R90, R192). -/
def Copy.memberBytes (c : Copy) (m : Nat) : Nat :=
  ((List.range (c.n1 * c.n2)).map fun k => memberBelow m ((c.row k).1.toNat + c.len0) - memberBelow m (c.row k).1.toNat).foldl (· + ·) 0

/-- The barrier additions of a copy: core and bytes (R192). -/
def copyAdditions (s : State) (c : Copy) : List (Nat × Nat) :=
  match c.dk with
  | .cluster => (List.range 8).filterMap fun m =>
      if c.memberBytes m = 0 then none else some (coreOf c.key / 8 * 8 + m, c.memberBytes m)
  | .mcast => (mcastCores s c.key c.tgt).map fun x => (x, c.total)
  | _ => [(coreOf c.key, c.total)]

/-- Whether a line of a core's vector data cache holds bytes of a copy's destination: under a GLOBAL address, or in the cluster window, where a
destination in a scratchpad has its bytes as well (R90, R217). -/
def Copy.reachesLine (core : Nat) (c : Copy) (l : CacheLine) : Bool :=
  let meets (lo : Nat) : Bool := (List.range (c.n1 * c.n2)).any fun k =>
    decide (lo < (c.row k).1.toNat + c.len0) && decide ((c.row k).1.toNat < lo + 128)
  match c.dk with
  | .global => !l.window && l.cid = effectiveCid c.cid (l.va * 128) && meets (l.va * 128)
  | .cluster => l.window && meets (l.va * 128)
  | _ => l.window && l.va % 8 = core % 8 && meets (l.va / 8 * 128)

/-- The lines of a core's vector data cache that hold bytes of a copy's destination are discarded before the addition (R217). -/
def discardCopied (core : Nat) (c : Copy) : Act := modCore core fun x => { x with vcache := x.vcache.filter fun l => !c.reachesLine core l }

/-- Pending operations stay in issue order. -/
def insertPending (p : Pending) : List Pending → List Pending
  | [] => [p]
  | x :: r => if p.op.ino < x.op.ino then p :: x :: r else x :: insertPending p r

/-- The barrier additions of a copy (R192). -/
def addBarriers (c : Copy) : Act := fun s =>
  match c.bar with
  | some b => Act.each (copyAdditions s c) (fun x => Act.seq (discardCopied x.1 c)
      (modCore x.1 fun k => { k with barIn := k.barIn ++ [⟨b, s.now, x.2, none⟩] })) s
  | none => []

/-- A copy delivers its token and its barrier additions, once (R192, R193). -/
def deliverCopy (c : Copy) : Act := fun s =>
  Act.seq (Act.when (c.tok ≠ 0) (modCtx c.key fun x =>
    { x with pending := insertPending ⟨c.op, [.s c.tok], .value (s.now + 1) [.word c.token]⟩ x.pending })) (addBarriers c) s

/-- A held copy delivers on the cycle of the commit, before the capture (R333, R334). -/
def deliverNow (c : Copy) : Act :=
  Act.seq (Act.when (c.tok ≠ 0) (modCtx c.key fun x => x.arrive c.op (.s c.tok) (.word c.token))) (addBarriers c)

end Sys2Proof.Machine
end

