-- ==== Sys2Proof/Machine/Tasks.lean ====
section
/-!
DEFINITION. Buffer phases (R333, R334), the end of a task with an error (R231), unbinding, and the instructions of synchronisation: barriers,
gang barriers, drains, WAITT, YIELD, HALT, TRAP, CINV and CFLUSH (R194 to R198, R279, R284 to R287).
-/
namespace Sys2Proof.Machine

/-! Buffer phases. -/

/-- The part of a phase capture that the issue of the PHASE leaves (R333). -/
def captureState (c : Ctx) (pc : Word) : PhaseCapture :=
  { s := c.s, emptyS := c.emptyS, lp := c.lp, frames := c.frames, order := c.order, mpc := c.mpc, slots := c.slots, pc := pc,
    repleft := c.repleft }

/-- The copies that the phases of a context hold are released: complete ones deliver, the others will when they complete (R334). -/
def releaseHeld (key : Nat) : Act := fun s =>
  Act.seqs [Act.each (s.ctx key).phase.done deliverNow,
    modCtx key fun c => { c with phase := { c.phase with done := [] } },
    Act.each (s.copies.filter fun x => x.2.key = key && x.2.phase.isSome) fun x => modCopy x.1 fun y => { y with phase := none }] s

/-- The commit of the current phase (R333). -/
def commitPhase (key : Nat) (off : Bool) : Act := fun s =>
  Act.seq (releaseHeld key) (modCtx key fun c =>
    let p := c.phase
    if off || c.walk.act || p.overflow then { c with phase := { p with held := false, heldLog := p.log, log := [], overflow := false } }
    else { c with phase := { p with held := true, heldLog := p.log, log := [], overflow := false, rollbacks := 0, number := p.number + 1, first := c.bseq,
                                    cap := captureState c c.pc } }) s

/-- PHASE (R333). The end of the issue completes the capture with the next issue's place. -/
def opPhase (_ : FmtY) : SlotOp := act fun s => Act.seq (commitPhase s.cur.key false) (modCur fun i => { i with phased := true }) s
/-- The meaning of PHASE. -/
def execPhase (f : FmtY) (s : State) : Host.Outcome State Fault Refusal := runOne (.phase f) (opPhase f) s
/-- PHASE, the form .off (R333). -/
def opPhaseOff (_ : FmtY) : SlotOp := act fun s => commitPhase s.cur.key true s
/-- The meaning of PHASE.OFF. -/
def execPhaseOff (f : FmtY) (s : State) : Host.Outcome State Fault Refusal := runOne (.phaseOff f) (opPhaseOff f) s

/-! Tasks. -/

/-- The contexts of a task (R228). -/
def taskContexts (s : State) (t : Nat) : List Nat := (s.ctxs.filter fun x => x.2.task = some t && x.2.mode ≠ .unbound).map (·.1)
/-- The members of a task's gang (R36, R228). -/
def gangMembers (s : State) (t : Nat) : List Nat :=
  (s.ctxs.filter fun x => x.2.task = some t && x.2.index = 0 && x.2.mode ≠ .unbound).map (·.1)

/-- The claims of a context leave the priority queue of its die (R233, R262). -/
def dropClaims (key : Nat) : Act := fun s =>
  let d := dieOf (coreOf key)
  if (s.die d).pqMoves.any fun m => m.ctx = key && m.push.isNone then
    modDie d (fun x => { x with pqMoves := x.pqMoves.filter fun m => !(m.ctx = key && m.push.isNone) }) s
  else []

/-- A context is unbound: what it had in flight and had not to wait for is dropped. -/
def unbind (key : Nat) : Act := fun s =>
  [.ctx key {}] ++ dropClaims key s ++ ((s.accs.filter fun x => x.2.key = key && !x.2.what.writes).map fun x => .acc x.1 none) ++
  ((s.copies.filter fun x => x.2.key = key).map fun x => .copy x.1 none)

/-- A context of an ended task stops and is unbound at the end of STOPPING; a saved one is unbound at once (R231). -/
def stopUnbind (key : Nat) : Act := fun s =>
  let c := s.ctx key
  match c.mode with
  | .unbound => []
  | .saved => unbind key s
  | _ => match c.stop with
    | some st => [.ctx key { c with held := false, stop := some { st with kind := .unbind } }]
    | none => freezeHeld key s ++ settleLines key s ++ [.ctx key (beginStop (settleWait s key c) .unbind s.now { code := 0#16 })]

/-- What a save holds without a task. -/
def Saved.without (v : Saved) (t : Nat) : Saved :=
  { v with ctxs := v.ctxs.filter fun x => decide (x.2.task ≠ some t),
           cores := v.cores.map fun x => (x.1, x.2.1, x.2.2.filter fun y => decide (y.task ≠ t)) }

/-- A task ends with a code: its status is that of the first context to end with one; its other contexts are stopped and its queued
children discarded (R231, R232). -/
def endTask (t : Nat) (code : BitVec 16) : Act := fun s =>
  match s.launches.find t with
  | none => []
  | some l =>
    Act.seqs [
      modLaunch t fun l => { l with status := if l.ended then l.status else code, ended := true, stage := .completing },
      Act.each l.cores fun c => modCore c fun x => { x with deque := x.deque.filter fun y => decide (y.task ≠ t) },
      fun s => s.saves.map fun x => .save x.1 (some (x.2.without t)),
      Act.each (taskContexts s t) stopUnbind] s

/-- A JOIN that waits has its arrival cycle when JCNT becomes 0 (R205). -/
def joinDue (now : Nat) (p : Pending) : Pending :=
  match p.src with
  | .join since none => { p with src := .join since (some (max since now + 2)) }
  | _ => p

/-- The HALT of a child: its parent's counts (R204, R205). -/
def childDone (key : Nat) : Act := fun s =>
  match (s.ctx key).child with
  | none => []
  | some p => Act.seq (modCtx key fun c => { c with child := none })
      (modCtx p fun c => { c with jcnt := c.jcnt - 1#16, done := c.done + 1#16, pending := if c.jcnt = 1#16 then c.pending.map (joinDue s.now) else c.pending }) s

/-- HALT (R287, R333): the context enters HALTED, as the next cycle finds it; in SERVICE it ends the task with TRAPCAUSE.CODE. -/
def opHalt (_ : FmtY) : SlotOp := act fun s =>
  let k := s.cur.key
  let c := s.ctx k
  if c.mode = .service then
    match c.task with
    | some t => endTask t (c.trapcause.extractLsb' 0 16) s
    | none => modCtx k (fun c => { c with mode := .halted }) s
  else Act.seqs [commitPhase k true, childDone k, modCtx k fun c => { c with mode := .halted }] s
/-- The meaning of HALT. -/
def execHalt (f : FmtY) (s : State) : Host.Outcome State Fault Refusal := runOne (.halt f) (opHalt f) s

/-- TRAP (R279): every slot commits, and the stop follows the issue. -/
def opTrap (f : FmtY) : SlotOp := act fun s =>
  let v := readS (s.ctx s.cur.key) s.cur f.a
  modCur (fun i => { i with trapped := some (v.extractLsb' 0 16) }) s
/-- The meaning of TRAP. -/
def execTrap (f : FmtY) (s : State) : Host.Outcome State Fault Refusal := runOne (.trap f) (opTrap f) s

/-! Named barriers. -/

/-- The barrier of a Y word (R61). -/
def barrierOf (f : FmtY) : Nat := (f.sf.extractLsb' 0 11).toNat

/-- BARM (R195): it takes effect on issue + 1. -/
def opBarm (f : FmtY) : SlotOp := fun s =>
  let c := s.ctx s.cur.key
  let v := readS c s.cur f.a
  if !barrierClaimed c (barrierOf f) || decide (2 ^ 32 ≤ v.toNat) then .error (barrierTrap s.cur (barrierOf f))
  else .ok (modCore (coreOf s.cur.key) (fun x => { x with barIn := x.barIn ++ [⟨(barrierOf f), s.now + 1, 0, some (v.setWidth 32)⟩] }) s)
/-- The meaning of BARM. -/
def execBarm (f : FmtY) (s : State) : Host.Outcome State Fault Refusal := runOne (.barm f) (opBarm f) s
/-- BARRIVE (R195). -/
def opBarrive (f : FmtY) : SlotOp := fun s =>
  let c := s.ctx s.cur.key
  let v := readS c s.cur f.a
  if !barrierClaimed c (barrierOf f) then .error (barrierTrap s.cur (barrierOf f))
  else .ok (modCore (coreOf s.cur.key) (fun x => { x with barIn := x.barIn ++ [⟨(barrierOf f), s.now + 1, v.toNat % 2 ^ 32, none⟩] }) s)
/-- The meaning of BARRIVE. -/
def execBarrive (f : FmtY) (s : State) : Host.Outcome State Fault Refusal := runOne (.barrive f) (opBarrive f) s
/-- BWAIT (R195): it is ready only while the barrier is not armed, and then has no effect. -/
def opBwait (f : FmtY) : SlotOp := fun s =>
  if barrierClaimed (s.ctx s.cur.key) (barrierOf f) then .ok [] else .error (barrierTrap s.cur (barrierOf f))
/-- The meaning of BWAIT. -/
def execBwait (f : FmtY) (s : State) : Host.Outcome State Fault Refusal := runOne (.bwait f) (opBwait f) s

/-- The update of one barrier on a cycle (R196): the additions, then the BARMs that take effect, then the flip. -/
def Barrier.step (b : Barrier) (now : Nat) (add : Nat) (arm : Option W32) : Barrier :=
  let arr := min (b.arr.toNat + add) (2 ^ 32 - 1)
  let cnt := arm.getD b.cnt
  let armd := arm.isSome || b.armd
  let before := if b.updated = now then b.before else b.armd
  if armd ∧ cnt.toNat ≤ arr then
    { cnt := cnt, arr := BitVec.ofNat 32 (arr - cnt.toNat), ph := !b.ph, armd := false, before := before, updated := now }
  else { cnt := cnt, arr := BitVec.ofNat 32 arr, ph := b.ph, armd := armd, before := before, updated := now }

/-- The barriers of a core after a cycle (R196). -/
def Core.stepBarriers (x : Core) (now : Nat) : Core :=
  let due := x.barIn.filter fun i => decide (i.due ≤ now)
  { x with barIn := x.barIn.filter fun i => !decide (i.due ≤ now),
           bars := (distinct (due.map (·.bar))).foldl (fun t k =>
             let mine := due.filter (·.bar = k)
             t.set k ((t.get {} k).step now ((mine.map (·.add)).foldl (· + ·) 0) (mine.foldl (fun a i => i.arm.orElse fun _ => a) none))) x.bars }

/-! Gang barriers. -/

/-- GBARRIVE (R197): the context's arrival is counted; the last one sets the release cycle. DESIGN CHOICE (log entry 110): a context of the task that is no
member of its gang has its record set, counts toward no release and is cleared by one. -/
def opGbarrive (f : FmtY) : SlotOp := fun s =>
  let k := s.cur.key
  let c := s.ctx k
  if !barrierClaimed c (barrierOf f) then .error (barrierTrap s.cur (barrierOf f))
  else .ok (Act.seq (modCtx k fun c => { c with ga := some (barrierOf f) }) (fun s => match c.task with
    | none => []
    | some t =>
      let g := (s.gang t).bars.get {} (barrierOf f)
      let arrived := if k ∈ g.arrived then g.arrived else g.arrived ++ [k]
      let all := (gangMembers s t).all fun m => decide (m ∈ arrived)
      modGang t (fun x => { x with bars := x.bars.set (barrierOf f)
                                     { arrived := arrived, release := if all then some (s.now + 32) else g.release } }) s) s)
/-- The meaning of GBARRIVE. -/
def execGbarrive (f : FmtY) (s : State) : Host.Outcome State Fault Refusal := runOne (.gbarrive f) (opGbarrive f) s
/-- GBWAIT (R197): it is ready only once the context's arrival has been released. -/
def opGbwait (f : FmtY) : SlotOp := fun s =>
  if barrierClaimed (s.ctx s.cur.key) (barrierOf f) then .ok [] else .error (barrierTrap s.cur (barrierOf f))
/-- The meaning of GBWAIT. -/
def execGbwait (f : FmtY) (s : State) : Host.Outcome State Fault Refusal := runOne (.gbwait f) (opGbwait f) s

/-- GANG_BARRIER_RELEASE (R197): GA clears in every member that arrived, and no later load of it is served by a line filled before (R215). -/
def releaseGangBarrier (t bar : Nat) : Act := fun s =>
  let g := (s.gang t).bars.get {} bar
  match g.release with
  | some r =>
    if s.now < r then []
    else Act.seq (Act.each g.arrived fun k => modCtx k fun c => if c.ga = some bar then { c with ga := none, fresh := s.free + 1 } else c)
      (Act.seq (modGang t fun x => { x with bars := x.bars.erase bar }) fun _ => [.free]) s
  | none => []
/-- The meaning of GANG_BARRIER_RELEASE. -/
def execGangBarrierRelease (task bar : Nat) (s : State) : Host.Outcome State Fault Refusal := done (releaseGangBarrier task bar) s

/-! Drains. -/

/-- The stores, scatters and atomics of a context outside its own scratchpad that are not performed (R198). -/
def openWrites (s : State) (key : Nat) : List Nat :=
  (s.accs.filter fun x => x.2.key = key && x.2.what.writes).map (·.1) ++
  (s.mcasts.filter fun x => x.2.key = key && !x.2.landed).map (·.1)

/-- A drain that acts at SYS where SYS is not allowed sets SCDEM (R198, R221). -/
def drainDemote (scope : BitVec 3) : Act := fun s =>
  if demotes (s.ctx s.cur.key) scope then modCtx s.cur.key (fun c => { c with scdem := true }) s else []

/-- The scope of a Y word, as it acts (R61, R198). -/
def scopeIn (f : FmtY) (c : Ctx) : BitVec 3 := effectiveScope c (f.sf.extractLsb' 0 3)

/-- DRAIN.R (R198). -/
def opDrainR (f : FmtY) : SlotOp := act fun s =>
  let k := s.cur.key
  let sc := scopeIn f (s.ctx k)
  let ids := if sc = 0#3 then [] else openWrites s k
  Act.seq (drainDemote (f.sf.extractLsb' 0 3)) (modCtx k fun c => { c with wait := some (.drain (opRec s) sc false ids s.now) }) s
/-- The meaning of DRAIN.R. -/
def execDrainR (f : FmtY) (s : State) : Host.Outcome State Fault Refusal := runOne (.drainR f) (opDrainR f) s
/-- DRAIN.A (R198): the next issue comes no earlier than issue + 4. -/
def opDrainA (f : FmtY) : SlotOp := act fun s =>
  let k := s.cur.key
  Act.seqs [drainDemote (f.sf.extractLsb' 0 3), acquire k (scopeIn f (s.ctx k)),
    modCtx k fun c => { c with wait := some (.drain (opRec s) (scopeIn f c) false [] (s.now + 3)) }] s
/-- The meaning of DRAIN.A. -/
def execDrainA (f : FmtY) (s : State) : Host.Outcome State Fault Refusal := runOne (.drainA f) (opDrainA f) s
/-- DRAIN of both kinds (R198): .r, and then .a before the next issue. -/
def opDrainBoth (f : FmtY) : SlotOp := act fun s =>
  let k := s.cur.key
  let sc := scopeIn f (s.ctx k)
  let ids := if sc = 0#3 then [] else openWrites s k
  Act.seq (drainDemote (f.sf.extractLsb' 0 3)) (modCtx k fun c => { c with wait := some (.drain (opRec s) sc true ids (s.now + 3)) }) s
/-- The meaning of DRAIN. -/
def execDrainBoth (f : FmtY) (s : State) : Host.Outcome State Fault Refusal := runOne (.drainBoth f) (opDrainBoth f) s

/-- The end of a wait, before the next issue: a DRAIN of both kinds acts as .a then (R198). -/
def endWait (key : Nat) : Act := fun s =>
  match (s.ctx key).wait with
  | some (.drain _ sc true _ _) => Act.seq (acquire key sc) (modCtx key fun c => { c with wait := none }) s
  | some _ => modCtx key (fun c => { c with wait := none }) s
  | none => []

/-! WAITT, YIELD, CINV, CFLUSH. -/

/-- WAITT (R285). -/
def opWaitt (f : FmtY) : SlotOp := act fun s =>
  let k := s.cur.key
  let t := (readS (s.ctx k) s.cur f.a)
  modCtx k (fun c => { c with wait := some (.until (max t.toNat (s.now + 1)) (some { opRec s with ca := t })) }) s
/-- The meaning of WAITT. -/
def execWaitt (f : FmtY) (s : State) : Host.Outcome State Fault Refusal := runOne (.waitt f) (opWaitt f) s

/-- WAITT_RELEASE (R285): the PTB reaches the target. -/
def releaseWaitt (key : Nat) : Act := fun s =>
  match (s.ctx key).wait with
  | some (.until t (some _)) => if t ≤ s.now then modCtx key (fun c => { c with wait := none }) s else []
  | _ => []
/-- The meaning of WAITT_RELEASE. -/
def execWaittRelease (key : Nat) (s : State) : Host.Outcome State Fault Refusal := done (releaseWaitt key) s

/-- YIELD (R286). -/
def opYield (_ : FmtY) : SlotOp := act fun s => modCtx s.cur.key (fun c => { c with yielded := true }) s
/-- The meaning of YIELD. -/
def execYield (f : FmtY) (s : State) : Host.Outcome State Fault Refusal := runOne (.yield f) (opYield f) s

/-- Whether a 128-byte line overlaps a range (R284). -/
def lineIn (lineBytes : Nat) (l : CacheLine) (a n : Nat) : Bool :=
  decide (n ≠ 0) && decide (l.va * lineBytes < (a + n + 127) / 128 * 128) && decide (a / 128 * 128 < (l.va + 1) * lineBytes) && !l.window

/-- The wait of CINV and CFLUSH: it is over on a free cycle (log entry 2). A context in which SYS is not allowed sets SCDEM (R284). -/
def maintainWait (scope : BitVec 3) : Act := fun s =>
  Act.seqs [drainDemote scope, withFree fun n => modCtx s.cur.key fun c => { c with wait := some (.until (s.now + 1 + n) none) }] s

/-- The lines of a range leave the slices of their homes (R284): every line holds what its frame holds (log entry 13). -/
def dropSlices (part : Nat) (cid : BitVec 8) (a n : Nat) : Act := fun s =>
  let mine (d : Nat) (l : CacheLine) : Bool :=
    l.cid = cid && lineIn 128 l a n && (rangeOf (s.quarter part) (l.va * 128)).any fun r => homeOf r (l.va * 128) = d
  Act.each (s.dies.filter fun x => x.2.slice.any (mine x.1)) (fun x => modDie x.1 fun d =>
    { d with slice := d.slice.filter fun l => !mine x.1 l }) s

/-- CINV (R284): the lines of the range leave the core's caches, and at PART and SYS the slices of their homes. -/
def opCinv (f : FmtY) : SlotOp := act fun s =>
  let c := s.ctx s.cur.key
  let a := (readS c s.cur f.a).toNat
  let n := (readS c s.cur f.b).toNat % 2 ^ 32
  let cid := effectiveCid c.cid a
  if n = 0 then drainDemote (f.sf.extractLsb' 0 3) s
  else Act.seqs [modCore (coreOf s.cur.key) fun x =>
      { x with icache := x.icache.filter fun l => !(l.cid = cid && lineIn 64 l a n),
               vcache := x.vcache.filter fun l => !(l.cid = cid && lineIn 128 l a n) },
    Act.when (decide (3 ≤ (scopeIn f c).toNat)) (dropSlices (partOf s.pkg (coreOf s.cur.key)) cid a n), maintainWait (f.sf.extractLsb' 0 3)] s
/-- The meaning of CINV. -/
def execCinv (f : FmtY) (s : State) : Host.Outcome State Fault Refusal := runOne (.cinv f) (opCinv f) s
/-- CFLUSH (R284): core caches hold no dirty data, and the frames hold what the lines of the slices hold (log entry 13). -/
def opCflush (f : FmtY) : SlotOp := act fun s =>
  let c := s.ctx s.cur.key
  if (readS c s.cur f.b).toNat % 2 ^ 32 = 0 then drainDemote (f.sf.extractLsb' 0 3) s else maintainWait (f.sf.extractLsb' 0 3) s
/-- The meaning of CFLUSH. -/
def execCflush (f : FmtY) (s : State) : Host.Outcome State Fault Refusal := runOne (.cflush f) (opCflush f) s

end Sys2Proof.Machine
end

