-- ==== Sys2Proof/Machine/Work.lean ====
section
/-!
DEFINITION. Work creation: FORK and JOIN on the core's deque, PQPUSH and PQPOP on the die's priority queue, and what the device does with
both (R203 to R207, R232 to R234).
-/
namespace Sys2Proof.Machine

/-! Children. -/

/-- FORK (R203): the child's arguments are D, A, B and C in the order of the assembly form (log entry 23). -/
def opFork (f : FmtY) : SlotOp := act fun s =>
  let k := s.cur.key
  let c := s.ctx k
  let entry := pcMask (s.cur.pc + s.cur.bimm.signExtend 64 * 8#64)
  let args := [readS c s.cur f.d, readS c s.cur f.a, readS c s.cur f.b, readS c s.cur f.c]
  Act.seq (modCore (coreOf k) fun x => { x with deque := ⟨entry, args, k, c.task.getD 0⟩ :: x.deque })
    (modCtx k fun c => { c with jcnt := c.jcnt + 1#16 }) s
/-- The meaning of FORK. -/
def execFork (f : FmtY) (s : State) : Host.Outcome State Fault Refusal := runOne (.fork f) (opFork f) s

/-- JOIN (R205). -/
def opJoin (f : FmtY) : SlotOp := act fun s =>
  pend (opRec s) [.s f.d.toNat] (.join s.now (if (s.ctx s.cur.key).jcnt = 0#16 then some (s.now + 2) else none)) s
/-- The meaning of JOIN. -/
def execJoin (f : FmtY) (s : State) : Host.Outcome State Fault Refusal := runOne (.join f) (opJoin f) s

/-- Whether a context may take a child: the lowest-numbered HALTED context of its task on its core (R204). -/
def takesChildren (s : State) (key : Nat) : Bool :=
  let c := s.ctx key
  c.mode = .halted && c.task.isSome && c.steal.isNone &&
  (List.range (ctxOf key)).all fun x =>
    let d := s.ctx (keyOf (coreOf key) x)
    !(d.mode = .halted && d.task = c.task)

/-- A child runs in a context: RUN at the entry with s1 to s4 the arguments and every slot idle (R15, R204). -/
def Ctx.runChild (c : Ctx) (ch : Child) : Ctx :=
  let t := (List.range 4).foldl (fun t i => t.set (i + 1) (ch.args.getD i 0#64)) c.s
  { c with mode := .run, s := t, emptyS := c.emptyS &&& ~~~0x1E#64, writerS := c.writerS.filter fun x => !(1 ≤ x.1 && x.1 ≤ 4),
           slots := [], pc := ch.entry, repleft := 0, child := some ch.parent, fetched := [], steal := none, wait := none }

/-- The other cores of the cluster ring, from the next one (R204). -/
def ringFrom (core : Nat) : List Nat := (List.range 7).map fun i => core / 8 * 8 + (core + i + 1) % 8

/-- CHILD_TAKE (R204): the newest child of the task from the own deque; failing that, and unless DET turns stealing off, a steal of 16
cycles begins from the first deque of the ring that holds one. -/
def takeChild (key : Nat) : Act := fun s =>
  if !takesChildren s key then []
  else
    let core := coreOf key
    let t := (s.ctx key).task.getD 0
    match (s.core core).deque.find? (·.task = t) with
    | some ch => Act.seq (modCore core fun x => { x with deque := x.deque.erase ch }) (modCtx key fun c => c.runChild ch) s
    | none =>
      if (s.ctx key).det then []
      else match (ringFrom core).find? fun v => (s.core v).deque.any (·.task = t) with
        | some v => modCtx key (fun c => { c with steal := some ⟨v, s.now + 16⟩ }) s
        | none => []
/-- The meaning of CHILD_TAKE. -/
def execChildTake (key : Nat) (s : State) : Host.Outcome State Fault Refusal := done (takeChild key) s

/-- The number of steals of a task that end on this cycle at one victim, from cores nearer to it in ring order (R204). -/
def nearerThieves (s : State) (key victim : Nat) (task : Option Nat) : Nat :=
  let far (k : Nat) : Nat := (coreOf k + 8 - victim % 8) % 8
  (s.ctxs.filter fun x => x.2.task = task && decide (far x.1 < far key) &&
    x.2.steal.any fun st => st.victim = victim && decide (st.done ≤ s.now)).length

/-- STEAL_COMPLETE (R204): a child of the task from the tail of the victim's deque, the oldest for the nearest thief of a cycle, the next for the
next; a deque that no longer holds one yields nothing. -/
def completeSteal (key : Nat) : Act := fun s =>
  let c := s.ctx key
  match c.steal with
  | none => []
  | some st =>
    if s.now < st.done ∨ c.mode ≠ .halted then []
    else
      match ((s.core st.victim).deque.reverse.filter fun x => c.task = some x.task)[nearerThieves s key st.victim c.task]? with
      | some ch => Act.seq (modCore st.victim fun x => { x with deque := (x.deque.reverse.erase ch).reverse }) (modCtx key fun c => c.runChild ch) s
      | none => modCtx key (fun c => { c with steal := none }) s
/-- The meaning of STEAL_COMPLETE. -/
def execStealComplete (key : Nat) (s : State) : Host.Outcome State Fault Refusal := done (completeSteal key) s

/-! The priority queue. -/

/-- PQPUSH (R206, R207, R233): it reaches the queue 12 cycles after issue; under DET it carries a ticket. -/
def opPqpush (f : FmtY) : SlotOp := act fun s =>
  let k := s.cur.key
  let c := s.ctx k
  let e : PqEntry := { cid := c.cid, key := (readS c s.cur f.a).setWidth 32, payload := readS c s.cur f.b,
                       ticket := if c.det then some (c.pos.toNat, c.tickets) else none, order := 0 }
  withId (fun id => Act.seq (modDie (dieOf (coreOf k)) fun d => { d with pqMoves := d.pqMoves ++
      [{ id := id, due := s.now + 12, ctx := k, cid := c.cid, push := some e }] }) (modCtx k fun c => { c with tickets := c.tickets + 1 })) s
/-- The meaning of PQPUSH. -/
def execPqpush (f : FmtY) (s : State) : Host.Outcome State Fault Refusal := runOne (.pqpush f) (opPqpush f) s

/-- PQPOP (R206, R233): its claim reaches the queue 12 cycles after issue. -/
def opPqpop (f : FmtY) : SlotOp := act fun s =>
  let k := s.cur.key
  let c := s.ctx k
  withId (fun id => Act.seq (pend (opRec s) [.s f.d.toNat, .s (f.d.toNat + 1)] (.pqClaim id))
    (modDie (dieOf (coreOf k)) fun d => { d with pqMoves := d.pqMoves ++
      [{ id := id, due := s.now + 12, ctx := k, cid := c.cid, push := none, det := c.det }] })) s
/-- The meaning of PQPOP. -/
def execPqpop (f : FmtY) (s : State) : Host.Outcome State Fault Refusal := runOne (.pqpop f) (opPqpop f) s

/-- Entries numbered in the order in which they are pushed (R206). -/
def numberEntries : Nat → List PqEntry → List PqEntry
  | _, [] => []
  | n, e :: r => { e with order := n } :: numberEntries (n + 1) r

/-- PQ_ARRIVAL (R233): the pushes that reach the queue are applied, and the claims that reach it wait there. Cores whose moves arrive on one
cycle come in a free order that keeps the order of each core (log entry 2). -/
def arrivePq (die : Nat) : Act := fun s =>
  withFree (fun n => modDie die fun d =>
    let due := d.pqMoves.filter fun m => decide (m.due ≤ s.now) && !m.here
    let pivot := n % 2304
    let ordered := due.filter (fun m => decide (pivot ≤ coreOf m.ctx)) ++ due.filter (fun m => decide (coreOf m.ctx < pivot))
    let pushes := ordered.filterMap (·.push)
    { d with pq := d.pq ++ numberEntries d.pqOrder pushes, pqOrder := d.pqOrder + pushes.length,
             pqMoves := (d.pqMoves.filter (·.here)) ++ ((ordered.filter (·.push.isNone)).map fun m => { m with here := true }) ++
               d.pqMoves.filter fun m => decide (s.now < m.due) && !m.here }) s
/-- The meaning of PQ_ARRIVAL. -/
def execPqArrival (die : Nat) (s : State) : Host.Outcome State Fault Refusal := done (arrivePq die) s

/-- The order of the entries: by key, then by ticket, then by push order; at one key, an entry with a ticket comes before one without (R206,
R207, R234, log entry 43). -/
def PqEntry.before (a b : PqEntry) : Bool :=
  if a.key ≠ b.key then decide (a.key.toNat < b.key.toNat)
  else match a.ticket, b.ticket with
    | some x, some y => if x = y then decide (a.order < b.order) else decide (x.1 < y.1) || (x.1 = y.1 && decide (x.2 < y.2))
    | some _, none => true
    | none, some _ => false
    | none, none => decide (a.order < b.order)
/-- The rank of an entry among those of its CID (R234). -/
def rankOf (l : List PqEntry) (e : PqEntry) : Nat := (l.filter fun x => x.cid = e.cid && x.before e).length

/-- Whether a claim stands: a claim unserved at a stop becomes a record (R265), and a handler's is drained also in a context that has parked (R262). -/
def claimStands (c : Ctx) (id : Nat) : Bool := c.flows || (c.mode = .parked && c.pending.any fun p => p.src = .pqClaim id && p.op.svc)

/-- The first claim at the queue whose CID has an entry present (R206). -/
def servable (s : State) (d : Die) : Option PqMove :=
  d.pqMoves.find? fun m => m.here && d.pq.any (·.cid = m.cid) && claimStands (s.ctx m.ctx) m.id

/-- The relaxation window of a die's partition (R340). -/
def relaxation (s : State) (die : Nat) : Nat := (s.quarter (lowest s.pkg (quarterOf die))).pqw.toNat + 1

/-- A pending PQPOP takes the entry that its claim removed, from a cycle on. -/
def serveClaim (id : Nat) (e : PqEntry) (due : Nat) (p : Pending) : Pending :=
  if p.src = Source.pqClaim id then { p with src := Source.value due [.word e.payload, .word (e.key.setWidth 64)] } else p

/-- PQ_CLAIM_SERVE (R206, R234): the claim removes an entry of rank below W, a free one of them (log entry 2), and its data arrives no
earlier than 20 cycles after its issue. -/
def servePq (die : Nat) : Act := fun s =>
  let d := s.die die
  match servable s d with
  | none => []
  | some m =>
    withFree (fun n => withFree fun lat s =>
      let w : Nat := if m.det then 1 else relaxation s die
      let cands := d.pq.filter fun e => e.cid = m.cid && decide (rankOf d.pq e < w)
      match cands[n % cands.length]? with
      | none => []
      | some e => Act.seq (modDie die fun d => { d with pq := d.pq.erase e, pqMoves := d.pqMoves.erase m })
          (modCtx m.ctx fun c => { c with pending := c.pending.map (serveClaim m.id e (max (m.due + 8) s.now + lat)) }) s) s
/-- The meaning of PQ_CLAIM_SERVE. -/
def execPqClaimServe (die : Nat) (s : State) : Host.Outcome State Fault Refusal := done (servePq die) s

end Sys2Proof.Machine
end

