-- ==== Sys2Proof/Machine/Matrix.lean ====
section
/-!
DEFINITION. The M slot (R164 to R181): its operations, the matrix sequencer that runs them in issue order, its row and entry steps, and
the products of weights and activations under the numerics profiles (R153 to R158).
-/
namespace Sys2Proof.Machine

/-! Weights, activations and accumulators. -/

/-- The bytes of n elements of a format laid end to end; SE elements come in blocks of 16 (R161, R172). -/
def lineBytes (fmt : BitVec 4) (n : Nat) : Nat := if isSe fmt then n / 16 * (seBlock fmt / 8) else n * (tyWidth fmt / 8)

/-- The dense position of compressed weight row c under a metadata word (R174). -/
def keptPosition (w : BitVec 256) (c : Nat) : Nat := 8 * (c / 4) + (w.toNat / 2 ^ (12 * (c / 4) + 3 * (c % 4))) % 8

/-- The weights of column c of a latch at its dense positions; a pruned position has none (R166, R174). -/
def Latch.column (l : Latch) (kc c : Nat) : List (Option Fp) :=
  let lb := lineBytes l.fmt kc
  let kept := imageValues l.fmt (leNat ((l.tile.drop (c * lb)).take lb)) kc
  if l.sparse then
    let at_ := kept.zipIdx.map fun x => (keptPosition l.meta_ x.2, x.1)
    (List.range (2 * kc)).map fun j => (at_.find? fun x => x.1 = j).map (·.2)
  else kept.map some

/-- The product of a dense position: +0 where it is pruned, whatever the activation (R154). DEDUCED (log entry 56): R177 gives a pruned position the
weight +0, whose product with a NaN or an infinity would be NaN by R155; the product that R154 states is taken. -/
def product : Option Fp → Fp → Fp
  | none, _ => .num false 0 0
  | some w, a => Fp.mul w a

/-- The key of an accumulator element: tile, row, column (R85). -/
def accKey (n row col : Nat) : Nat := n * 4096 + row * 64 + col
/-- The key of a section's tag: tile and quadrant (R167). -/
def tagKey (n quad : Nat) : Nat := n * 4 + quad
/-- An accumulator element. -/
def Ctx.accElem (c : Ctx) (n row col : Nat) : W32 := c.acc.get 0#32 (accKey n row col)
/-- The tags of the sections of a tile that quadrants hold, set to INT32 or FP32 (R167). -/
def Ctx.setTags (c : Ctx) (n : Nat) (quads : BitVec 4) (int : Bool) : Ctx :=
  { c with tags := (List.range 4).foldl (fun t j => if quads.getLsbD j then t.set (tagKey n j) int else t) c.tags }

/-- combine (R155, R156, R158) by the profile NP; a pair of I8 formats accumulates in INT32 under every profile. -/
def combine (np : Nat) (int : Bool) (draw : Nat → Nat → Nat) (acc : W32) (w : List (Option Fp)) (a : List Fp) : W32 :=
  let ps := (w.zip a).map fun x => product x.1 x.2
  if int then
    BitVec.ofInt 32 (combineInt acc.toInt (ps.map fun p => p.toInt 1 0 (-(2 ^ 40)) (2 ^ 40)))
  else BitVec.ofNat 32 (match np with
    | 1 => combineFp 16 48 acc.toNat ps
    | 2 => combineFp 32 64 acc.toNat ps
    | _ => combineFree draw acc.toNat ps)

/-- One row step of MMA or MMAS (R177): row i of the unit takes the products of the activation bytes `row`. -/
def Ctx.rowStep (c : Ctx) (u : UnitShape) (quads : BitVec 4) (f : FmtM) (set : Bool) (i : Nat) (row : List Byte)
    (draw : Nat → Nat → Nat → Nat) : Ctx :=
  let n := (f.tgt.extractLsb' 0 2).toNat
  let l := c.latch (latchKey quads n)
  let kd := if l.sparse then 2 * u.kc else u.kc
  let a := imageValues f.ty (leNat row) kd
  let int := l.fmt = 0#4 && f.ty = 0#4
  { c with acc := (List.range u.nw).foldl (fun t j =>
      let key := accKey n (u.row0 + i) (u.col0 + j)
      let x := if set then 0#32 else t.get 0#32 key
      t.set key (combine f.np.toNat int (draw j) x (l.column u.kc j) a)) c.acc }

/-! Issue. -/

/-- The parts of a range of memory that an M operation reads: one for each line it overlaps. -/
def lineParts (addr pos len : Nat) : List Part :=
  ((List.range (len / 128 + 2)).map fun i =>
    let a := max addr ((addr / 128 + i) * 128)
    let e := min (addr + len) ((addr / 128 + i + 1) * 128)
    (⟨0, pos + (a - addr), a, e - a, 0, false⟩ : Part)).filter fun p => decide (0 < p.len)

/-- An M operation enters the sequencer (R168). Bytes of another place than the own scratchpad are asked for from byte `skip` on; of
the own scratchpad, the bytes as they stand are kept beside those that its steps will meet (R169). -/
def enterSequencer (key : Nat) (m : MOp) (bytes skip : Nat) : Act := fun s =>
  let start := s.now + 1 + Config.freeNat s.free
  let push (m : MOp) : Act := fun s => [.free, .ctx key { s.ctx key with mops := (s.ctx key).mops ++ [{ m with ready := start }] }]
  if bytes = 0 then push m s
  else if m.kind = .spad then push { m with data := Memory.read s.mem (spadPlace (coreOf key) m.addr) bytes } s
  else startAccess key m.op .matrix m.kind (lineParts (m.addr + skip) skip (bytes - skip)) (List.replicate bytes 0#8) [] 3#3 false
    (fun id => push { m with access := some id }) s

/-- MATRIX_RANGE (R171). -/
def matrixTrap (i : Issue) : Trap := { code := codeMatrixRange, slots := slotBit i.slot }

/-- The offset of an M word on its step (R63, R173, R177). -/
def matrixOffset (f : FmtM) (s : State) : Word :=
  readS (s.ctx s.cur.key) s.cur f.b + BitVec.ofInt 64 (s.cur.step.toNat * f.mstr.toInt * 64)

/-- The record and the sequencer entry of an M operation that reads through a handle. -/
def memMOp (s : State) (f : FmtM) (off cb cc : Word) : MOp :=
  let c := s.ctx s.cur.key
  let h := c.handle (f.a.toNat % 16)
  { op := { opRec s with ca := h.address off, cb := cb, cc := cc, hka := h.kind.bits, prma := h.perm },
    quads := selectedQuads c f.qsel, fuse := c.fuse, kind := h.kind, addr := (h.address off).toNat }

/-- The bytes of a tile (R172). -/
def tileBytes (u : UnitShape) (fmt : BitVec 4) : Nat := u.nw * lineBytes fmt u.kc

/-- The failing index of a metadata word: a group whose positions do not rise, or 16 for the reserved bits (R175). -/
def metaFault (w : BitVec 256) : Option Nat :=
  let pos (g t : Nat) := (w.toNat / 2 ^ (12 * g + 3 * t)) % 8
  ((List.range 16).find? fun g => !(decide (pos g 0 < pos g 1) && decide (pos g 1 < pos g 2) && decide (pos g 2 < pos g 3))).orElse
    fun _ => if w.extractLsb' 192 64 ≠ 0#64 then some 16 else none

/-- MLDW and MLDW.S (R173, R175). -/
def mldwOp (sparse : Bool) (f : FmtM) : SlotOp := fun s =>
  let c := s.ctx s.cur.key
  let u := unitShape c.fuse (selectedQuads c f.qsel)
  let off := matrixOffset f s
  let h := c.handle (f.a.toNat % 16)
  let tb := tileBytes u f.ty
  match (rangeTrap s.cur h off tb 0 0).orElse fun _ => readTrap c s.cur h ⟨0, off, tb⟩ with
  | some t => .error t
  | none =>
    if sparse then
      let w := (fetchedMeta s s.cur.key).getD 0#256
      match metaFault w with
      | some g => .error { code := codeMetadataOrder, idx := BitVec.ofNat 16 g, slots := slotBit s.cur.slot, va := c.mpc.setWidth 52 }
      | none => .ok (Act.seq (enterSequencer s.cur.key { memMOp s f off c.mpc 0#64 with words := w } tb 0)
          (modCtx s.cur.key fun c => { c with mpc := (c.mpc + 32#64) &&& 0x000FFFFFFFFFFFE0#64 }) s)
    else .ok (enterSequencer s.cur.key (memMOp s f off 0#64 0#64) tb 0 s)
/-- MLDW (R173). -/
def opMldw (f : FmtM) : SlotOp := mldwOp false f
/-- The meaning of MLDW. -/
def execMldw (f : FmtM) (s : State) : Host.Outcome State Fault Refusal := runOne (.mldw f) (opMldw f) s
/-- MLDW.S (R173, R175). -/
def opMldwS (f : FmtM) : SlotOp := mldwOp true f
/-- The meaning of MLDW.S. -/
def execMldwS (f : FmtM) (s : State) : Host.Outcome State Fault Refusal := runOne (.mldwS f) (opMldwS f) s

/-- The bytes of an activation row (R177). -/
def rowBytes (u : UnitShape) (fmt : BitVec 4) (sparse : Bool) : Nat := lineBytes fmt (if sparse then 2 * u.kc else u.kc)

/-- MMA and MMAS (R177). -/
def mmaOp (f : FmtM) : SlotOp := fun s =>
  let c := s.ctx s.cur.key
  let q := selectedQuads c f.qsel
  let u := unitShape c.fuse q
  let nr := readS c s.cur f.c
  if nr.toInt < 1 ∨ (u.rows : Int) < nr.toInt then .error (matrixTrap s.cur)
  else
    let fmt := pendingFormat c q (f.tgt.extractLsb' 0 2).toNat
    let off := matrixOffset f s
    let h := c.handle (f.a.toNat % 16)
    let n := nr.toNat * rowBytes u f.ty fmt.2
    match (rangeTrap s.cur h off n 0 0).orElse fun _ => readTrap c s.cur h ⟨0, off, n⟩ with
    | some t => .error t
    | none => .ok (enterSequencer s.cur.key { memMOp s f off 0#64 nr with rows := nr.toNat, lfmt := fmt.1, lsparse := fmt.2 } n 0 s)
/-- MMA (R177). -/
def opMma (f : FmtM) : SlotOp := mmaOp f
/-- The meaning of MMA. -/
def execMma (f : FmtM) (s : State) : Host.Outcome State Fault Refusal := runOne (.mma f) (opMma f) s
/-- MMAS (R177). -/
def opMmas (f : FmtM) : SlotOp := mmaOp f
/-- The meaning of MMAS. -/
def execMmas (f : FmtM) (s : State) : Host.Outcome State Fault Refusal := runOne (.mmas f) (opMmas f) s

/-- The sequencer entry of an M operation that reads no memory. -/
def plainMOp (s : State) (f : FmtM) : MOp :=
  let c := s.ctx s.cur.key
  { op := opRec s, quads := selectedQuads c f.qsel, fuse := c.fuse }

/-- MZERO (R178). -/
def opMzero (f : FmtM) : SlotOp := act fun s => enterSequencer s.cur.key (plainMOp s f) 0 0 s
/-- The meaning of MZERO. -/
def execMzero (f : FmtM) (s : State) : Host.Outcome State Fault Refusal := runOne (.mzero f) (opMzero f) s

/-- MFUSE (R179): CTXCFG.FUSE changes on issue + 1, and the latches when the sequencer reaches it. -/
def opMfuse (f : FmtM) : SlotOp := act fun s =>
  Act.seq (enterSequencer s.cur.key (plainMOp s f) 0 0) (scalarAct (.mfuse f) (.fuse (f.tgt.extractLsb' 0 2))) s
/-- The meaning of MFUSE. -/
def execMfuse (f : FmtM) (s : State) : Host.Outcome State Fault Refusal := runOne (.mfuse f) (opMfuse f) s

/-- The entries of a drain of nr rows under a binding (R181). -/
def drainEntries (u : UnitShape) (nr : Nat) (qb : Word) : Nat :=
  let n := capacity (qbSink qb)
  (nr * u.nw + n - 1) / n

/-- MDRAIN and MDRAIN.V (R181). -/
def mdrainOp (vec : Bool) (f : FmtM) : SlotOp := fun s =>
  let c := s.ctx s.cur.key
  let q := f.tgt.toNat
  let u := unitShape c.fuse (selectedQuads c f.qsel)
  let st := if f.b = 0x80#8 then 0#64 else readS c s.cur f.b
  let nr := readS c s.cur f.c
  let k := drainEntries u nr.toNat (c.qbind q)
  if nr.toInt < 1 ∨ st.toInt < 0 ∨ (u.rows : Int) < st.toInt + nr.toInt ∨ (vec ∧ 16 < k) then .error (matrixTrap s.cur)
  else
    let o : BitVec 40 := if vec then (c.queue q).ordinal else 0#40
    let r := { opRec s with ca := c.qbind q, cb := 0#8 ++ o ++ st.extractLsb' 0 16, cc := nr }
    let m : MOp := { plainMOp s f with op := r, rows := nr.toNat, start := st.toNat, qb := c.qbind q, ordinal := o }
    .ok (Act.seq (enterSequencer s.cur.key m 0 0) (modCtx s.cur.key fun c =>
      if vec then
        (List.range k).foldl (fun c e => c.markEmpty r.order (.v ((4 * (f.mstr.extractLsb' 0 4).toNat + e) % 64)))
          { c with queues := c.queues.set q { c.queue q with ordinal := o + BitVec.ofNat 40 k } }
      else c) s)
/-- MDRAIN into a queue (R181). -/
def opMdrain (f : FmtM) : SlotOp := mdrainOp false f
/-- The meaning of MDRAIN. -/
def execMdrain (f : FmtM) (s : State) : Host.Outcome State Fault Refusal := runOne (.mdrain f) (opMdrain f) s
/-- MDRAIN into vector registers (R181). -/
def opMdrainV (f : FmtM) : SlotOp := mdrainOp true f
/-- The meaning of MDRAIN.V. -/
def execMdrainV (f : FmtM) (s : State) : Host.Outcome State Fault Refusal := runOne (.mdrainV f) (opMdrainV f) s

/-! The sequencer. -/

/-- The M operation of a sequencer entry. -/
def MOp.instr (m : MOp) : Option Instr := match decodeSlot .m m.op.sw with | .ok i => some i | .error _ => none
/-- The shape of its unit. -/
def MOp.unit (m : MOp) : UnitShape := unitShape m.fuse m.quads
/-- The fields of its word. -/
def MOp.fields (m : MOp) : FmtM := FmtM.ofWord m.op.sw

/-- Its steps: rows of MMA and MMAS, entries of MDRAIN. -/
def MOp.steps (m : MOp) : Nat :=
  match m.instr with
  | some (.mma _) => m.rows
  | some (.mmas _) => m.rows
  | some (.mdrain _) => drainEntries m.unit m.rows m.qb
  | some (.mdrainV _) => drainEntries m.unit m.rows m.qb
  | _ => 0

/-- Whether the bytes at [a, a + n) of its data are present (R168). -/
def MOp.present (m : MOp) (s : State) (a n : Nat) : Bool :=
  match m.access with
  | none => true
  | some id => match s.accs.find id with
    | some x => x.faulted.isNone && x.parts.all fun p => p.done || !(decide (p.pos < a + n) && decide (a < p.pos + p.len))
    | none => false

/-- The bytes at [a, a + n) of its data as a step reads them: of the own scratchpad, each byte as it stood at the issue or as it stands
(R169, log entry 2). -/
def MOp.bytes (m : MOp) (s : State) (key a n : Nat) : List Byte :=
  match m.access with
  | some id => ((((s.accs.find id).map (·.data)).getD []).drop a).take n
  | none => (List.range n).map fun i =>
      if Config.freeOrder s.free i % 2 = 0 then m.data.getD (a + i) 0#8
      else Memory.get s.mem (spadPlace (coreOf key) (m.addr + a + i))

/-- The head of the sequencer leaves when it is complete. -/
def Ctx.retired (c : Ctx) (now : Nat) : List MOp :=
  match c.mops with
  | m :: r => if m.begun && decide (m.steps ≤ m.prog) && decide (m.ready ≤ now) then r else m :: r
  | [] => []

/-- The metadata word of an MLDW.S: the one taken at its issue, or the one that its reissue reads again (R170, R175). -/
def MOp.metadata (m : MOp) (s : State) : BitVec 256 :=
  match m.metaAccess with
  | some id => BitVec.ofNat 256 (leNat (((s.accs.find id).map (·.data)).getD []))
  | none => m.words

/-- Whether the metadata word that a reissue reads has come. -/
def MOp.metadataHere (m : MOp) (s : State) : Bool := m.metaAccess.all fun id => (s.accs.find id).any fun a => a.performed.isSome

/-- Whether an operation has the data that it starts with: MLDW its tile, any other none (R168). -/
def MOp.startable (m : MOp) (s : State) : Bool :=
  match m.instr with
  | some (.mldw f) => m.present s 0 (tileBytes m.unit f.ty)
  | some (.mldwS f) => m.present s 0 (tileBytes m.unit f.ty) && m.metadataHere s
  | _ => true

/-- The latch that MLDW leaves (R173). -/
def MOp.latch (m : MOp) (s : State) (key : Nat) (fmt : BitVec 4) (sparse : Bool) : Latch :=
  { tile := m.bytes s key 0 (tileBytes m.unit fmt), fmt := fmt, sparse := sparse, meta_ := if sparse then m.metadata s else 0#256 }

/-- What an operation does as it starts, and the cycles it then occupies the sequencer for, but for its steps (R168). -/
def beginMOp (key : Nat) (m : MOp) (s : State) : Ctx → Ctx × Nat :=
  let n := (m.fields.tgt.extractLsb' 0 2).toNat
  match m.instr with
  | some (.mldw f) => fun c => ({ c with latches := c.latches.set (latchKey m.quads n) (m.latch s key f.ty false) },
      (tileBytes m.unit f.ty + 127) / 128 + 4)
  | some (.mldwS f) => fun c => ({ c with latches := c.latches.set (latchKey m.quads n) (m.latch s key f.ty true) },
      (tileBytes m.unit f.ty + 127) / 128 + 4)
  | some (.mzero f) => fun c => (({ c with acc := c.acc.filter fun x =>
      !(x.1 / 4096 = n && m.quads.getLsbD (x.1 / 64 % 64 / 32 * 2 + x.1 % 64 / 32)) }).setTags n m.quads (f.ty = 2#4), 1)
  | some (.mfuse _) => fun c => ({ c with latches := [] }, 1)
  | _ => fun c => (c, 0)

/-- The image that an operation brings into the weight buffer: the tile of an MLDW (R169). -/
def MOp.tile (m : MOp) (s : State) (key : Nat) : List Byte :=
  match m.instr with
  | some (.mldw f) => m.bytes s key 0 (tileBytes m.unit f.ty)
  | some (.mldwS f) => m.bytes s key 0 (tileBytes m.unit f.ty)
  | _ => []

/-- The weight buffer of a core, 512 KiB (R89, R169), takes the image of a tile in pieces of 128 bytes, each under the address of its first byte. No
read is served by it that memory would not answer alike, and so none is (log entry 12). -/
def fillWeights (key : Nat) (m : MOp) (tile : List Byte) : Act := fun s =>
  let pieces := (List.range ((tile.length + 127) / 128)).map fun i =>
    ({ cid := (s.ctx key).cid, va := m.addr + 128 * i, window := m.kind ≠ .global, data := (tile.drop (128 * i)).take 128 } : CacheLine)
  if tile = [] then []
  else modCore (coreOf key) (fun x => { x with wbuf :=
    (pieces ++ x.wbuf.filter fun l => !(pieces.any fun p => p.cid = l.cid && p.window = l.window && p.va = l.va)).take 4096 }) s

/-- SEQUENCER_OP_START (R168): the operation that has completed leaves, and the next starts where its data is present. -/
def startNextMOp (key : Nat) : Act := fun s =>
  let c := s.ctx key
  let l := c.retired s.now
  let gone := (c.mops.take (c.mops.length - l.length)).flatMap fun m => m.access.toList ++ m.metaAccess.toList
  Act.seq (fun _ => gone.map fun id => .acc id none) (fun s =>
    match l with
    | m :: r =>
      if !m.begun && decide (m.ready ≤ s.now) && m.startable s then
        let x := beginMOp key m s c
        Act.seq (fun _ => [.free, .ctx key { x.1 with mops := { m with begun := true, ready := s.now + x.2 } :: r }])
          (fillWeights key m (m.tile s key)) s
      else [.ctx key { c with mops := l }]
    | [] => [.ctx key { c with mops := [] }]) s

/-- Whether the sequencer of a context has such an event. -/
def sequencerReady (s : State) (key : Nat) : Bool :=
  let c := s.ctx key
  c.flows && (c.retired s.now ≠ c.mops || (match c.mops with
    | m :: _ => !m.begun && decide (m.ready ≤ s.now) && m.startable s
    | [] => false))
/-- The meaning of SEQUENCER_OP_START. -/
def execSequencerOpStart (key : Nat) (s : State) : Host.Outcome State Fault Refusal :=
  done (Act.when (sequencerReady s key) (startNextMOp key)) s

/-- The cycles from the start of row step i to that of the next, for a pair of formats (R168). -/
def rowCycles (w a : BitVec 4) (i : Nat) : Nat :=
  if w = 8#4 ∧ a = 8#4 then i % 2
  else if w = 4#4 ∨ w = 5#4 ∨ a = 4#4 ∨ a = 5#4 then 4
  else 1

/-- The bytes of an activation row of an operation. -/
def MOp.rowBytes (m : MOp) : Nat := Machine.rowBytes m.unit m.fields.ty m.lsparse

/-- The row operation at the head of the sequencer, when its next row step may take place; the flag says MMAS. -/
def rowReady (s : State) (key : Nat) : Option (MOp × Bool) :=
  let c := s.ctx key
  match c.mops with
  | m :: _ =>
    let set? : Option Bool := match m.instr with | some (.mma _) => some false | some (.mmas _) => some true | _ => none
    match set? with
    | some set =>
      if c.flows && m.begun && decide (m.prog < m.rows) && decide (m.ready ≤ s.now) && m.present s (m.prog * m.rowBytes) m.rowBytes
      then some (m, set) else none
    | none => none
  | [] => none

/-- MMA_ROW_STEP (R168, R177): one row step; the last sets the tags and is followed by the 12 drain steps. Two row steps of SE3 with SE3 share a cycle. -/
def rowStep (key : Nat) : Act := fun s =>
  match rowReady s key with
  | none => []
  | some (m, set) =>
    let c := s.ctx key
    let i := m.prog
    let row := m.bytes s key (i * m.rowBytes) m.rowBytes
    let wait := rowCycles m.lfmt m.fields.ty i
    let last := i + 1 = m.rows
    let half := if last && m.lfmt = 8#4 && m.fields.ty = 8#4 && i % 2 = 0 then 1 else wait
    let c := c.rowStep m.unit m.quads m.fields set i row (fun j n k => Config.freeOrder s.free ((((j + 1) * 256 + n) * 4096) + k))
    let c := if last then c.setTags (m.fields.tgt.extractLsb' 0 2).toNat m.quads (m.lfmt = 0#4 && m.fields.ty = 0#4) else c
    [.free, .ctx key { c with mops := { m with prog := i + 1, ready := s.now + (if last then half + 12 else wait) } :: c.mops.drop 1 }]
/-- The meaning of MMA_ROW_STEP. -/
def execMmaRowStep (key : Nat) (s : State) : Host.Outcome State Fault Refusal := done (rowStep key) s

/-- The elements of a drain in the order of R181, from element a to element b - 1: the bits that the accumulator holds. -/
def drainElems (c : Ctx) (u : UnitShape) (n start a b : Nat) : List W32 :=
  (List.range (b - a)).map fun i => c.accElem n (u.row0 + start + (a + i) / u.nw) (u.col0 + (a + i) % u.nw)

/-- The entry e of a drain (R181): its source format is the tag of the lowest quadrant's section. -/
def drainEntry (c : Ctx) (m : MOp) (e now : Nat) : QEntry :=
  let n := (m.fields.a.extractLsb' 0 2).toNat
  let cap := capacity (qbSink m.qb)
  let xs := drainElems c m.unit n m.start (e * cap) (min ((e + 1) * cap) (m.rows * m.unit.nw))
  { image := xs.flatMap fun x => leBytes x.toNat 4, n := xs.length,
    src := if c.tags.get false (tagKey n (firstQuad m.quads)) then 2#4 else 6#4, appended := now }

/-- The drain at the head of the sequencer, when its next entry may move; the flag says MDRAIN.V. A full queue holds the step (R181). -/
def drainReady (s : State) (key : Nat) : Option (MOp × Bool) :=
  let c := s.ctx key
  match c.mops with
  | m :: _ =>
    let vec? : Option Bool := match m.instr with | some (.mdrain _) => some false | some (.mdrainV _) => some true | _ => none
    match vec? with
    | some vec =>
      if c.flows && m.begun && decide (m.prog < m.steps) && decide (m.ready ≤ s.now) && (vec || !(c.queue m.fields.tgt.toNat).full)
      then some (m, vec) else none
    | none => none
  | [] => none

/-- MDRAIN_ENTRY_STEP (R181): one entry is appended to its queue, or is on its way to its vector register, 3 cycles off. -/
def drainStep (key : Nat) : Act := fun s =>
  match drainReady s key with
  | none => []
  | some (m, vec) =>
    let c := s.ctx key
    let e := drainEntry c m m.prog s.now
    let m' := { m with prog := m.prog + 1, ready := s.now + 1 }
    let c := { c with mops := m' :: c.mops.drop 1 }
    if vec then
      let d := Dest.v ((4 * (m.fields.mstr.extractLsb' 0 4).toNat + m.prog) % 64)
      let p : Pending := ⟨m.op, [d], .value (s.now + 3) [claimValue e (m.ordinal + BitVec.ofNat 40 m.prog) m.qb]⟩
      [.ctx key { c with pending := insertPending p c.pending }]
    else
      let q := m.fields.tgt.toNat
      [.ctx key { c with queues := c.queues.set q ((c.queue q).append e) }]
/-- The meaning of MDRAIN_ENTRY_STEP. -/
def execMdrainEntryStep (key : Nat) (s : State) : Host.Outcome State Fault Refusal := done (drainStep key) s

end Sys2Proof.Machine
end

