-- ==== Sys2Proof/Machine/Home.lean ====
section
/-!
DEFINITION. The homes of memory: translation and ownership (R250 to R253), redirected writes (R309, R312), and what an access in flight does
at its place: the home controller or a member scratchpad (R210 to R214, R252 to R256), its acknowledgement, and multicast landings (R91).
-/
namespace Sys2Proof.Machine

/-! Translation. -/

/-- The frame that now holds what page-table entries naming a frame mean (R309). -/
def Die.current (d : Die) (frame : Nat) : Nat := ((d.frames.get {} frame).redirect).getD frame
/-- The frame that page-table entries name for the frame that now holds its data (R309). -/
def Die.origin (d : Die) (frame : Nat) : Nat := ((d.frames.find? fun x => x.2.redirect = some frame).map (·.1)).getD frame
/-- A local address after redirection. -/
def Die.translateFrame (d : Die) (loc : Nat) : Nat := d.current (loc / 65536) * 65536 + loc % 65536

/-- Whether a frame's entry has a use and an owner (R253). -/
def Die.owns (d : Die) (loc : Nat) (use : BitVec 3) (own : BitVec 8) : Bool :=
  let f := d.frames.get {} (loc / 65536)
  f.use = use && f.own = own

/-- Uses of a frame (R253). -/
def useFree : BitVec 3 := 0#3
def useData : BitVec 3 := 1#3
def useTable : BitVec 3 := 2#3
def useHerbarium : BitVec 3 := 3#3
def useSave : BitVec 3 := 4#3

/-- A fault found at a home: its code and sub-cause. -/
abbrev Why := BitVec 16 × BitVec 8

/-- A page-table entry of a walk, checked as a walk read (R251, R253); a poisoned word is consumed (R326). -/
def tableEntry (s : State) (die : Nat) (cid : BitVec 8) (table index : Nat) : Except Why Word :=
  let d := s.die die
  let loc := d.translateFrame (table + 8 * index)
  if !d.owns loc useTable cid then .error (codeOwnership, 0x38#8)
  else if d.poisoned.any fun w => decide (loc < w + 32) && decide (w < loc + 8) then .error (codeUncorrectable, 0x48#8)
  else .ok (BitVec.ofNat 64 (leNat (Memory.read s.mem (hbmPlace die loc) 8)))

/-- The ADDR of a page-table entry as a local address, and whether its reserved bits are zero (R250). -/
def entryAddr (e : Word) : Nat := (e.extractLsb' 12 24).toNat * 4096
def entryClean (e : Word) : Bool := e.extractLsb' 36 28 = 0#28 && e.extractLsb' 2 10 = 0#10

/-- The walk of R251: the local address of the first frame of the page. -/
def walkTables (s : State) (die : Nat) (cid : BitVec 8) (va : Nat) (big : Bool) : Except Why Nat :=
  let root := (s.die die).ptroot.get 0#64 cid.toNat
  if !root.getLsbD 0 then .error (codeNotPresent, 0x31#8)
  else
    match tableEntry s die cid ((root.extractLsb' 15 21).toNat * 32768) (va / 2 ^ 40 % 4096) with
    | .error w => .error w
    | .ok e1 =>
      if !e1.getLsbD 0 || e1.getLsbD 1 || !entryClean e1 || decide (entryAddr e1 % 2 ^ 18 ≠ 0) then .error (codeNotPresent, 0x32#8)
      else match tableEntry s die cid (entryAddr e1) (va / 2 ^ 25 % 32768) with
        | .error w => .error w
        | .ok e2 =>
          if !e2.getLsbD 0 || !entryClean e2 then .error (codeNotPresent, 0x32#8)
          else if big then
            (if !e2.getLsbD 1 || decide (entryAddr e2 % 2 ^ 25 ≠ 0) then .error (codeNotPresent, 0x33#8) else .ok (entryAddr e2))
          else if e2.getLsbD 1 then .error (codeNotPresent, 0x33#8)
          else match tableEntry s die cid (entryAddr e2) (va / 2 ^ 16 % 512) with
            | .error w => .error w
            | .ok e3 =>
              if !e3.getLsbD 0 || !e3.getLsbD 1 || !entryClean e3 || decide (entryAddr e3 % 2 ^ 16 ≠ 0) then .error (codeNotPresent, 0x32#8)
              else .ok (entryAddr e3)

/-- The page of an address in a translation cache (R252). -/
def tlbEntry (d : Die) (cid : BitVec 8) (va : Nat) (big : Bool) : Option TlbEntry :=
  d.tlb.find? fun t => t.cid = cid && t.big = big && t.page = pageOf big va

/-- The bytes of a page. -/
def pageBytes (big : Bool) : Nat := if big then 2 ^ 25 else 2 ^ 16

/-- A translation at a home: by the translation cache where it holds the page, so that a change acts after a shoot-down only (R252), and otherwise
by a walk. -/
def translate (s : State) (die : Nat) (cid : BitVec 8) (va : Nat) (big : Bool) : Except Why Nat :=
  match tlbEntry (s.die die) cid va big with
  | some t => .ok (t.local_ + va % pageBytes big)
  | none => (walkTables s die cid va big).map fun f => f + va % pageBytes big

/-- Where bytes of memory are: the die and the local address, redirection applied. -/
structure Spot where
  die : Nat
  loc : Nat
  deriving DecidableEq, Repr

/-- The place, before redirection, of the bytes at an address of a containment identifier in a partition, checked for a use of their frame (R247 to R253);
a fault comes with the die of the home, 0xFF for none. The path window and the control window have no home (R249, R344), nor has an address whose home
the start fenced (R367; log entry 34). -/
def locateRaw (s : State) (part : Nat) (cid : BitVec 8) (va : Nat) (use : BitVec 3) (own : BitVec 8) :
    Except (Why × BitVec 8) Spot :=
  match (if inPathWindow va || inControlWindow va then none else rangeOf (s.quarter part) va) with
  | none => .error ((codeNotPresent, 0x30#8), 0xFF#8)
  | some r =>
    let h := homeOf r va
    if s.pkg.fenced.getLsbD h then .error ((codeNotPresent, 0x30#8), 0xFF#8)
    else if !passes s part (quarterOf h) then .error ((codeNotPresent, 0x35#8), 0xFF#8)
    else match translate s h cid va r.1 with
      | .error w => .error (w, BitVec.ofNat 8 h)
      | .ok loc =>
        if (s.die h).owns ((s.die h).translateFrame loc) use own then .ok ⟨h, loc⟩
        else .error ((codeOwnership, 0x38#8), BitVec.ofNat 8 h)

/-- A place with redirection applied (R309). -/
def Spot.current (s : State) (sp : Spot) : Spot := { sp with loc := (s.die sp.die).translateFrame sp.loc }

/-- The place of the bytes at an address, redirection applied. -/
def locate (s : State) (part : Nat) (cid : BitVec 8) (va : Nat) (use : BitVec 3) (own : BitVec 8) :
    Except (Why × BitVec 8) Spot := (locateRaw s part cid va use own).map (Spot.current s)

/-- A page enters the translation cache of its home, of 16,384 entries, when a walk has found it (R252): which entry leaves a full one is free
(log entry 2). -/
def fillTlb (s : State) (part : Nat) (cid : BitVec 8) (va : Nat) : Act := fun s' =>
  match rangeOf (s.quarter part) va with
  | none => []
  | some r =>
    let h := homeOf r va
    if (tlbEntry (s'.die h) cid va r.1).isSome then []
    else match walkTables s h cid va r.1 with
    | .ok f => modDie h (fun d =>
        let left := if d.tlb.length < 16384 then d.tlb else d.tlb.eraseIdx (Config.freeNat s.free % d.tlb.length)
        { d with tlb := ⟨cid, pageOf r.1 va, r.1, f⟩ :: left }) s'
    | .error _ => []

/-! The last-level cache slices (R210, R252, R254): a die's 24 slices of 4 MiB, as one set of lines under virtual tags. Every write reaches the
frame as well, so that a line never holds what its frame does not (log entry 13). -/

/-- The lines of the slices of a die. -/
def sliceLines : Nat := 786432

/-- The line of the home's slice that serves a read, where the slice still holds it: whether it does is free (log entry 2). Such a read is not
translated (R252). -/
def sliceLine (s : State) (part : Nat) (cid : BitVec 8) (va : Nat) (use : Bool) : Option CacheLine :=
  if use then (rangeOf (s.quarter part) va).bind fun r =>
    (s.die (homeOf r va)).slice.find? fun l => l.cid = cid && l.va = va / 128
  else none

/-- Whether bytes at a spot hold a word that is poisoned (R326). -/
def spotPoisoned (s : State) (sp : Spot) (n : Nat) : Bool :=
  (s.die sp.die).poisoned.any fun w => decide (sp.loc < w + 32) && decide (w < sp.loc + n)

/-- The first poisoned byte of some bytes at a place (R326). -/
def firstPoisoned (s : State) (sp : Spot) (n : Nat) : Option Nat :=
  (List.range n).find? fun i => spotPoisoned s { sp with loc := sp.loc + i } 1

/-- A line read from its frame enters the slice of its home (R252, R253); one that holds a poisoned word does not, so that every read of the word
consumes it (R326). -/
def fillSlice (cid : BitVec 8) (va : Nat) (sp : Spot) : Act := fun s =>
  if spotPoisoned s { sp with loc := sp.loc - va % 128 } 128 then []
  else modDie sp.die (fun d =>
    let rest := d.slice.filter fun l => !(l.cid = cid && l.va = va / 128)
    let left := if rest.length < sliceLines then rest else rest.eraseIdx (Config.freeNat s.free % rest.length)
    { d with slice := { cid := cid, va := va / 128, window := false, data := Memory.read s.mem (hbmPlace sp.die (sp.loc - va % 128)) 128 } :: left }) s

/-- A line of a cache with bytes of an address written. -/
def CacheLine.put (l : CacheLine) (va : Nat) (bytes : List Byte) : CacheLine :=
  { l with data := l.data.zipIdx.map fun b =>
      let i := l.va * 128 + b.2
      if va ≤ i ∧ i < va + bytes.length then bytes.getD (i - va) 0#8 else b.1 }

/-- Whether a line holds a byte of an address range of a containment identifier. -/
def CacheLine.holds (l : CacheLine) (cid : BitVec 8) (window : Bool) (va n : Nat) : Bool :=
  l.cid = cid && l.window = window && decide (l.va * 128 < va + n) && decide (va < (l.va + 1) * 128)

/-! Writes at a place. -/

/-- The partition of a die. -/
def partOfDie (s : State) (die : Nat) : Nat := lowest s.pkg (quarterOf die)

/-- The tenant whose snapshot set holds a frame (R307): its CID. -/
def inSnapshot (s : State) (die loc : Nat) : Option (BitVec 8) :=
  let own := ((s.die die).frames.get {} (loc / 65536)).own
  if decide ((die, loc / 65536) ∈ (s.block (partOfDie s die) own.toNat).snap.todo) then some own else none

/-- The controllers, and the tenants whose snapshot sets hold the frames there, of which writes at places need reserve frames (R309, R312). -/
def reserveWants (s : State) (l : List Spot) : List (Nat × BitVec 8) :=
  distinct (l.filterMap fun sp => (inSnapshot s sp.die sp.loc).map fun cid => (sp.die, cid))

/-- Whether a controller's reserve has fewer frames than writes at places need there (R309, R312). -/
def reserveShort (s : State) (l : List Spot) : Bool :=
  let fs := distinct (l.filterMap fun sp => (inSnapshot s sp.die sp.loc).map fun cid => (sp.die, sp.loc / 65536, cid))
  fs.any fun x => decide (((s.die x.1).reserve.get [] x.2.2.toNat).length < (fs.filter fun y => y.1 = x.1 && y.2.2 = x.2.2).length)

/-- Whether what is held since a cycle comes before a write in the order of arrival: any does, before a write that arrives now (R312). -/
def heldBefore (since id : Nat) (order : Option (Nat × Nat)) : Bool :=
  order.all fun o => decide (since < o.1) || (since = o.1 && decide (id < o.2))

/-- Whether what a held write of the device or from another package belongs to still stands. -/
def Held.live (s : State) (h : Held) : Bool :=
  match h.who with
  | .far a => s.inputs.any fun x => x.2 = .farAccessArrival a
  | .launch id => (s.launches.find id).isSome
  | .svc die j => ((s.die die).svc.get {} j).pending.isSome
  | .ring q cid eq => (if eq then (s.block q cid).eq else (s.block q cid).fq).waiting ≠ []

/-- Whether an earlier write is held for frames of one of some controllers and tenants: further writes are held behind it (R312). -/
def behindHeld (s : State) (order : Option (Nat × Nat)) (on : List (Nat × BitVec 8)) : Bool :=
  let meets (l : List (Nat × BitVec 8)) : Bool := l.any fun x => decide (x ∈ on)
  s.accs.any (fun x => meets x.2.heldOn && x.2.heldSince.any fun t => heldBefore t x.1 order) ||
  s.copies.any (fun x => meets x.2.heldOn && x.2.heldSince.any fun t => heldBefore t x.1 order) ||
  s.held.any fun h => meets h.on && h.live s && heldBefore h.since h.id order

/-- Whether a write at places must wait as a whole: a reserve has too few frames for it, or an earlier write waits there (R312). -/
def mustWait (s : State) (order : Option (Nat × Nat)) (l : List Spot) : Bool := reserveShort s l || behindHeld s order (reserveWants s l)

/-- What is held of a write of the device or from another package. -/
def State.heldBy (s : State) (who : Holder) : Option Held := s.held.find? fun h => h.who = who
/-- Whether such a write must wait (R312). -/
def deviceWaits (s : State) (who : Holder) (l : List Spot) : Bool := mustWait s ((s.heldBy who).map fun h => (h.since, h.id)) l
/-- It has waited for so long that it is not applied (R312). -/
def heldOut (s : State) (who : Holder) : Bool := (s.heldBy who).any (·.out)
/-- Such a write is held from now on, if it is not yet. -/
def holdDevice (who : Holder) (l : List Spot) : Act := fun s =>
  if (s.heldBy who).isSome then []
  else withId (fun id s => [.held (s.held ++ [⟨who, s.now, id, reserveWants s l, false⟩])]) s
/-- Such a write is held no longer. -/
def releaseDevice (who : Holder) : Act := fun s =>
  if (s.heldBy who).isSome then [.held (s.held.filter fun h => h.who ≠ who)] else []

/-- The redirection of a frame that is in the snapshot set to a frame of the reserve (R309): its bytes and its poisoned words are copied. -/
def redirectFrame (sp : Spot) : Act := fun s =>
  match inSnapshot s sp.die sp.loc with
  | none => []
  | some cid =>
    let f := sp.loc / 65536
    let d := s.die sp.die
    match d.reserve.get [] cid.toNat with
    | [] => []
    | z :: r =>
      let info := d.frames.get {} f
      let o := d.origin f
      let fr := (d.frames.set z { d.frames.get {} z with own := info.own, use := useData, dirty := true })
      let fr := fr.set f { fr.get {} f with use := useHerbarium, dirty := true }
      let fr := fr.set o { fr.get {} o with redirect := some z }
      let left := d.poisoned.filter fun w => w / 65536 ≠ z
      let poison := left ++ (d.poisoned.filter fun w => w / 65536 = f).map fun w => z * 65536 + w % 65536
      Act.seqs [storeBytes (hbmPlace sp.die (z * 65536)) (Memory.read s.mem (hbmPlace sp.die (f * 65536)) 65536),
        modDie sp.die fun d => { d with frames := fr, reserve := d.reserve.set cid.toNat r, poisoned := poison },
        modBlock (partOfDie s sp.die) cid.toNat fun b => { b with snap := { b.snap with
          todo := b.snap.todo.erase (sp.die, f), moved := b.snap.moved ++ [(sp.die, f)] } }] s

/-- A write applied at a home: the frame is redirected first where it is in a snapshot set, and becomes dirty (R307, R309). -/
def applyWrite (sp : Spot) (bytes : List Byte) : Act := fun s =>
  Act.seq (redirectFrame sp) (fun s' =>
    let f := sp.loc / 65536
    let f := if (inSnapshot s sp.die sp.loc).isSome then (s'.die sp.die).current ((s.die sp.die).origin f) else f
    let loc := f * 65536 + sp.loc % 65536
    let whole (w : Nat) : Bool := decide (loc ≤ w) && decide (w + 32 ≤ loc + bytes.length)
    Act.seq (storeBytes (hbmPlace sp.die loc) bytes) (modDie sp.die fun d =>
      { d with frames := d.frames.set f { d.frames.get {} f with dirty := true }, poisoned := d.poisoned.filter fun w => !whole w }) s') s

/-- A write applied at a home under an address: the line of its slice follows (R210, R252). -/
def homeWrite (cid : BitVec 8) (va : Nat) (sp : Spot) (bytes : List Byte) : Act := fun s =>
  let hit (l : CacheLine) : Bool := l.holds cid false va bytes.length
  Act.seq (applyWrite sp bytes) (Act.when ((s.die sp.die).slice.any hit)
    (modDie sp.die fun d => { d with slice := d.slice.map fun l => if hit l then l.put va bytes else l })) s

/-- A read of device memory by the device itself, through the tables of a containment identifier (R331, R347, R349, R354); a poisoned word is
consumed (R326). -/
def deviceRead (s : State) (part : Nat) (cid : BitVec 8) (va : Nat) : Nat → Except (Why × BitVec 8) (List Byte)
  | 0 => .ok []
  | n + 1 => match locate s part cid va useData cid with
    | .error w => .error w
    | .ok sp =>
      if spotPoisoned s sp 1 then .error ((codeUncorrectable, 0x48#8), BitVec.ofNat 8 sp.die)
      else match deviceRead s part cid (va + 1) n with
      | .error w => .error w
      | .ok l => .ok (Memory.get s.mem (hbmPlace sp.die sp.loc) :: l)

/-- The place of a write of device memory by the device itself within one 128-byte line. -/
def devicePlace (s : State) (part : Nat) (cid : BitVec 8) (va : Nat) : Option Spot :=
  match locate s part (effectiveCid cid va) va useData (effectiveCid cid va) with
  | .error _ => none
  | .ok sp => some sp

/-! Accesses in flight. -/

/-- Whether two parts of accesses of one kind touch a byte in common. -/
def overlaps (a b : Part) : Bool := decide (a.va < b.va + b.len) && decide (b.va < a.va + a.len)

/-- Whether an access comes before another of its context: in issue order, and within one issue loads before stores, else in slot order
(R107, R138, R213). -/
def precedes (x : Nat × Access) (id : Nat) (a : Access) : Bool :=
  let loads (w : AccessOp) : Bool := w.reads && !w.writes
  let stores (w : AccessOp) : Bool := w.writes && !w.reads
  decide (x.2.op.ino < a.op.ino) || (x.2.op.ino = a.op.ino &&
    (if loads x.2.what && stores a.what then true else if stores x.2.what && loads a.what then false else decide (x.1 < id)))

/-- Whether a copy that the context issued before an access has still to read a byte of a part, through the same kind of handle (R213). -/
def Copy.readsBefore (c : Copy) (a : Access) (p : Part) : Bool :=
  c.key = a.key && c.sk = a.kind && c.readsLeft && decide (c.op.ino < a.op.ino) &&
  (List.range (c.n1 * c.n2)).any fun k =>
    let t := (c.row k).2
    decide (t < p.va + p.len) && decide ((p.va : Int) < t + c.len0)

/-- Whether an access of a context through a CLUSTER handle comes before a multicast store of the context: in issue order, and within one issue loads
before stores, else in slot order (R107, R138, R215). -/
def beforeMcast (x : Nat × Access) (id : Nat) (m : Mcast) : Bool :=
  decide (x.2.op.ino < m.op.ino) || (x.2.op.ino = m.op.ino && ((x.2.what.reads && !x.2.what.writes) || decide (x.1 < id)))

/-- Whether a multicast store lands on a byte that a part of a CLUSTER access of a core reaches. -/
def Mcast.reaches (m : Mcast) (core : Nat) (p : Part) : Bool :=
  m.cores.any fun c => m.bytes.any fun b =>
    decide (windowPlace core p.va ≤ spadPlace c b.1) && decide (spadPlace c b.1 < windowPlace core p.va + p.len)

/-- Whether an earlier access of the same context that conflicts with a part is not yet performed there: a read waits for an earlier
read or atomic, a write for every earlier access and for the copies that are to read what stood there; and an access through a CLUSTER handle waits for
the landings of earlier multicast stores (R107, R211, R213, R215). -/
def blockedBy (s : State) (id : Nat) (a : Access) (p : Part) : Bool :=
  (s.accs.any fun x => x.1 ≠ id && precedes x id a && x.2.key = a.key && x.2.kind = a.kind &&
    (a.what.writes || x.2.what.reads) && (x.2.what.reads || x.2.what.writes) && x.2.parts.any fun q => !q.done && overlaps p q) ||
  (a.kind = .cluster && s.mcasts.any fun x => x.2.key = a.key && !beforeMcast (id, a) x.1 x.2 && x.2.reaches (coreOf a.key) p) ||
  (a.what.writes && (s.ctx a.key).flows && s.copies.any fun x => x.2.readsBefore a p)

/-- Whether an earlier access of the same issue is still to perform at a byte of a part in the own scratchpad: there loads read before stores, and
stores perform in slot order (R107, R138). -/
def behindSlot (s : State) (id : Nat) (a : Access) (p : Part) : Bool :=
  s.accs.any fun x => x.1 ≠ id && precedes x id a && x.2.key = a.key && x.2.kind = a.kind && x.2.op.ino = a.op.ino &&
    (x.2.what.reads || x.2.what.writes) && x.2.parts.any fun q => !q.done && ownPart (coreOf a.key) x.2.kind q && overlaps p q

/-- Whether a multicast store that the context issued after a CLUSTER access lands on a byte of a part by the next cycle: the part performs before
it (R215). -/
def pressedBy (s : State) (id : Nat) (a : Access) (p : Part) : Bool :=
  a.kind = .cluster && s.mcasts.any fun x => x.2.key = a.key && decide (x.2.due ≤ s.now + 1) && beforeMcast (id, a) x.1 x.2 &&
    x.2.reaches (coreOf a.key) p

/-- Whether an earlier element of the same write reaches a byte of a part and is not yet performed: such elements perform in ascending
order (R138, R202). -/
def behindElement (a : Access) (p : Part) : Bool :=
  a.what.writes && (a.parts.takeWhile fun q => q ≠ p).any fun q => !q.done && overlaps p q

/-- Whether the host never answers a part of an access (R249). -/
def Access.silent (a : Access) (p : Part) : Bool :=
  a.sent.isSome && (!elementwise a.op || decide (p.elem ∈ a.mute))

/-- The first part of an access that is due. A part in the own scratchpad is held behind its own issue alone (log entry 44). -/
def duePart (s : State) (id : Nat) (a : Access) : Option Part :=
  a.parts.find? fun p => !p.done && !a.silent p && (decide (p.due ≤ s.now) || pressedBy s id a p) &&
    (if ownPart (coreOf a.key) a.kind p then !behindSlot s id a p
     else !heldBack s (a.after.map (·.id)) && !a.frozen && !blockedBy s id a p) && !behindElement a p

/-- The byte at an address of the latest of the stores of a context through a kind of handle, among those that come before a read, that is not
yet performed there, a faulted one among them (R107, R220). -/
def forwardFrom (s : State) (key : Nat) (kind : HandleKind) (earlier : Nat × Access → Bool) (va : Nat) : Option Byte :=
  (s.accs.filter fun x => x.2.key = key && x.2.kind = kind && x.2.what = .store && earlier x).reverse.findSome? fun x =>
    (((x.2.parts.filter fun q => !q.done) ++ x.2.failed).reverse.find? fun q => decide (q.va ≤ va) && decide (va < q.va + q.len)).map fun q =>
      x.2.data.getD (q.pos + (va - q.va)) 0#8

/-- The byte that a read of an access forwards from the earlier stores of its context (R107, R220). -/
def forwarded (s : State) (id : Nat) (a : Access) (va : Nat) : Option Byte :=
  forwardFrom s a.key a.kind (fun x => x.1 ≠ id && precedes x id a) va

/-- Whether a load of a part takes every byte from earlier stores of its context: it needs no place (R107, R220). -/
def allForwarded (s : State) (id : Nat) (a : Access) (p : Part) : Bool :=
  (a.what = .load || a.what = .matrix) && (List.range p.len).all fun i => (forwarded s id a (p.va + i)).isSome

/-- The code and WHY of a fault of an access: a fetch takes FETCH_FAULT, with the WHY of what it fetches (R49, R175), and 0x23 for an
uncorrectable error (R327). A fetch keeps its WHY in CA. -/
def faultCode (a : Access) (w : Why) : Why :=
  let fetch (why : BitVec 8) : Why := (codeFetchFault, if w.1 = codeUncorrectable then 0x23#8 else why)
  match a.what with
  | .fetch => fetch (a.op.ca.setWidth 8)
  | .metaFetch => fetch 0x22#8
  | _ => w

/-- The address that a fault of a part names: of a fetch, the line or the metadata word (R49, R175), which it keeps in CB. -/
def faultVa (a : Access) (p : Part) : BitVec 52 :=
  match a.what with
  | .fetch => a.op.cb.setWidth 52
  | .metaFetch => a.op.cb.setWidth 52
  | _ => BitVec.ofNat 52 p.va

/-- The fault message of a part of an access (R256). -/
def faultMsg (id : Nat) (a : Access) (p : Part) (w : Why) (home : BitVec 8) : FaultMsg :=
  let w := faultCode a w
  { key := a.key, bseq := a.op.bseq, slot := a.op.slot, code := w.1, why := w.2, va := faultVa a p,
    elem := if elementwise a.op then BitVec.ofNat 6 p.elem else 0#6, home := home, access := id }

/-- Of two faults of an access, the one that is reported: of the lowest element, and of the lowest byte (R256). -/
def worse (x y : FaultMsg) : FaultMsg := if y.elem.toNat < x.elem.toNat ∨ (y.elem = x.elem ∧ y.va.toNat < x.va.toNat) then y else x

/-- A deferred fault found now is on its way to its context: it reaches it on a cycle. -/
def sendFault (at_ : Nat) (m : FaultMsg) : Act := fun s => [.faults (s.faults ++ [(at_, { m with found := s.now })])]

/-! Paths (R200, R249, R356, R362, R364). -/

/-- Whether a Lorig-X link of the package is lost: fewer than 4 of its 8 lanes are in service (R362). -/
def linkLost (p : Package) (link : Nat) : Bool := decide (4 < p.xlinks.get 0 link)

/-- Whether a connection carries path traffic: KIND RDMA path, wanted and up (R249, R364). -/
def connCarries (c : Conn) : Bool := c.w0.getLsbD 63 && c.w0.extractLsb' 60 3 = 2#3 && c.w0.extractLsb' 58 2 = 0#2

/-- The KIND of a path entry (R249). -/
def PathEntry.kind (e : PathEntry) : Nat := (e.a.extractLsb' 61 2).toNat

/-- Whether a path carries the atomic of an access part (R200). -/
def pathAtomic (kind : Nat) (a : Access) (n : Nat) : Bool :=
  match a.what with
  | .atomic aop fp =>
    a.scope = 4#3 && (match kind with
    | 2 => true
    | 3 => !fp && n = 8 && (aop = 0#4 || aop = 9#4)
    | _ => !fp && (n = 4 || n = 8) && (aop = 0#4 || aop = 8#4 || aop = 9#4))
  | _ => true

/-- The fault of a path that is down (R249, R356, R362): no connection is up without the Ethernet ports (R367). -/
def pathDown (s : State) (q : Quarter) (va : Nat) : Option Why :=
  let e := q.pathEntry va
  if e.kind < 2 then (if e.kind ∈ s.pkg.hostUp then none else some (codeNotPresent, 0x36#8))
  else if e.kind = 2 then (if linkLost s.pkg (e.a.extractLsb' 32 3).toNat then some (codeNotPresent, 0x37#8) else none)
  else if s.pkg.ether && connCarries (s.conn (e.a.extractLsb' 32 8).toNat) then none else some (codeNotPresent, 0x3A#8)

/-- The fault that a carried access part meets before it leaves the package (R200, R249). -/
def pathFault (s : State) (q : Quarter) (a : Access) (p : Part) : Option Why :=
  if !pathAtomic (q.pathEntry p.va).kind a p.len then some (codeAtomicPath, 0x50#8) else pathDown s q p.va

/-- The place of a byte over a path (R249). -/
def pathPlace (q : Quarter) (va : Nat) : Nat :=
  let e := q.pathEntry va
  if e.kind < 2 then hostPlace e.kind (e.b.toNat + va % 2 ^ 40)
  else farPlace (e.a.extractLsb' 0 22).toNat (e.b.extractLsb' 56 8).toNat ((e.b.extractLsb' 0 52).toNat + va % 2 ^ 40)

/-- Whether a path leads to the host. -/
def pathToHost (q : Quarter) (va : Nat) : Bool := decide ((q.pathEntry va).kind < 2)

/-- A read of a tenant's memory by a walker (R238, R239): at the far side of a path, where it is carried and answered, or at its home. `refused`: the far
side answers with an error. -/
def tenantRead (s : State) (part : Nat) (cid : BitVec 8) (va n : Nat) (refused : Bool) : Except (Why × BitVec 8) (List Byte) :=
  let q := s.quarter part
  if n = 0 then .ok []
  else if !inPathWindow va then deviceRead s part (effectiveCid cid va) va n
  else if !(pathCarries q cid va n && hasFunction s q cid va) then .error ((codeNotPresent, 0x3A#8), 0xFF#8)
  else match pathDown s q va with
    | some w => .error (w, 0xFF#8)
    | none => if refused then .error ((codeNotPresent, 0x3B#8), 0xFF#8) else .ok (Memory.read s.mem (pathPlace q va) n)

/-- The quarter of an access's partition, with the path entries that the access met (R249). -/
def accessQuarter (s : State) (a : Access) : Quarter := (s.quarter (partOf s.pkg (coreOf a.key))).met a.paths

/-- What takes the next due part of an access: its home or scratchpad, the far side of a path, or the control window. -/
inductive PartRoute where
  | home | path | control
  deriving DecidableEq, Repr

/-- The route of a part. -/
def routeOf (a : Access) (p : Part) : PartRoute :=
  if a.kind ≠ .global then .home else if inPathWindow p.va then .path else if inControlWindow p.va then .control else .home

/-! The checks of an access at its homes. -/

/-- Whether an access reads and does not write: its slice may serve it (R252). -/
def AccessOp.onlyReads (w : AccessOp) : Bool := !w.writes

/-- The place where a part performs at its home (R252): that to which its translation has bound it, or
the one that it translates to now. -/
def homeSpot (s : State) (a : Access) (p : Part) : Except (Why × BitVec 8) Spot :=
  match a.bound.find? fun b => b.pos = p.pos with
  | some b => .ok (Spot.current s ⟨b.die, b.loc⟩)
  | none =>
    let c := effectiveCid a.cid p.va
    locate s (partOf s.pkg (coreOf a.key)) c p.va useData c

/-- The fault of a part at its home or its core, if it meets one there now. A part that needs no place meets none; one that a path carries
meets those of the path before it leaves. -/
def partFault (s : State) (id : Nat) (a : Access) (p : Part) (sliced : Bool) : Option (Why × BitVec 8) :=
  let core := coreOf a.key
  let part := partOf s.pkg core
  let q := accessQuarter s a
  if a.kind ≠ .global || allForwarded s id a p then none
  else match coreFault s q core a.cid a.op (pathReach a.op a.parts p) p.va p.len with
    | some w => some (w, 0xFF#8)
    | none =>
      if inPathWindow p.va then (pathFault s q a p).map fun w => (w, 0xFF#8)
      else if inControlWindow p.va then none
      else
        let c := effectiveCid a.cid p.va
        if a.what.onlyReads && (sliceLine s part c p.va sliced).isSome then none
        else match homeSpot s a p with
          | .error w => some w
          | .ok sp => if a.what ≠ .store && spotPoisoned s sp p.len then some ((codeUncorrectable, 0x48#8), BitVec.ofNat 8 sp.die) else none

/-- Whether a part's fault is one that its core finds: the message reaches the context on the cycle after the issue (R248). -/
def foundAtCore (s : State) (a : Access) (p : Part) : Bool :=
  a.kind = .global && (coreFault s (accessQuarter s a) (coreOf a.key) a.cid a.op (pathReach a.op a.parts p) p.va p.len).isSome

/-- The answer of the far side of a path to a part, where it is none or an error; which is free (log entry 2). An access is answered as one, and
one whose elements fault independently element by element (R249, R256). -/
def farRefuses (a : Access) (p : Part) (n : Nat) : Bool :=
  routeOf a p = .path && Config.freeOrder n (if elementwise a.op then 8 + p.elem else 2) % 3 = 1

/-- Whether a host never answers an access. -/
def farSilent (s : State) (a : Access) (n : Nat) : Bool :=
  !elementwise a.op && Config.freeOrder n 2 % 3 = 2 &&
    a.parts.any fun p => !p.done && routeOf a p = .path && pathToHost (accessQuarter s a) p.va

/-- The elements that a host never answers of an access whose elements fault independently (R249, R256). -/
def farMute (s : State) (a : Access) (n : Nat) : List Nat :=
  if elementwise a.op then
    distinct ((a.parts.filter fun p => !p.done && routeOf a p = .path && pathToHost (accessQuarter s a) p.va &&
      Config.freeOrder n (8 + p.elem) % 3 = 2).map (·.elem))
  else []

/-- Whether the home of a part holds accesses for a shoot-down (R252): those that it has not translated. -/
def shootDownHolds (s : State) (a : Access) (p : Part) : Bool :=
  a.kind = .global && !inPathWindow p.va && !inControlWindow p.va && !(a.bound.any fun b => b.pos = p.pos) &&
  match rangeOf (s.quarter (partOf s.pkg (coreOf a.key))) p.va with
  | some r => (s.die (homeOf r p.va)).shoot.isSome
  | none => false

/-- The places, before redirection, of the parts of a write that its homes translate, or have bound. -/
def writeSpots (s : State) (a : Access) : List (Part × Spot) :=
  if a.kind ≠ .global || !a.what.writes then []
  else a.parts.filterMap fun p =>
    if p.done || routeOf a p ≠ .home then none
    else match a.bound.find? fun b => b.pos = p.pos with
    | some b => some (p, ⟨b.die, b.loc⟩)
    | none =>
      let c := effectiveCid a.cid p.va
      match locateRaw s (partOf s.pkg (coreOf a.key)) c p.va useData c with
      | .ok sp => some (p, sp)
      | .error _ => none

/-- The places of the parts of a write as they stand. -/
def currentSpots (s : State) (a : Access) : List Spot := (writeSpots s a).map fun x => x.2.current s

/-- Whether a write must wait as a whole for reserve frames, or behind one that does (R256, R312). -/
def reserveHolds (s : State) (id : Nat) (a : Access) : Bool := mustWait s (a.heldSince.map fun t => (t, id)) (currentSpots s a)

/-- A write is held for reserve frames from now on, if it is not yet (R312). -/
def holdAccess (id : Nat) : Act := fun s =>
  modAcc id (fun a => { a with heldSince := a.heldSince.orElse fun _ => some s.now, heldOn := reserveWants s (currentSpots s a) }) s

/-! What a part does at its place. -/

/-- The lines of the window or of GLOBAL data in a core's vector data cache that hold bytes leave it: a later read of the context may not
be served by what stood in them (R211, R213). -/
def dropLines (core : Nat) (cid : BitVec 8) (window : Bool) (va n : Nat) : Act := fun s =>
  if (s.core core).vcache.any fun l => l.holds cid window va n then
    modCore core (fun x => { x with vcache := x.vcache.filter fun l => !l.holds cid window va n }) s
  else []

/-- The vector data cache of a core, with the bytes of a write by the core in its lines (R213). -/
def writeThrough (core : Nat) (cid : BitVec 8) (window : Bool) (va : Nat) (bytes : List Byte) : Act := fun s =>
  let hit (l : CacheLine) : Bool := l.holds (if window then l.cid else cid) window va bytes.length
  if (s.core core).vcache.any hit then
    modCore core (fun x => { x with vcache := x.vcache.map fun l => if hit l then l.put va bytes else l }) s
  else []

/-- The GLOBAL lines of a cluster's other cores that hold bytes which a party of the cluster writes (R215). -/
def markMissed (cluster : Nat) (writer : Option Nat) (cid : BitVec 8) (va n : Nat) : Act := fun s =>
  Act.each (((List.range 8).map fun i => cluster * 8 + i).filter fun c => some c ≠ writer &&
      (s.core c).vcache.any fun l => l.holds cid false va n && !l.missed) (fun c =>
    modCore c fun x => { x with vcache := x.vcache.map fun l => if l.holds cid false va n then { l with missed := true } else l }) s

/-- A write of bytes supersedes what the context would still see of its earlier faulted stores there (R107, R220). -/
def supersede (id : Nat) (a : Access) (p : Part) : Act := fun s =>
  (s.accs.filter fun x => x.1 ≠ id && x.2.key = a.key && x.2.kind = a.kind && precedes x id a && x.2.failed.any (overlaps p)).map fun x =>
    .acc x.1 (some { x.2 with failed := x.2.failed.filter fun q => !overlaps p q })

/-- The line of a read in the vector data cache, when the read is served by it (R213): whether it is, where the core holds the line and the
line is as fresh as the read must be (R215), is free (log entry 2). -/
def cachedLine (s : State) (a : Access) (p : Part) (use : Bool) : Option CacheLine :=
  if use && a.what = .load then
    (s.core (coreOf a.key)).vcache.find? fun l => l.cid = effectiveCid a.cid p.va && l.window = (a.kind = .cluster) && l.va = p.va / 128 &&
      decide (a.fresh ≤ l.filled) && (decide (a.freshC ≤ l.filled) || (!l.window && !l.missed))
  else none

/-- The lines of a vector data cache: 256 KiB (R89). -/
def vectorLines : Nat := 2048

/-- A line filled in the vector data cache from its place: which line leaves a full cache is free (log entry 2). -/
def fillLine (core : Nat) (cid : BitVec 8) (window : Bool) (va : Nat) (src : Nat → Byte) : Act := fun s =>
  let l : CacheLine := { cid := cid, va := va / 128, window := window, data := (List.range 128).map fun i => src (va / 128 * 128 + i),
                         filled := s.free }
  modCore core (fun x =>
    let rest := x.vcache.filter fun y => !(y.cid = cid && y.window = window && y.va = va / 128)
    { x with vcache := l :: if rest.length < vectorLines then rest else rest.eraseIdx (Config.freeNat s.free % rest.length) }) s

/-- A part of an access performs at a place that holds the bytes `src`, where `store` applies a write. What moves between the core and a home, or over a
path, is carried under a check code (R323). -/
def performAt (id : Nat) (a : Access) (p : Part) (src : Nat → Byte) (store : List Byte → Act) (served : Bool) : Act := fun s =>
  let core := coreOf a.key
  let cid := effectiveCid a.cid p.va
  let window : Bool := a.kind = .cluster
  let arrived (bytes : List Byte) : List Byte := if a.kind = .global then carried bytes else bytes
  let read := arrived ((List.range p.len).map fun i => src (p.va + i))
  let seen (bytes : List Byte) : List Byte := bytes.zipIdx.map fun x => (forwarded s id a (p.va + x.2)).getD x.1
  let write (bytes : List Byte) : Act := Act.seqs [store bytes, writeThrough core cid window p.va bytes,
    Act.when (!window) (markMissed (clusterOf core) (some core) cid p.va p.len), supersede id a p]
  match a.what with
  | .store => Act.seq (write (arrived ((a.data.drop p.pos).take p.len))) (finishPart id p none) s
  | .atomic _ _ => Act.seq (write (atomicBytes a p read)) (finishPart id p (some read)) s
  | .load =>
    match cachedLine s a p served with
    | some l => finishPart id p (some (seen ((List.range p.len).map fun i => l.data.getD ((p.va + i) % 128) 0#8))) s
    | none => Act.seq (fillLine core cid window p.va src) (finishPart id p (some (seen read))) s
  | .matrix => Act.seq (dropLines core cid window p.va p.len) (finishPart id p (some (seen read))) s
  | _ => finishPart id p (some read) s

/-- Bytes of memory seen from an address on: the byte of an address is at the place `place` moved by as much. -/
def seenFrom (s : State) (va place : Nat) (x : Nat) : Byte := Memory.get s.mem (place + x - va)

/-- A read is translated once for each page that it crosses (R107): its other bytes of the page, in frames that pass the check of R253, are bound to
where this translation leads. -/
def bindPage (id : Nat) (a : Access) (p : Part) : Act := fun s =>
  let part := partOf s.pkg (coreOf a.key)
  let cid := effectiveCid a.cid p.va
  let page (x : Nat) : Option (Bool × Nat) := (rangeOf (s.quarter part) x).map fun r => (r.1, pageOf r.1 x)
  if a.what.writes || (a.bound.any fun b => b.pos = p.pos) then []
  else match locateRaw s part cid p.va useData cid with
    | .error _ => []
    | .ok sp =>
      let d := s.die sp.die
      let of_ (q : Part) : Nat := sp.loc + q.va - p.va
      let mine := a.parts.filter fun q => !q.done && page q.va = page p.va && d.owns (d.translateFrame (of_ q)) useData cid
      modAcc id (fun a => { a with bound := a.bound ++ mine.map fun q => ⟨q.pos, sp.die, of_ q⟩ }) s

/-- The landings of this cycle that an atomic has read do not stand over what it wrote (R219, log entry 46). -/
def keepPlaces (places : List Nat) : Act := fun s =>
  if places = [] then []
  else (s.mcasts.filter fun x => x.2.landed).map fun x => .mcast x.1 (some { x.2 with kept := x.2.kept ++ places })

/-- Whether a copy has its source byte at a place of the own scratchpad. -/
def Copy.readsPlace (c : Copy) (a : Nat) : Bool :=
  (List.range (c.n1 * c.n2)).any fun k =>
    let t := spadPlace (coreOf c.key) (c.row k).2.toNat
    decide (t ≤ a) && decide (a < t + c.len0)

/-- Bytes of a core's own scratchpad are about to be overwritten by an access of the core: the copies that were issued before it and that have still to
read from there read what stands now (R213). -/
def keepSources (core : Nat) (earlier : Copy → Bool) (places : List Nat) : Act := fun s =>
  (s.copies.filter fun x => coreOf x.2.key = core && x.2.sk = .spad && x.2.readsLeft && earlier x.2 && places.any x.2.readsPlace).map fun x =>
    .copy x.1 (some { x.2 with old := x.2.old ++
      ((places.filter fun a => x.2.readsPlace a && !(x.2.old.any fun o => o.1 = a)).map fun a => (a, Memory.get s.mem a)) })

/-- A part of an access performs at a home or in a scratchpad; a read that its slice holds is served there, and any other fills the slice. -/
def performPart (id : Nat) (a : Access) (p : Part) (served sliced : Bool) : Act := fun s =>
  let core := coreOf a.key
  let part := partOf s.pkg core
  let cid := effectiveCid a.cid p.va
  match a.kind with
  | .global =>
    if allForwarded s id a p then finishPart id p (some ((List.range p.len).map fun i => (forwarded s id a (p.va + i)).getD 0#8)) s
    else match (if a.what.onlyReads then sliceLine s part cid p.va sliced else none) with
      | some l => performAt id a p (fun x => l.data.getD (x - l.va * 128) 0#8) (fun _ => Act.skip) served s
      | none =>
        match homeSpot s a p with
        | .error _ => []
        | .ok sp =>
          Act.seqs [bindPage id a p, performAt id a p (seenFrom s p.va (hbmPlace sp.die sp.loc)) (homeWrite cid p.va sp) served,
            Act.when a.what.onlyReads (fillSlice cid p.va sp), fillTlb s part cid p.va] s
  | .cluster =>
    let place := windowPlace core p.va
    let places := (List.range p.len).map fun i => place + i
    Act.seqs [Act.when (a.what.writes && ownPart core a.kind p) (keepSources core (fun _ => true) places),
      performAt id a p (seenFrom s p.va place) (storeBytes place) served,
      Act.when (a.what.reads && a.what.writes) (keepPlaces places)] s
  | _ =>
    let place := spadPlace core p.va
    performAt id a p (seenFrom s p.va place) (storeBytes place) served s

/-- A part performs at the far side of its path (R249). -/
def performFar (id : Nat) (a : Access) (p : Part) (served : Bool) : Act := fun s =>
  let place := pathPlace (accessQuarter s a) p.va
  performAt id a p (seenFrom s p.va place) (storeBytes place) served s

/-- Whether a write has begun and not ended: its homes have translated it and answer for all of it (R256). -/
def Access.begun (a : Access) : Bool := a.checked && a.what.writes && a.kind = .global && a.parts.any fun p => !p.done && !a.silent p

/-- The writes that have begun and are not held perform to their end, in the order of their issue: what follows does not come between their parts. -/
def completeBegun : Act := fun s =>
  Act.each (s.accs.filter fun x => x.2.begun && !reserveHolds s x.1 x.2) (fun x => Act.each (x.2.parts.filter fun p => !p.done && !x.2.silent p) fun p => fun s =>
    match s.accs.find x.1, routeOf x.2 p with
    | some a, .home => performPart x.1 a p false false s
    | some a, .path => performFar x.1 a p false s
    | _, _ => []) s

/-! Faults. -/

/-- An access faults: of one whose elements fault independently the faulting elements, of any other all of it (R256). The message is on its
way for a free time, or not at all where the core finds the fault (log entry 2). A faulting part is not applied; of a store the context
still sees it (R220). -/
def faultAccess (id : Nat) (a : Access) (bad : List (Part × Why × BitVec 8)) (soon : Bool) : Act := fun s =>
  match bad.map fun x => faultMsg id a x.1 x.2.1 x.2.2 with
  | [] => []
  | m :: r =>
    let m := r.foldl worse m
    let els := bad.map (·.1.elem)
    let hit (p : Part) : Bool := !p.done && (!elementwise a.op || decide (p.elem ∈ els))
    Act.seqs [fun s => [.free] ++ (if a.faulted.isNone then sendFault (if soon then s.now else s.now + Config.freeNat s.free) m s else []),
      modAcc id fun a => { a with
        checked := true, faulted := some ((a.faulted.map fun n => worse n m).getD m), ack := s.now + 1, heldSince := none, heldOn := [], sent := none, mute := [],
        failed := if a.what = .store then a.failed ++ a.parts.filter hit else a.failed,
        parts := a.parts.map fun p => if hit p then { p with done := true } else p }] s

/-- A part of an access as its fault names it: from its first poisoned byte on, where that is what faults (R256, R326, R371). -/
def faultyPart (s : State) (a : Access) (p : Part) (w : Why) : Part :=
  if w.1 = codeUncorrectable then
    (match homeSpot s a p with
     | .ok sp => { p with va := p.va + (firstPoisoned s sp p.len).getD 0 }
     | .error _ => p)
  else p

/-- A read of a part meets a fault after its access was checked: a page that changed meanwhile. -/
def lateFault (id : Nat) (a : Access) (p : Part) (w : Why × BitVec 8) : Act := fun s =>
  let m := faultMsg id a (faultyPart s a p w.1) w.1 w.2
  Act.seqs [fun s => [.free] ++ (if a.faulted.isNone then sendFault (s.now + Config.freeNat s.free) m s else []),
    modAcc id fun a => { a with faulted := some ((a.faulted.map fun n => worse n m).getD m) }, finishPart id p none] s

/-- The faults of an access are asked for as its first part comes due, of all its parts (R256). A write is then bound to its places, in
snapshot sets to frames of the reserve (R309), and performs whole; it waits as a whole where a reserve has too few (R312). `n` is the number
of the free choices made. -/
def checkAccess (id : Nat) (a : Access) (n : Nat) : Act := fun s =>
  let sliced := Config.freeOrder n 4 % 2 = 0
  let bad := (a.parts.filter fun p => !p.done).filterMap fun p => match partFault s id a p sliced with
    | some w => some (faultyPart s a p w.1, w)
    | none => if farRefuses a p n then some (p, (codeNotPresent, 0x3B#8), 0xFF#8) else none
  let stands (p : Part) : Bool := if elementwise a.op then !(bad.any fun x => x.1.elem = p.elem) else bad = []
  let spots := (writeSpots s a).filter fun x => stands x.1
  let mute := (farMute s a n).filter fun e => !(bad.any fun x => x.1.elem = e)
  if bad = [] && farSilent s a n then modAcc id (fun a => { a with checked := true, sent := some s.now }) s
  else if spots ≠ [] && reserveHolds s id a then holdAccess id s
  else Act.seqs [faultAccess id a bad (bad.any fun x => foundAtCore s a x.1),
    Act.each spots (fun x s => redirectFrame (x.2.current s) s),
    modAcc id fun a => { a with checked := true, heldSince := none, heldOn := [], bound := spots.map fun x => ⟨x.1.pos, x.2.die, x.2.loc⟩ },
    Act.when (mute ≠ []) (modAcc id fun a => { a with sent := some s.now, mute := mute })] s

/-- The next due part of an access on a route, when nothing holds it there. A GLOBAL write, which its homes answer as a whole (R256), begins only when
no part of it waits for an earlier access. -/
def routedPart (s : State) (id : Nat) (route : PartRoute) : Option (Access × Part) :=
  match s.accs.find id with
  | none => none
  | some a => (duePart s id a).bind fun p =>
      if routeOf a p = route && !shootDownHolds s a p &&
        (a.checked || !a.what.writes || a.kind ≠ .global || a.parts.all fun q => q.done || !blockedBy s id a q)
      then some (a, p) else none

/-- HOME_ACCESS (R252): the next due part of an access is checked and performed. A checked write whose frame has since come into a snapshot set may wait for
the reserve (R312). -/
def homeAccess (id : Nat) : Act := fun s =>
  match routedPart s id .home with
  | none => []
  | some (a, p) =>
    Act.seq (fun _ => [.free]) (fun s' =>
      let served := Config.freeOrder s.free 1 % 2 = 0
      let sliced := Config.freeOrder s.free 4 % 2 = 0
      if !a.checked then checkAccess id a s.free s'
      else if reserveHolds s' id a then holdAccess id s'
      else if a.heldSince.isSome then modAcc id (fun a => { a with heldSince := none, heldOn := [] }) s'
      else match (if a.what.writes then none else partFault s' id a p sliced) with
        | some w => lateFault id a p w s'
        | none => performPart id a p served sliced s') s

/-- The meaning of HOME_ACCESS. -/
def execHomeAccess (id : Nat) (s : State) : Host.Outcome State Fault Refusal := done (homeAccess id) s

/-- Whether the acknowledgement of a GLOBAL write returns on this cycle (R255). -/
def ackDue (s : State) (id : Nat) : Bool :=
  match s.accs.find id with
  | some a => a.buffered && a.parts.all (·.done) && decide (a.ack ≤ s.now)
  | none => false

/-- STORE_ACKNOWLEDGE (R255): the entry is released. A store is over; an atomic that is still awaited keeps its old value; a faulted write
keeps its fault for the record of its stop. -/
def acknowledge (id : Nat) : Act := fun s =>
  match s.accs.find id with
  | none => []
  | some a =>
    if !ackDue s id then []
    else if a.faulted.isSome then [.acc id (some { a with buffered := false })]
    else
      let give (p : Pending) : Pending :=
        if p.src = Source.access id then { p with src := Source.value (s.now + 1) (accessVals p.op a.data) } else p
      [.acc id none] ++ modCtx a.key (fun c => { c with pending := c.pending.map give }) s
/-- The meaning of STORE_ACKNOWLEDGE. -/
def execStoreAcknowledge (id : Nat) (s : State) : Host.Outcome State Fault Refusal := done (acknowledge id) s

/-- A byte of a multicast landing in one of its targets; a line of the writer's own vector data cache that holds it follows (R213). -/
def landByte (m : Mcast) (c : Nat) (b : Nat × Byte) : Act :=
  let writer := coreOf m.key
  Act.seq (storeBytes (spadPlace c b.1) [b.2])
    (Act.when (clusterOf c = clusterOf writer && !isService writer)
      (writeThrough writer 0#8 true (windowLine c (spadPlace c b.1) * 128 + b.1 % 128) [b.2]))

/-- The bytes of a multicast landing in each of its targets (R91). -/
def landMcast (m : Mcast) : Act := Act.each m.cores fun c => Act.each (m.bytes.filter fun b => decide (spadPlace c b.1 ∉ m.kept)) (landByte m c)

/-- The own-scratchpad atomics of an issue that read a landing of their cycle stand after it (R219, log entry 46). -/
def keepAtomics : Act := fun s => keepPlaces s.cur.rmw s

/-- Whether a landing waits for an ordered atomic issued before its store (R201), or for an access through a CLUSTER handle that its context issued
before it to one of its bytes (R215). -/
def Mcast.waits (s : State) (id : Nat) (m : Mcast) : Bool :=
  m.frozen || heldBack s m.after ||
  s.accs.any fun x => x.2.key = m.key && x.2.kind = .cluster && beforeMcast x id m && x.2.parts.any fun p => !p.done && m.reaches (coreOf m.key) p

/-- MCAST_LANDING (R91): the landing shows to the loads of its cycle; it is applied again after the stores of the cycle. Copies of the writer that
were issued before it read what stood in the own scratchpad (R213). -/
def mcastLanding (id : Nat) : Act := fun s =>
  match s.mcasts.find id with
  | some m =>
    if m.due ≤ s.now ∧ !m.landed ∧ !m.waits s id then
      Act.seqs [Act.when (decide (coreOf m.key ∈ m.cores)) (keepSources (coreOf m.key) (fun c => c.key = m.key && decide (c.op.ino ≤ m.op.ino))
          (m.bytes.map fun b => spadPlace (coreOf m.key) b.1)),
        landMcast m, fun _ => [.mcast id (some { m with landed := true })]] s
    else []
  | none => []
/-- The meaning of MCAST_LANDING. -/
def execMcastLanding (id : Nat) (s : State) : Host.Outcome State Fault Refusal := done (mcastLanding id) s

end Sys2Proof.Machine
end

