-- ==== Sys2Proof/Machine/Rings.lean ====
section
/-!
DEFINITION. Error records and the rings that take them (R327 to R331, R345, R347, R369 to R374), and the counters of errors.
-/
namespace Sys2Proof.Machine

/-- The bytes of a list of words (R4). -/
def wordsBytes (ws : List Word) : List Byte := ws.flatMap fun w => wordBytes w 8

/-- The 64 bytes of an error record with its COUNT (R329). -/
def ErrRecord.bytes (r : ErrRecord) (count : Nat) (pkg : BitVec 22) : List Byte :=
  let body := wordsBytes [
    r.code ++ r.why ++ r.sev ++ 0#5 ++ r.cid ++ r.etype ++ r.die ++ r.unit,
    r.ctx ++ r.slot ++ 0#5 ++ r.bseq,
    0#12 ++ r.va,
    BitVec.ofNat 64 (r.time.getD 0),
    r.action ++ BitVec.ofNat 16 (min count 65535) ++ 0#32,
    r.detail,
    0#42 ++ pkg]
  body ++ wordsBytes [(crc32c body).setWidth 64]

/-- The records that a ring holds (R345). -/
def Ring.size (r : Ring) : Nat := 2 ^ ((r.base.extractLsb' 0 4).toNat + 6)
/-- Whether a ring can take no record: it is full or not valid (R347). -/
def Ring.full (r : Ring) : Bool := !r.base.getLsbD 4 || decide ((r.tail - r.head).toNat = r.size)
/-- The address of the next record slot (R345, R347). -/
def Ring.slotVa (r : Ring) : Nat := (r.base.extractLsb' 12 40).toNat * 4096 + 64 * (r.tail.toNat % r.size)

/-- The ring of a block: the error queue or the fault queue. -/
def Block.ring (b : Block) (eq : Bool) : Ring := if eq then b.eq else b.fq
def Block.setRing (b : Block) (eq : Bool) (r : Ring) : Block := if eq then { b with eq := r } else { b with fq := r }

/-- Whether a record is lost while its ring is full (R331). -/
def ErrRecord.minor (r : ErrRecord) : Bool := decide (r.sev.toNat < 2)

/-- Whether the next record of a ring, which is not full, waits for a reserve frame (R312). -/
def ringWaits (s : State) (q cid : Nat) (eq : Bool) : Bool :=
  let ring := (s.block q cid).ring eq
  !ring.full && (devicePlace s q (BitVec.ofNat 8 cid) ring.slotVa).any fun sp => deviceWaits s (.ring q cid eq) [sp]

/-- A record written at the next slot of a ring, if it can be: then TAIL shows it (R347). -/
def writeRecord (q cid : Nat) (eq : Bool) (r : ErrRecord) (s : State) : Option (List Effect) :=
  let ring := (s.block q cid).ring eq
  let c := effectiveCid (BitVec.ofNat 8 cid) ring.slotVa
  if ring.full || ringWaits s q cid eq then none
  else (devicePlace s q (BitVec.ofNat 8 cid) ring.slotVa).map fun sp =>
    Act.seqs [releaseDevice (.ring q cid eq), homeWrite c ring.slotVa sp (r.bytes (ring.dropped.get 0 r.code.toNat) s.pkg.pkgid),
      modBlock q cid fun b => b.setRing eq
        { b.ring eq with tail := (b.ring eq).tail + 1#32, dropped := (b.ring eq).dropped.erase r.code.toNat }] s

/-- The records of a ring are held for a reserve frame, if that is what the next of them waits for (R312). -/
def holdRing (q cid : Nat) (eq : Bool) : Act := fun s =>
  match devicePlace s q (BitVec.ofNat 8 cid) ((s.block q cid).ring eq).slotVa with
  | some sp => if ringWaits s q cid eq then holdDevice (.ring q cid eq) [sp] s else []
  | none => []

/-- The records that wait for space are written in order, as far as they can be (R331). -/
def flushRing (q cid : Nat) (eq : Bool) : Nat → Act
  | 0 => Act.skip
  | n + 1 => fun s =>
    match ((s.block q cid).ring eq).waiting with
    | [] => []
    | r :: rest =>
      match writeRecord q cid eq r s with
      | none => holdRing q cid eq s
      | some e => Act.seqs [fun _ => e, modBlock q cid fun b => b.setRing eq { b.ring eq with waiting := rest }, flushRing q cid eq n] s

/-- A record that is not written adds to the COUNT of the next of its code (R331). -/
def Ring.drop (ring : Ring) (r : ErrRecord) : Ring := { ring with dropped := ring.dropped.set r.code.toNat (ring.dropped.get 0 r.code.toNat + 1) }

/-- A record waits behind those that wait for its ring, or for a reserve frame (R312, R331). -/
def queueRecord (q cid : Nat) (eq : Bool) (r : ErrRecord) : Act :=
  Act.seq (holdRing q cid eq) (modBlock q cid fun b => b.setRing eq { b.ring eq with waiting := (b.ring eq).waiting ++ [r] })

/-- A record for a queue of a containment identifier in a partition (R331, R369): it is written, it waits, or while the queue is full one
of SEV 0 or 1 is only counted; one whose write is held for a reserve frame waits whatever its SEV (R312). Its TIME is the cycle of the detection
(R329): this one, where the record names none. -/
def post (q cid : Nat) (eq : Bool) (r : ErrRecord) : Act := fun s =>
  let r := { r with time := some (r.time.getD s.now) }
  match (if ((s.block q cid).ring eq).waiting = [] then writeRecord q cid eq r s else none) with
  | some e => e
  | none =>
    if r.minor && !ringWaits s q cid eq then modBlock q cid (fun b => b.setRing eq ((b.ring eq).drop r)) s
    else queueRecord q cid eq r s

/-- The records of a ring of SEV 0 and 1 that have been held for too long are not written (R312). -/
def dropMinor (q cid : Nat) (eq : Bool) : Act := modBlock q cid fun b =>
  let ring := b.ring eq
  b.setRing eq { (ring.waiting.filter ErrRecord.minor).foldl Ring.drop ring with waiting := ring.waiting.filter fun r => !r.minor }

/-- A record for a tenant's error queue. -/
def postTenant (q cid : Nat) (r : ErrRecord) : Act := post q cid true { r with cid := BitVec.ofNat 8 cid }
/-- A record for the hypervisor's error queue in a partition (R345). -/
def postHypervisor (q : Nat) (r : ErrRecord) : Act := post q 0xFF true r

/-- RING_HEAD_WRITE (R345, R347): HEAD moves, and records that waited are written. -/
def ringHeadWrite (q cid : Nat) (eq : Bool) (head : W32) : Act := fun s =>
  Act.seq (modBlock q cid fun b => b.setRing eq { b.ring eq with head := head })
    (flushRing q cid eq ((s.block q cid).ring eq).waiting.length) s
/-- The meaning of RING_HEAD_WRITE. -/
def execRingHeadWrite (quarter cid : Nat) (eq : Bool) (head : BitVec 32) (s : State) : Host.Outcome State Fault Refusal :=
  done (ringHeadWrite (lowest s.pkg quarter) cid eq head) s

/-! Counters (R327). -/

/-- A field of a counter register increased, saturating at its largest value. -/
def bump (w : Word) (lo width : Nat) (n : Nat) : Word :=
  let old := w.toNat / 2 ^ lo % 2 ^ width
  w + BitVec.ofNat 64 ((min (old + n) (2 ^ width - 1) - old) * 2 ^ lo)

/-- The fields of ECNT and SHCNT. -/
inductive Counter where
  | corr | unc | chk | rbk | flit | down
  deriving DecidableEq, Repr

/-- A count in ECNT of a containment identifier, or in SHCNT for a structure that holds no tenant's data (R327, R328). -/
def countError (q : Nat) (cid : Option (BitVec 8)) (c : Counter) (n : Nat) : Act :=
  match cid, c with
  | some x, .corr => modBlock q x.toNat fun b => { b with ecnt := bump b.ecnt 40 24 n }
  | some x, .unc => modBlock q x.toNat fun b => { b with ecnt := bump b.ecnt 24 16 n }
  | some x, .chk => modBlock q x.toNat fun b => { b with ecnt := bump b.ecnt 8 16 n }
  | some x, .rbk => modBlock q x.toNat fun b => { b with ecnt := bump b.ecnt 0 8 n }
  | none, .corr => modQuarter q fun x => { x with shcnt := bump x.shcnt 40 24 n }
  | none, .flit => modQuarter q fun x => { x with shcnt := bump x.shcnt 24 16 n }
  | none, .down => modQuarter q fun x => { x with shcnt := bump x.shcnt 8 16 n }
  | _, _ => Act.skip

/-! The record of a stop (R369 to R371). -/

/-- SEV and ACTION of the code of a trap or deferred fault (R370, R371). -/
def sevAction (code : BitVec 16) (why : BitVec 8) : BitVec 3 × BitVec 16 :=
  if code = codeEmptyRead ∨ code = codeMetadataOrder ∨ code = codeResumeBad ∨ code = codeSwtrap then (2#3, 0x0001#16)
  else if code.toNat < 0x100 then (3#3, 0x0003#16)
  else if code = codeCowReserve then (2#3, 0x0001#16)
  else if code = codeUncorrectable ∨ code = codeAtomicPath ∨ (code = codeFetchFault ∧ why = 0x23#8) then (2#3, 0x0003#16)
  else (2#3, 0x0002#16)

/-- Whether the record of a light trap carries a virtual address (R370). -/
def trapHasVa (code : BitVec 16) : Bool :=
  code = codeMetadataOrder || (codeHandleInvalid.toNat ≤ code.toNat && code.toNat ≤ codeHandlePerm.toNat) || code = codeAtomicAlign ||
    code = codeUndeclaredWrite || code = codeReadInWindow

/-- The first slot of SLOTS in the order S, V0, V1, M, C0, C1, B; 7 for none (R369). -/
def firstSlot (slots : BitVec 7) : Nat := ((List.range 7).find? fun k => slots.getLsbD (6 - k)).getD 7

/-- The number that the record of a stop carries (R82, R369): of a deferred fault its operation's, of a software trap the TRAP's, of a precise trap
the one that its issue would have taken. A handler's issues take none (R261): 0, which marks the record as the handler's (R258). -/
def stopBseq (c : Ctx) (st : Stop) (fault : Option FaultMsg) : BitVec 48 :=
  match fault with
  | some f => f.bseq
  | none => if st.fromService then 0#48 else if st.kind = .software then c.bseq - 1#48 else c.bseq

/-- The cycle of the detection of what a stop's record describes (R329): a home's finding of a deferred fault, the cycle of a TRAP's issue, and
the cycle of the issue that took a precise trap, after the stop cycle (R265). -/
def stopTime (st : Stop) (fault : Option FaultMsg) : Nat :=
  match fault with
  | some f => f.found
  | none => if st.kind = .precise then st.t + 1 else st.t

/-- The error record of a stop that parks a context: TRAPCAUSE, TRAPINFO and, of a deferred fault, its message (R369). -/
def stopRecord (s : State) (key : Nat) (c : Ctx) (st : Stop) (fault : Option FaultMsg) : ErrRecord :=
  let core := coreOf key
  let code := c.trapcause.extractLsb' 0 16
  let why := c.trapinfo.extractLsb' 8 8
  let sa := sevAction code why
  let slot : Nat := match fault with | some f => f.slot | none => st.slot.getD (firstSlot (c.trapinfo.extractLsb' 0 7))
  let home : Word := match fault with | some f => f.home.setWidth 64 <<< 32 | none => 0#64
  { code := code, why := why, sev := sa.1, cid := c.cid, etype := if isService core then 1#8 else 0#8, die := BitVec.ofNat 8 (dieOf core),
    unit := BitVec.ofNat 8 (unitOf core), ctx := BitVec.ofNat 8 (ctxOf key), slot := BitVec.ofNat 3 slot,
    bseq := stopBseq c st fault,
    va := match fault with | some f => f.va | none => if trapHasVa code then st.va else 0#52,
    time := some (stopTime st fault), action := sa.2, detail := c.trapinfo ||| home }

/-- The record of a stop goes to the tenant's fault queue; that of a service context to the hypervisor's error queue (R263, R351). -/
def postStop (key : Nat) (r : ErrRecord) : Act := fun s =>
  let q := partOf s.pkg (coreOf key)
  if isService (coreOf key) then postHypervisor q r s else post q r.cid.toNat false r s

end Sys2Proof.Machine
end

