-- ==== Sys2Proof/Machine/Records.lean ====
section
/-!
DEFINITION. The end of a stop: the records of unfinished operations (R265 to R269), the state that a stop gives (R259 to R263), the rollback of a
buffer phase (R336), and deferred faults (R257, R258).
-/
namespace Sys2Proof.Machine

/-- Whether a BSEQ is older than another (R83). -/
def olderBseq (a b : BitVec 48) : Bool := a ≠ b && decide ((b - a).toNat < 2 ^ 47)

/-- An unfinished operation of a stopped context, as its record will hold it (R265, R267). -/
structure Unfinished where
  op : OpRec
  cls : BitVec 2
  delay : Nat := 0
  prog : Nat := 0
  hold : Bool := false
  fault : Option FaultMsg := none
  imgs : List Vec := []
  results : List (Dest × Result) := []
  behind : List ((BitVec 48 × Nat) × BitVec 3) := []
  deriving DecidableEq, Repr

/-- Record classes (R267). -/
def classFix : BitVec 2 := 0#2
def classVar : BitVec 2 := 1#2
def classMem : BitVec 2 := 2#2
def classEng : BitVec 2 := 3#2

/-- The order of records: by age, and within one issue by slot (R269). -/
def Unfinished.before (a b : Unfinished) : Bool :=
  olderBseq a.op.bseq b.op.bseq || (a.op.bseq = b.op.bseq && decide (a.op.slot < b.op.slot))
/-- A record put in its place. -/
def insertUnfinished (u : Unfinished) : List Unfinished → List Unfinished
  | [] => [u]
  | x :: r => if u.before x then u :: x :: r else x :: insertUnfinished u r
/-- Records in order (R269). -/
def sortUnfinished (l : List Unfinished) : List Unfinished := l.foldr insertUnfinished []

/-- The fault that struck an access or a copy, if its message has reached the context. -/
def faultOn (st : Stop) (id : Nat) : Option FaultMsg := st.faults.find? fun m => m.access = id

/-- Whether a landing is that of an MFUSE, whose record stands for it (R170). -/
def Landing.ofFuse (l : Landing) : Bool := match l.val with | .act (.fuse _) => true | _ => false

/-- Fixed-latency results that land after the stop cycle (R265). -/
def fixItems (c : Ctx) (t : Nat) : List Unfinished :=
  let ls := c.landings.filter fun l => !l.op.svc && !l.ofFuse
  (distinct (ls.map (·.op))).map fun op =>
    let mine := ls.filter fun l => l.op = op
    { op := op, cls := classFix, delay := (mine.head?.map (·.due)).getD t - t, imgs := op.imgs, results := mine.map fun l => (l.dest, l.val) }

/-- A destination that still waits for an operation. -/
def Ctx.awaited (c : Ctx) (op : OpRec) (d : Dest) : Dest := if c.takes op d then d else .none

/-- What holds name: the operations, by BSEQ and slot, of accesses and copies in flight, with the scopes of the holds (R214). -/
def namesOf (s : State) (holds : List Hold) : List ((BitVec 48 × Nat) × BitVec 3) :=
  holds.filterMap fun h => (match s.accs.find h.id, s.copies.find h.id with
    | some a, _ => some a.op
    | none, some c => some c.op
    | none, none => (none : Option OpRec)).map fun (op : OpRec) => ((op.bseq, op.slot), h.scope)

/-- Variable-latency reads that have not arrived (R265). -/
def varItems (s : State) (c : Ctx) (st : Stop) : List Unfinished :=
  (c.pending.filter fun p => !p.op.svc && p.op.slot ≠ 3 && !p.outlivesStop).map fun p =>
    let acc := match p.src with | .access id => some id | _ => none
    { op := p.op, cls := classVar, hold := acc.any fun id => (s.accs.find id).any (·.frozen), fault := acc.bind (faultOn st),
      imgs := p.op.imgs, results := p.dests.map fun d => (c.awaited p.op d, .word 0#64),
      behind := namesOf s ((acc.bind s.accs.find).elim [] (·.after)) }

/-- The number of a drain's entry from its destination (R181). -/
def entryOfDest (op : OpRec) (d : Dest) : Nat :=
  match d with
  | .v r => (r + 64 - 4 * ((FmtM.ofWord op.sw).mstr.extractLsb' 0 4).toNat % 64) % 64
  | _ => 0

/-- The entries of the drain that a record of MDRAIN or MDRAIN.V holds, under a fusion (R181): that of its issue (R170), or the one that validation
judges it under (R270). -/
def drainTotal (c : Ctx) (fuse : BitVec 2) (op : OpRec) : Nat :=
  drainEntries (unitShape fuse (selectedQuads c (FmtM.ofWord op.sw).qsel)) op.cc.toNat op.ca

/-- Drains into vector registers of which an entry is not delivered (R265): PROG is the first such entry. -/
def drainItems (c : Ctx) : List Unfinished :=
  let isV (m : MOp) : Bool := match m.instr with | some (.mdrainV _) => true | _ => false
  let ps := c.pending.filter fun p => p.op.slot = 3
  let ms := c.mops.filter isV
  (distinct (ms.map (·.op) ++ ps.map (·.op))).map fun op =>
    let moved := match ms.find? fun m => m.op = op with | some m => m.prog | none => drainTotal c op.fuse op
    let prog := (ps.filter fun p => p.op = op).foldl (fun n p => p.dests.foldl (fun n d => min n (entryOfDest op d)) n) moved
    let first := 4 * ((FmtM.ofWord op.sw).mstr.extractLsb' 0 4).toNat
    { op := op, cls := classVar, prog := prog,
      results := (List.range (drainTotal c op.fuse op - prog)).map fun i => (c.awaited op (.v ((first + prog + i) % 64)), .word 0#64) }

/-- Stores and atomics that a fault struck or that were not started (R265). -/
def memItems (s : State) (key : Nat) (c : Ctx) (st : Stop) : List Unfinished :=
  ((s.accs.filter fun x => x.2.key = key && x.2.what.writes && !x.2.op.svc && (x.2.frozen || (faultOn st x.1).isSome)).map fun x =>
    { op := x.2.op, cls := classMem, hold := x.2.frozen, fault := faultOn st x.1, imgs := x.2.op.imgs, behind := namesOf s x.2.after,
      results := (c.pending.find? fun p => p.op = x.2.op).elim [] fun p => p.dests.map fun d => (c.awaited p.op d, .word 0#64) }) ++
  ((s.mcasts.filter fun x => x.2.key = key && x.2.frozen && !x.2.landed && !x.2.op.svc).map fun x =>
    { op := x.2.op, cls := classMem, hold := true, imgs := x.2.op.imgs, behind := namesOf s (x.2.after.map (Hold.mk · 3#3)) })

/-- The image of a descriptor (R268). -/
def descImage (ws : List Word) : List Vec := if ws = [] then [] else [BitVec.ofNat 1024 (leNat (wordsBytes ws))]

/-- The M operations, copies and waits that go on in an engine (R265). -/
def engItems (s : State) (key : Nat) (c : Ctx) (st : Stop) : List Unfinished :=
  let isV (m : MOp) : Bool := match m.instr with | some (.mdrainV _) => true | _ => false
  ((c.retired (st.t + 1)).filter fun m => !isV m && !m.op.svc).map (fun m =>
    { op := m.op, cls := classEng, prog := m.prog, hold := m.access.any fun id => (s.accs.find id).any (·.frozen),
      fault := m.access.bind (faultOn st), behind := namesOf s ((m.access.bind s.accs.find).elim [] (·.after)) }) ++
  ((s.copies.filter fun x => x.2.key = key && !x.2.op.svc && !x.2.silent).map fun x =>
    { op := x.2.op, cls := classEng, prog := x.2.prog, hold := x.2.frozen, fault := faultOn st x.1, imgs := descImage x.2.desc,
      behind := namesOf s (x.2.after.map (Hold.mk · 3#3)), results := [(c.awaited x.2.op (.s x.2.tok), .word 0#64)] }) ++
  (match c.wait with
   | some (.until _ (some op)) => [{ op := op, cls := classEng }]
   | some (.drain op _ _ _ _) => [{ op := op, cls := classEng }]
   | _ => [])

/-- The unfinished operations of a stopped context in the order of their records (R265, R269). -/
def unfinished (s : State) (key : Nat) (c : Ctx) (st : Stop) : List Unfinished :=
  sortUnfinished (fixItems c st.t ++ varItems s c st ++ drainItems c ++ memItems s key c st ++ engItems s key c st)

/-- The words y0 to y7 of a record whose operand block starts at a unit (R267). -/
def Unfinished.words (u : Unfinished) (oref : Nat) : List Word :=
  let f := u.fault
  [u.op.sw,
   u.op.bseq ++ BitVec.ofNat 3 u.op.slot ++ BitVec.ofBool f.isSome ++ BitVec.ofBool u.hold ++ 0#1 ++ u.cls ++ (f.map (·.why)).getD 0#8,
   BitVec.ofNat 16 u.delay ++ (f.map (·.code)).getD 0#16 ++ BitVec.ofNat 32 u.prog,
   u.op.step ++ BitVec.ofNat 10 oref ++ BitVec.ofNat 4 u.imgs.length ++ (f.map (·.elem)).getD 0#6 ++ u.op.hka ++ u.op.hkb ++ u.op.prma ++
     u.op.prmb ++ 0#2,
   u.op.ca, u.op.cb, u.op.cc, ((f.map (·.va)).getD 0#52).setWidth 64]

/-- The place of an operand unit of a context's Vitrine (R269). -/
def unitPlace (key u : Nat) : Nat := spadPlace (coreOf key) (carveOut (ctxOf key) + 0x4000 + 128 * u)

/-- Records written from a slot and an operand unit on (R269). -/
def writeRecords (key : Nat) : Nat → Nat → List Unfinished → Act
  | _, _, [] => Act.skip
  | j, u, x :: r => Act.seqs [storeBytes (vitrinePlace key (8 * j)) (wordsBytes (x.words u)),
      storeBytes (unitPlace key u) (x.imgs.flatMap fun v => leBytes v.toNat 128), writeRecords key (j + 1) (u + x.imgs.length) r]

/-- A fault of lower BSEQ, and of an earlier slot within one (R257). -/
def earlierFault (a b : FaultMsg) : FaultMsg :=
  if olderBseq b.bseq a.bseq || (b.bseq = a.bseq && decide (b.slot < a.slot)) then b else a
/-- The fault that TRAPCAUSE describes (R257). -/
def lowestFault : List FaultMsg → Option FaultMsg
  | [] => none
  | m :: r => some (r.foldl earlierFault m)

/-- The trap that a deferred fault gives its context. -/
def faultTrap (m : FaultMsg) : Trap :=
  { code := m.code, why := m.why, slots := if m.slot < 7 then slotBit m.slot else 0#7, va := m.va }

/-- TRAPCAUSE and TRAPINFO describe a deferred fault; SUP stays (R257, R264). -/
def Ctx.describe (c : Ctx) (m : FaultMsg) (sup : Bool) : Ctx :=
  { c with trapcause := trapCause sup true true m.code, trapinfo := trapInfo (faultTrap m) }

/-- The state after a stop with a cause (R259, R263): SERVICE for a light trap that does not park, and PARKED, with the one error record of
the stop, otherwise. -/
def enterCause (key : Nat) (st : Stop) : Act := fun s =>
  let c := s.ctx key
  let parked : Ctx := { c with mode := .parked, stop := none, savedStop := none, held := false, parkedFromHalted := st.wasHalted }
  if st.kind = .deferred then
    match lowestFault st.faults with
    | some m =>
      let d := parked.describe m (c.trapcause.getLsbD 18)
      Act.seq (fun _ => [.ctx key d]) (postStop key (stopRecord s key d st (some m))) s
    | none => Act.seq (fun _ => [.ctx key parked]) (postStop key (stopRecord s key parked st none)) s
  else if c.trapcause.getLsbD 17 then Act.seq (fun _ => [.ctx key parked]) (postStop key (stopRecord s key parked st none)) s
  else [.ctx key (enterService { c with savedStop := none, held := false } st.va)]

/-- Whether the message of a faulted access is still on its way. -/
def faultOnWay (s : State) (id : Nat) : Bool := s.faults.any fun x => x.2.access = id

/-- Whether an access or a multicast store is held behind an access that has faulted: it never comes to its place. -/
def heldForGood (s : State) (after : List Nat) : Bool := after.any fun id => (s.accs.find id).any (·.faulted.isSome)

/-- Whether STOPPING still waits for an access: a store or atomic that is not frozen and is neither acknowledged nor faulted (R257,
R265); of a context stopped in SERVICE, for every access that can come to its place (R262). -/
def stopWaitsFor (s : State) (service : Bool) (id : Nat) (a : Access) : Bool :=
  !a.frozen && !(service && heldForGood s (a.after.map (·.id))) && (a.what.writes || (service && a.op.svc)) &&
    (a.buffered || !a.parts.all (·.done) || faultOnWay s id || (a.faulted.isNone && a.performed.isNone))

/-- Whether a pending operation of a handler is drained first (R262): of a save, which restores the context in SERVICE (R264), a JOIN and an unserved
PQPOP claim are not, since what they wait for stops with it. -/
def drainsFirst (s : State) (kind : StopKind) (p : Pending) : Bool :=
  p.op.svc && match p.src with
    | .value _ _ => true
    | .access id => (s.accs.find id).any fun a => a.faulted.isNone && !heldForGood s (a.after.map (·.id))
    | _ => decide (kind ≠ .save)

/-- Whether the STOPPING of a context can end (R257, R265). -/
def stopReady (s : State) (key : Nat) : Bool :=
  let c := s.ctx key
  match c.stop with
  | none => false
  | some st =>
    c.mode = .stopping && !c.held &&
    !(s.accs.any fun x => x.2.key = key && stopWaitsFor s st.fromService x.1 x.2) &&
    !(s.mcasts.any fun x => x.2.key = key && !x.2.landed && !x.2.frozen && !(st.fromService && heldForGood s x.2.after)) &&
    !(c.pending.any fun p => p.outlivesStop && (arrival s key p).isSome) &&
    (!st.fromService || !(c.landings.any (·.op.svc) || c.pending.any (drainsFirst s st.kind) || c.mops.any (·.op.svc))) &&
    !(c.phase.stage = 1 && s.copies.any fun x => x.2.key = key)

/-- What a stop leaves of the operations of a context: none in flight (R265). -/
def dropOperations (key : Nat) : Act := fun s =>
  ((s.accs.filter fun x => x.2.key = key).map fun x => .acc x.1 none) ++
  ((s.copies.filter fun x => x.2.key = key).map fun x => .copy x.1 none) ++
  ((s.mcasts.filter fun x => x.2.key = key && !x.2.landed).map fun x => .mcast x.1 none) ++
  [.faults (s.faults.filter fun x => x.2.key ≠ key)] ++
  modDie (dieOf (coreOf key)) (fun d => { d with pqMoves := d.pqMoves.filter fun m => !(m.ctx = key && m.push.isNone) }) s

/-- Whether a pending operation stands over a save in SERVICE: a JOIN or an unserved PQPOP claim (R264). -/
def Pending.standsOver (p : Pending) : Bool :=
  match p.src with
  | .join _ _ => true
  | .pqClaim _ => true
  | _ => false

/-- A context whose operations are records. A handler's registers stay what they were (R262); a context stopped in SERVICE keeps its records
as they stand, and one saved there what its handler waits for (R264). -/
def Ctx.recorded (c : Ctx) (st : Stop) (l : List Unfinished) (reads : List ((BitVec 48 × Nat) × BitVec 3)) : Ctx :=
  let p := { c.phase with stage := min c.phase.stage 1 }
  let saved := st.fromService && st.kind = .save
  let c := { c with landings := [], pending := if saved then c.pending.filter Pending.standsOver else [], mops := [], steal := none,
                    holdLoads := [], holdAll := [], heldReads := if st.fromService then c.heldReads else reads, yielded := false, fetched := [],
                    wait := c.wait.filter fun w => saved || w.maintains, phase := p }
  if st.fromService then c
  else { c with vthead := 0#8, vtcount := BitVec.ofNat 9 l.length, kept := l.map fun u => ⟨{ u.op with imgs := u.imgs }, u.results, u.behind⟩ }

/-- The state in which a saved context returns (R264): that of the context before its stop. -/
def Stop.savedMode (st : Stop) : Mode := if st.fromService then .service else if st.wasHalted then .halted else .run

/-- A context stopped for a save is SAVED; a cause that the save overrides is kept with it, and with the faults that arrived (R264). -/
def Ctx.saveStopped (c : Ctx) (st : Stop) : Ctx :=
  let cause := c.savedStop.map fun x => { x with faults := st.faults }
  { c with mode := .saved, stop := none, savedAs := st.savedMode, held := false, savedStop := cause }

/-- The end of STOPPING (R257, R264 to R269): the records are written, and the context enters the state that its stop gives. -/
def completeStop (key : Nat) : Act := fun s =>
  let c := s.ctx key
  match c.stop with
  | none => []
  | some st =>
    if st.kind = .unbind then Act.seq (dropOperations key) (unbind key) s
    else
      let l := if st.fromService || isService (coreOf key) then [] else unfinished s key c st
      Act.seqs [writeRecords key 0 0 l, dropOperations key, fun _ => [.ctx key (c.recorded st l (namesOf s c.holdLoads))],
        match st.kind with
        | .save => modCtx key fun c => c.saveStopped st
        | .peer => modCtx key fun c => { c with held := true }
        | _ => enterCause key st] s

/-- STOPPING_COMPLETE (R269). -/
def stoppingComplete (key : Nat) : Act := fun s => if stopReady s key then completeStop key s else []
/-- The meaning of STOPPING_COMPLETE. -/
def execStoppingComplete (key : Nat) (s : State) : Host.Outcome State Fault Refusal := done (stoppingComplete key) s

/-! Copies from their captures (R268, R271, R336). -/

/-- The form of a copy word, and whether it is an .AT form. -/
def copyForm (i : Instr) : Option (CopyForm × Bool) :=
  match i with
  | .cpy _ => some (.cpy, false)
  | .cpy2 _ => some (.cpy2, false)
  | .cpy3 _ => some (.cpy3, false)
  | .cgath _ => some (.cgath, false)
  | .cscat _ => some (.cscat, false)
  | .cmcast _ => some (.cmcast, false)
  | .cfill _ => some (.cfill, false)
  | .credI32 _ => some (.credI32, false)
  | .credFp32 _ => some (.credFp32, false)
  | .credBf16 _ => some (.credBf16, false)
  | .cpyAt _ => some (.cpy, true)
  | .cpy2At _ => some (.cpy2, true)
  | .cpy3At _ => some (.cpy3, true)
  | .cgathAt _ => some (.cgath, true)
  | .cscatAt _ => some (.cscat, true)
  | .cmcastAt _ => some (.cmcast, true)
  | .cfillAt _ => some (.cfill, true)
  | .credI32At _ => some (.credI32, true)
  | .credFp32At _ => some (.credFp32, true)
  | .credBf16At _ => some (.credBf16, true)
  | _ => none

/-- The shape that the captures of a copy give: its descriptor, or its length. -/
def capturedShape (op : OpRec) (desc : List Word) : Shape :=
  match desc with
  | [a, b, c, d] => descShape a b c d
  | _ => { len0 := op.cc.toNat }

/-- A copy as its engine takes it again from its captures, to start on a cycle at the earliest: its index list is read again, and its bounds
and multicast targets are those of the handles as they stand (R268, log entry 29). -/
def copyAgain (s : State) (key : Nat) (op : OpRec) (desc : List Word) (prog start : Nat) : Option Copy :=
  match decodeSlot .c op.sw with
  | .error _ => none
  | .ok i =>
    match copyForm i with
    | none => none
    | some (form, at_) =>
      let c := s.ctx key
      let f := FmtC.ofWord op.sw
      let sh := capturedShape op desc
      let hd := c.handle f.dh.toNat
      let hs := c.handle f.sh.toNat
      some { key := key, cid := c.cid, op := op, engine := engineOf (coreOf key) op.slot, form := form, dk := HandleKind.ofBits op.hka,
             sk := HandleKind.ofBits op.hkb, dst := op.ca.toNat, src := op.cb.toNat, dbound := sideBound hd [1], sbound := sideBound hs [0],
             dbase := hd.base.toNat, sbase := hs.base.toNat, tgt := hd.tgt, fill := op.cb, len0 := sh.len0, n1 := sh.n1, n2 := sh.n2,
             d1 := sh.d1, s1 := sh.s1, d2 := sh.d2, s2 := sh.s2, idx := if form.isIndexed then indexList s.mem (coreOf key) sh else [],
             desc := desc, tok := f.tok.toNat, bar := if f.ben = 1#1 then some f.bar.toNat else none,
             patha := (s.quarter (partOf s.pkg (coreOf key))).patha, pathb := (s.quarter (partOf s.pkg (coreOf key))).pathb,
             launch := if at_ && decide (prog = 0) then some (max sh.t start) else none, launched := !(at_ && decide (prog = 0)),
             prog := prog, ready := start + Config.freeNat s.free }

/-! The rollback of a buffer phase (R336). -/

/-- Step 1 begins: the context issues nothing, results in flight are discarded, and its M operations and queues are emptied. Its stores and
copies go on. -/
def startRollback (key : Nat) (m : FaultMsg) : Act := fun s =>
  let c := s.ctx key
  let core := coreOf key
  let n := c.phase.rollbacks + 1
  let q := partOf s.pkg core
  Act.seqs [fun s => (s.accs.filter fun x => x.2.key = key && !x.2.what.writes || x.1 = m.access).map fun x => .acc x.1 none,
    modDie (dieOf core) fun d => { d with pqMoves := d.pqMoves.filter fun m => !(m.ctx = key && m.push.isNone) },
    modCtx key fun c =>
      let qs := c.queues.map fun x => (x.1, { x.2 with entries := [], claimed := 0, base := 0 })
      let p := { c.phase with stage := 1, rollbacks := n, log := [], done := [], overflow := false }
      { c with landings := [], pending := [], mops := [], queues := qs, wait := none, holdLoads := [], holdAll := [], phase := p },
    countError q (some c.cid) .rbk 1,
    postTenant q c.cid.toNat { code := codePhaseRollback, sev := 1#3, etype := 0#8, die := BitVec.ofNat 8 (dieOf core),
                               unit := BitVec.ofNat 8 (unitOf core), ctx := BitVec.ofNat 8 (ctxOf key), slot := BitVec.ofNat 3 m.slot,
                               bseq := m.bseq, action := 0#16, detail := BitVec.ofNat 64 n }] s

/-- Whether the stores and copies of a context in step 1 are over. -/
def rollbackDrained (s : State) (key : Nat) : Bool :=
  !(s.accs.any fun x => x.2.key = key && x.2.what.writes) && !(s.mcasts.any fun x => x.2.key = key && !x.2.landed) &&
    !(s.copies.any fun x => x.2.key = key)

/-- Step 2 begins: the copies of the held log are issued again in order, silently. -/
def reissueLog (key : Nat) : List LoggedCopy → Act
  | [] => Act.skip
  | x :: r => Act.seq (withId fun id s =>
      match copyAgain s key x.op x.desc 0 (s.now + 1) with
      | some c => [.free, .copy id (some { c with silent := true, bar := none })]
      | none => []) (reissueLog key r)

/-- Steps 3 and 4: the captured state is restored, and the first issue comes on the next cycle. -/
def Ctx.rollBack (c : Ctx) (now : Nat) : Ctx :=
  let k := c.phase.cap
  { c with s := k.s, emptyS := k.emptyS, writerS := [], emptyV := 0#64, writerV := [], lp := k.lp, frames := k.frames, order := k.order,
           mpc := k.mpc, slots := k.slots, pc := k.pc, repleft := k.repleft, fetched := [], wait := none,
           notBefore := now + 1, phase := { c.phase with stage := 0 } }

/-- The rollback of a context goes on as far as it can on this cycle. A context that is stopping or saved waits. -/
def advanceRollback (key : Nat) : Act := fun s =>
  let c := s.ctx key
  if c.mode ≠ .run then []
  else if c.phase.stage = 1 && rollbackDrained s key then
    (if c.phase.heldLog = [] then modCtx key (fun c => c.rollBack s.now) s
     else Act.seq (modCtx key fun c => { c with phase := { c.phase with stage := 2 } }) (reissueLog key c.phase.heldLog) s)
  else if c.phase.stage = 2 && !(s.copies.any fun x => x.2.key = key) then modCtx key (fun c => c.rollBack s.now) s
  else []

/-! Deferred faults. -/

/-- A deferred fault that reaches a PARKED context, on what a stop has left of it (R325): TRAPCAUSE and TRAPINFO describe it, and its record is
written. -/
def faultParked (key : Nat) (m : FaultMsg) : Act := fun s =>
  let c := (s.ctx key).describe m false
  Act.seq (fun _ => [.ctx key c]) (postStop key (stopRecord s key c { kind := .deferred, t := s.now } (some m))) s

/-- A deferred fault that reaches a SAVED context decides the state in which it is restored (R264, R325). -/
def Ctx.faultSaved (c : Ctx) (now : Nat) (m : FaultMsg) : Ctx :=
  let old := c.savedStop.getD { kind := .deferred, t := now, wasHalted := c.savedAs = .halted, fromService := c.savedAs = .service }
  { c.describe m (c.savedStop.any fun x => x.light || x.kind = .precise || x.kind = .software) with
    savedStop := some { old with kind := .deferred, faults := old.faults ++ [m] } }

/-- A deferred fault stops a context (R257), or joins the stop in progress (R264). -/
def stopOnFault (key : Nat) (m : FaultMsg) : Act := fun s =>
  let c := s.ctx key
  let add (st : Stop) : Stop := { st with faults := st.faults ++ [m] }
  let flag : Act := modCtx key fun c => { c with stop := c.stop.map add }
  match c.stop with
  | none => (match c.mode with
    | .run => Act.seq (takeStop key .deferred (faultTrap m)) flag s
    | .service => Act.seq (takeStop key .deferred (faultTrap m)) flag s
    | .halted => Act.seq (takeStop key .deferred (faultTrap m)) flag s
    | .parked => faultParked key m s
    | .saved => [.ctx key (c.faultSaved s.now m)]
    | _ => [])
  | some st =>
    match st.kind with
    | .precise => Act.seq (takeStop key .deferred (faultTrap m)) flag s
    | .software => Act.seq (takeStop key .deferred (faultTrap m)) flag s
    | .save => Act.seq flag (modCtx key fun c =>
        let sup := c.savedStop.any fun x => x.light || x.kind = .precise || x.kind = .software
        let old := c.savedStop.getD { st with wasHalted := st.wasHalted }
        { c.describe m sup with savedStop := some { old with kind := .deferred } }) s
    | .unbind => []
    | _ => flag s

/-- A consumed uncorrectable error of a context (R324, R325, R327, R336): it is counted, and gives a rollback while a phase is held, or the deferred fault.
A stop in progress goes on, and the rollback after it (log entry 16). -/
def consumeError (m : FaultMsg) : Act := fun s =>
  let c := s.ctx m.key
  let p := c.phase
  let last (stage : Nat) : Act := Act.seq (modCtx m.key fun c => { c with phase := { c.phase with stage := stage } })
    (stopOnFault m.key { m with code := codeUncorrectable, why := 0x49#8 })
  Act.seq (countError (partOf s.pkg (coreOf m.key)) (some c.cid) .unc 1) (fun s =>
    if p.stage = 1 then (match s.accs.find m.access with | some _ => [.acc m.access none] | none => [])
    else if p.stage = 2 then
      Act.seq (fun s => (s.copies.filter fun x => x.2.key = m.key && x.2.silent).map fun x => .copy x.1 none) (last 0) s
    else if c.rollsBack && (m.why = 0x48#8 || m.why = 0x23#8) then
      if p.rollbacks < 2 then startRollback m.key m s else last 0 s
    else stopOnFault m.key m s) s

/-- Whether the operation that a message names is still in flight; a message of number 0 names none. -/
def faultStands (s : State) (m : FaultMsg) : Bool :=
  m.access = 0 || (s.accs.find m.access).isSome || (s.copies.find m.access).isSome

end Sys2Proof.Machine
end

