-- ==== Sys2Proof/Machine/Resume.lean ====
section
/-!
DEFINITION. The resumption of a stopped context: the records as they stand (R267), their validation (R270), their reissue (R271), and the return to
RUN or HALTED, of a lockstep gang as a whole (R277).
-/
namespace Sys2Proof.Machine

/-! The records as they stand. -/

/-- A record of the Vitrine (R267), with the operand images that it names. -/
structure VRec where
  op : OpRec
  hold : Bool
  cls : BitVec 2
  delay : Nat
  prog : Nat
  oref : Nat
  nref : Nat
  deriving DecidableEq, Repr

/-- The operand images of a record (R268, R269). -/
def readImages (m : List Host.Cell) (key oref nref : Nat) : List Vec :=
  (List.range nref).map fun i => BitVec.ofNat 1024 (leNat (Memory.read m (unitPlace key ((oref + i) % 1024)) 128))

/-- The record in a slot of a Vitrine (R267). -/
def readVRec (m : List Host.Cell) (key slot : Nat) : VRec :=
  let y (i : Nat) : Word := vitrineWord m key (8 * slot + i)
  let oref := ((y 3).extractLsb' 22 10).toNat
  let nref := ((y 3).extractLsb' 18 4).toNat
  { op := { bseq := (y 1).extractLsb' 16 48, slot := ((y 1).extractLsb' 13 3).toNat, sw := y 0, step := (y 3).extractLsb' 32 32,
            ca := y 4, cb := y 5, cc := y 6, imgs := readImages m key oref nref, hka := (y 3).extractLsb' 10 2,
            hkb := (y 3).extractLsb' 8 2, prma := (y 3).extractLsb' 5 3, prmb := (y 3).extractLsb' 2 3 },
    hold := (y 1).getLsbD 11, cls := (y 1).extractLsb' 8 2, delay := ((y 2).extractLsb' 48 16).toNat, prog := ((y 2).extractLsb' 0 32).toNat,
    oref := oref, nref := nref }

/-- The queue of a context in logical order (R269). -/
def vitrineQueue (m : List Host.Cell) (key : Nat) (c : Ctx) : List VRec :=
  (List.range c.vtcount.toNat).map fun i => readVRec m key ((c.vthead.toNat + i) % 256)

/-- The stepped operation of a record (R271). -/
def VRec.instr (r : VRec) : Option Instr :=
  match decodeSlot (slotClass r.op.slot) r.op.sw with
  | .ok i => if r.op.slot < 7 then some (stepped r.op.step.toNat i) else none
  | .error _ => none

/-- Whether the opcode of a word lies in 0x01 to 0x1C (R270). -/
def dupOpcode (w : Word) : Bool := decide (1 ≤ (w.extractLsb' 56 8).toNat) && decide ((w.extractLsb' 56 8).toNat ≤ 0x1C)

/-- The partner of a VDUP record: a record of its BSEQ in the other V slot (R270, R271). -/
def partnerRec (all : List VRec) (r : VRec) : Option VRec :=
  all.find? fun x => x.op.bseq = r.op.bseq && x.op.slot = 3 - r.op.slot && (r.op.slot = 1 || r.op.slot = 2) && dupOpcode x.op.sw

/-! Validation (R270). -/

/-- The class that an operation's record has, by its opcode and the kind of its handle (R265, R267). -/
def classOf (i : Instr) (hka : BitVec 2) : Option (BitVec 2) :=
  match i with
  | .st _ => some classMem
  | .vst _ => some classMem
  | .vscat _ => some classMem
  | .amo _ => some (if hka = 1#2 then classFix else classMem)
  | .vamo _ => some (if hka = 1#2 then classFix else classMem)
  | .ld _ => some (if hka = 1#2 then classFix else classVar)
  | .vld _ => some (if hka = 1#2 then classFix else classVar)
  | .vgath _ => some (if hka = 1#2 then classFix else classVar)
  | .mdrainV _ => some classVar
  | .drainR _ => some classEng
  | .drainA _ => some classEng
  | .drainBoth _ => some classEng
  | .waitt _ => some classEng
  | .vdup _ => some classFix
  | .revoke _ => some classFix
  | .qcfg _ => some classFix
  | .srmovWrite _ => some classFix
  | .vtsel _ => some classFix
  | .wrrec _ => some classFix
  | .step _ => some classFix
  | i =>
    if isMOp i || (copyKind i).isSome then some classEng
    else match latency i with
      | .fixed _ => some classFix
      | .variable => some classVar
      | _ => none

/-- The latency of a FIX record's operation (R270): that of its partner's operation for VDUP, and 1 for an effect on issue + 1. -/
def fixLatency (all : List VRec) (r : VRec) (i : Instr) : Nat :=
  let l := match i with
    | .vdup _ => ((partnerRec all r).bind VRec.instr).elim Latency.none latency
    | i => latency i
  match l with
  | .fixed n => n
  | .handle n _ => n
  | _ => 1

/-- The operand images that R268 gives an operation. -/
def imagesOf (all : List VRec) (r : VRec) (i : Instr) : Nat :=
  match i with
  | .vdup _ => ((partnerRec all r).bind VRec.instr).elim 0 fun p => (sources p).length
  | .vgath _ => 1
  | .vst _ => 1
  | .vscat _ => 2
  | .vamo _ => 2
  | .vld _ => 0
  | i =>
    match copyForm i with
    | some (form, at_) => if !at_ && (form = .cpy || form = .cfill || form.isRed) then 0 else 1
    | none => if (r.op.slot = 1 || r.op.slot = 2) && r.cls = classFix then (sources i).length else 0

/-- The total against which PROG is checked (R270): rows, entries or bytes, and 0 where no progress is recorded. -/
def progTotal (c : Ctx) (r : VRec) (i : Instr) : Nat :=
  match i with
  | .mma _ => r.op.cc.toNat
  | .mmas _ => r.op.cc.toNat
  | .mdrain _ => drainTotal c c.fuse r.op
  | .mdrainV _ => drainTotal c c.fuse r.op
  | i => if (copyKind i).isSome then r.op.cc.toNat else 0

/-- The elements and their addresses that a memory record reaches, and their size (R268). -/
def recElems (i : Instr) (op : OpRec) : List (Nat × Nat) × Nat :=
  let m : MaskVal := op.cc ++ op.cb
  let es (ty : BitVec 4) := (List.range (elemCount ty)).filter fun e => m.getLsbD e
  let at_ (ty : BitVec 4) (img : Nat) (e : Nat) : Nat :=
    (op.ca + signedOffset (tyWidth ty) (elem (tyWidth ty) (op.imgs.getD img 0#1024) e)).toNat
  match i with
  | .ld f => ([(0, op.ca.toNat)], tyBytes f.ty)
  | .st f => ([(0, op.ca.toNat)], tyBytes f.ty)
  | .amo f => ([(0, op.ca.toNat)], tyBytes f.ty)
  | .vld f => ((es f.ty).map fun e => (e, (op.ca + BitVec.ofNat 64 (e * tyBytes f.ty)).toNat), tyBytes f.ty)
  | .vst f => ((es f.ty).map fun e => (e, (op.ca + BitVec.ofNat 64 (e * tyBytes f.ty)).toNat), tyBytes f.ty)
  | .vgath f => ((es f.ty).map fun e => (e, at_ f.ty 0 e), tyBytes f.ty)
  | .vscat f => ((es f.ty).map fun e => (e, at_ f.ty 1 e), tyBytes f.ty)
  | .vamo f => ((es f.ty).map fun e => (e, at_ f.ty 1 e), tyBytes f.ty)
  | _ => ([], 0)

/-- The bytes that an M operation's record reads from its address, under a fusion. -/
def recMatrixBytes (c : Ctx) (fuse : BitVec 2) (op : OpRec) (i : Instr) : Nat :=
  let u (f : FmtM) := unitShape fuse (selectedQuads c f.qsel)
  match i with
  | .mldw f => tileBytes (u f) f.ty
  | .mldwS f => tileBytes (u f) f.ty
  | .mma f => op.cc.toNat * rowBytes (u f) f.ty (pendingFormat c (selectedQuads c f.qsel) (f.tgt.extractLsb' 0 2).toNat).2
  | .mmas f => op.cc.toNat * rowBytes (u f) f.ty (pendingFormat c (selectedQuads c f.qsel) (f.tgt.extractLsb' 0 2).toNat).2
  | _ => 0

/-- The descriptor words in a copy record's operand block. -/
def recDesc (i : Instr) (op : OpRec) : List Word :=
  match copyForm i with
  | some (form, at_) =>
    if !at_ && (form = .cpy || form = .cfill || form.isRed) then []
    else (List.range 4).map fun k => (op.imgs.getD 0 0#1024).extractLsb' (64 * k) 64
  | none => []

/-- The address ranges of a record and the kinds they have (R270). -/
def recRanges (c : Ctx) (r : VRec) (i : Instr) : List (HandleKind × Int × Int) :=
  let ka := HandleKind.ofBits r.op.hka
  let kb := HandleKind.ofBits r.op.hkb
  let es := recElems i r.op
  (es.1.map fun e => (ka, (e.2 : Int), (e.2 + es.2 : Int))) ++
  (let n := recMatrixBytes c c.fuse r.op i
   if n = 0 then [] else [(ka, (r.op.ca.toNat : Int), (r.op.ca.toNat + n : Int))]) ++
  (match copyForm i with
   | none => []
   | some (form, _) =>
     let sh := capturedShape r.op (recDesc i r.op)
     let a : Int := r.op.ca.toNat
     let b : Int := r.op.cb.toNat
     if sh.len0 * sh.n1 * sh.n2 = 0 then []
     else
       let d := if form = .cgath then sideRange a sh.len0 sh.n1 1 sh.d1 0 else sideRange a sh.len0 sh.n1 sh.n2 sh.d1 sh.d2
       let t := if form = .cscat then sideRange b sh.len0 sh.n1 1 sh.d1 0 else sideRange b sh.len0 sh.n1 sh.n2 sh.s1 sh.s2
       (if form = .cscat then [] else [(ka, d.1, d.2)]) ++ (if form = .cfill || form = .cgath then [] else [(kb, t.1, t.2)]))

/-- Whether a range of a record may be reached (R270, WHY 0x66). -/
def rangeStands (c : Ctx) (x : HandleKind × Int × Int) : Bool :=
  match x.1 with
  | .spad => decide ((c.spadBase : Int) ≤ x.2.1) && decide (x.2.2 ≤ (c.spadBase + c.spadLen : Int))
  | .mcast => decide ((c.spadBase : Int) ≤ x.2.1) && decide (x.2.2 ≤ (c.spadBase + c.spadLen : Int))
  | .cluster => decide (0 ≤ x.2.1) && decide (x.2.2 ≤ (windowEnd : Int))
  | .global => true

/-- The permission bits that an opcode needs of its handle, and of a copy's source handle (R105, R136, R186, R200). -/
def permNeeds (i : Instr) : List Nat × List Nat :=
  match i with
  | .ld _ => ([0], [])
  | .vld _ => ([0], [])
  | .vgath _ => ([0], [])
  | .st _ => ([1], [])
  | .vst _ => ([1], [])
  | .vscat _ => ([1], [])
  | .amo _ => ([2], [])
  | .vamo _ => ([2], [])
  | .mldw _ => ([0], [])
  | .mldwS _ => ([0], [])
  | .mma _ => ([0], [])
  | .mmas _ => ([0], [])
  | i =>
    match copyForm i with
    | some (form, _) => (if form.isRed then [1, 2] else [1], if form = .cfill then [] else [0])
    | none => ([], [])

/-- What a record kept of its operation: of the record as it was written, or, where WRREC has moved the words that it may write into another slot
(R272), of the record that they came from (log entry 30). -/
def keptOf (c : Ctx) (op : OpRec) : Option Kept :=
  let words (x : OpRec) : OpRec :=
    { sw := x.sw, step := x.step, ca := x.ca, cb := x.cb, cc := x.cc, imgs := x.imgs }
  match c.kept.find? fun k => { k.op with ino := 0, svc := false, fuse := 0#2 } = { op with ino := 0, svc := false, fuse := 0#2 } with
  | some k => some k
  | none => c.kept.find? fun k => words k.op = words op

/-- Whether the offsets of a CRED record are multiples of its element size (R190). DESIGN CHOICE (log entry 31): the record does not capture the offsets; of one
as it was written they met the check at the issue, and otherwise its addresses are judged against the bases of the handles as they stand. -/
def redAligned (c : Ctx) (op : OpRec) (e : Nat) : Bool :=
  let f := FmtC.ofWord op.sw
  (keptOf c op).isSome || (decide ((op.ca - (c.handle f.dh.toNat).base).toNat % e = 0) &&
    decide ((op.cb - (c.handle f.sh.toNat).base).toNat % e = 0))

/-- Whether the captured values of a record meet the limits of the precise traps (R270, WHY 0x68). -/
def limitsMet (c : Ctx) (r : VRec) (i : Instr) : Bool :=
  let u (f : FmtM) := unitShape c.fuse (selectedQuads c f.qsel)
  let rows (f : FmtM) := decide (1 ≤ r.op.cc.toInt) && decide (r.op.cc.toInt ≤ ((u f).rows : Int))
  let st : Int := (r.op.cb.extractLsb' 0 16).toNat
  let drain (f : FmtM) := decide (1 ≤ r.op.cc.toInt) && decide (st + r.op.cc.toInt ≤ ((u f).rows : Int))
  let aligned := (recElems i r.op).1.all fun e => e.2 % (recElems i r.op).2 = 0
  match i with
  | .mma f => rows f
  | .mmas f => rows f
  | .mdrain f => drain f
  | .mdrainV f => drain f && decide (drainTotal c c.fuse r.op ≤ 16)
  | .amo _ => aligned
  | .vamo _ => aligned
  | i =>
    match copyForm i with
    | none => true
    | some (form, at_) =>
      (!form.isRed || redAligned c r.op form.elem) && match recDesc i r.op with
      | [a, b, d, e] => (descFault form at_ a b d e).isNone
      | _ => decide (r.op.cc.toNat < 2 ^ 32) && r.op.cc.toNat % form.elem = 0

/-- The landings of a FIX record: its cycle and its destinations (R67, R270); s0 takes a write port as any other (log entry 47). -/
def recLandings (all : List VRec) (r : VRec) (i : Instr) : List (Nat × Dest) :=
  if r.cls ≠ classFix then []
  else
    let ds := match i with
      | .vdup f => ((partnerRec all r).bind VRec.instr).elim [] fun p => [vdupDest p f.d]
      | i => dests i
    (ds.filter fun d => decide (d ≠ Dest.none)).map fun d => (r.delay, d)

/-- Whether landings break R67 together with those of earlier records (R270, WHY 0x64). -/
def landingsClash (before new : List (Nat × Dest)) : Bool :=
  let all := before ++ new
  new.any fun x =>
    let same := all.filter fun y => y.1 = x.1
    (x.2 ≠ Dest.s 0 && decide (1 < (same.filter fun y => y.2 = x.2).length)) || decide (3 < (same.filter fun y => y.2.isV).length) ||
      decide (2 < (same.filter fun y => y.2.isS).length)

/-- A context as validation judges a slot word in it: in RUN, with the M operations of earlier records issued (R270). -/
def judgedCtx (c : Ctx) (service : Bool) (mops : List MOp) : Ctx := { c with mode := if service then c.mode else .run, mops := mops }

/-- The entry of the sequencer that an M record gives under a fusion, as far as the format of a latch depends on it (R166, R170). -/
def recMOp (c : Ctx) (fuse : BitVec 2) (r : VRec) : MOp :=
  { op := r.op, quads := selectedQuads c (FmtM.ofWord r.op.sw).qsel, fuse := fuse }

/-- The WHY of the first check that a record fails (R270). -/
def recordFault (key now : Nat) (c : Ctx) (all : List VRec) (before : List (Nat × Dest)) (mops : List MOp) (r : VRec) : Option (BitVec 8) :=
  match r.instr with
  | none => some 0x61#8
  | some i =>
    let c' := judgedCtx c (isService (coreOf key)) mops
    let p := (partnerRec all r).bind VRec.instr
    let v : View := ⟨c', key, { key := key, slot := r.op.slot, step := r.op.step, sw := r.op.sw, partner := p }, now⟩
    let dup := match i with | .vdup _ => p.isSome | _ => true
    let given := match decodeSlot (slotClass r.op.slot) r.op.sw with | .ok i => slotFaults v i | .error _ => [0#8]
    if !(given = [] && slotFaults v i = [] && classOf i r.op.hka = some r.cls && dup) then some 0x61#8
    else if !(if r.cls = classFix then decide (1 ≤ r.delay) && decide (r.delay ≤ fixLatency all r i) else r.delay = 0) then some 0x62#8
    else if progTotal c r i < r.prog then some 0x63#8
    else if landingsClash before (recLandings all r i) then some 0x64#8
    else if 1024 < r.oref + r.nref ∨ r.nref < imagesOf all r i then some 0x65#8
    else if !(recRanges c' r i).all (rangeStands c) then some 0x66#8
    else if !((permNeeds i).1.all fun b => r.op.prma.getLsbD b) || !((permNeeds i).2.all fun b => r.op.prmb.getLsbD b) then some 0x67#8
    else if !limitsMet c r i then some 0x68#8
    else none

/-- The first record that fails, with its index and WHY (R270). -/
def firstFault (key now : Nat) (c : Ctx) (all : List VRec) : List (Nat × Dest) → List MOp → Nat → List VRec → Option (Nat × BitVec 8)
  | _, _, _, [] => none
  | before, mops, n, r :: rest =>
    match recordFault key now c all before mops r with
    | some w => some (n, w)
    | none =>
      let new := match r.instr with | some i => recLandings all r i | none => []
      firstFault key now c all (before ++ new) (if r.op.slot = 3 then mops ++ [recMOp c c.fuse r] else mops) (n + 1) rest

/-- The validation of a context's queue: the index and the WHY of its first failure (R270). -/
def validate (s : State) (key : Nat) : Option (Nat × BitVec 8) :=
  let c := s.ctx key
  if 256 < c.vtcount.toNat then some (0, 0x60#8)
  else
    let q := vitrineQueue s.mem key c
    firstFault key s.now c q [] [] 0 q

/-! Reissue (R271). -/

/-- The destinations of a reissued operation: those that still waited for it, of a record that is as it was written. -/
def awaitedDests (k : Option Kept) (ds : List Dest) : List Dest :=
  match k with
  | some k => if k.results.length = ds.length then k.results.map (·.1) else ds
  | none => ds

/-- A reissued access that a reissue may hold behind others. -/
structure Reissued where
  name : BitVec 48 × Nat
  id : Nat
  ordered : Bool
  deriving DecidableEq, Repr

/-- An access of a record passes to its place from a cycle on (R271). -/
def reissueAccess (key start : Nat) (op : OpRec) (what : AccessOp) (parts : List Part) (data cmp : List Byte) (scope : BitVec 3)
    (after : List Hold) (f : Nat → Act) : Act :=
  withId fun id s =>
    let c := s.ctx key
    let kind := HandleKind.ofBits op.hka
    let ps := (timeParts s (coreOf key) c.cid kind op parts).map fun p =>
      { p with due := if ownPart (coreOf key) kind p then start else p.due + start - (s.now + 1) }
    let a : Access := { key := key, cid := c.cid, op := op, kind := kind, what := what, parts := ps, data := data, cmp := cmp,
                        scope := scope, after := after, fresh := c.fresh, freshC := c.freshC, paths := pathsMet s (coreOf key) kind parts,
                        buffered := kind = .global && what.writes }
    Act.seq (fun _ => [.free, .acc id (some a)]) (f id) s

/-- A reissued operation waits for its result: its destinations are empty (R87). -/
def pendAgain (key : Nat) (op : OpRec) (ds : List Dest) (src : Source) : Act :=
  modCtx key fun c => ds.foldl (fun c d => c.markEmpty op.order d) { c with pending := c.pending ++ [⟨op, ds, src⟩] }

/-- The parts of elements at given addresses, laid end to end. -/
def partsAt (es : List (Nat × Nat)) (size : Nat) : List Part :=
  es.zipIdx.flatMap fun x => elemParts x.1.2 (x.2 * size) ⟨x.1.1, 0#64, size⟩

/-- The data of a record's write: the store data, or the elements of its first image. -/
def recData (i : Instr) (op : OpRec) : List Byte :=
  let es := recElems i op
  match i with
  | .st _ => wordBytes op.cb es.2
  | .amo _ => wordBytes op.cb es.2
  | _ => es.1.flatMap fun e => leBytes (elem (8 * es.2) (op.imgs.getD 0 0#1024) e.1) es.2

/-- The old bytes of atomics of the own scratchpad, one after another, and their new bytes in place. -/
def spadAtomicsAt (key aop w cmp : Nat) (data : List Byte) : List (Nat × Nat) → Nat → State → List Effect × List Byte
  | [], _, _ => ([], [])
  | (_, a) :: r, pos, s =>
    let n := w / 8
    let old := Memory.read s.mem (spadPlace (coreOf key) a) n
    let new := leBytes (atomicNew aop w (leNat old) (leNat ((data.drop pos).take n)) cmp) n
    let e := Effect.mem (spadPlace (coreOf key) a) new
    let t := spadAtomicsAt key aop w cmp data r (pos + n) (applyEffect e s)
    (e :: t.1, old ++ t.2)

/-- The AOP of an atomic's word. -/
def atomicOpOf (i : Instr) : BitVec 4 := match i with | .amo f => f.aop | .vamo f => f.aop | _ => 0#4
/-- Whether an operation is an ordered atomic (R201). -/
def orderedInstr (i : Instr) : Bool := match i with | .amo f => f.ord = 1#1 | .vamo f => f.ord = 1#1 | _ => false
/-- The scope that an atomic's word names, as it acts. -/
def atomicScope (c : Ctx) (i : Instr) : BitVec 3 :=
  match i with | .amo f => effectiveScope c f.scope | .vamo f => effectiveScope c f.scope | _ => 3#3
/-- Whether an atomic adds floating-point numbers. -/
def atomicFp (i : Instr) : Bool := match i with | .amo f => f.ty = 6#4 | .vamo f => f.ty = 6#4 | _ => false

/-- The results of a FIX record, as its captures give them (R268, R271); of an operation whose captures do not give them, those that were on
their way, or, where the record was altered, those of the machine as it stands (log entry 30). -/
def fixResults (s : State) (key : Nat) (all : List VRec) (r : VRec) (i : Instr) (k : Option Kept) : List Effect × List (Dest × Result) :=
  let c := s.ctx key
  let op := r.op
  let img (n : Nat) := op.imgs.getD n 0#1024
  let m : MaskVal := op.cb ++ op.ca
  let d := (dests i).getD 0 .none
  let free : Word := BitVec.ofNat 64 (Config.freeNat s.free)
  match scalarResult i op.ca op.cb op.cc, vectorResult i (img 0) (img 1) (img 2) m with
  | some w, _ => ([], [(d, .word w)])
  | none, some v => ([], [(d, v)])
  | none, none =>
    match i with
    | .vdup f => (match (partnerRec all r).bind VRec.instr with
      | some p => ([], ((vectorResult p (img 0) (img 1) (img 2) m).map fun v => (vdupDest p f.d, v)).toList)
      | none => ([], []))
    | .srmovRead _ => ([], [(d, .word op.ca)])
    | .revoke f => ([], [(.none, .act (.revoke (f.d.toNat % 16)))])
    | .qcfg f => ([], [(.none, .act (.qcfg (f.d.toNat % 8) (qcfgValue f op.ca)))])
    | .step _ => ([], [(.none, .act .countStep)])
    | .grant f => ([], [(.h (f.d.toNat % 16), .handle ((grantHandle c op.ca op.cb op.cc).getD {}))])
    | i =>
      match k with
      | some k => ([], k.results)
      | none =>
        let es := recElems i op
        match i with
        | .srmovWrite f => ([], [(.none, .act (.srWrite key (f.sf.extractLsb' 0 12).toNat op.ca))])
        | .amo _ =>
          let t := spadAtomicsAt key (atomicOpOf i).toNat (8 * es.2) (op.cc.toNat % 2 ^ (8 * es.2)) (recData i op) es.1 0 s
          (t.1, [d].zip (accessVals op t.2))
        | .vamo _ =>
          let t := spadAtomicsAt key (atomicOpOf i).toNat (8 * es.2) 0 (recData i op) es.1 0 s
          (t.1, [d].zip (accessVals op t.2))
        | .ld _ => ([], [d].zip (accessVals op (es.1.flatMap fun e => Memory.read s.mem (spadPlace (coreOf key) e.2) es.2)))
        | .vld _ => ([], [d].zip (accessVals op (es.1.flatMap fun e => Memory.read s.mem (spadPlace (coreOf key) e.2) es.2)))
        | .vgath _ => ([], [d].zip (accessVals op (es.1.flatMap fun e => Memory.read s.mem (spadPlace (coreOf key) e.2) es.2)))
        | _ => ([.free], [(d, .word free)])

/-- A FIX record: its result lands on t0 + DELAY. -/
def reissueFix (key t0 : Nat) (all : List VRec) (r : VRec) (i : Instr) (k : Option Kept) : Act := fun s =>
  let x := fixResults s key all r i k
  x.1 ++ modCtx key (fun c => { c with landings := c.landings ++ x.2.map fun y => ⟨r.op, t0 + r.delay, y.1, y.2⟩ }) (applyAll x.1 s)

/-- The holds that names give among the operations reissued so far. -/
def holdsNamed (done : List Reissued) (names : List ((BitVec 48 × Nat) × BitVec 3)) : List Hold :=
  names.flatMap fun y => (done.filter fun x => x.name = y.1).map fun x => ⟨x.id, y.2⟩

/-- The accesses that a reissued access is held behind: the ordered atomic before it under HOLD, and what it was held behind (R214, R271). -/
def holdOf (done : List Reissued) (r : VRec) (k : Option Kept) : List Hold :=
  (if r.hold then ((done.filter (·.ordered)).getLast?.map fun x => Hold.mk x.id 3#3).toList else []) ++ holdsNamed done (k.elim [] (·.behind))

/-- A VAR record: its destinations are empty and it starts on t0 + 1. -/
def reissueVar (key t0 : Nat) (done : List Reissued) (r : VRec) (i : Instr) (k : Option Kept) : Act := fun s =>
  let op := r.op
  let ds := awaitedDests k (dests i)
  let start := t0 + 1
  match i with
  | .div f => withFree (fun n => pendAgain key op ds (.value (start + 12 + n % 29) [.word (resDiv f op.ca op.cb 0#64)])) s
  | .rem f => withFree (fun n => pendAgain key op ds (.value (start + 12 + n % 29) [.word (resRem f op.ca op.cb 0#64)])) s
  | .qpop f => pendAgain key op ds (.claim (f.var.extractLsb' 0 3).toNat op.ca.toNat (op.cc.setWidth 40) op.cb start) s
  | .join _ => pendAgain key op ds (.join start (if (s.ctx key).jcnt = 0#16 then some (start + 2) else none)) s
  | .pqpop _ =>
    let c := s.ctx key
    withId (fun id => Act.seq (pendAgain key op ds (.pqClaim id)) (modDie (dieOf (coreOf key)) fun d =>
      let m : PqMove := { id := id, due := start + 12, ctx := key, cid := c.cid, push := none, det := c.det }
      { d with pqMoves := d.pqMoves ++ [m] })) s
  | .mdrainV f =>
    let first := 4 * (f.mstr.extractLsb' 0 4).toNat
    let c := s.ctx key
    let n := drainTotal c op.fuse op - r.prog
    let ds := awaitedDests k ((List.range n).map fun e => .v ((first + r.prog + e) % 64))
    let m : MOp := { recMOp c op.fuse r with rows := op.cc.toNat, start := (op.cb.extractLsb' 0 16).toNat, qb := op.ca,
                                             ordinal := op.cb.extractLsb' 16 40, prog := r.prog, ready := start }
    modCtx key (fun c => ds.foldl (fun c d => c.markEmpty op.order d) { c with mops := c.mops ++ [m] }) s
  | i =>
    let es := recElems i op
    if es.1 = [] then pendAgain key op ds (.value start [.vec 0#1024 0#1024]) s
    else reissueAccess key start op .load (partsAt es.1 es.2) (List.replicate (es.1.length * es.2) 0#8) [] 3#3 (holdOf done r k)
      (fun id => pendAgain key op ds (.access id)) s

/-- A MEM record: its write passes to its place on t0 + 1, with a new store buffer entry for a GLOBAL one (R271). -/
def reissueMem (key t0 : Nat) (done : List Reissued) (r : VRec) (i : Instr) (k : Option Kept) : Act := fun s =>
  let op := r.op
  let es := recElems i op
  let c := s.ctx key
  let ds := awaitedDests k (dests i)
  match HandleKind.ofBits op.hka with
  | .spad => ((es.1.flatMap fun e => (List.range es.2).map fun b => spadPlace (coreOf key) (e.2 + b)).zip (recData i op)).map fun x => .mem x.1 [x.2]
  | .mcast => withId (fun id s =>
      let bytes := (es.1.flatMap fun e => (List.range es.2).map fun b => e.2 + b).zip (recData i op)
      let cores := mcastCores s key (c.handle (FmtX.ofWord op.sw).h.toNat).tgt
      [.mcast id (some { due := t0 + 25, pos := c.pos.toNat, key := key, op := op, after := (holdOf done r k).map (·.id), cores := cores, bytes := bytes })]) s
  | _ =>
    if es.1 = [] then []
    else
      let what : AccessOp := match i with
        | .amo _ => .atomic (atomicOpOf i) (atomicFp i)
        | .vamo _ => .atomic (atomicOpOf i) (atomicFp i)
        | _ => .store
      reissueAccess key (t0 + 1) op what (partsAt es.1 es.2) (recData i op) (leBytes op.cc.toNat es.2) (atomicScope c i) (holdOf done r k)
        (fun id => Act.seq (Act.when (what ≠ .store) (pendAgain key op ds (.access id)))
          (Act.when (orderedInstr i) (modCtx key fun c => { c with holdAll := c.holdAll ++ [⟨id, 3#3⟩] }))) s

/-- An M operation of a record enters the sequencer again (R170, R271): MLDW.S reads its metadata word again. -/
def reissueMatrix (key t0 : Nat) (done : List Reissued) (r : VRec) (i : Instr) (k : Option Kept) : Act := fun s =>
  let c := s.ctx key
  let op := r.op
  let f := FmtM.ofWord op.sw
  let fmt := pendingFormat c (selectedQuads c f.qsel) (f.tgt.extractLsb' 0 2).toNat
  let kind := HandleKind.ofBits op.hka
  let m0 : MOp := { recMOp c op.fuse r with kind := kind, addr := op.ca.toNat, rows := op.cc.toNat, lfmt := fmt.1, lsparse := fmt.2,
                                            start := (op.cb.extractLsb' 0 16).toNat, qb := op.ca, prog := r.prog, ready := t0 + 1 }
  let n := recMatrixBytes c op.fuse op i
  let skip := match i with
    | .mma g => r.prog * rowBytes m0.unit g.ty fmt.2
    | .mmas g => r.prog * rowBytes m0.unit g.ty fmt.2
    | _ => 0
  let push (m : MOp) : Act := modCtx key fun c => { c with mops := c.mops ++ [m] }
  let read (m : MOp) : Act := fun s =>
    if n = 0 then push m s
    else if kind = .spad then push { m with data := Memory.read s.mem (spadPlace (coreOf key) m.addr) n } s
    else reissueAccess key (t0 + 1) op .matrix (lineParts (m.addr + skip) skip (n - skip)) (List.replicate n 0#8) [] 3#3 (holdOf done r k)
      (fun id => push { m with access := some id }) s
  match i with
  | .mldwS _ => reissueAccess key (t0 + 1) { op with hka := 0#2 } .metaFetch (lineParts op.cb.toNat 0 32) (List.replicate 32 0#8) [] 3#3 []
      (fun id => read { m0 with metaAccess := some id }) s
  | .mfuse g => Act.seq (push m0) (modCtx key fun c =>
      { c with landings := c.landings ++ [⟨op, t0 + 1, .none, .act (.fuse (g.tgt.extractLsb' 0 2))⟩] }) s
  | _ => read m0 s

/-- A copy of a record passes to its engine on t0 + 1, from its progress on (R193, R271). -/
def reissueCopy (key t0 : Nat) (done : List Reissued) (r : VRec) (i : Instr) (k : Option Kept) : Act :=
  withId fun id s =>
    match copyAgain s key r.op (recDesc i r.op) r.prog (t0 + 1) with
    | none => []
    | some x =>
      let ph := (s.ctx key).phase
      let d := (awaitedDests k [Dest.s x.tok]).getD 0 .none
      let x := { x with after := (holdOf done r k).map (·.id), tok := (match d with | .s n => n | _ => 0),
                        phase := if ph.held && !olderBseq r.op.bseq ph.first then some ph.number else none }
      [.free, .copy id (some x)] ++ modCtx key (fun c => c.markEmpty r.op.order d) s

/-- A DRAIN or WAITT of a record waits again from t0 + 1 on (R198, R285). -/
def reissueWait (key t0 : Nat) (r : VRec) (i : Instr) : Act := fun s =>
  let c := s.ctx key
  let open_ (sc : BitVec 3) : List Nat := if sc = 0#3 then [] else openWrites s key
  let wait (w : Wait) : Act := modCtx key fun c => { c with wait := some w }
  match i with
  | .waitt _ => wait (.until (max r.op.ca.toNat (t0 + 1)) (some r.op)) s
  | .drainR f => wait (.drain r.op (scopeIn f c) false (open_ (scopeIn f c)) t0) s
  | .drainA f => Act.seq (acquire key (scopeIn f c)) (wait (.drain r.op (scopeIn f c) false [] (t0 + 4))) s
  | .drainBoth f => wait (.drain r.op (scopeIn f c) true (open_ (scopeIn f c)) (t0 + 4)) s
  | _ => []

/-- One record of a queue is reissued; it takes an issue number of its own, in queue order (R271), and goes on under the fusion of its issue (R170). -/
def reissueOne (key t0 : Nat) (all : List VRec) (done : List Reissued) (r0 : VRec) : Act := fun s =>
  let n := (s.ctx key).ino + 1
  let k := keptOf (s.ctx key) r0.op
  let r := { r0 with op := { r0.op with ino := n, fuse := k.elim (s.ctx key).fuse (·.op.fuse) } }
  match r0.instr with
  | none => []
  | some i =>
    Act.seq (modCtx key fun c => { c with ino := n })
      (if r.cls = classFix then reissueFix key t0 all r i k
       else if r.cls = classVar then reissueVar key t0 done r i k
       else if r.cls = classMem then reissueMem key t0 done r i k
       else if r.op.slot = 3 then reissueMatrix key t0 done r i k
       else if (copyKind i).isSome then reissueCopy key t0 done r i k
       else reissueWait key t0 r i) s

/-- The records of a queue are reissued in order (R271). -/
def reissueQueue (key t0 : Nat) (all : List VRec) : List Reissued → List VRec → Act
  | done, [] => modCtx key fun c =>
      { c with vtcount := 0#9, kept := [], heldReads := [], holdLoads := c.holdLoads ++ holdsNamed done c.heldReads }
  | done, r :: rest => fun s =>
    let e := reissueOne key t0 all done r s
    let s' := applyAll e s
    let op := ((keptOf (s.ctx key) r.op).map (·.op)).getD r.op
    let new : List Reissued := if s'.nextId = s.nextId then [] else [⟨(op.bseq, op.slot), s'.nextId - 1, r.instr.any orderedInstr⟩]
    e ++ reissueQueue key t0 all (done ++ new) rest s'

/-- The records of a context that returns are reissued (R271). They may write its own scratchpad: the lines of its core's vector data cache that hold
cluster-window data leave (R213). -/
def reissueAll (key t0 : Nat) : Act := fun s =>
  let q := vitrineQueue s.mem key (s.ctx key)
  Act.seq (Act.when (q ≠ []) (modCore (coreOf key) fun x => { x with vcache := x.vcache.filter fun l => !l.window })) (reissueQueue key t0 q [] q) s

/-- The return of a context from SERVICE or PARKED with its records reissued (R271, R280). -/
def returnFrom (key t0 : Nat) : Act := fun s =>
  let n := (s.ctx key).vtcount
  Act.seq (modCtx key fun c => { leaveService c (t0 + 1) with vtcount := n }) (reissueAll key t0) s

/-! Lockstep gangs (R277). -/

/-- The members of a lockstep gang. -/
def lockMembers (s : State) (key : Nat) : List Nat := match (s.ctx key).task with | some t => gangMembers s t | none => [key]

/-- Whether a lockstep gang can resume: every member is held, and every member that trapped has resumed. -/
def gangHeld (s : State) (ms : List Nat) : Bool :=
  ms.all (fun m => (s.ctx m).mode = .stopping && (s.ctx m).held) && ms.any fun m => (s.ctx m).resumed

/-- The cycle on which a lockstep gang resumes: the latest resume cycle of its members that trapped. -/
def gangResumeAt (s : State) (ms : List Nat) : Nat :=
  ms.foldl (fun n m => if (s.ctx m).resumed then max n (s.ctx m).resumeAt else n) 0

/-- A held member returns to RUN, or to HALTED, with its records reissued from t0. -/
def returnMember (t0 key : Nat) : Act :=
  Act.seq (modCtx key fun c =>
      let w := c.wait.filter Wait.maintains
      let m : Mode := if c.stop.any (·.wasHalted) then .halted else .run
      { c with mode := m, stop := none, held := false, resumed := false, resumeAt := 0, fetched := [], wait := w,
               notBefore := max c.notBefore (t0 + 1) })
    (reissueAll key t0)

/-- A lockstep gang whose members are all held resumes as a whole, once the latest resume cycle has come. -/
def resumeGang (key : Nat) : Act := fun s =>
  let ms := lockMembers s key
  if (s.ctx key).lock && gangHeld s ms && decide (gangResumeAt s ms ≤ s.now) then
    Act.each ms (returnMember s.now) s
  else []

/-- A successful RESUME of a context (R277, R280): its set-aside state is restored; a lockstep member then waits for its gang. -/
def resumeCtx (key t0 : Nat) : Act := fun s =>
  let c := s.ctx key
  if c.lock then
    modCtx key (fun c =>
      let st : Stop := { kind := .peer, t := s.now, wasHalted := c.parkedFromHalted }
      { leaveService c t0 with vtcount := c.vtcount, mode := .stopping, stop := some st, held := true, resumed := true, resumeAt := t0 }) s
  else returnFrom key t0 s

/-- RESUME of the own form (R280): it validates the queue and leaves SERVICE with t0 = issue + 1; a failure is RESUME_BAD. -/
def opResume (_ : FmtY) : SlotOp := fun s =>
  let k := s.cur.key
  match validate s k with
  | some (i, why) => .error { code := codeResumeBad, why := why, idx := BitVec.ofNat 16 i, slots := slotBit s.cur.slot }
  | none => .ok (resumeCtx k (s.now + 1) s)
/-- The meaning of RESUME. -/
def execResume (f : FmtY) (s : State) : Host.Outcome State Fault Refusal := runOne (.resume f) (opResume f) s

/-- The status of a RESUME on a service core (R280). -/
def resumeStatus (x : Option (Nat × BitVec 8)) : Word :=
  match x with
  | none => 0#64
  | some (i, why) => 1#1 ++ 0#31 ++ BitVec.ofNat 16 i ++ why ++ 0#8

/-- RESUME of the service-core form (R280): it resumes the selected parked context with t0 = issue + 16. -/
def opResumeServiceCore (f : FmtY) : SlotOp := act fun s =>
  let k := selectedCtx s
  let r := opRec s
  let bad := if (s.ctx k).mode ≠ .parked then some (0, 0#8) else validate s k
  Act.seq (Act.when bad.isNone (resumeCtx k (s.now + 16))) (land r 2 (.s f.d.toNat) (.word (resumeStatus bad))) s
/-- The meaning of RESUME on a service core. -/
def execResumeServiceCore (f : FmtY) (s : State) : Host.Outcome State Fault Refusal := runOne (.resumeServiceCore f) (opResumeServiceCore f) s

/-- RESUME.END (R280): it ends the task of the selected parked context. -/
def opResumeEnd (f : FmtY) : SlotOp := act fun s =>
  let k := selectedCtx s
  let v := (readS (s.ctx s.cur.key) s.cur f.a).extractLsb' 0 16
  let r := opRec s
  let c := s.ctx k
  if c.mode ≠ .parked then land r 2 (.s f.d.toNat) (.word (resumeStatus (some (0, 0#8)))) s
  else
    let code := if v = 0#16 then c.trapcause.extractLsb' 0 16 else v
    Act.seq (match c.task with | some t => endTask t code | none => Act.skip) (land r 2 (.s f.d.toNat) (.word 0#64)) s
/-- The meaning of RESUME.END. -/
def execResumeEnd (f : FmtY) (s : State) : Host.Outcome State Fault Refusal := runOne (.resumeEnd f) (opResumeEnd f) s

end Sys2Proof.Machine
end

