-- ==== Sys2Proof/Machine/System.lean ====
section
/-!
DEFINITION. RDREC, WRREC, VTSEL and PERMLD (R281 to R283), and the overwriting walk's declarations and end test (R292 to R295).
-/
namespace Sys2Proof.Machine

/-! Records and selection. -/

/-- Whether the context that RDREC reads may be read: the issuer's own, or a selected one that is still PARKED (R282). -/
def selectionStands (s : State) : Bool := selectedCtx s = s.cur.key || (s.ctx (selectedCtx s)).mode = .parked

/-- RDREC (R281). -/
def opRdrec (f : FmtY) : SlotOp := act fun s =>
  let w := readS (s.ctx s.cur.key) s.cur f.a
  let v := if 18432 ≤ w.toNat || !selectionStands s then 0#64 else vitrineWord s.mem (selectedCtx s) w.toNat
  land { opRec s with ca := w } 6 (.s f.d.toNat) (.word v) s
/-- The meaning of RDREC. -/
def execRdrec (f : FmtY) (s : State) : Host.Outcome State Fault Refusal := runOne (.rdrec f) (opRdrec f) s

/-- WRREC (R281): it takes effect on issue + 1. -/
def opWrrec (f : FmtY) : SlotOp := act fun s =>
  let c := s.ctx s.cur.key
  scalarAct (.wrrec f) (.wrrec (selectedCtx s) (readS c s.cur f.a).toNat (readS c s.cur f.b)) s
/-- The meaning of WRREC. -/
def execWrrec (f : FmtY) (s : State) : Host.Outcome State Fault Refusal := runOne (.wrrec f) (opWrrec f) s

/-- The key of the context that a VTSEL value names (R282). -/
def vtselKey (v : Word) : Nat := keyOf (v.toNat / 4) (v.toNat % 4)

/-- Whether VTSEL may select a context (R282): in SERVICE only the issuer's own; on a service core a PARKED context of a tenant that its
image serves. -/
def mayVtsel (s : State) (v : Word) : Bool :=
  let k := s.cur.key
  let c := s.ctx k
  let t := s.ctx (vtselKey v)
  if v = ~~~0#64 then true
  else if isService (coreOf k) then
    decide (v.toNat < 4 * computeCores) && t.mode = .parked && (c.cid = 0xFF#8 || t.cid = c.cid)
  else v.toNat = 4 * coreOf k + ctxOf k

/-- VTSEL (R282): it takes effect on issue + 1. -/
def opVtsel (f : FmtY) : SlotOp := fun s =>
  let v := readS (s.ctx s.cur.key) s.cur f.a
  if !mayVtsel s v then .error { code := codeVtselDenied, slots := slotBit s.cur.slot }
  else
    let t := if v = ~~~0#64 ∨ vtselKey v = s.cur.key then none else some (vtselKey v)
    .ok (scalarAct (.vtsel f) (.vtsel t) s)
/-- The meaning of VTSEL. -/
def execVtsel (f : FmtY) (s : State) : Host.Outcome State Fault Refusal := runOne (.vtsel f) (opVtsel f) s

/-! Permission-table entries. -/

/-- An entry from its four words (R242); `clean` says that its reserved bits are 0. -/
def entryOfWords (e0 e1 e2 e3 : Word) : PermEntry × Bool :=
  let k := HandleKind.ofBits (e0.extractLsb' 61 2)
  ({ v := e0.getLsbD 63, kind := k, perm := e0.extractLsb' 58 3, base := e0.extractLsb' 0 52, bound := e1.extractLsb' 0 53,
     tgt := e3.extractLsb' 0 32 ++ e2 },
   e0.extractLsb' 52 6 = 0#6 && e1.extractLsb' 53 11 = 0#11 && e3.extractLsb' 32 32 = 0#32 && (k = .mcast || (e2 = 0#64 && e3 = 0#64)))

/-- Whether a range lies within a task's program-area range (R229, R243). -/
def inTaskRange (spadBase spadLen base bound : Nat) : Bool := decide (spadBase ≤ base) && decide (base + bound ≤ spadBase + spadLen)

/-- The conditions of R243 on an entry of a context whose task has a program-area range and a gang of n members. -/
def entryStands (e : PermEntry) (spadBase spadLen n : Nat) : Bool :=
  let b := e.base.toNat
  let l := e.bound.toNat
  decide (1 ≤ l) && decide (l ≤ 2 ^ 52) &&
  match e.kind with
  | .global => decide (b + l ≤ 2 ^ 52) && (decide (b + l ≤ 0xF * 2 ^ 48) || decide (0xF * 2 ^ 48 ≤ b))
  | .spad => inTaskRange spadBase spadLen b l
  | .cluster => decide (b + l ≤ windowEnd)
  | .mcast => inTaskRange spadBase spadLen b l && decide (e.tgt.toNat < 2 ^ n) && e.perm = 2#3

/-- The status of a PERMLD and the entry it writes (R283). -/
def permldResult (s : State) (t : Nat) (e off : Word) : Word × Option PermEntry :=
  let c := s.ctx t
  if 255 < e.toNat ∨ off.toNat % 32 ≠ 0 ∨ !inTaskRange c.spadBase c.spadLen off.toNat 32 then (2#64, none)
  else
    let w (i : Nat) : Word := BitVec.ofNat 64 (leNat (Memory.read s.mem (spadPlace (coreOf t) (off.toNat + 8 * i)) 8))
    let x := entryOfWords (w 0) (w 1) (w 2) (w 3)
    let n := match c.task with | some k => (gangMembers s k).length | none => 0
    if !x.1.v then (0#64, some x.1)
    else if x.2 && entryStands x.1 c.spadBase c.spadLen n then (0#64, some x.1) else (1#64, none)

/-- PERMLD (R283): the entry is written, and the status lands, on issue + 2. -/
def opPermld (f : FmtY) : SlotOp := act fun s =>
  let c := s.ctx s.cur.key
  let a := readS c s.cur f.a
  let b := readS c s.cur f.b
  let t := selectedCtx s
  let r := { opRec s with ca := a, cb := b }
  let x := permldResult s t a b
  Act.seq (match x.2 with
    | some e => land r 2 .none (.act (.permld t a.toNat e))
    | none => Act.skip) (land r 2 (.s f.d.toNat) (.word x.1)) s
/-- The meaning of PERMLD. -/
def execPermld (f : FmtY) (s : State) : Host.Outcome State Fault Refusal := runOne (.permld f) (opPermld f) s

/-! The overwriting walk. -/

/-- The cells of a region marked covered (R292, R295). -/
def coverRegion (key : Nat) (r : Nat × Nat) : Act := fun s =>
  let first := r.1 / 8
  let last := (r.2 + 7) / 8
  [.mem (coverPlace key (8 * first)) ((List.range (last - first)).map fun i =>
    (List.range 8).foldl (fun b k =>
      let j := 8 * (first + i) + k
      if r.1 ≤ j ∧ j < r.2 then setBit b k true else b) (Memory.get s.mem (coverPlace key (8 * (first + i)))))]

/-- Whether every cell of the declaration set is covered (R294). -/
def allCovered (s : State) (key : Nat) (decl : List (Nat × Nat)) : Bool :=
  decl.all fun r => (List.range (r.2 - r.1)).all fun i => covered s.mem key (r.1 + i)

/-- The walk after the end test of an iteration that `ran` (R295), and where the next issue comes from. -/
def Ctx.walkStep (c : Ctx) (ran : Bool) : Ctx × Word :=
  let n := c.walk.lp.toNat
  let fr := c.frame n
  let w := { c.walk with nrun := if ran then c.walk.nrun + 1#32 else c.walk.nrun, decl := [] }
  let v := c.lpreg n
  if v = 0#64 then ({ c with walk := w }.endWalk, fr.fin)
  else
    let w := { w with iter := (v - 1#64).setWidth 32, dph := true, ndecl := 0#3 }
    ({ c with lp := c.lp.set n (v - 1#64), walk := w }, fr.beg)

/-- The end test of an overwriting frame (R295): the cells of an iteration that ran are marked. -/
def walkEndTest (key : Nat) (ran : Bool) : Act := fun s =>
  let c := s.ctx key
  let t := c.walkStep ran
  Act.seqs [Act.when ran (Act.each c.walk.decl (coverRegion key)), fun _ => [.ctx key t.1], goTo t.2] s

/-- The trap of a WDECL (R294). -/
def declTrap (i : Issue) (why : BitVec 8) : Trap := { code := codeDeclAlign, why := why, slots := slotBit i.slot }

/-- WDECL (R293, R294). -/
def opWdecl (f : FmtY) : SlotOp := fun s =>
  let c := s.ctx s.cur.key
  let cs := cellSize c
  let o := (readS c s.cur f.a).toNat
  let n := (readS c s.cur f.b).toNat
  if !c.walk.act || !c.walk.dph || c.mode = .service then .error (declTrap s.cur 0x73#8)
  else if c.walk.ndecl = 4#3 then .error (declTrap s.cur 0x74#8)
  else if o % cs ≠ 0 then .error (declTrap s.cur 0x70#8)
  else if n = 0 ∨ n % cs ≠ 0 then .error (declTrap s.cur 0x71#8)
  else if c.walk.ncell.toNat * cs < o + n then .error (declTrap s.cur 0x72#8)
  else
    let last := f.sf.getLsbD 0
    let decl := c.walk.decl ++ [(o / cs, (o + n) / cs)]
    .ok (Act.seq (modCtx s.cur.key fun c =>
        { c with walk := { c.walk with ndecl := c.walk.ndecl + 1#3, decl := decl, dph := !last } })
      (Act.when (last && allCovered s s.cur.key decl) (walkEndTest s.cur.key false)) s)
/-- The meaning of WDECL. -/
def execWdecl (f : FmtY) (s : State) : Host.Outcome State Fault Refusal := runOne (.wdecl f) (opWdecl f) s

end Sys2Proof.Machine
end

