-- ==== Sys2Proof/Machine/Path.lean ====
section
/-!
DEFINITION. Paths to host memory and to other packages (R200, R249, R356, R362, R364), and the accesses of other packages to this one.
-/
namespace Sys2Proof.Machine

/-- PATH_ACCESS (R249): a carried access is answered by its far side: its parts perform there, or it returns an error, or, from the host, is
never answered; which of these is free (log entry 2), and is settled before a write performs (R256). -/
def pathAccess (id : Nat) : Act := fun s =>
  match routedPart s id .path with
  | none => []
  | some (a, p) =>
    Act.seq (fun _ => [.free]) (fun s' =>
      if !a.checked then checkAccess id a s.free s'
      else match (if a.what.writes then none else pathFault s (accessQuarter s a) a p) with
        | some w => lateFault id a p (w, 0xFF#8) s'
        | none => performFar id a p (Config.freeOrder s.free 1 % 2 = 0) s') s
/-- The meaning of PATH_ACCESS. -/
def execPathAccess (id : Nat) (s : State) : Host.Outcome State Fault Refusal := done (pathAccess id) s

/-- PATH_RESPONSE_TIMEOUT (R249): a host access without a completion for 2^30 cycles faults. -/
def pathTimeout (id : Nat) : Act := fun s =>
  match s.accs.find id with
  | none => []
  | some a =>
    match a.sent with
    | some t =>
      if s.now < t + 2 ^ 30 then []
      else faultAccess id { a with sent := none } ((a.parts.filter fun p => !p.done && a.silent p && routeOf a p = .path).map fun p =>
        (p, (codeNotPresent, 0x3B#8), 0xFF#8)) false s
    | none => []
/-- The meaning of PATH_RESPONSE_TIMEOUT. -/
def execPathResponseTimeout (id : Nat) (s : State) : Host.Outcome State Fault Refusal := done (pathTimeout id) s

/-! Accesses from another package. -/

/-- Whether a package accepts an access from another: one of its own path entries to a package names it, with the containment identifier of
the access (R249). -/
def farAccepted (s : State) (a : FarAccess) : Bool :=
  (List.range 4).any fun q =>
    (s.quarter q).patha.any fun x =>
      x.2.getLsbD 63 && x.2.getLsbD 62 && x.2.extractLsb' 0 22 = a.src && ((s.quarter q).pathb.get 0#64 x.1).extractLsb' 56 8 = a.rcid

/-- The partition whose tenant slots hold a containment identifier (R249). -/
def partOfCid (s : State) (cid : BitVec 8) : Option Nat :=
  (List.range 4).find? fun q => lowest s.pkg q = q && decide (cid ∈ boundCids (s.quarter q))

/-- Bytes split where they cross a 128-byte line. -/
def pieces : Nat → Nat → List Byte → List (Nat × List Byte)
  | 0, _, _ => []
  | n + 1, va, bs =>
    let k := 128 - va % 128
    if bs = [] then [] else (va, bs.take k) :: pieces n (va + k) (bs.drop k)

/-- The bytes that an access from another package reaches. -/
def farLength : FarOp → Nat
  | .read n => n
  | .write d => d.length
  | .atomic _ n _ _ => n

/-- The spots, before redirection, of the pieces of bytes of a containment identifier, or the first fault (R247 to R253). -/
def pieceSpots (s : State) (part : Nat) (cid : BitVec 8) : List (Nat × List Byte) → Except (Why × BitVec 8) (List (Spot × Nat × List Byte))
  | [] => .ok []
  | x :: r => match locateRaw s part cid x.1 useData cid with
    | .error w => .error w
    | .ok sp => (pieceSpots s part cid r).map fun l => (sp, x) :: l

/-- Whether a shoot-down is in progress at the home of a piece (R252). -/
def piecesShot (s : State) (part : Nat) (l : List (Nat × List Byte)) : Bool :=
  l.any fun x => match rangeOf (s.quarter part) x.1 with
    | some r => (s.die (homeOf r x.1)).shoot.isSome
    | none => false

/-- A write of pieces at their spots, each where its frame's data then is (R309). -/
def writePlaced (cid : BitVec 8) (l : List (Spot × Nat × List Byte)) : Act :=
  Act.each l fun x s => homeWrite cid x.2.1 (x.1.current s) x.2.2 s

/-- What an access from another package does at its homes: what it reads, and the bytes it writes with its answer. -/
def farAct (op : FarOp) (va : Nat) (old : List Byte) : Option (List Byte × List Byte) :=
  match op with
  | .read _ => some ([], old)
  | .write d => some (d, [])
  | .atomic aop n x cmp =>
    if va % n ≠ 0 then none
    else some (leBytes (atomicNew aop.toNat (8 * n) (leNat old) (x.toNat % 2 ^ (8 * n)) (cmp.toNat % 2 ^ (8 * n))) n, old)

/-- What an access from another package reads before it writes: a plain write reads nothing; a poisoned word is consumed (R326). -/
def farReads (s : State) (part : Nat) (cid : BitVec 8) (va : Nat) (op : FarOp) : Option (List Byte) :=
  match op with
  | .write _ => some []
  | op => match deviceRead s part cid va (farLength op) with
    | .ok l => some l
    | .error _ => none

/-- The partition, the containment identifier and the address that an accepted access from outside has here: of another package as the access gives them
(R249); of a host, reads and writes through the HDM decoder of a function whose port is up as CXL, in the shared class of the partition of the function's
tenant (R363, log entry 97). -/
def farTarget (s : State) (a : FarAccess) : Option (Nat × BitVec 8 × Nat) :=
  match a.hdm with
  | none => if farAccepted s a then (partOfCid s a.rcid).map fun part => (part, effectiveCid a.rcid a.va.toNat, a.va.toNat) else none
  | some f =>
    let v := s.vf f
    let plain : Bool := match a.op with | .atomic _ _ _ _ => false | _ => true
    if v.map.getLsbD 8 && decide ((if v.map.getLsbD 9 then 1 else 0) ∈ s.pkg.hostUp) && !s.pkg.pcieOnly && plain then
      (partOfCid s (v.map.extractLsb' 0 8)).map fun part => (part, 0#8, 0xF * 2 ^ 48 + a.va.toNat % 2 ^ 48)
    else none

/-- FAR_ACCESS_ARRIVAL (R249, R363): an accepted access is homed, translated and checked here, and performs; any other is refused. A home that
holds it takes it on a later cycle (R252, R312). -/
def farArrival (a : FarAccess) : Act := fun s =>
  let refuse : Act := Act.seq (releaseDevice (.far a)) fun _ => [.answer a none]
  match farTarget s a with
  | none => refuse s
  | some (part, cid, va) =>
    let again : Act := fun s => [.inputs (s.inputs ++ [(s.now + 1, .farAccessArrival a)])]
    if inPathWindow va || inControlWindow va || heldOut s (.far a) then refuse s
    else if piecesShot s part (pieces (farLength a.op + 1) va (List.replicate (farLength a.op) 0#8)) then again s
    else match (farReads s part cid va a.op).bind (farAct a.op va) with
      | none => refuse s
      | some (new, answer) =>
        match pieceSpots s part cid (pieces (new.length + 1) va new) with
        | .error _ => refuse s
        | .ok l =>
          let spots := l.map fun x => x.1.current s
          if deviceWaits s (.far a) spots then Act.seq (holdDevice (.far a) spots) again s
          else Act.seqs [releaseDevice (.far a), writePlaced cid l, fun _ => [.answer a (some answer)]] s
/-- The meaning of FAR_ACCESS_ARRIVAL. -/
def execFarAccessArrival (a : FarAccess) (s : State) : Host.Outcome State Fault Refusal := done (farArrival a) s

end Sys2Proof.Machine
end

