-- ==== Sys2Proof/Machine/Engines.lean ====
section
/-!
DEFINITION. The copy engines at work (R189 to R193, R323 to R326, R334): the launch of an .AT copy, the beats of a copy, and its completion.
-/
namespace Sys2Proof.Machine

/-- AT_COPY_LAUNCH (R191): the copy may read from the launch cycle on. -/
def launchCopy (id : Nat) : Act := fun s =>
  match s.copies.find id with
  | none => []
  | some c =>
    match c.launch with
    | some t => if !c.launched && decide (t ≤ s.now) then [.copy id (some { c with launched := true, ready := s.now })] else []
    | none => []
/-- The meaning of AT_COPY_LAUNCH. -/
def execAtCopyLaunch (id : Nat) (s : State) : Host.Outcome State Fault Refusal := done (launchCopy id) s

/-- A beat of a copy: its place in the byte map, its length, and its destination and source addresses (R189, R323). -/
structure Beat where
  row : Nat
  pos : Nat
  len : Nat
  dst : Int
  src : Int
  deriving DecidableEq, Repr

/-- The beat at a position of the byte map: bytes of one row that lie in one 128-byte line on each side, and one element of a reduction
(R190, R323). -/
def Copy.beatAt (c : Copy) (at_ : Nat) : Beat :=
  let k := at_ / c.len0
  let b := at_ % c.len0
  let d := (c.row k).1 + b
  let t := (c.row k).2 + b
  let line (x : Int) : Nat := 128 - (x % 128).toNat
  let n := min (c.len0 - b) (min (line d) (if c.form = .cfill then 128 else line t))
  { row := k, pos := b, len := if c.form.isRed then c.form.elem else n, dst := d, src := t }

/-- The pieces of n bytes from an address on that lie in one 128-byte line each: more than one of an element of a reduction only, whose address need not
be a multiple of its size (R190). -/
def linePieces (va n : Nat) : List (Nat × Nat) :=
  let k := min n (128 - va % 128)
  if k = n then [(va, n)] else [(va, k), (va + k, n - k)]

/-- The beat that a copy makes next. -/
def Copy.beat (c : Copy) : Beat := c.beatAt (c.prog + c.skip)

/-- Whether the row of a position fails the check of a copy's indexed side (R189). -/
def Copy.rowFailsAt (c : Copy) (at_ : Nat) : Bool :=
  let k := at_ / c.len0
  match c.form with
  | .cgath => rowOutside c.sk c.sbase c.sbound (c.row k).2 c.len0
  | .cscat => rowOutside c.dk c.dbase c.dbound (c.row k).1 c.len0
  | _ => false

/-- Whether the row that a copy reaches fails its check. -/
def Copy.rowFails (c : Copy) : Bool := c.rowFailsAt (c.prog + c.skip)

/-- The positions of the beats that a copy may make next, up to `n` beats on from a position: those not yet moved, before the first row that
fails its check, and the first alone of a reduction (R189, R190, R192). -/
def Copy.openBeats (c : Copy) (n at_ : Nat) : List Nat :=
  match n with
  | 0 => []
  | k + 1 =>
    if c.total ≤ at_ then []
    else match c.ahead.find? fun x => x.1 = at_ with
      | some x => c.openBeats k (at_ + x.2)
      | none => if c.rowFailsAt at_ then [] else at_ :: (if c.form.isRed then [] else c.openBeats k (at_ + (c.beatAt at_).len))

/-- The progress takes up the beats that were moved ahead of it (R193). -/
def Copy.absorb (c : Copy) : Nat → Copy
  | 0 => c
  | k + 1 => match c.ahead.find? fun x => x.1 = c.prog with
    | some x => Copy.absorb { c with prog := c.prog + x.2, ahead := c.ahead.erase x } k
    | none => c

/-- A copy after its beat is written, with the beat that a free choice names to be made next: no order holds between the bytes of a copy (R192). -/
def Copy.wrote (c : Copy) (choice : Nat) : Copy :=
  let at_ := c.prog + c.skip
  let d := Copy.absorb { c with ahead := c.ahead ++ [(at_, c.beat.len)], buf := [], skip := 0, heldSince := none, heldOn := [] } (c.ahead.length + 1)
  let l := d.openBeats 16 d.prog
  { d with skip := l.getD (choice % l.length) d.prog - d.prog }

/-- The place of a piece of a side: a spot of a home, before redirection, or a place of memory with none. -/
inductive Side where
  | home (sp : Spot)
  | place (a : Nat)
  deriving DecidableEq, Repr

/-- The quarter of a copy's partition, with the path entries that the copy met at its issue (R249). -/
def copyQuarter (s : State) (c : Copy) : Quarter := { s.quarter (partOf s.pkg (coreOf c.key)) with patha := c.patha, pathb := c.pathb }

/-- The fault of a side of a beat: the address of the piece that meets it, its code and sub-cause, and the die of the home. -/
abbrev SideFault := Nat × Why × BitVec 8

/-- The place of a piece of a side, or its fault (R247 to R253). -/
def sidePlace (s : State) (c : Copy) (kind : HandleKind) (x : Nat × Nat) : Except SideFault Side :=
  let va := x.1
  let core := coreOf c.key
  let part := partOf s.pkg core
  let q := copyQuarter s c
  match kind with
  | .global =>
    match coreFault s q core c.cid c.op x va x.2 with
    | some w => .error (va, w, 0xFF#8)
    | none =>
      if inPathWindow va then
        (match pathDown s q va with
         | some w => .error (va, w, 0xFF#8)
         | none => .ok (.place (pathPlace q va)))
      else
        let cid := effectiveCid c.cid va
        match locateRaw s part cid va useData cid with
        | .error w => .error (va, w)
        | .ok sp => .ok (.home sp)
  | .cluster => .ok (.place (windowPlace core va))
  | _ => .ok (.place (spadPlace core va))

/-- The places of the pieces of a side of a beat; the first fault is the beat's. -/
def sidePlaces (s : State) (c : Copy) (kind : HandleKind) : List (Nat × Nat) → Except SideFault (List ((Nat × Nat) × Side))
  | [] => .ok []
  | x :: r => match sidePlace s c kind x with
    | .error w => .error w
    | .ok p => (sidePlaces s c kind r).map fun l => (x, p) :: l

/-- The address of a place in memory, where its frame's data now is (R309). -/
def Side.addr (s : State) : Side → Nat
  | .home sp => hbmPlace sp.die (sp.current s).loc
  | .place a => a

/-- The bytes of a side of a beat. -/
def sideBytes (s : State) (l : List ((Nat × Nat) × Side)) : List Byte := l.flatMap fun x => Memory.read s.mem (x.2.addr s) x.1.2

/-- The places in memory of the bytes of a side of a beat. -/
def sideAddrs (s : State) (l : List ((Nat × Nat) × Side)) : List Nat := l.flatMap fun x => (List.range x.1.2).map fun i => x.2.addr s + i

/-- The bytes of the source side of a beat: in the own scratchpad as they stood before what later accesses of the core wrote (R213). -/
def sourceBytes (s : State) (c : Copy) (l : List ((Nat × Nat) × Side)) : List Byte :=
  (sideAddrs s l).map fun a => ((c.old.find? fun o => o.1 = a).map (·.2)).getD (Memory.get s.mem a)

/-- The bytes of a source side that slices of their homes serve, each piece by one (R252). -/
def sliceBytes (s : State) (c : Copy) (l : List (Nat × Nat)) (use : Bool) : Option (List Byte) :=
  if c.sk = .global && use then
    l.foldl (fun a x => a.bind fun bs =>
      (sliceLine s (partOf s.pkg (coreOf c.key)) (effectiveCid c.cid x.1) x.1 true).map fun y => bs ++ (y.data.drop (x.1 % 128)).take x.2) (some [])
  else none

/-- The address of the first poisoned byte of a side (R326). -/
def sidePoisoned (s : State) (l : List ((Nat × Nat) × Side)) : Option Nat :=
  l.findSome? fun x => match x.2 with
    | .home sp => (firstPoisoned s (sp.current s) x.1.2).map fun i => x.1.1 + i
    | .place _ => none

/-- Whether a home holds a side for a shoot-down (R252). -/
def sideHeld (s : State) (c : Copy) (kind : HandleKind) (l : List (Nat × Nat)) : Bool :=
  kind = .global && l.any fun x => !inPathWindow x.1 && !inControlWindow x.1 &&
    match rangeOf (s.quarter (partOf s.pkg (coreOf c.key))) x.1 with
    | some r => (s.die (homeOf r x.1)).shoot.isSome
    | none => false

/-- What a home gives the caches beside it when a side is read there (R252). -/
def sideFills (c : Copy) (l : List ((Nat × Nat) × Side)) : Act := fun s =>
  Act.each l (fun x => match x.2 with
    | .home sp => Act.seq (fillSlice (effectiveCid c.cid x.1.1) x.1.1 (sp.current s)) (fillTlb s (partOf s.pkg (coreOf c.key)) (effectiveCid c.cid x.1.1) x.1.1)
    | .place _ => Act.skip) s

/-- A write of a beat: to its places, or to every target of a multicast (R189, R309). The GLOBAL lines of the cluster's cores have then missed a
write of their cluster (R215); what an element of a reduction has read of the cycle's multicast landings does not stand over it (R219). -/
def writeSide (c : Copy) (va : Nat) (l : List ((Nat × Nat) × Side)) (bytes : List Byte) : Act := fun s =>
  match c.dk with
  | .mcast => Act.each (mcastCores s c.key c.tgt) (fun x => storeBytes (spadPlace x va) bytes) s
  | _ => Act.each l (fun x s =>
      let cid := effectiveCid c.cid x.1.1
      let mine := (bytes.drop (x.1.1 - va)).take x.1.2
      match x.2 with
      | .home sp => Act.seq (homeWrite cid x.1.1 (sp.current s) mine) (markMissed (clusterOf (coreOf c.key)) none cid x.1.1 x.1.2) s
      | .place a => Act.seqs [storeBytes a mine, Act.when c.form.isRed (keepPlaces ((List.range x.1.2).map fun i => a + i)), Act.when (c.dk = .global) (markMissed (clusterOf (coreOf c.key)) none cid x.1.1 x.1.2)] s) s

/-- The places at homes of a side of a beat. -/
def sideSpots (s : State) (l : List ((Nat × Nat) × Side)) : List Spot :=
  l.filterMap fun x => match x.2 with | .home sp => some (sp.current s) | .place _ => none

/-- Whether the write of a beat waits for reserve frames, or behind a write that does (R312). -/
def sideReserve (s : State) (id : Nat) (c : Copy) (l : List ((Nat × Nat) × Side)) : Bool :=
  mustWait s (c.heldSince.map fun t => (t, id)) (sideSpots s l)

/-- The pieces of the destination of a beat, and of its source. -/
def Beat.dstPieces (b : Beat) : List (Nat × Nat) := linePieces b.dst.toNat b.len
def Beat.srcPieces (b : Beat) : List (Nat × Nat) := linePieces b.src.toNat b.len

/-- Whether a beat that was held finds no reserve frames yet (R312). -/
def stillHeld (s : State) (id : Nat) (c : Copy) (b : Beat) : Bool :=
  c.heldSince.isSome && match sidePlaces s c c.dk b.dstPieces with
  | .ok l => sideReserve s id c l
  | .error _ => false

/-- Whether a read of a copy waits for what its context issued before it to the same bytes through the same kind of handle: reads and atomics
that are not performed, and through a CLUSTER handle multicast stores that have not landed (R211, R213, R215). -/
def readWaits (s : State) (c : Copy) (b : Beat) : Bool :=
  ((c.sk = .global || c.sk = .cluster) && s.accs.any fun x =>
    x.2.key = c.key && x.2.kind = c.sk && x.2.what.reads && decide (x.2.op.ino < c.op.ino) &&
    x.2.parts.any fun p => !p.done && decide (p.va < b.src.toNat + b.len) && decide (b.src.toNat < p.va + p.len)) ||
  (c.sk = .cluster && s.mcasts.any fun x =>
    x.2.key = c.key && decide (x.2.op.ino < c.op.ino) && x.2.reaches (coreOf c.key) ⟨0, 0, b.src.toNat, b.len, 0, false⟩)

/-- The bytes of a source with those of the stores that the context issued before the copy and that are not yet performed (R107, R213). -/
def withForwarded (s : State) (c : Copy) (b : Beat) (bytes : List Byte) : List Byte :=
  bytes.zipIdx.map fun x => (forwardFrom s c.key c.sk (fun y => decide (y.2.op.ino < c.op.ino)) (b.src.toNat + x.2)).getD x.1

/-- The bytes that a beat writes: those it read, the fill, or the sums of a reduction (R189, R190). -/
def Copy.written (c : Copy) (b : Beat) (read old : List Byte) : List Byte :=
  match c.form with
  | .cfill => (List.range b.len).map fun i => BitVec.ofNat 8 (c.fill.toNat / 2 ^ (8 * ((b.pos + i) % 8)))
  | .credI32 => leBytes (leNat old + leNat read) 4
  | .credFp32 => leBytes (fp32AddRne (leNat old) (leNat read)) 4
  | .credBf16 => leBytes (fpAdd bf16 0 (leNat old) (leNat read)) 2
  | _ => read

/-- The message of a fault of a copy (R193). -/
def copyFaultMsg (id : Nat) (c : Copy) (va : Int) (w : Why × BitVec 8) : FaultMsg :=
  { key := c.key, bseq := c.op.bseq, slot := c.op.slot, code := w.1.1, why := w.1.2, va := BitVec.ofInt 52 va, elem := 0#6, home := w.2,
    access := id }

/-- A copy meets a fault: its message is on its way for a free time, or for `late` cycles (R193, R249). -/
def faultCopy (id : Nat) (c : Copy) (va : Int) (w : Why × BitVec 8) (late : Nat) : Act := fun s =>
  let m := copyFaultMsg id c va w
  Act.seq (fun _ => [.free, .copy id (some { c with fault := some m, heldSince := none, heldOn := [] })])
    (sendFault (s.now + if w.2 = 0xFF#8 then late else Config.freeNat s.free) m) s

/-- A copy is over: it delivers, or is kept for the commit of its phase, or what its phase holds of it is discarded in a rollback (R192, R334, R336). -/
def finishCopy (id : Nat) (c : Copy) : Act := fun s =>
  let x := s.ctx c.key
  let held : Bool := c.phase.isSome && x.phase.held && c.phase = some x.phase.number
  Act.seqs [releaseHolds c.key id, fun _ => [.copy id none],
    if c.silent || (held && decide (1 ≤ x.phase.stage)) then Act.skip
    else if held then modCtx c.key fun x => { x with phase := { x.phase with done := x.phase.done ++ [c] } }
    else deliverCopy c] s

/-- A beat of a copy fails its carried check for good, after `n` mismatches that are still to be counted: the copy ends with the status CHECK,
or its phase rolls back (R324, R326, R336). -/
def checkFails (id : Nat) (c : Copy) (va : Int) (n : Nat) : Act := fun s =>
  let x := s.ctx c.key
  let m := { copyFaultMsg id c va ((codeUncorrectable, 0x48#8), 0xFF#8) with found := s.now }
  let q := partOf s.pkg (coreOf c.key)
  let rolls : Bool := x.rollsBack || decide (1 ≤ x.phase.stage)
  Act.seqs [countError q (some x.cid) .chk n, if rolls then consumeError m else countError q (some x.cid) .unc 1,
    fun s => (match s.copies.find id with
      | some _ => finishCopy id { c with status := 2 } s
      | none => [])] s

/-- Whether a copy of the same engine that was accepted earlier has yet to start (R192); an .AT copy starts on its launch cycle (R191). -/
def startsBehind (s : State) (id : Nat) (c : Copy) : Bool :=
  c.launch.isNone && c.movedBytes = 0 && c.buf = [] && s.copies.any fun x => decide (x.1 < id) && x.2.engine = c.engine && x.2.launched &&
    decide (x.2.movedBytes = 0) && x.2.buf = [] && x.2.fault.isNone

/-- The bytes that an engine has moved on a cycle (R192). -/
def Engine.movedOn (e : Engine) (t : Nat) : Nat := if e.movedAt = t then e.moved else 0

/-- A copy whose next beat may be made on this cycle: an engine moves at most 128 bytes on one (R192). -/
def dueCopy (s : State) (id : Nat) : Option Copy :=
  match s.copies.find id with
  | none => none
  | some c =>
    let x := s.ctx c.key
    let b := c.beat
    if c.launched && decide (c.ready ≤ s.now) && !heldBack s c.after && !c.frozen && c.fault.isNone &&
        (x.flows || decide (x.phase.stage = 1)) && !startsBehind s id c &&
        (decide (c.total ≤ c.prog) ||
          (if c.buf = [] then c.form = .cfill || c.rowFails || (!sideHeld s c c.sk b.srcPieces && !readWaits s c b)
           else decide ((s.engine c.engine).movedOn s.now + b.len ≤ 128) && !sideHeld s c c.dk b.dstPieces && !stillHeld s id c b))
    then some c else none

/-- The answer of the far side of a path to a side of a beat, where it is an error or none (R249): which is free. -/
def farSide (s : State) (id : Nat) (c : Copy) (kind : HandleKind) (va : Int) (outcome : Nat) : Option Act :=
  let none_ (late : Nat) := some (faultCopy id c va ((codeNotPresent, 0x3B#8), 0xFF#8) late)
  if kind = .global && inPathWindow va.toNat then
    (if outcome = 1 then none_ 0
     else if outcome = 2 && pathToHost (copyQuarter s c) va.toNat then none_ (2 ^ 30) else none)
  else none

/-- A copy has the bytes of its beat, under the check of its engine (R323); with the last of its source it holds nothing back any more (R214). -/
def tookBeat (id : Nat) (c : Copy) (bytes : List Byte) : Act := fun s =>
  let d := { c with buf := carried bytes, ready := s.now + Config.freeNat s.free }
  Act.seq (Act.when (!d.readsLeft) (releaseHolds c.key id)) (fun _ => [.free, .copy id (some d)]) s

/-- The bytes of a copy are read (R189): a fault or a failing check ends it. -/
def readBeat (id : Nat) (c : Copy) (outcome : Nat) (sliced : Bool) : Act := fun s =>
  let b := c.beat
  if c.form = .cfill then [.copy id (some { c with buf := List.replicate b.len 0#8, ready := s.now })]
  else match sliceBytes s c b.srcPieces sliced with
    | some bytes => tookBeat id c (withForwarded s c b bytes) s
    | none => match sidePlaces s c c.sk b.srcPieces with
      | .error w => faultCopy id c w.1 w.2 0 s
      | .ok l => match farSide s id c c.sk b.src outcome with
        | some f => f s
        | none =>
          match sidePoisoned s l with
          | some va => checkFails id c va 2 s
          | none => Act.seq (tookBeat id c (withForwarded s c b (sourceBytes s c l))) (sideFills c l) s

/-- The bytes of a beat are written, or held for want of a reserve frame (R189, R190, R312). -/
def writeBeat (id : Nat) (c : Copy) (outcome : Nat) : Act := fun s =>
  let b := c.beat
  match (if c.dk = .mcast then .ok [] else sidePlaces s c c.dk b.dstPieces) with
  | .error w => faultCopy id c w.1 w.2 0 s
  | .ok l => match farSide s id c c.dk b.dst outcome with
    | some f => f s
    | none =>
      match (if c.form.isRed then sidePoisoned s l else none) with
      | some va => checkFails id c va 2 s
      | none =>
      if sideReserve s id c l then
        [.copy id (some { c with heldSince := c.heldSince.orElse fun _ => some s.now, heldOn := reserveWants s (sideSpots s l) })]
      else
        let next := { c.wrote (Config.freeOrder s.free 3) with ready := s.now + Config.freeNat s.free }
        Act.seqs [writeSide c b.dst.toNat l (carried (c.written b c.buf (sideBytes s l))),
          fun s => [.free, .engine c.engine { s.engine c.engine with movedAt := s.now, moved := (s.engine c.engine).movedOn s.now + b.len },
            .copy id (some next)]] s

/-- COPY_COMPLETION (R189 to R193): the next beat of a copy, until it completes. A row outside its handle ends it. -/
def copyStep (id : Nat) : Act := fun s =>
  match dueCopy s id with
  | none => []
  | some c =>
    Act.seq (fun _ => [.free]) (fun s' =>
      let sliced := Config.freeOrder s.free 4 % 2 = 0
      let outcome := Config.freeOrder s.free 2 % 3
      if c.total ≤ c.prog then finishCopy id c s'
      else if c.buf = [] then
        (if c.rowFails then finishCopy id { c with status := 1 } s' else readBeat id c outcome sliced s')
      else writeBeat id c outcome s') s
/-- The meaning of COPY_COMPLETION. -/
def execCopyCompletion (id : Nat) (s : State) : Host.Outcome State Fault Refusal := done (copyStep id) s

end Sys2Proof.Machine
end

