-- ==== Sys2Proof/Machine/Snap.lean ====
section
/-!
DEFINITION. Generations and snapshots (R303 to R312): SNAP and STEP, triggers, the cut, the drain, and the end of a snapshot.
-/
namespace Sys2Proof.Machine

/-! SNAP, STEP and triggers. -/

/-- The status of a refused SNAP (R304). -/
def snapRefused (n : Nat) : Word := BitVec.ofNat 64 (2 ^ 63 + n * 2 ^ 32)

/-- Whether a SNAP or a trigger of this cycle was accepted in a partition (R304). -/
def acceptedNow (s : State) (q : Nat) : Bool :=
  s.blocks.any fun x => x.1 / 256 = q && x.2.state = 1#2 && x.2.snap.tick = s.now + 4096

/-- SNAP (R304). -/
def opSnap (f : FmtY) : SlotOp := act fun s =>
  let c := s.ctx s.cur.key
  let q := partOf s.pkg (coreOf s.cur.key)
  let b := s.block q c.cid.toNat
  let mode := readS c s.cur f.a
  let answer (w : Word) : Act := land { opRec s with ca := mode } 2 (.s f.d.toNat) (.word w)
  if !b.hbctl.getLsbD 0 then answer (snapRefused 2) s
  else if b.state ≠ 0#2 || acceptedNow s q then answer (snapRefused 1) s
  else Act.seq (acceptSnap q c.cid.toNat (mode.getLsbD 0)) (answer (b.gen.setWidth 64)) s
/-- The meaning of SNAP. -/
def execSnap (f : FmtY) (s : State) : Host.Outcome State Fault Refusal := runOne (.snap f) (opSnap f) s

/-- STEP (R305): it counts on issue + 1 for the gang member at position 0, and otherwise does nothing. -/
def opStep (f : FmtY) : SlotOp := act fun s =>
  if (s.ctx s.cur.key).pos = 0#7 then scalarAct (.step f) .countStep s else []
/-- The meaning of STEP. -/
def execStep (f : FmtY) (s : State) : Host.Outcome State Fault Refusal := runOne (.step f) (opStep f) s

/-- The mark of a checkpoint timer that has fired on this cycle. -/
def timerMark (q cid : Nat) : Nat := 10000 + q * 256 + cid

/-- Whether the checkpoint timer of a tenant fires on this cycle (R306). -/
def timerDue (s : State) (q cid : Nat) : Bool :=
  let t := ((s.block q cid).hbctl.extractLsb' 24 24).toNat
  decide (t ≠ 0) && decide (s.now % (t * 2 ^ 20) = 0) && !decide (timerMark q cid ∈ s.served)

/-- CHECKPOINT_TIMER_TRIGGER (R306). -/
def timerTrigger (q cid : Nat) : Act := fun s =>
  if timerDue s q cid then Act.seq (fun s => [.served (timerMark q cid :: s.served)]) (trigger q cid) s else []
/-- The meaning of CHECKPOINT_TIMER_TRIGGER. -/
def execCheckpointTimerTrigger (quarter cid : Nat) (s : State) : Host.Outcome State Fault Refusal := done (timerTrigger quarter cid) s

/-! The cut. -/

/-- Whether a frame belongs to a tenant's snapshot set (R307). -/
def cutFrame (cid : Nat) (inc : Bool) (f : FrameInfo) : Bool :=
  f.own.toNat = cid && (f.use = useData || f.use = useTable) && (!inc || f.dirty)

/-- The snapshot set at the tick, in ascending die and frame number (R307, R310). -/
def cutOf (s : State) (q cid : Nat) (inc : Bool) : List (Nat × Nat × BitVec 3) :=
  (diesOf s.pkg q).flatMap fun d => (s.die d).frames.filterMap fun x => if cutFrame cid inc x.2 then some (d, x.1, x.2.use) else none

/-- The dirty bits of a tenant's frames are cleared on a controller (R307). -/
def clearDirty (cid : Nat) (d : Die) : Die :=
  { d with frames := d.frames.map fun x => if x.2.own.toNat = cid then (x.1, { x.2 with dirty := false }) else x }

/-- Whether the tick of a tenant's snapshot falls (R307). -/
def tickDue (s : State) (q cid : Nat) : Bool := (s.block q cid).state = 1#2 && decide ((s.block q cid).snap.tick ≤ s.now)

/-- SNAP_TICK (R307): before what is applied on its cycle (R308). -/
def snapTick (q cid : Nat) : Act := fun s =>
  let b := s.block q cid
  if tickDue s q cid then
    let cut := cutOf s q cid b.snap.inc
    let ready : Sparse Nat := (diesOf s.pkg q).foldl (fun (t : Sparse Nat) d => t.set d (s.now + Config.freeOrder s.free d)) []
    Act.seqs [fun _ => [.free], Act.each (diesOf s.pkg q) fun d => modDie d (clearDirty cid),
      modBlock q cid fun b => { b with gen := b.gen + 1#16, state := 2#2, snap := { b.snap with
        todo := cut.map fun x => (x.1, x.2.1), cut := cut, ready := ready } }] s
  else []
/-- The meaning of SNAP_TICK. -/
def execSnapTick (quarter cid : Nat) (s : State) : Host.Outcome State Fault Refusal := done (snapTick quarter cid) s

/-! The end of a snapshot. -/

/-- The reserve of a tenant is given up: its frames are free for other use. -/
def releaseReserve (q cid : Nat) : Act := fun s =>
  Act.each (diesOf s.pkg q) (fun d => modDie d fun x => { x with reserve := x.reserve.erase cid }) s

/-- A snapshot is over (R303, R306, R310): a write that cleared EN takes effect, and a deferred trigger is accepted. -/
def endSnapshot (q cid : Nat) : Act := fun s =>
  let b := s.block q cid
  let b1 := { b with state := 0#2, snap := {}, defer_ := false, clearEn := false,
                     hbctl := if b.clearEn then setBit b.hbctl 0 false else b.hbctl }
  Act.seqs [modBlock q cid fun _ => b1, Act.when b.clearEn (releaseReserve q cid), Act.when b.defer_ (trigger q cid)] s

/-- A snapshot frame returns to the reserve of its controller (R310). -/
def returnFrame (cid d f : Nat) : Act :=
  modDie d fun x => { x with frames := x.frames.set f { x.frames.get {} f with use := useFree, dirty := true },
                             reserve := x.reserve.set cid (x.reserve.get [] cid ++ [f]) }

/-- A record of the memory controllers of a partition: which of them writes it is free (log entry 2). -/
def controllerRecord (q cid : Nat) (code : BitVec 16) (why : BitVec 8) (sev : BitVec 3) (action : BitVec 16) (detail : Word) : Act := fun s =>
  let ds := diesOf s.pkg q
  withFree (fun n =>
    let die := BitVec.ofNat 8 (ds.getD (n % ds.length) 0)
    postTenant q cid { code := code, why := why, sev := sev, etype := 2#8, action := action, detail := detail, die := die }) s

/-- A snapshot aborts (R312): its frames return, the set is emptied, held writes apply in place, and no header is written; then the record is written. -/
def abortSnapshot (q cid : Nat) (why : BitVec 8) : Act := fun s =>
  let b := s.block q cid
  Act.seqs [Act.each b.snap.moved fun x => returnFrame cid x.1 x.2, modBlock q cid fun b => { b with abrt := true },
    endSnapshot q cid, controllerRecord q cid codeSnapAbort why 1#3 0x0004#16 (b.snap.gen.setWidth 64)] s

/-! The drain. -/

/-- The number of index blocks of an image of n frames (R311). -/
def indexBlocks (n : Nat) : Nat := (16 * n + 4095) / 4096

/-- The place of a 4,096-byte block of a tenant's drain target (R303, R311). -/
def drainPlace (b : Block) (block : Nat) : Nat :=
  targetPlace (b.hbtgt1.extractLsb' 0 8).toNat (b.hbtgt1.extractLsb' 32 32).toNat ((b.hbtgt0.toNat + block) * 4096)

/-- A frame of the cut with its number in the image. -/
def cutAt (sn : Snap) (k : Nat) : Nat × Nat × BitVec 3 := sn.cut.getD k (0, 0, 0#3)

/-- The next frame that a drain engine reads (R310). -/
def nextRead (sn : Snap) (d : Nat) : Option Nat :=
  (List.range sn.cut.length).find? fun k => (cutAt sn k).1 = d && !(sn.images.any fun x => x.1 = k)

/-- The Write command of a drain engine that completes next (R310). -/
def nextWrite (sn : Snap) (d : Nat) : Option Nat := sn.writes.find? fun k => (cutAt sn k).1 = d

/-- Whether the connection of a drain target is not up, while a snapshot drains to it (R310, R364). -/
def drainLost (s : State) (q cid : Nat) : Bool :=
  let b := s.block q cid
  let w := (s.conn (b.hbtgt1.extractLsb' 0 8).toNat).w0
  b.state = 2#2 && !(s.pkg.ether && w.getLsbD 63 && w.extractLsb' 60 3 = 2#3 && w.extractLsb' 58 2 = 1#2)

/-- Whether a Write command of a drain is unanswered for 2^30 cycles (R312). -/
def drainSilent (s : State) (q cid : Nat) : Bool :=
  let sn := (s.block q cid).snap
  (s.block q cid).state = 2#2 && sn.sent.any fun x => (nextWrite sn x.1).isSome && decide (x.2 + 2 ^ 30 ≤ s.now)

/-- Whether a drain engine takes its next step on this cycle. -/
def drainDue (s : State) (q cid d : Nat) : Bool :=
  let b := s.block q cid
  b.state = 2#2 && !drainLost s q cid && !drainSilent s q cid && decide (b.snap.ready.get 0 d ≤ s.now) && ((nextWrite b.snap d).isSome || (nextRead b.snap d).isSome)

/-- DRAIN_FRAME_DONE (R310): a Write command completes, and a snapshot frame returns to the reserve; or the read of a frame ends: a frame read
in place leaves the set, and its image goes to the drain target. A frame with a poisoned word is read with an uncorrectable error, which its transfer to the
target never passes (R326, R324): the Write command ends with an error (R312, log entry 67). -/
def drainFrame (q cid d : Nat) : Act := fun s =>
  let b := s.block q cid
  let sn := b.snap
  if !drainDue s q cid d then []
  else
    let ready := sn.ready.set d (s.now + 1 + Config.freeNat s.free)
    Act.seq (fun _ => [.free]) (match nextWrite sn d, nextRead sn d with
      | some k, _ =>
        let f := (cutAt sn k).2.1
        Act.seq (Act.when (decide ((d, f) ∈ sn.moved)) (returnFrame cid d f)) (modBlock q cid fun b => { b with snap := { sn with
          moved := sn.moved.erase (d, f), writes := sn.writes.erase k, ready := ready } })
      | none, some k =>
        let f := (cutAt sn k).2.1
        let image := Memory.read s.mem (hbmPlace d (f * 65536)) 65536
        if spotPoisoned s ⟨d, f * 65536⟩ 65536 then
          Act.seq (countError q (some (BitVec.ofNat 8 cid)) .unc 1) (abortSnapshot q cid 0x02#8)
        else Act.seq (storeBytes (drainPlace b (1 + indexBlocks sn.cut.length + 16 * k)) image) (modBlock q cid fun b => { b with snap := { sn with
          todo := sn.todo.erase (d, f), images := sn.images ++ [(k, crc32c image)], writes := sn.writes ++ [k], ready := ready,
          sent := sn.sent.set d s.now } })
      | none, none => Act.skip) s
/-- The meaning of DRAIN_FRAME_DONE. -/
def execDrainFrameDone (quarter cid die : Nat) (s : State) : Host.Outcome State Fault Refusal := done (drainFrame quarter cid die) s

/-- An index entry of an image (R311). -/
def indexEntry (sn : Snap) (k : Nat) : List Byte :=
  let x := cutAt sn k
  leBytes (x.2.1 % 2 ^ 20 + x.1 * 2 ^ 24 + x.2.2.toNat * 2 ^ 29) 4 ++ leBytes 0 4 ++
    leBytes ((sn.images.find? fun y => y.1 = k).map (·.2.toNat) |>.getD 0) 4 ++ leBytes 0 4

/-- The index blocks of an image: its entries, and zeros to the end of the last block. -/
def indexBytes (sn : Snap) : List Byte :=
  let n := sn.cut.length
  (List.range n).flatMap (indexEntry sn) ++ List.replicate (4096 * indexBlocks n - 16 * n) 0#8

/-- The header block of an image (R311). -/
def headerBytes (p : Package) (q cid : Nat) (sn : Snap) : List Byte :=
  leBytes 0x42484B53 4 ++ leBytes sn.gen.toNat 2 ++ leBytes cid 1 ++ leBytes (partNumber p q) 1 ++ leBytes sn.tick 8 ++
    leBytes sn.cut.length 4 ++ leBytes (if sn.inc then 1 else 0) 4 ++ leBytes p.pkgid.toNat 4 ++ leBytes (crc32c (indexBytes sn)).toNat 4 ++
    List.replicate 4064 0#8

/-- Whether every frame of a snapshot has been read and written (R310). -/
def drained (b : Block) : Bool := b.state = 2#2 && b.snap.images.length = b.snap.cut.length && b.snap.writes = []

/-- DRAIN_HEADER_DONE (R310): the index and then the header are written, and the snapshot ends with SNAP_DONE. -/
def drainHeader (q cid : Nat) : Act := fun s =>
  let b := s.block q cid
  if !drained b then []
  else
    Act.seqs [storeBytes (drainPlace b 1) (indexBytes b.snap), storeBytes (drainPlace b 0) (headerBytes s.pkg q cid b.snap),
      endSnapshot q cid,
      controllerRecord q cid codeSnapDone 0#8 0#3 0#16 (BitVec.ofNat 64 (b.snap.cut.length * 2 ^ 32 + b.snap.gen.toNat))] s
/-- The meaning of DRAIN_HEADER_DONE. -/
def execDrainHeaderDone (quarter cid : Nat) (s : State) : Host.Outcome State Fault Refusal := done (drainHeader quarter cid) s

/-! Held writes and errors. -/

/-- Whether a spot waits in the set of a tenant in a partition. -/
def waitsIn (s : State) (q cid : Nat) (sp : Spot) : Bool :=
  partOfDie s sp.die = q && inSnapshot s sp.die sp.loc = some (BitVec.ofNat 8 cid)

/-- The parts of a held write that wait for frames of a tenant's set, with their spots (R312). -/
def heldParts (s : State) (q cid : Nat) (a : Access) : List (Part × Spot) :=
  ((writeSpots s a).map fun x => (x.1, x.2.current s)).filter fun x => waitsIn s q cid x.2

/-- The spots of the beat of a held copy that wait for frames of a tenant's set (R312). -/
def heldCopySpots (s : State) (q cid : Nat) (c : Copy) : List Spot :=
  match sidePlaces s c c.dk c.beat.dstPieces with
  | .ok l => (sideSpots s l).filter (waitsIn s q cid)
  | .error _ => []

/-- Whether what a held write waits for is in a tenant's set. -/
def heldFor (s : State) (q cid : Nat) (on : List (Nat × BitVec 8)) : Bool := on.any fun x => partOfDie s x.1 = q && x.2.toNat = cid

/-- The accesses, the copies and the other writes held for frames of a tenant's set (R312). -/
def heldAccesses (s : State) (q cid : Nat) : List (Nat × Access) := s.accs.filter fun x => x.2.heldSince.isSome && heldFor s q cid x.2.heldOn
def heldCopies (s : State) (q cid : Nat) : List (Nat × Copy) := s.copies.filter fun x => x.2.heldSince.isSome && heldFor s q cid x.2.heldOn
def heldDevices (s : State) (q cid : Nat) : List Held := s.held.filter fun h => h.live s && !h.out && heldFor s q cid h.on

/-- Whether the first held write of a snapshot has been held for 400,000 cycles (R312). -/
def holdExpired (s : State) (q cid : Nat) : Bool :=
  let out (t : Nat) : Bool := decide (t + 400000 ≤ s.now)
  (s.block q cid).state = 2#2 &&
    ((heldAccesses s q cid).any (fun x => x.2.heldSince.any out) || (heldCopies s q cid).any (fun x => x.2.heldSince.any out) ||
     (heldDevices s q cid).any fun h => out h.since)

/-- COW_RESERVE, at a home (R312). -/
def reserveFault (sp : Spot) : Why × BitVec 8 := ((codeCowReserve, 0x40#8), BitVec.ofNat 8 sp.die)

/-- A held access takes COW_RESERVE where it waits; what of it does not is tried again (R312, R256). -/
def expireAccess (q cid : Nat) (x : Nat × Access) : Act := fun s =>
  Act.seq (faultAccess x.1 x.2 ((heldParts s q cid x.2).map fun y => (y.1, reserveFault y.2)) false)
    (modAcc x.1 fun a => { a with checked := false, heldSince := none, heldOn := [] }) s

/-- A held copy takes COW_RESERVE (R312). -/
def expireCopy (q cid : Nat) (x : Nat × Copy) : Act := fun s =>
  match heldCopySpots s q cid x.2 with
  | sp :: _ => faultCopy x.1 x.2 x.2.beat.dst (reserveFault sp) 0 s
  | [] => modCopy x.1 (fun c => { c with heldSince := none, heldOn := [] }) s

/-- A held write of the device or from another package is not applied: the far side refuses it, the load of its image fails, and of records those of
SEV 0 and 1 are lost (R312, R331, log entry 67). -/
def expireDevice (h : Held) : Act := fun s =>
  Act.seq (fun s => [.held (s.held.map fun x => if x = h then { x with out := true } else x)])
    (match h.who with
     | .ring q cid eq => dropMinor q cid eq
     | _ => Act.skip) s

/-- RESERVE_HOLD_EXPIRY (R312): the snapshot aborts, or with NOABORT every held write takes COW_RESERVE. -/
def holdExpiry (q cid : Nat) : Act := fun s =>
  if !holdExpired s q cid then []
  else if !(s.block q cid).hbctl.getLsbD 1 then abortSnapshot q cid 0x01#8 s
  else Act.seqs [Act.each (heldAccesses s q cid) (expireAccess q cid), Act.each (heldCopies s q cid) (expireCopy q cid),
    Act.each (heldDevices s q cid) expireDevice] s
/-- The meaning of RESERVE_HOLD_EXPIRY. -/
def execReserveHoldExpiry (quarter cid : Nat) (s : State) : Host.Outcome State Fault Refusal := done (holdExpiry quarter cid) s

/-- DRAIN_WRITE_ERROR (R312): a Write command of the drain ends with an error, or is unanswered. -/
def drainWriteError (q cid : Nat) : Act := fun s =>
  if (s.block q cid).state = 2#2 then abortSnapshot q cid 0x02#8 s else []
/-- The meaning of DRAIN_WRITE_ERROR. -/
def execDrainWriteError (quarter cid : Nat) (s : State) : Host.Outcome State Fault Refusal := done (drainWriteError quarter cid) s

/-! HBCTL (R303). -/

/-- The frames of a stack (R16, R253): 48 GiB of 64 KiB each. -/
def stackFrames : Nat := 786432

/-- The frames of a controller that may enter a reserve: USE free, and in no reserve. -/
def freeFrames (d : Die) : List Nat :=
  (List.range stackFrames).filter fun f => (d.frames.get {} f).use = useFree && !(d.reserve.any fun x => decide (f ∈ x.2))

/-- n members of a list, picked by free choices. -/
def pick (choice : Nat → Nat) : Nat → List Nat → List Nat
  | 0, _ => []
  | n + 1, l => match l[choice n % l.length]? with
    | some x => x :: pick choice n (l.erase x)
    | none => []

/-- HBSTAT.FREE (R303): the fewest free reserve frames over the controllers of a partition. -/
def reserveLeft (s : State) (q cid : Nat) : Nat :=
  match (diesOf s.pkg q).map fun d => ((s.die d).reserve.get [] cid).length with
  | [] => 0
  | n :: r => r.foldl min n

/-- A write of HBCTL (R303). Setting EN takes the reserve on every controller, or sets RSVERR; clearing it during a snapshot waits for its
end. Which free frames are taken, and whether the target's blocks have 4,096 bytes, is free (log entry 2). -/
def hbctlWrite (q cid : Nat) (v : Word) : Act := fun s =>
  let b := s.block q cid
  let rsv := (v.extractLsb' 8 16).toNat
  let w := v &&& 0xFFFFFFFFFFFFFF06#64
  let on := b.hbctl.getLsbD 0
  let set (en : Bool) : Act := modBlock q cid fun b => { b with hbctl := setBit w 0 en }
  if v.getLsbD 0 && !on then
    Act.seq (fun _ => [.free]) (fun s =>
      let n := s.free
      let ds := diesOf s.pkg q
      let fits := ds.all fun d => decide (rsv ≤ (freeFrames (s.die d)).length)
      if Config.freeOrder n 24 % 2 = 0 && fits then
        Act.seq (Act.each ds fun d => modDie d fun x =>
          { x with reserve := x.reserve.set cid (pick (fun i => Config.freeOrder (Config.freeOrder n d) i) rsv (freeFrames x)) }) (set true) s
      else Act.seq (set false) (modBlock q cid fun b => { b with rsverr := true }) s) s
  else if v.getLsbD 0 then Act.seq (set true) (modBlock q cid fun b => { b with clearEn := false }) s
  else if on && b.state ≠ 0#2 then Act.seq (set true) (modBlock q cid fun b => { b with clearEn := true }) s
  else Act.seq (set false) (releaseReserve q cid) s
/-- The meaning of HBCTL_WRITE. -/
def execHbctlWrite (quarter cid : Nat) (value : Word) (s : State) : Host.Outcome State Fault Refusal :=
  done (hbctlWrite (lowest s.pkg quarter) cid value) s

end Sys2Proof.Machine
end

