-- ==== Sys2Proof/Machine/Reset.lean ====
section
/-!
DEFINITION. The reset of the device and its causes, and the step log in the flash (R365, R366, R368, R375).
-/
namespace Sys2Proof.Machine

/-- The place of an entry of the step log (R368). -/
def logPlace (k : Nat) : Nat := flashPlace (0x100000 + 16 * (k % 65536))

/-- Word 0 of a step-log entry (R368). -/
def logWord (start : W32) (die out method step : BitVec 8) : Word := start ++ die ++ out ++ method ++ step

/-- An entry is appended to the step log (R368). -/
def appendLog (die out method step : BitVec 8) (detail : Word) : Act := fun s =>
  Act.seq (storeBytes (logPlace s.pkg.logAt) (wordBytes (logWord s.pkg.start die out method step) 8 ++ wordBytes detail 8))
    (modPkg fun p => { p with logAt := p.logAt + 1 }) s

/-- The codes of the reset causes (R365). -/
def causePowerOn : BitVec 8 := 1#8
def causePinReset : BitVec 8 := 2#8
def causeHvReset : BitVec 8 := 3#8
def causeThermalTrip : BitVec 8 := 4#8
def causeRailFault : BitVec 8 := 5#8
def causeBootHalt : BitVec 8 := 6#8

/-- The package's registers as a reset leaves them (R365, R366): what it keeps stands in the log. -/
def freshPackage (p : Package) (cause : BitVec 8) : Package := { cause := cause, logAt := p.logAt, start := p.start }

/-- The two words of the last entry of the step log. -/
def lastWords (s : State) : Word × Word :=
  let w (o : Nat) : Word := BitVec.ofNat 64 (leNat (Memory.read s.mem (logPlace (s.pkg.logAt - 1) + o) 8))
  (w 0, w 8)

/-- A reset record: METHOD holds RETRY (R366), and DETAIL the cause above the fields of R375 (R365, R368; log entry 33). -/
def appendReset (cause : BitVec 8) (detail : BitVec 56) : Act := fun s =>
  appendLog 0xFF#8 3#8 (BitVec.ofNat 8 s.pkg.retry.toNat) 0xFF#8 (cause ++ detail) s

/-- The cause and RETRY of the reset record that ends the step log; a log that ends without one reads POWER_ON (R365, R366). -/
def logReset (s : State) : BitVec 8 × Bool :=
  let w := lastWords s
  if s.pkg.logAt ≠ 0 ∧ w.1.extractLsb' 0 8 = 0xFF#8 ∧ w.1.extractLsb' 16 8 = 3#8 then (w.2.extractLsb' 56 8, w.1.getLsbD 8) else (causePowerOn, false)

/-- A reset of the device: the shared operation of every cause. Before a reset other than POWER_ON, a reset record is appended to the step log (R365). -/
def deviceReset (cause : BitVec 8) (detail : BitVec 56) : Act :=
  Act.seq (Act.when (cause ≠ causePowerOn) (appendReset cause detail)) fun s => [.clear (freshPackage s.pkg cause)]

/-- The meaning of POWER_ON (R365). -/
def execPowerOn (s : State) : Host.Outcome State Fault Refusal := done (deviceReset causePowerOn 0#56) s
/-- The meaning of PIN_RESET (R365). -/
def execPinReset (s : State) : Host.Outcome State Fault Refusal := done (deviceReset causePinReset 0#56) s

/-- A write of PKGRST with GO = 1 (R366). -/
def hvReset (retry : Bool) : Act := Act.seq (modPkg fun p => { p with retry := retry }) (deviceReset causeHvReset 0#56)
/-- The meaning of HV_RESET. -/
def execHvReset (retry : Bool) (s : State) : Host.Outcome State Fault Refusal := done (hvReset retry) s

/-- THERMAL_TRIP (R322, R375): a reading of 115 degrees or more. -/
def thermalTrip (die : Nat) (reading : BitVec 8) : Act :=
  if reading.toNat < 115 then Act.skip else deviceReset causeThermalTrip (0#40 ++ reading ++ BitVec.ofNat 8 die)
/-- The meaning of THERMAL_TRIP. -/
def execThermalTrip (die : Nat) (reading : BitVec 8) (s : State) : Host.Outcome State Fault Refusal := done (thermalTrip die reading) s

/-- The meaning of RAIL_FAULT (R359, R375). -/
def execRailFault (die rail : BitVec 8) (s : State) : Host.Outcome State Fault Refusal :=
  done (deviceReset causeRailFault (0#40 ++ rail ++ die)) s

end Sys2Proof.Machine
end

