-- ==== Sys2Proof/Machine/Energy.lean ====
section
/-!
DEFINITION. Energy (R313 to R322): the charge of an issue and of an idle cycle, ENRD and ENCLR, the governor, and the thermal gate.
-/
namespace Sys2Proof.Machine

/-! Weights and charges. -/

/-- The reset weights of the classes, in picojoules (R314). -/
def resetWeights : List (BitVec 16) :=
  [20#16, 30#16, 150#16, 300#16, 250#16, 60#16, 1100#16, 600#16, 4400#16, 2000#16, 200#16, 100#16, 400#16, 40#16, 400#16, 0#16]

/-- The weight of a class on a die (R315). -/
def Die.weight (d : Die) (k : Nat) : Nat := ((d.enwt.find k).getD (resetWeights.getD k 0#16)).toNat

/-- The class of an S-slot opcode (R314): the floating-point operations, the memory operations, and those from FORK to DRAIN. -/
def scalarClass (op : Nat) : Nat :=
  if 0x20 ≤ op ∧ op ≤ 0x2A then 1 else if 0x30 ≤ op ∧ op ≤ 0x32 then 5 else if 0x40 ≤ op ∧ op ≤ 0x4A then 13 else 0

/-- The class of a V-slot opcode under a type (R314): VADD to VMUL and VMIN to VNEG by the type, VFMA and VRED, VRCP to VEXP, the memory
and queue operations, and the others. -/
def vectorClass (op : Nat) (ty : BitVec 4) : Nat :=
  if (1 ≤ op ∧ op ≤ 3) ∨ (5 ≤ op ∧ op ≤ 8) then (if isFpTy ty then 3 else 2)
  else if op = 4 ∨ op = 0x16 then 3
  else if 0x19 ≤ op ∧ op ≤ 0x1B then 14
  else if 0x20 ≤ op ∧ op ≤ 0x29 then 4
  else 2

/-- The class of a product of weights and activations (R314). -/
def productClass (w a : BitVec 4) : Nat :=
  if w = 4#4 ∨ w = 5#4 ∨ a = 4#4 ∨ a = 5#4 then 8 else if w = 8#4 ∧ a = 8#4 then 7 else 6

/-- The class and units of an M-slot word (R314). -/
def matrixUnits (s : State) (i : Issue) : Nat × Nat :=
  let c := s.ctx i.key
  let f := FmtM.ofWord i.sw
  let nr := (readS c i f.c).toNat
  let q := selectedQuads c f.qsel
  match (i.sw.extractLsb' 56 8).toNat with
  | 1 => (9, 1)
  | 2 => (productClass (pendingFormat c q (f.tgt.extractLsb' 0 2).toNat).1 f.ty, nr)
  | 3 => (productClass (pendingFormat c q (f.tgt.extractLsb' 0 2).toNat).1 f.ty, nr)
  | 5 => (10, drainEntries (unitShape c.fuse q) nr (c.qbind f.tgt.toNat))
  | _ => (11, 1)

/-- The bytes of a copy word at issue (R188, R314). -/
def copyBytes (s : State) (i : Issue) : Nat :=
  match decodeSlot .c i.sw with
  | .error _ => 0
  | .ok op => match copyForm op with
    | none => 0
    | some (form, at_) =>
      let s' := { s with cur := i }
      let f := FmtC.ofWord i.sw
      let o := copyOffsets s' form at_ f
      (match copyShape s' form at_ f o.1 o.2 with
       | .ok (sh, _) => sh.len0 * sh.n1 * sh.n2
       | .error _ => 0)

/-- The class and units of the slot word of an issue (R314); `i` names the slot, its step and its word. A VDUP is charged as its partner,
whose word is `partner` (R313). -/
def classUnits (s : State) (i : Issue) (partner : Word) : Nat × Nat :=
  let op (w : Word) : Nat := (w.extractLsb' 56 8).toNat
  let ty (w : Word) : BitVec 4 := (FmtR.ofWord w).ty
  match slotClass i.slot with
  | .s => (scalarClass (op i.sw), 1)
  | .b => (0, 1)
  | .v => if op i.sw = 0x30 then (vectorClass (op partner) (ty partner), 1) else (vectorClass (op i.sw) (ty i.sw), 1)
  | .m => matrixUnits s i
  | .c => (12, max 1 ((copyBytes s i + 127) / 128))

/-- The picojoules of one operation of an issue (R313). -/
def opCharge (s : State) (i : Issue) (partner : Word) : Nat :=
  let x := classUnits s i partner
  (s.die (dieOf (coreOf i.key))).weight x.1 * x.2

/-- The largest value of a 48-bit counter. -/
def counterTop : Nat := 2 ^ 48 - 1

/-- A charge is added to ENCTR, which saturates and then sets ENSAT (R313, R317). -/
def Ctx.charge (c : Ctx) (pj : Nat) : Ctx :=
  if counterTop < c.enctr.toNat + pj then { c with enctr := BitVec.ofNat 48 counterTop, ensat := true }
  else { c with enctr := c.enctr + BitVec.ofNat 48 pj }

/-- ENRD (R318). -/
def opEnrd (f : FmtY) : SlotOp := act fun s =>
  land (opRec s) 2 (.s f.d.toNat) (.word ((s.ctx s.cur.key).enctr.setWidth 64)) s
/-- The meaning of ENRD. -/
def execEnrd (f : FmtY) (s : State) : Host.Outcome State Fault Refusal := runOne (.enrd f) (opEnrd f) s

/-- ENRD.IDLE (R318): the tenant's PIDLE in the partition. -/
def opEnrdIdle (f : FmtY) : SlotOp := act fun s =>
  let b := s.block (partOf s.pkg (coreOf s.cur.key)) (s.ctx s.cur.key).cid.toNat
  land (opRec s) 2 (.s f.d.toNat) (.word (b.pidle.setWidth 64)) s
/-- The meaning of ENRD.IDLE. -/
def execEnrdIdle (f : FmtY) (s : State) : Host.Outcome State Fault Refusal := runOne (.enrdIdle f) (opEnrdIdle f) s

/-- ENCLR (R318): the count and ENSAT are returned and cleared; the charge of its own issue is added afterwards. -/
def opEnclr (f : FmtY) : SlotOp := act fun s =>
  let c := s.ctx s.cur.key
  Act.seq (land (opRec s) 2 (.s f.d.toNat) (.word (BitVec.ofBool c.ensat ++ 0#15 ++ c.enctr)))
    (modCtx s.cur.key fun c => { c with enctr := 0#48, ensat := false }) s
/-- The meaning of ENCLR. -/
def execEnclr (f : FmtY) (s : State) : Host.Outcome State Fault Refusal := runOne (.enclr f) (opEnclr f) s

/-! Idle cycles. -/

/-- Whether a core is reserved for a launch that is BOUND (R230). -/
def coreReserved (s : State) (core : Nat) : Bool := s.launches.any fun x => x.2.stage = .bound && decide (core ∈ x.2.cores)

/-- Whether a context of a core is to be restored in a gang switch (R316). -/
def toRestore (s : State) (core : Nat) : Bool :=
  let q := partOf s.pkg core
  match (s.quarter q).switch, (s.quarter q).switchTo with
  | some _, some cid => s.saves.any fun x => x.2.quarter = q && x.2.cid.toNat = cid && x.2.ctxs.any fun y => coreOf y.1 = core
  | _, _ => false

/-- Whether a context makes its core count towards PIDLE (R316): it is bound; a saved one after the last save of a gang switch only where it is to be
restored. -/
def Ctx.countsIdle (c : Ctx) (switchTo : Option Nat) : Bool :=
  c.mode ≠ .unbound && !(c.mode = .saved && switchTo.any fun n => n ≠ c.cid.toNat)

/-- Whether a core counts towards PIDLE (R316). -/
def countsIdle (s : State) (core : Nat) : Bool :=
  !isService core && ((List.range 4).any (fun x => (s.ctx (keyOf core x)).countsIdle (s.quarter (partOf s.pkg core)).switchTo) ||
    coreReserved s core || toRestore s core)

/-- An idle cycle of a core charges WSTAT to the PIDLE of the running tenant (R316). -/
def chargeIdle (core : Nat) : Act := fun s =>
  let q := partOf s.pkg core
  match (s.quarter q).running with
  | some cid =>
    if countsIdle s core then
      modBlock q cid (fun b => { b with pidle := BitVec.ofNat 48 (min counterTop (b.pidle.toNat + (s.die (dieOf core)).wstat.toNat)) }) s
    else []
  | none => []

/-! The governor (R319 to R321). -/

/-- The length of a budget interval (R319). -/
def budgetInterval : Nat := 2000000

/-- The budget of a partition, in picojoules (R319). -/
def Quarter.budget (q : Quarter) : Int := (q.share.toNat * 10 ^ 9 : Nat)
/-- REM of a partition (R319): its budget where nothing has changed it. -/
def Quarter.remaining (q : Quarter) : Int := q.rem.getD q.budget

/-- Whether a launch of an estimate is admitted (R320). -/
def Quarter.admits (q : Quarter) (e : Nat) : Bool := decide ((e : Int) ≤ q.remaining) || q.remaining = q.budget

/-- The mark of a partition whose budget interval has begun on this cycle. -/
def budgetMark (q : Nat) : Nat := 30000 + q

/-- Whether the budget interval of a partition begins on this cycle (R319). -/
def intervalDue (s : State) (q : Nat) : Bool :=
  decide (lowest s.pkg q = q) && decide (s.now % budgetInterval = 0) && !decide (budgetMark q ∈ s.served)

/-- The service contexts of a partition, by key. -/
def serviceContexts (s : State) (q : Nat) : List Nat :=
  (s.ctxs.filter fun x => isService (coreOf x.1) && partOf s.pkg (coreOf x.1) = q && x.2.mode ≠ .unbound).map (·.1)

/-- BUDGET_INTERVAL_START (R320, R350): REM is refilled, deferred launches are tested again, and the reserves of service contexts are
renewed. -/
def intervalStart (q : Nat) : Act := fun s =>
  if intervalDue s q then
    Act.seqs [fun s => [.served (budgetMark q :: s.served)],
      modQuarter q fun x => { x with rem := some (min x.budget (x.remaining + x.budget)) },
      Act.each (s.launches.filter fun x => x.2.quarter = q && x.2.stage = .deferred) fun x => modLaunch x.1 fun l => { l with stage := .queued },
      Act.each (serviceContexts s q) fun k => modCtx k fun c => { c with reserve := 100000 }] s
  else []
/-- The meaning of BUDGET_INTERVAL_START. -/
def execBudgetIntervalStart (quarter : Nat) (s : State) : Host.Outcome State Fault Refusal := done (intervalStart quarter) s

/-- The sum of the shares of the partitions that exist, where one of them takes a value (R319). -/
def shareSum (s : State) (at_ : Option (Nat × Nat)) : Nat :=
  (List.range 4).foldl (fun n q => if lowest s.pkg q = q then n + (match at_ with
    | some (p, v) => if p = q then v else (s.quarter q).share.toNat
    | none => (s.quarter q).share.toNat) else n) 0

/-- A write of GOVSHARE of a partition, or of GOVLIM: one that would leave the shares above the limit is discarded; REM of the interval stands (R319). -/
def governorWrite (share : Option Nat) (v : Word) : Act := fun s =>
  let x := v.extractLsb' 0 16
  match share with
  | some q =>
    if lowest s.pkg q = q ∧ shareSum s (some (q, x.toNat)) ≤ s.pkg.govlim.toNat then modQuarter q (fun y => { y with share := x, rem := some y.remaining }) s
    else []
  | none => if shareSum s none ≤ x.toNat then modPkg (fun p => { p with govlim := x }) s else []
/-- The meaning of GOVERNOR_WRITE. -/
def execGovernorWrite (share : Option Nat) (value : Word) (s : State) : Host.Outcome State Fault Refusal := done (governorWrite share value) s

/-! The thermal gate (R322). -/

/-- THERM_GATE, after a change of a die's GATE bit. -/
def thermGate (die : Nat) : Act := fun s =>
  let d := BitVec.ofNat 8 die
  postHypervisor (lowest s.pkg (quarterOf die))
    { code := codeThermGate, sev := 0#3, etype := 11#8, die := d, action := 0#16, detail := s.pkg.gate.setWidth 64 } s

/-- THERMAL_GATE_ON: a sensor of a die reads 105 degrees or more. -/
def gateOn (die : Nat) : Act := fun s =>
  if 24 ≤ die ∨ s.pkg.gate.getLsbD die then []
  else Act.seqs [modPkg fun p => { p with gate := setBit p.gate die true }, modDie die fun d => { d with gatedAt := s.now }, thermGate die] s
/-- The meaning of THERMAL_GATE_ON. -/
def execThermalGateOn (die : Nat) (s : State) : Host.Outcome State Fault Refusal := done (gateOn die) s

/-- THERMAL_GATE_OFF: at the end of a whole interval throughout which every sensor of a gated die read below 100 degrees. -/
def gateOff (die : Nat) : Act := fun s =>
  if s.pkg.gate.getLsbD die ∧ s.now % budgetInterval = 0 ∧ (s.die die).gatedAt + budgetInterval ≤ s.now then
    Act.seq (modPkg fun p => { p with gate := setBit p.gate die false }) (thermGate die) s
  else []
/-- The meaning of THERMAL_GATE_OFF. -/
def execThermalGateOff (die : Nat) (s : State) : Host.Outcome State Fault Refusal := done (gateOff die) s

/-- Whether the cores of a die may issue on this cycle (R322): a gated die issues on even cycles, from the next even one on. -/
def dieIssues (s : State) (die : Nat) : Bool :=
  !s.pkg.gate.getLsbD die || decide (s.now % 2 = 0) || decide (s.now < ((s.die die).gatedAt / 2 + 1) * 2)

end Sys2Proof.Machine
end

