-- ==== Sys2Proof/Machine/Reliability.lean ====
section
/-!
DEFINITION. Errors of transfers and of stored bits (R323 to R328), the scrub, and the lanes of the links (R337, R338, R360 to R362).
-/
namespace Sys2Proof.Machine

/-! Carried checks (R324). -/

/-- The containment identifier that an error is attributed to: in shared-class data, that of the party that consumed it (R328). -/
def attributed (s : State) (cid : BitVec 8) (key : Nat) : BitVec 8 := if cid = 0#8 then (s.ctx key).cid else cid

/-- The die of the home of a part of an access, 0xFF where it has none (R256, R369). -/
def partHome (s : State) (a : Access) (p : Part) : BitVec 8 :=
  if a.kind = .global && routeOf a p = .home then
    (match homeSpot s a p with
     | .ok sp => BitVec.ofNat 8 sp.die
     | .error w => w.2)
  else 0xFF#8

/-- The parts of an access that an error can strike: those on their way. A write that a part of has been applied is past its check; where elements fault
independently, an element that has (R256). -/
def openParts (a : Access) : List Part :=
  a.parts.filter fun p => !p.done && !(a.what.writes && a.parts.any fun q => q.done && (!elementwise a.op || q.elem = p.elem))

/-- Of some parts the one with a byte at an address, or else one picked by a free choice, from its first faulting byte on. -/
def struckPart (l : List Part) (at_ : Nat) (n : Nat) : Option Part :=
  match l.find? fun p => decide (p.va ≤ at_) && decide (at_ < p.va + p.len) with
  | some p => some { p with va := at_ }
  | none => l[n % l.length]?

/-- An access in flight meets an uncorrectable error: what it strikes, a whole access or an element that faults by itself, is not performed, and its
message is at its context (R256, R324). -/
def strikeAccess (id : Nat) (code : BitVec 16) (why : BitVec 8) (at_ : Nat) : Act := fun s =>
  match s.accs.find id with
  | none => []
  | some a =>
    match struckPart (openParts a) at_ (Config.freeNat s.free) with
    | none => []
    | some p =>
      Act.seq (faultAccess id a [(p, (code, why), partHome s a p)] true)
        (if elementwise a.op then modAcc id fun b => { b with checked := a.checked, sent := a.sent, mute := a.mute.erase p.elem } else Act.skip) s

/-- The access by which the M operation of a context reads, if one is in flight. -/
def matrixAccess (s : State) (key : Nat) : Option Nat := (s.ctx key).mops.findSome? fun m => m.access

/-- The access by which a context fetches an instruction line or a metadata word, if one is in flight. -/
def fetchAccess (s : State) (key : Nat) : Option Nat :=
  (s.accs.find? fun x => x.2.key = key && (x.2.what = .fetch || x.2.what = .metaFetch)).map (·.1)

/-- The context of a transfer. -/
def transferKey (s : State) (t : CheckTransfer) : Nat :=
  match t with
  | .copy id => match s.copies.find id with | some c => c.key | none => 0
  | .read id => match s.accs.find id with | some a => a.key | none => 0
  | .write id => match s.accs.find id with | some a => a.key | none => 0
  | .matrixRead key => key
  | .fetch key => key
  | .flit _ => 0

/-- The effect of a second mismatch of a beat (R324). -/
def secondMismatch (t : CheckTransfer) : Act := fun s =>
  match t with
  | .copy id => (match s.copies.find id with
    | some c => checkFails id c c.beat.src 0 s
    | none => [])
  | .read id => strikeAccess id codeUncorrectable 0x48#8 0 s
  | .write id => strikeAccess id codeUncorrectable 0x48#8 0 s
  | .matrixRead key => (match matrixAccess s key with
    | some id => strikeAccess id codeUncorrectable 0x48#8 0 s
    | none => [])
  | .fetch key => (match fetchAccess s key with
    | some id => strikeAccess id codeUncorrectable 0x48#8 0 s
    | none => [])
  | .flit _ => []

/-- CARRIED_CHECK_MISMATCH (R324, R327): a mismatch is counted and retried once; a second one of the beat is a consumed uncorrectable
error. A flit is replayed by its link. -/
def checkMismatch (e : CheckEvent) : Act := fun s =>
  let q := lowest s.pkg e.quarter
  match e.transfer with
  | .flit n => countError q none .flit n s
  | t => Act.seq (countError q (some (attributed s e.cid (transferKey s t))) .chk 1) (Act.when e.second (secondMismatch t)) s
/-- The meaning of CARRIED_CHECK_MISMATCH. -/
def execCarriedCheckMismatch (e : CheckEvent) (s : State) : Host.Outcome State Fault Refusal := done (checkMismatch e) s

/-! Stored bits (R325, R326). -/

/-- The access of the operation that consumed an error. -/
def consumerAccess (s : State) (e : EccEvent) : Option Nat :=
  (s.accs.find? fun x => x.2.key = e.key && x.2.op.bseq = e.bseq && x.2.op.slot = e.slot).map (·.1)

/-- A line of a list is dropped, by a free choice. -/
def dropLine (n : Nat) (l : List CacheLine) : List CacheLine := l.eraseIdx (n % l.length)

/-- The die of the home at which an error was consumed, 0xFF where it was consumed elsewhere (R369). -/
def eccHome (s : State) (e : EccEvent) : BitVec 8 :=
  if e.struct = .hbm ∨ e.struct = .lastLevel then
    (match rangeOf (s.quarter (lowest s.pkg e.quarter)) e.va.toNat with
     | some r => BitVec.ofNat 8 (homeOf r e.va.toNat)
     | none => 0xFF#8)
  else 0xFF#8

/-- The message of a consumed uncorrectable error. -/
def eccMsg (s : State) (e : EccEvent) (why : BitVec 8) : FaultMsg :=
  { key := e.key, bseq := e.bseq, slot := e.slot, code := codeUncorrectable, why := why, va := e.va, elem := 0#6, home := eccHome s e,
    access := (consumerAccess s e).getD 0, found := s.now }

/-- An uncorrectable error that a context consumes at a home: its access is struck there, if one is in flight (R324, R325). -/
def consumeAtHome (e : EccEvent) : Act := fun s =>
  match consumerAccess s e with
  | some id => strikeAccess id codeUncorrectable 0x48#8 e.va.toNat s
  | none => consumeError (eccMsg s e 0x48#8) s

/-- ECC_ERROR_CONSUMED (R325, R327, R328, R336). -/
def eccConsumed (e : EccEvent) : Act := fun s =>
  let q := lowest s.pkg e.quarter
  let core := coreOf e.key
  if e.corrected then countError q (e.cid.map fun c => attributed s c e.key) .corr 1 s
  else match e.struct with
    | .instructionCache => withFree (fun n => modCore core fun x => { x with icache := dropLine n x.icache }) s
    | .vectorCache => withFree (fun n => modCore core fun x => { x with vcache := dropLine n x.vcache }) s
    | .vitrine => Act.seq (countError q (some (s.ctx e.key).cid) .unc 1) (stopOnFault e.key (eccMsg s e 0x4A#8)) s
    | .coverMap => Act.seq (countError q (some (s.ctx e.key).cid) .unc 1) (stopOnFault e.key (eccMsg s e 0x4A#8)) s
    | .saveArea => Act.seq (countError q (some (s.ctx e.key).cid) .unc 1) (stopOnFault e.key (eccMsg s e 0x4A#8)) s
    | .hbm => consumeAtHome e s
    | .lastLevel => consumeAtHome e s
    | _ => consumeError (eccMsg s e 0x48#8) s
/-- The meaning of ECC_ERROR_CONSUMED. -/
def execEccErrorConsumed (e : EccEvent) (s : State) : Host.Outcome State Fault Refusal := done (eccConsumed e) s

/-- The tenant whose data a frame holds (R253, R328). -/
def FrameInfo.tenant (f : FrameInfo) : Option (BitVec 8) :=
  if f.use = useFree ∨ f.use = useHerbarium ∨ f.own = 0#8 then none else some f.own

/-- ECC_SCRUB (R326, R327): a word of a frame is corrected, or is poisoned. -/
def scrub (die frame word : Nat) (bad : Bool) : Act := fun s =>
  let q := lowest s.pkg (quarterOf die)
  let t := ((s.die die).frames.get {} frame).tenant
  if bad then
    Act.seq (countError q t .unc 1) (modDie die fun d => { d with poisoned := (frame * 65536 + 32 * word) :: d.poisoned.erase (frame * 65536 + 32 * word) }) s
  else countError q t .corr 1 s
/-- The meaning of ECC_SCRUB. -/
def execEccScrub (die frame word : Nat) (uncorrectable : Bool) (s : State) : Host.Outcome State Fault Refusal :=
  done (scrub die frame word uncorrectable) s

/-! Lanes. -/

/-- The key of a lane of a Lorig-D port (R360). -/
def dLane (die port lane : Nat) : Nat := die * 170 + port * 34 + lane
/-- The key of a lane of an I/O die (R360). -/
def xLane (iod lane : Nat) : Nat := 10000 + iod * 16 + lane

/-- The lanes of a Lorig-X link, links numbered 2 to an I/O die (R360). -/
def xLanes (link : Nat) : List Nat := (List.range 8).map fun i => xLane (link / 2) (link % 2 * 8 + i)
/-- The lanes of a Lorig-D port, the last two spare (R360). -/
def dLanes (port : Nat) : List Nat := (List.range 34).map fun i => dLane (port / 5) (port % 5) i

/-- A lane after a window with a margin (R337). -/
def Lane.window (l : Lane) (m : BitVec 8) : Lane :=
  if l.rate = 3#2 then l
  else { l with margin := m, lowrun := if m.toNat < l.thresh.toNat then (if l.lowrun = 255#8 then 255#8 else l.lowrun + 1#8) else 0#8 }

/-- Whether a lane has been low for four windows (R338, R361). -/
def laneLow (s : State) (k : Nat) : Bool := decide (4 ≤ (s.lane k).lowrun.toNat) && (s.lane k).rate ≠ 3#2

/-- A lane is taken out of service. -/
def dropLane (k : Nat) : Act := modLane k fun l => { l with rate := 3#2, lowrun := 0#8, spare := false }

/-- The partition whose hypervisor's queue takes the events of an I/O die (log entry 27). -/
def iodPartition (s : State) (iod : Nat) : Nat := lowest s.pkg (if iod < 2 then 0 else 3)

/-- A record of a link event. -/
def linkRecord (q : Nat) (code : BitVec 16) (why : BitVec 8) (sev : BitVec 3) (x : Bool) (die unit : Nat) (action : BitVec 16)
    (detail : Word) : Act :=
  postHypervisor q { code := code, why := why, sev := sev, etype := if x then 5#8 else 4#8, die := BitVec.ofNat 8 die,
                     unit := BitVec.ofNat 8 unit, action := action, detail := detail }

/-- DETAIL of LINK_DOWNSHIFT (R373). -/
def laneDetail (lane : Nat) (rate : BitVec 2) : Word := BitVec.ofNat 64 (lane * 256 + rate.toNat)

/-- The end of a window for a Lorig-X link (R338, R362): a rate step, or lanes out of service and perhaps the link with them. -/
def xLinkStep (link : Nat) : Act := fun s =>
  let low := (xLanes link).filter (laneLow s)
  let iod := link / 2
  let q := iodPartition s iod
  let rate := (((xLanes link).map fun k => (s.lane k).rate).find? fun r => r ≠ 3#2).getD 3#2
  match low with
  | [] => []
  | k :: _ =>
    if rate.toNat < 2 then
      let r := rate + 1#2
      Act.seqs [Act.each ((xLanes link).filter fun k => (s.lane k).rate ≠ 3#2) fun k => modLane k fun l => { l with rate := r, lowrun := 0#8 },
        countError q none .down 1, linkRecord q codeLinkDownshift 1#8 0#3 true (24 + iod) (link % 2) 0#16 (laneDetail ((k - 10000) % 16) r)] s
    else
      let out := s.pkg.xlinks.get 0 link + low.length
      Act.seqs [Act.each low dropLane, modPkg fun p => { p with xlinks := p.xlinks.set link out },
        Act.when (decide (4 < out) && !linkLost s.pkg link)
          (linkRecord q codeLinkLost 2#8 4#3 true (24 + iod) (link % 2) 0x0005#16 0#64)] s

/-- The data lanes and used spares of a Lorig-D port that are in service (R361). -/
def inService (s : State) (port : Nat) : Nat :=
  ((dLanes port).filter fun k => (s.lane k).rate ≠ 3#2 && (decide (k % 34 < 32) || (s.lane k).spare)).length

/-- A low lane of a Lorig-D port (R361): its traffic moves to a spare, or the port narrows to 16 lanes, or is lost. A spare that carries no
traffic only leaves service. -/
def dLaneStep (port k : Nat) : Act := fun s =>
  let die := port / 5
  let q := partOfDie s die
  let idle := decide (32 ≤ k % 34) && !(s.lane k).spare
  let spare := (dLanes port).find? fun j => decide (32 ≤ j % 34) && j ≠ k && (s.lane j).rate ≠ 3#2 && !(s.lane j).spare
  let event (why : BitVec 8) : Act := linkRecord q codeLinkDownshift why 0#3 false die (port % 5) 0x0007#16 (laneDetail (k % 34) 3#2)
  if idle then dropLane k s
  else match spare with
    | some j => Act.seqs [dropLane k, modLane j fun l => { l with spare := true }, event 2#8] s
    | none =>
      Act.seq (dropLane k) (fun s =>
        match s.pkg.ports.get 0 port with
        | 2 => []
        | st =>
          if inService s port < 16 then
            Act.seq (modPkg fun p => { p with ports := p.ports.set port 2 })
              (linkRecord q codeLinkLost 1#8 4#3 false die (port % 5) 0x0007#16 0#64) s
          else if st = 0 then Act.seq (modPkg fun p => { p with ports := p.ports.set port 1 }) (event 3#8) s
          else []) s

/-- The length of a lane window (R337). -/
def laneWindow : Nat := 2 ^ 21

/-- LANE_WINDOW_END (R337, R338, R361, R362): the margins of the lanes in the window that ends on this cycle. -/
def windowEndStep (margins : List (Nat × BitVec 8)) : Act := fun s =>
  if s.now % laneWindow ≠ 0 then []
  else
    Act.seqs [Act.each margins fun x => modLane x.1 fun l => l.window x.2,
      Act.each (List.range 8) xLinkStep,
      Act.each (List.range 120) fun port s => Act.each ((dLanes port).filter (laneLow s)) (dLaneStep port) s] s
/-- The meaning of LANE_WINDOW_END. -/
def execLaneWindowEnd (margins : List (Nat × BitVec 8)) (s : State) : Host.Outcome State Fault Refusal := done (windowEndStep margins) s

end Sys2Proof.Machine
end

