-- ==== Sys2Proof/Machine/Partition.lean ====
section
/-!
DEFINITION. Partitions (R339 to R343), tenant slots (R348), quiescing (R341), and translation shoot-downs (R252).
-/
namespace Sys2Proof.Machine

/-! Shoot-downs (R252). -/

/-- Whether a shoot-down concerns a page that a translation cache holds. -/
def shotDown (v : Word) (t : TlbEntry) : Bool :=
  t.cid = v.extractLsb' 52 8 && (v.getLsbD 62 || t.page = pageOf t.big ((v.extractLsb' 16 36).toNat * 65536))

/-- The line of a slice that a shoot-down concerns, in the page size of its range (R252). -/
def shotLine (q : Quarter) (v : Word) (l : CacheLine) : Bool :=
  l.cid = v.extractLsb' 52 8 && (v.getLsbD 62 || match rangeOf q (l.va * 128) with
    | some r => pageOf r.1 (l.va * 128) = pageOf r.1 ((v.extractLsb' 16 36).toNat * 65536)
    | none => true)

/-- The reads that a home has translated and that are not over there are translated afresh after its shoot-down (R252). -/
def unbindReads (die : Nat) : Act := fun s =>
  (s.accs.filter fun x => !x.2.what.writes && x.2.bound.any fun b => b.die = die).map fun x =>
    .acc x.1 (some { x.2 with bound := x.2.bound.filter fun b => b.die ≠ die })

/-- Whether a write that a home has translated is not applied there yet: a shoot-down ends after it (R252). -/
def homeBusy (s : State) (die : Nat) : Bool :=
  s.accs.any fun x => x.2.what.writes && x.2.parts.any fun p => !p.done && x.2.bound.any fun b => b.pos = p.pos && b.die = die

/-- A shoot-down starts; it is done after a free time. -/
def startShootDown (die : Nat) (v : Word) : Act :=
  Act.seqs [unbindReads die, (withLatency 1 (2 ^ 64) fun t => modDie die fun d => { d with shoot := some ⟨v, t⟩ })]

/-- Interleave registers with what a write has changed in them (R252). -/
def Quarter.settleIl (x : Quarter) : Quarter :=
  match x.ilNew with
  | some n => { x with ilbase := n.base, illim := n.lim, ilNew := none }
  | none => x

/-- A write of TCSD (R252): with GO it starts a shoot-down, or is held while one is busy. `id` is the access that writes, 0 for none. -/
def tcsdWrite (die : Nat) (v : Word) (id : Nat) : Act := fun s =>
  if !v.getLsbD 63 then []
  else if (s.die die).shoot.isSome then modDie die (fun d => { d with shootQ := d.shootQ ++ [(v, id)] }) s
  else startShootDown die v s
/-- The meaning of TCSD_WRITE. -/
def execTcsdWrite (die : Nat) (value : Word) (s : State) : Host.Outcome State Fault Refusal := done (tcsdWrite die value 0) s

/-- The access of a held write of TCSD is performed (R252). -/
def finishHeld (id : Nat) : Act := fun s =>
  match s.accs.find id with
  | some a => (match a.parts.find? fun p => !p.done with
    | some p => finishPart id p none s
    | none => [])
  | none => []

/-- A shoot-down of a containment identifier puts what was written to its PTROOT into effect (R252, log entry 89). -/
def Die.settleRoot (d : Die) (cid : Nat) : Die :=
  match d.rootNew.find cid with
  | some w => { d with ptroot := d.ptroot.set cid w, rootNew := d.rootNew.erase cid }
  | none => d

/-- SHOOT_DOWN_DONE (R252): the lines of the pages concerned, which their frames hold as well, and the matching entries are discarded; a change of the
interleave ranges or of the PTROOT of the containment identifier is in effect, BUSY clears, and a held write starts its own. -/
def shootDownDone (die : Nat) : Act := fun s =>
  let d := s.die die
  match d.shoot with
  | none => []
  | some x =>
    if s.now < x.done ∨ homeBusy s die then []
    else
      let q := partOfDie s die
      Act.seqs [modDie die fun d => { d with shoot := none, tlb := d.tlb.filter fun t => !shotDown x.value t,
                                             slice := d.slice.filter fun l => !shotLine (s.quarter q) x.value l },
        modDie die fun d => d.settleRoot (x.value.extractLsb' 52 8).toNat,
        Act.when (s.quarter q).ilNew.isSome (modQuarter q Quarter.settleIl),
        match d.shootQ with
        | [] => Act.skip
        | y :: r => Act.seqs [modDie die fun d => { d with shootQ := r }, startShootDown die y.1, finishHeld y.2]] s
/-- The meaning of SHOOT_DOWN_DONE. -/
def execShootDownDone (die : Nat) (s : State) : Host.Outcome State Fault Refusal := done (shootDownDone die) s

/-! Quiescing (R341). -/

/-- The states of PCTL.PSTATE (R340). -/
def pstateRun : BitVec 3 := 0#3
def pstateQuiescing : BitVec 3 := 1#3
def pstateQuiesced : BitVec 3 := 2#3

/-- The mask of the conditions of R341 that a partition does not meet. -/
def busyMask (s : State) (q : Nat) : Nat :=
  let cids := boundCids (s.quarter q)
  let b (i : Nat) (x : Bool) : Nat := if x then 2 ^ i else 0
  b 0 (s.launches.any fun x => x.2.quarter = q && (x.2.stage = .bound || x.2.stage = .running || x.2.stage = .completing)) +
  b 1 (s.graphs.any fun x => x.2.quarter = q && (x.2.accepted.isSome || x.2.running.isSome)) +
  b 2 (s.ctxs.any fun x => !isService (coreOf x.1) && partOf s.pkg (coreOf x.1) = q && (x.2.mode = .service || x.2.mode = .parked)) +
  b 3 (cids.any fun c => let r := (s.block q c.toNat).fq; r.head ≠ r.tail || r.waiting ≠ []) +
  b 4 (cids.any fun c => (s.block q c.toNat).state ≠ 0#2) +
  b 5 (s.copies.any fun x => partOf s.pkg (coreOf x.2.key) = q)

/-- A record of a partition for its hypervisor's error queue; the die it names is a free one of the partition (log entry 2). -/
def partitionRecord (q : Nat) (code : BitVec 16) (why : BitVec 8) (sev : BitVec 3) (action : BitVec 16) (detail : Word) : Act := fun s =>
  let ds := diesOf s.pkg q
  withFree (fun n =>
    let die := BitVec.ofNat 8 (ds.getD (n % ds.length) 0)
    postHypervisor q { code := code, why := why, sev := sev, etype := 11#8, action := action, detail := detail, die := die }) s

/-- A write of QREQ = 1 (R341). -/
def quiesceRequest (q : Nat) : Act := fun s =>
  if lowest s.pkg q ≠ q ∨ (s.quarter q).qreq then []
  else modQuarter q (fun x => { x with qreq := true, qreqAt := s.now, pstate := pstateQuiescing }) s
/-- The meaning of QUIESCE_REQUEST. -/
def execQuiesceRequest (quarter : Nat) (s : State) : Host.Outcome State Fault Refusal := done (quiesceRequest quarter) s

/-- A write of QREQ = 0 (R341). -/
def quiesceCancel (q : Nat) : Act := fun s =>
  if lowest s.pkg q ≠ q then [] else modQuarter q (fun x => { x with qreq := false, pstate := pstateRun }) s
/-- The meaning of QUIESCE_CANCEL. -/
def execQuiesceCancel (quarter : Nat) (s : State) : Host.Outcome State Fault Refusal := done (quiesceCancel quarter) s

/-- QUIESCED (R341): every condition holds. -/
def quiesced (q : Nat) : Act := fun s =>
  if (s.quarter q).pstate = pstateQuiescing ∧ busyMask s q = 0 then modQuarter q (fun x => { x with pstate := pstateQuiesced }) s else []
/-- The meaning of QUIESCED. -/
def execQuiesced (quarter : Nat) (s : State) : Host.Outcome State Fault Refusal := done (quiesced quarter) s

/-- Whether the timeout of a quiesce request has come (R341). -/
def quiesceLate (s : State) (q : Nat) : Bool :=
  let x := s.quarter q
  x.pstate = pstateQuiescing && x.qtmo ≠ 0#16 && decide (x.qreqAt + x.qtmo.toNat * 4096 ≤ s.now)

/-- QUIESCE_TIMEOUT (R341). -/
def quiesceTimeout (q : Nat) : Act := fun s =>
  if quiesceLate s q ∧ busyMask s q ≠ 0 then
    Act.seq (modQuarter q fun x => { x with qreq := false, pstate := pstateRun })
      (partitionRecord q codePartBusy 1#8 0#3 0#16 (BitVec.ofNat 64 (busyMask s q))) s
  else []
/-- The meaning of QUIESCE_TIMEOUT. -/
def execQuiesceTimeout (quarter : Nat) (s : State) : Host.Outcome State Fault Refusal := done (quiesceTimeout quarter) s

/-! Merging and splitting (R342). -/

/-- A sum that saturates at the largest value of a field. -/
def satField (a b : Word) (lo width : Nat) : Word :=
  BitVec.ofNat 64 (min ((a.toNat / 2 ^ lo % 2 ^ width) + (b.toNat / 2 ^ lo % 2 ^ width)) (2 ^ width - 1) * 2 ^ lo)

/-- ECNT as the sum of two, field by field (R327, R342). -/
def mergeEcnt (a b : Word) : Word := satField a b 40 24 + satField a b 24 16 + satField a b 8 16 + satField a b 0 8

/-- The per-CID registers of a merged partition from those of its lowest quarter and of another (R342). -/
def mergeBlock (a b : Block) : Block :=
  { a with ecnt := mergeEcnt a.ecnt b.ecnt, pidle := BitVec.ofNat 48 (min counterTop (a.pidle.toNat + b.pidle.toNat)),
           resid := satField a.resid b.resid 0 64, fq := { a.fq with waiting := a.fq.waiting ++ b.fq.waiting },
           eq := { a.eq with waiting := a.eq.waiting ++ b.eq.waiting }, queue := a.queue ++ b.queue }

/-- The tenant slots of quarters laid one after another (R342). -/
def mergeSlots (qs : List Quarter) : Sparse Word :=
  ((qs.flatMap fun q => q.tslot.filterMap fun x => if x.2.getLsbD 63 then some x.2 else none).zipIdx).map fun x => (x.2, x.1)

/-- A partition that a write of PCFG forms has no running tenant (R349). -/
def Quarter.formed (q : Quarter) : Quarter := { q with running := none, switch := none, switchDue := none, switchTo := none, saveAt := [], savedDies := [], saveTok := [] }

/-- A merge (R342): the lowest quarter takes the merged values and the launches and graphs of the others, whose registers are at reset. -/
def mergeInto (lo : Nat) (ups : List Nat) : Act := fun s =>
  let share := ups.foldl (fun n q => n + (s.quarter q).share) (s.quarter lo).share
  let slots := mergeSlots ((lo :: ups).map s.quarter)
  Act.seqs [
    Act.each (s.blocks.filter fun x => decide (x.1 / 256 ∈ ups)) fun x s =>
      [.block (lo * 256 + x.1 % 256) (mergeBlock (s.block lo (x.1 % 256)) x.2), .block x.1 {}],
    modQuarter lo fun x => { x with rem := some x.remaining },
    modQuarter lo fun x => { x with share := share, tslot := slots }.formed,
    fun s => (s.launches.filter fun x => decide (x.2.quarter ∈ ups)).map fun x => .launch x.1 (some { x.2 with quarter := lo }),
    fun s => (s.graphs.filter fun x => decide (x.2.quarter ∈ ups)).map fun x => .graph x.1 (some { x.2 with quarter := lo }),
    Act.each ups fun q => modQuarter q fun _ => {}] s

/-- A split (R342): the upper part's registers are at reset, its share and its remaining budget those of its dies (R319), but it is quiesced; `p` is the
new configuration. -/
def splitOff (p : Package) (q : Nat) : Act := fun s =>
  let share := 3500 * (quartersOf p q).length
  Act.seq (Act.each (s.blocks.filter fun x => x.1 / 256 = q) fun x _ => [.block x.1 {}])
    (modQuarter q fun _ => { qreq := true, pstate := pstateQuiesced, share := BitVec.ofNat 16 share, rem := some (share * 10 ^ 9 : Nat) }) s

/-- PCFG of a value is one of R339's partitions. -/
def pcfgLegal (v : Word) : Bool := !v.getLsbD 2 || (v.getLsbD 0 && v.getLsbD 1)

/-- The quarters whose partition a new PCFG changes. -/
def changed (p p' : Package) : List Nat := (List.range 4).filter fun q => quartersOf p (lowest p q) ≠ quartersOf p' (lowest p' q)

/-- Whether the device takes a write of PCFG (R342). -/
def takesPcfg (s : State) (v : Word) : Bool :=
  let p' := { s.pkg with pcfg := v.extractLsb' 0 3 }
  pcfgLegal v && (changed s.pkg p').all (fun q => (s.quarter (lowest s.pkg q)).pstate = pstateQuiesced) &&
    (List.range 4).all fun q => decide ((mergeSlots (((quartersOf p' q).filter fun x => lowest s.pkg x = x).map s.quarter)).length ≤ 16)

/-- A partition of the new configuration: from the partitions it merges, or from the one it splits. -/
def formPartition (p : Package) (q : Nat) : Act := fun s =>
  let ups := (quartersOf s.pkg q).filter fun x => x ≠ q && lowest p x = x
  if ups ≠ [] then mergeInto q ups s
  else if lowest p q ≠ q then splitOff s.pkg q s
  else modQuarter q (fun x => x.formed) s

/-- A write of PCFG (R342). -/
def pcfgWrite (v : Word) : Act := fun s =>
  let p := s.pkg
  if !takesPcfg s v then partitionRecord (lowest p 0) codePartBusy 2#8 0#3 0#16 v s
  else
    let p' := { p with pcfg := v.extractLsb' 0 3 }
    Act.seq (modPkg fun x => { x with pcfg := v.extractLsb' 0 3 })
      (Act.each ((changed p p').filter fun q => lowest p' q = q) (formPartition p)) s
/-- The meaning of PCFG_WRITE. -/
def execPcfgWrite (value : Word) (s : State) : Host.Outcome State Fault Refusal := done (pcfgWrite value) s

/-- A write of NBOUND (R343): it is taken only while the partition is QUIESCED. -/
def nboundWrite (q : Nat) (v : Word) : Act := fun s =>
  if lowest s.pkg q = q ∧ (s.quarter q).pstate = pstateQuiesced then modQuarter q (fun x => { x with open_ := some (v.extractLsb' 0 4) }) s
  else []
/-- The meaning of NBOUND_WRITE. -/
def execNbondWrite (quarter : Nat) (value : Word) (s : State) : Host.Outcome State Fault Refusal := done (nboundWrite quarter value) s

/-! Tenant slots (R348). -/

/-- The bits that a TSLOT register holds. -/
def tslotMask : Word := 0xF8000000000000FF#64

/-- The distinct CIDs valid in the package when a slot takes a value. -/
def packageCids (s : State) (q k : Nat) (v : Word) : List (BitVec 8) :=
  distinct ((List.range 4).flatMap fun p => boundCids (if p = q then { s.quarter p with tslot := (s.quarter p).tslot.set k v } else s.quarter p))

/-- A tenant is bound to a partition: its counters are 0 (R316, R327). -/
def bindTenant (q : Nat) (cid : BitVec 8) : Act := modBlock q cid.toNat fun b => { b with ecnt := 0#64, pidle := 0#48 }

/-- The entries and pushes of a tenant leave a priority queue. -/
def dropPq (cid : BitVec 8) (d : Die) : Die :=
  { d with pq := d.pq.filter fun e => e.cid ≠ cid, pqMoves := d.pqMoves.filter fun m => !(m.cid = cid && m.push.isSome) }

/-- A tenant is unbound from a partition: its graphs are resident no longer, and its priority-queue entries are discarded (R233, R355). -/
def unbindTenant (q : Nat) (cid : BitVec 8) : Act := fun s =>
  ((s.graphs.filter fun x => x.2.quarter = q && x.2.cid = cid).map fun x => .graph x.1 none) ++
    Act.each (diesOf s.pkg q) (fun d => modDie d (dropPq cid)) s

/-- A write of a tenant slot (R348, R349). -/
def tslotWrite (q k : Nat) (v : Word) : Act := fun s =>
  let w := v &&& tslotMask
  let old := boundCids (s.quarter q)
  let was := (s.quarter q).tslot.get 0#64 k
  if lowest s.pkg q ≠ q ∨ 16 ≤ k ∨ 64 < (packageCids s q k w).length then []
  else
    let new := boundCids { s.quarter q with tslot := (s.quarter q).tslot.set k w }
    let stops := was.getLsbD 63 && !w.getLsbD 63 && (s.quarter q).running = some (was.extractLsb' 0 8).toNat
    Act.seqs [modQuarter q fun x => { x with tslot := x.tslot.set k w },
      Act.each (new.filter fun c => !decide (c ∈ old)) (bindTenant q),
      Act.each (old.filter fun c => !decide (c ∈ new)) (unbindTenant q),
      Act.when stops (modQuarter q fun x => x.formed)] s
/-- The meaning of TSLOT_WRITE. -/
def execTslotWrite (quarter k : Nat) (value : Word) (s : State) : Host.Outcome State Fault Refusal := done (tslotWrite quarter k value) s

end Sys2Proof.Machine
end

