-- ==== Sys2Proof/Machine/Image.lean ====
section
/-!
DEFINITION. Schedule images (R353 to R355): their layout, the LMS signature (RFC 8554, log entry 36), the checks of the Accession Unit on an
image, and the writing of sections.
-/
namespace Sys2Proof.Machine

/-! SHA-256 and LMS. -/

/-- The round constants of SHA-256. -/
def shaK : List W32 :=
  [0x428a2f98#32, 0x71374491#32, 0xb5c0fbcf#32, 0xe9b5dba5#32, 0x3956c25b#32, 0x59f111f1#32, 0x923f82a4#32, 0xab1c5ed5#32,
   0xd807aa98#32, 0x12835b01#32, 0x243185be#32, 0x550c7dc3#32, 0x72be5d74#32, 0x80deb1fe#32, 0x9bdc06a7#32, 0xc19bf174#32] ++
  [0xe49b69c1#32, 0xefbe4786#32, 0x0fc19dc6#32, 0x240ca1cc#32, 0x2de92c6f#32, 0x4a7484aa#32, 0x5cb0a9dc#32, 0x76f988da#32,
   0x983e5152#32, 0xa831c66d#32, 0xb00327c8#32, 0xbf597fc7#32, 0xc6e00bf3#32, 0xd5a79147#32, 0x06ca6351#32, 0x14292967#32] ++
  [0x27b70a85#32, 0x2e1b2138#32, 0x4d2c6dfc#32, 0x53380d13#32, 0x650a7354#32, 0x766a0abb#32, 0x81c2c92e#32, 0x92722c85#32,
   0xa2bfe8a1#32, 0xa81a664b#32, 0xc24b8b70#32, 0xc76c51a3#32, 0xd192e819#32, 0xd6990624#32, 0xf40e3585#32, 0x106aa070#32] ++
  [0x19a4c116#32, 0x1e376c08#32, 0x2748774c#32, 0x34b0bcb5#32, 0x391c0cb3#32, 0x4ed8aa4a#32, 0x5b9cca4f#32, 0x682e6ff3#32,
   0x748f82ee#32, 0x78a5636f#32, 0x84c87814#32, 0x8cc70208#32, 0x90befffa#32, 0xa4506ceb#32, 0xbef9a3f7#32, 0xc67178f2#32]

/-- The initial hash value of SHA-256. -/
def shaInit : List W32 :=
  [0x6a09e667#32, 0xbb67ae85#32, 0x3c6ef372#32, 0xa54ff53a#32, 0x510e527f#32, 0x9b05688c#32, 0x1f83d9ab#32, 0x5be0cd19#32]

/-- Words of bytes in big-endian order. -/
def beWords : Nat → List Byte → List W32
  | 0, _ => []
  | n + 1, b => (b.getD 0 0#8 ++ b.getD 1 0#8 ++ b.getD 2 0#8 ++ b.getD 3 0#8) :: beWords n (b.drop 4)
/-- The n bytes of a number in big-endian order. -/
def beBytes (x n : Nat) : List Byte := (leBytes x n).reverse

/-- The message schedule, extended by n words. -/
def shaSchedule : Nat → List W32 → List W32
  | 0, w => w
  | n + 1, w =>
    let g (i : Nat) : W32 := w.getD (w.length - i) 0#32
    let s0 := (g 15).rotateRight 7 ^^^ (g 15).rotateRight 18 ^^^ (g 15 >>> 3)
    let s1 := (g 2).rotateRight 17 ^^^ (g 2).rotateRight 19 ^^^ (g 2 >>> 10)
    shaSchedule n (w ++ [g 16 + s0 + g 7 + s1])

/-- A round on the working variables. -/
def shaRound (v : List W32) (kw : W32) : List W32 :=
  match v with
  | [a, b, c, d, e, f, g, h] =>
    let s1 := e.rotateRight 6 ^^^ e.rotateRight 11 ^^^ e.rotateRight 25
    let t1 := h + s1 + ((e &&& f) ^^^ (~~~e &&& g)) + kw
    let s0 := a.rotateRight 2 ^^^ a.rotateRight 13 ^^^ a.rotateRight 22
    let t2 := s0 + ((a &&& b) ^^^ (a &&& c) ^^^ (b &&& c))
    [t1 + t2, a, b, c, d + t1, e, f, g]
  | v => v

/-- A 64-byte block compressed into a hash value. -/
def shaBlock (h : List W32) (b : List Byte) : List W32 :=
  let w := shaSchedule 48 (beWords 16 b)
  let v := ((w.zip shaK).map fun x => x.1 + x.2).foldl shaRound h
  (h.zip v).map fun x => x.1 + x.2

/-- n blocks of a padded message. -/
def shaBlocks : Nat → List W32 → List Byte → List W32
  | 0, h, _ => h
  | n + 1, h, b => shaBlocks n (shaBlock h (b.take 64)) (b.drop 64)

/-- SHA-256. -/
def sha256 (m : List Byte) : List Byte :=
  let pad := (119 - m.length % 64) % 64
  let p := m ++ 0x80#8 :: List.replicate pad 0#8 ++ beBytes (8 * m.length) 8
  (shaBlocks (p.length / 64) shaInit p).flatMap fun w => beBytes w.toNat 4

/-- The i-th 4-bit digit of a byte string, the high half of a byte first. -/
def nibble (b : List Byte) (i : Nat) : Nat :=
  let x := (b.getD (i / 2) 0#8).toNat
  if i % 2 = 0 then x / 16 else x % 16

/-- A chain of the one-time signature: from digit j, n steps on. -/
def otsChain (idq : List Byte) (i : Nat) : Nat → Nat → List Byte → List Byte
  | _, 0, t => t
  | j, n + 1, t => otsChain idq i (j + 1) n (sha256 (idq ++ beBytes i 2 ++ beBytes j 1 ++ t))

/-- The candidate for a one-time public key that a signature gives (RFC 8554, 4.6). -/
def otsCandidate (idq : List Byte) (sig msg : List Byte) : List Byte :=
  let q := sha256 (idq ++ beBytes 0x8181 2 ++ (sig.drop 4).take 32 ++ msg)
  let sum := ((List.range 64).map fun i => 15 - nibble q i).foldl (· + ·) 0
  let d := q ++ beBytes (sum * 16) 2
  let z := (List.range 67).flatMap fun i => otsChain idq i (nibble d i) (15 - nibble d i) ((sig.drop (36 + 32 * i)).take 32)
  sha256 (idq ++ beBytes 0x8080 2 ++ z)

/-- The root that a path of a Merkle tree gives from a node. -/
def treeRoot (id : List Byte) : Nat → Nat → List Byte → List Byte → List Byte
  | 0, _, _, t => t
  | n + 1, node, path, t =>
    let p := path.take 32
    let pair := if node % 2 = 1 then p ++ t else t ++ p
    treeRoot id n (node / 2) (path.drop 32) (sha256 (id ++ beBytes (node / 2) 4 ++ beBytes 0x8383 2 ++ pair))

/-- The number that bytes hold in big-endian order. -/
def beNat (b : List Byte) : Nat := leNat b.reverse

/-- Whether an LMS signature of a message verifies under a public key: LMS_SHA256_M32_H10 with LMOTS_SHA256_N32_W4 (R354). -/
def lmsVerify (key msg sig : List Byte) : Bool :=
  let id := (key.drop 8).take 16
  let q := beNat (sig.take 4)
  let idq := id ++ sig.take 4
  let kc := otsCandidate idq ((sig.drop 4).take 2180) msg
  let leaf := sha256 (id ++ beBytes (1024 + q) 4 ++ beBytes 0x8282 2 ++ kc)
  key.length = 56 && sig.length = 2508 && beNat (key.take 4) = 6 && beNat ((key.drop 4).take 4) = 3 && beNat ((sig.drop 4).take 4) = 3 &&
    beNat ((sig.drop 2184).take 4) = 6 && decide (q < 1024) && treeRoot id 10 (1024 + q) (sig.drop 2188) leaf = key.drop 24

/-! The layout of an image (R355). -/

/-- A number of n bytes at an offset. -/
def numAt (b : List Byte) (off n : Nat) : Nat := leNat ((b.drop off).take n)
/-- Whether bytes are all 0. -/
def zeroAt (b : List Byte) (off n : Nat) : Bool := numAt b off n = 0

/-- A section of an image (R355). -/
structure Section where
  kind : Nat
  perm : Nat
  foff : Nat
  fsize : Nat
  size : Nat
  addr : Nat
  tgt : BitVec 96
  clean : Bool
  deriving DecidableEq, Repr

/-- An entry of an image (R355). -/
structure Entry where
  ncores : Nat
  nctx : Nat
  quads : Nat
  prof : Nat
  flags : Nat
  spad : Nat
  bfirst : Nat
  blast : Nat
  handles : Nat
  energy : Nat
  ctxs : List CtxRecord
  clean : Bool
  deriving DecidableEq, Repr

/-- A graph of an image (R355). -/
structure GraphEntry where
  nnodes : Nat
  root : Nat
  pblen : Nat
  noff : Nat
  pboff : Nat
  cwoff : Nat
  clean : Bool
  deriving DecidableEq, Repr

/-- An image read whole: its signed bytes and its tables. -/
structure Image where
  len : Nat
  lspan : Nat
  svcoff : Nat
  sections : List Section
  entries : List Entry
  graphs : List GraphEntry
  bytes : List Byte
  clean : Bool
  deriving DecidableEq, Repr

/-- A section-table entry. -/
def sectionAt (b : List Byte) (o : Nat) : Section :=
  let k := numAt b o 1
  let clean := zeroAt b (o + 2) 6 && zeroAt b (o + 52) 12 && (decide (k = 6) || (zeroAt b (o + 40) 8 && zeroAt b (o + 48) 4))
  { kind := k, perm := numAt b (o + 1) 1, foff := numAt b (o + 8) 8, fsize := numAt b (o + 16) 8, size := numAt b (o + 24) 8,
    addr := numAt b (o + 32) 8, tgt := BitVec.ofNat 96 (numAt b (o + 48) 4 * 2 ^ 64 + numAt b (o + 40) 8), clean := clean }

/-- A context record of an image entry; `clean` says that its reserved bits are 0 and its entry offset is a multiple of 8. -/
def ctxRecordAt (b : List Byte) (o : Nat) : CtxRecord × Bool :=
  ({ ctx := numAt b o 1, pri := BitVec.ofNat 3 (numAt b (o + 1) 1), quads := BitVec.ofNat 4 (numAt b (o + 2) 1),
     fused := numAt b (o + 3) 1 = 1, entry := BitVec.ofNat 64 (numAt b (o + 8) 8),
     args := (List.range 4).map fun i => BitVec.ofNat 64 (numAt b (o + 16 + 8 * i) 8) },
   decide (numAt b (o + 1) 1 < 8) && decide (numAt b (o + 2) 1 < 16) && decide (numAt b (o + 3) 1 < 2) && zeroAt b (o + 4) 4 &&
     decide (numAt b (o + 8) 8 % 8 = 0))

/-- An entry-table entry. -/
def entryAt (b : List Byte) (o : Nat) : Entry :=
  let n := numAt b (o + 7) 1
  let rs := (List.range (min n 4)).map fun k => ctxRecordAt b (o + 64 + 48 * k)
  let clean := decide (n ≤ 4) && decide (numAt b (o + 4) 1 < 16) && decide (numAt b (o + 6) 1 < 8) && zeroAt b (o + 17) 7 &&
    zeroAt b (o + 32) 32 && rs.all (·.2)
  { ncores := numAt b o 2, nctx := numAt b (o + 2) 2, quads := numAt b (o + 4) 1, prof := numAt b (o + 5) 1, flags := numAt b (o + 6) 1,
    spad := numAt b (o + 8) 4, bfirst := numAt b (o + 12) 2, blast := numAt b (o + 14) 2, handles := numAt b (o + 16) 1,
    energy := numAt b (o + 24) 8, ctxs := rs.map (·.1), clean := clean }

/-- A graph-table entry. -/
def graphAt (b : List Byte) (o : Nat) : GraphEntry :=
  { nnodes := numAt b o 2, root := numAt b (o + 2) 2, pblen := numAt b (o + 4) 2, noff := numAt b (o + 8) 8, pboff := numAt b (o + 16) 8,
    cwoff := numAt b (o + 24) 8, clean := zeroAt b (o + 6) 2 }

/-- The tables of an image from its bytes. -/
def parseImage (b : List Byte) : Image :=
  let ns := numAt b 6 2
  let ne := numAt b 8 2
  let ng := numAt b 10 2
  let o1 := 256 + 64 * ns
  let o2 := o1 + 256 * ne
  let len := numAt b 16 8
  let clean := numAt b 0 4 = 0x534B4931 && decide (1 ≤ ns) && decide (ns ≤ 256) && decide (1 ≤ ne) && decide (ne ≤ 4096) && decide (ng ≤ 64) &&
    zeroAt b 12 4 && zeroAt b 72 184 && decide (len % 4096 = 0) && decide (o2 + 32 * ng ≤ len) && decide (numAt b 24 8 % 65536 = 0)
  { len := len, lspan := numAt b 24 8, svcoff := numAt b 64 8, sections := (List.range ns).map fun i => sectionAt b (256 + 64 * i),
    entries := (List.range ne).map fun i => entryAt b (o1 + 256 * i), graphs := (List.range ng).map fun i => graphAt b (o2 + 32 * i),
    bytes := b.take len, clean := clean }

/-- Whether a section is written at a launch: text, metadata and global data (R355). -/
def Section.written (x : Section) : Bool := decide (1 ≤ x.kind) && decide (x.kind ≤ 3)

/-- Whether a section-table entry is well formed (R355). -/
def Section.wf (x : Section) (len lspan : Nat) : Bool :=
  x.clean && decide (1 ≤ x.kind) && decide (x.kind ≤ 6) && decide (x.perm < 8) && (decide (3 ≤ x.kind) || decide (x.perm = 0)) &&
  decide (x.foff % 4096 = 0) && (decide (x.fsize ≠ 0) || decide (x.foff = 0)) && decide (x.fsize ≤ x.size) &&
  decide (x.foff + x.fsize ≤ len) && (decide (x.kind ≤ 3) || decide (x.fsize = 0)) && decide (1 ≤ x.size) && decide (x.size ≤ 2 ^ 52) &&
  (if x.written then decide (x.addr % 4096 = 0) && decide (x.addr + x.size ≤ lspan)
   else decide (x.kind = 5) || decide (x.addr % 128 = 0))

/-- The text section. -/
def Image.text (m : Image) : Nat := ((m.sections.find? fun x => x.kind = 1).map (·.addr)).getD 0
/-- The data sections, in source order: the permission-table entries. -/
def Image.data (m : Image) : List Section := m.sections.filter fun x => decide (3 ≤ x.kind)

/-- Whether a graph-table entry is well formed (R235, R355). -/
def GraphEntry.wf (g : GraphEntry) (len : Nat) : Bool :=
  g.clean && decide (1 ≤ g.nnodes) && decide (g.nnodes ≤ 1024) && decide (g.root < g.nnodes) && decide (g.pblen ≤ 4096) &&
  decide (g.pblen % 32 = 0) && decide (g.noff % 4096 = 0) && decide (g.noff + 32 * g.nnodes ≤ len) && decide (g.pboff % 32 = 0) && decide (g.cwoff % 8 = 0)

/-- Whether the header and tables of an image are well formed at a load base (R354, R355). -/
def Image.wf (m : Image) (lbase : Nat) : Bool :=
  m.clean && m.sections.all (fun x => x.wf m.len m.lspan) && (m.sections.filter fun x => x.kind = 1).length = 1 &&
  decide ((m.sections.filter fun x => x.kind = 2).length ≤ 1) && decide (m.data.length ≤ 256) && m.entries.all (·.clean) &&
  m.graphs.all (fun g => g.wf m.len) && decide (lbase % 65536 = 0) && decide (lbase + m.lspan ≤ 2 ^ 52)

/-- Node k of a graph. -/
def GraphEntry.node (g : GraphEntry) (b : List Byte) (k : Nat) : Node :=
  { n0 := BitVec.ofNat 64 (numAt b (g.noff + 32 * k) 8), n1 := BitVec.ofNat 64 (numAt b (g.noff + 32 * k + 8) 8) }

/-- The fields of a node (R236). -/
def Node.kind (n : Node) : Nat := (n.n0.extractLsb' 60 4).toNat
def Node.succ0 (n : Node) : Nat := (n.n0.extractLsb' 32 16).toNat
def Node.succ1 (n : Node) : Nat := (n.n0.extractLsb' 16 16).toNat
def Node.arg (n : Node) : Nat := (n.n0.extractLsb' 0 16).toNat
def Node.x (n : Node) : Nat := (n.n1.extractLsb' 0 32).toNat

/-- Whether a node is valid in a graph of an image of n entries (R236). -/
def nodeValid (g : GraphEntry) (entries : Nat) (b : List Byte) (k : Nat) : Bool :=
  let n := g.node b k
  let succ (x : Nat) : Bool := decide (x < g.nnodes) || decide (x = 0xFFFF)
  n.n0.extractLsb' 48 12 = 0#12 && n.n1.extractLsb' 32 32 = 0#32 && zeroAt b (g.noff + 32 * k + 16) 16 && succ n.succ0 && succ n.succ1 &&
  match n.kind with
  | 1 => decide (n.arg < entries) && (decide (n.x = 0xFFFFFFFF) || (decide (n.x < g.pblen) && decide (n.x % 32 = 0)))
  | 2 => decide (n.arg < 64) && decide (n.x = 0)
  | 3 => decide (n.arg < 64) && decide (1 ≤ n.x) && decide (n.x ≤ 65535)
  | 4 => decide (1 ≤ n.arg) && decide (n.arg ≤ 1024) && decide (n.succ1 = 0xFFFF) && decide (n.x = 0)
  | _ => false

/-- The permission-table entry of a data section at a load base and a program-area start (R242, R355). -/
def Section.entry (x : Section) (lbase spadBase : Nat) : PermEntry :=
  let e (k : HandleKind) (base : Nat) : PermEntry :=
    { v := true, kind := k, perm := BitVec.ofNat 3 x.perm, base := BitVec.ofNat 52 base, bound := BitVec.ofNat 53 x.size }
  match x.kind with
  | 3 => e .global (lbase + x.addr)
  | 4 => e .spad (spadBase + x.addr)
  | 5 => e .cluster x.addr
  | _ => { e .mcast (spadBase + x.addr) with tgt := x.tgt }

/-! The checks of the Accession Unit (R354). -/

/-- The FUSE value that a context record gives (R164). -/
def CtxRecord.fuse (r : CtxRecord) : BitVec 2 := if r.fused then (if r.quads = 15#4 then 2#2 else 1#2) else 0#2

/-- Whether the context records of an entry meet their conditions (R164, R228, R354). -/
def Entry.ctxsOk (e : Entry) : Bool :=
  let per := e.nctx / e.ncores
  e.ctxs.all (fun r => decide (r.ctx < per) && r.quads &&& ~~~(BitVec.ofNat 4 e.quads) = 0#4 &&
    (!r.fused || r.quads = 3#4 || r.quads = 12#4 || r.quads = 15#4)) &&
  e.ctxs.zipIdx.all fun x => (e.ctxs.drop (x.2 + 1)).all fun r => r.ctx ≠ x.1.ctx && r.quads &&& x.1.quads = 0#4

/-- Whether every .data entry of an image is valid for an entry that is launched (R243, R354); ADDR of a global section is an offset from the load base (R355). -/
def Image.dataOk (m : Image) (e : Entry) (lbase : Nat) : Bool :=
  m.data.all fun x => decide ((if x.kind = 3 then lbase + x.addr else x.addr) < 2 ^ 52) && entryStands (x.entry lbase 0) 0 e.spad e.ncores

/-- The check of the claims of an entry, as the WHY of the first that fails (R354). -/
def Entry.fault (e : Entry) : Option (BitVec 8) :=
  if e.ncores < 1 ∨ 96 < e.ncores ∨ e.nctx % e.ncores ≠ 0 ∨ e.nctx < e.ncores ∨ 4 * e.ncores < e.nctx then some 0x02#8
  else if programArea < e.spad then some 0x03#8
  else if e.bfirst ≠ 0xFFFF ∧ (e.blast < e.bfirst ∨ 2047 < e.blast) then some 0x04#8
  else if 16 < e.handles then some 0x05#8
  else if e.energy = 0 then some 0x06#8
  else if 16 ≤ e.prof ∨ (e.flags % 2 = 1 ∧ e.prof % 2 = 1) then some 0x07#8
  else if !e.ctxsOk then some 0x08#8
  else none

/-- Whether entry 0 suits a service context (R351). -/
def Entry.service (e : Entry) : Bool :=
  decide (e.flags / 4 % 2 = 1) && e.ncores = 1 && e.nctx = 1 && e.quads = 0 && e.spad = 0 && e.bfirst = 0xFFFF

/-- The checks of an image for a launch of an entry or graph at a load base, in the order of R354; `svc` at a service binding. -/
def Image.fault (m : Image) (lbase entry : Nat) (svc : Bool) : Option (BitVec 8) :=
  if !m.wf lbase then some 0x0B#8
  else if !(decide (entry < m.entries.length) || (decide (0x8000 ≤ entry) && decide (entry - 0x8000 < m.graphs.length))) then some 0x01#8
  else
    let e := m.entries[entry]?
    match e.bind Entry.fault with
    | some w => some w
    | none =>
      if m.graphs.any fun g => (List.range g.nnodes).any fun k => !nodeValid g m.entries.length m.bytes k then some 0x09#8
      else if e.any fun e => !m.dataOk e lbase then some 0x0A#8
      else if svc && !(e.any (·.service)) then some 0x0C#8
      else none

/-! Reading an image and its keys. -/

/-- Where the bytes of an image come from: n bytes at an offset, unless a fault is met. -/
abbrev ImageSource := Nat → Nat → Option (List Byte)

/-- The bytes of a signature (R355). -/
def signatureBytes : Nat := 2508

/-- An image with its signature, or none where a read faults. An image whose LEN cannot be one is read no further than its header. -/
def readImage (src : ImageSource) : Option (List Byte) :=
  match src 0 256 with
  | none => none
  | some h =>
    let len := numAt h 16 8
    if len < 256 ∨ 2 ^ 52 < len then some h else src 0 (len + signatureBytes)

/-- Whether the signature of an image verifies under one of some keys (R354). -/
def signatureOk (b : List Byte) (keys : List (List Byte)) : Bool :=
  let len := numAt b 16 8
  b.length = len + signatureBytes && keys.any fun k => lmsVerify k (b.take len) (b.drop len)

/-- The keys of a tenant: its AKEY slots in the hypervisor's space (R345). -/
def tenantKeys (s : State) (q cid : Nat) : List (List Byte) :=
  let a := (s.block q cid).akey
  (List.range ((a.extractLsb' 0 2).toNat + 1)).filterMap fun i =>
    match deviceRead s q 0xFF#8 ((a.extractLsb' 6 46).toNat * 64 + 64 * i) 56 with
    | .ok b => some b
    | .error _ => none

/-- The host port of a function. -/
def portOf (v : Vf) : Nat := if v.map.getLsbD 9 then 1 else 0

/-- Host memory as a source: its link must be up, and a completion may come with an error (R249; log entry 2). -/
def hostSource (s : State) (port img : Nat) : ImageSource := fun off n =>
  if port ∈ s.pkg.hostUp ∧ Config.freeOrder s.free off % 2 = 0 then some (Memory.read s.mem (hostPlace port (img + off)) n) else none

/-- A tenant's virtual space as a source (R351). -/
def virtualSource (s : State) (q : Nat) (cid : BitVec 8) (img : Nat) : ImageSource := fun off n =>
  match deviceRead s q (effectiveCid cid img) (img + off) n with
  | .ok b => some b
  | .error _ => none

/-! The sections (R355). -/

/-- The bytes that a section is written with: those of the file and zeros. -/
def Image.content (m : Image) (x : Section) : List Byte :=
  (m.bytes.drop x.foff).take x.fsize ++ List.replicate (x.size - x.fsize) 0#8

/-- The pieces of the sections of an image at a load base, by address. -/
def Image.pieceList (m : Image) (lbase : Nat) : List (Nat × List Byte) :=
  (m.sections.filter Section.written).flatMap fun x => let b := m.content x; pieces (b.length + 1) (lbase + x.addr) b

/-- A piece of a section under the containment identifier of its address. -/
def pieceSpot (s : State) (q : Nat) (cid : BitVec 8) (x : Nat × List Byte) : Except (Why × BitVec 8) Spot :=
  locate s q (effectiveCid cid x.1) x.1 useData (effectiveCid cid x.1)

/-- The first piece that faults at its home. -/
def pieceFault (s : State) (q : Nat) (cid : BitVec 8) (ps : List (Nat × List Byte)) : Option Nat :=
  (ps.find? fun x => match pieceSpot s q cid x with
    | .ok _ => false
    | .error _ => true).map (·.1)

/-- The places of the pieces that meet no fault. -/
def pieceTargets (s : State) (q : Nat) (cid : BitVec 8) (ps : List (Nat × List Byte)) : List Spot :=
  ps.filterMap fun x => match pieceSpot s q cid x with
    | .ok sp => some sp
    | .error _ => none

/-- The first address of which the piece waits for a reserve frame (R312). -/
def firstWaiting (s : State) (q : Nat) (cid : BitVec 8) (ps : List (Nat × List Byte)) : Nat :=
  ((ps.find? fun x => match pieceSpot s q cid x with
    | .ok sp => (inSnapshot s sp.die sp.loc).isSome
    | .error _ => false).map (·.1)).getD 0

/-- What the pieces of an image meet before they can be written: their write was held for too long, or waits, for a shoot-down at a home (R252) or for
reserve frames (R309, R312); or neither. -/
inductive PieceHold where
  | out | waits | none
  deriving DecidableEq, Repr

/-- Whether the pieces of an image wait. -/
def pieceHold (s : State) (q : Nat) (cid : BitVec 8) (who : Holder) (ps : List (Nat × List Byte)) : PieceHold :=
  if heldOut s who then .out
  else if piecesShot s q ps || deviceWaits s who (pieceTargets s q cid ps) then .waits
  else .none

/-- The pieces of an image are held for reserve frames, if that is what they wait for. -/
def holdPieces (q : Nat) (cid : BitVec 8) (who : Holder) (ps : List (Nat × List Byte)) : Act := fun s =>
  let l := pieceTargets s q cid ps
  if deviceWaits s who l then holdDevice who l s else []

/-- The pieces before a fault are written. -/
def writePieces (q : Nat) (cid : BitVec 8) (ps : List (Nat × List Byte)) : Act := fun s =>
  let stop := pieceFault s q cid ps
  Act.each (ps.takeWhile fun x => some x.1 ≠ stop) (fun x s => match pieceSpot s q cid x with
    | .ok sp => homeWrite (effectiveCid cid x.1) x.1 sp x.2 s
    | .error _ => []) s

end Sys2Proof.Machine
end

