-- ==== Sys2Proof/Machine/Sched.lean ====
section
/-!
DEFINITION. The life of a launch (R226 to R231) and of a graph replay (R235 to R240): image queues and their doorbells (R352, R353), admission,
placement, the start tick and completion.
-/
namespace Sys2Proof.Machine

/-! Records of launches (R372). -/

/-- The die and unit that an Accession Unit record of a launch names (R329). -/
def launchSite (s : State) (l : Launch) : Nat × Nat :=
  match l.origin with
  | .imageQueue v _ _ _ => (24 + portOf (s.vf v), v)
  | .walker slot _ _ => (slot / 4 / 12, slot / 4 % 12)

/-- The TAG of a launch from an image queue. -/
def Launch.tag (l : Launch) : W32 := match l.origin with | .imageQueue _ _ t _ => t | .walker _ _ _ => 0#32

/-- The DETAIL of the record of a launch (R372): the TAG, or of a walker's the node that dispatched it, which ends its replay. -/
def Launch.detail (l : Launch) : Word := match l.origin with | .imageQueue _ _ _ _ => l.tag.setWidth 64 | .walker _ _ node => BitVec.ofNat 64 node

/-- The record of a launch that the Accession Unit refuses (R372). -/
def refusalRecord (s : State) (l : Launch) (code : BitVec 16) (why : BitVec 8) (va : Nat) : ErrRecord :=
  let x := launchSite s l
  { code := code, why := why, sev := 3#3, etype := 8#8, die := BitVec.ofNat 8 x.1, unit := BitVec.ofNat 8 x.2, va := BitVec.ofNat 52 va,
    action := 0x0003#16, detail := l.detail }

/-! Completion (R231). -/

/-- A path of a replay goes on to nodes; 0xFFFF ends it (R237). -/
def pathsTo (now : Nat) (succ : List Nat) : List Path := (succ.filter fun n => n ≠ 0xFFFF).map fun n => { node := n, since := now }

/-- The status of a replay becomes a code, if it is still 0 (R237). -/
def Replay.fail (r : Replay) (code : BitVec 16) : Replay := if r.status = 0#16 then { r with status := code } else r

/-- A task that a walker dispatched is DONE with a status: its path goes on or ends (R237). -/
def taskDone (slot replay task : Nat) (st : BitVec 16) : Act := fun s =>
  match s.graphs.find slot with
  | none => []
  | some g =>
    modReplay replay (fun r =>
      let r := { r with tasks := r.tasks.erase task }
      match r.paths.find? fun p => p.waits = some task with
      | none => r
      | some p =>
        let r := { r with paths := r.paths.erase p }
        if st ≠ 0#16 then r.fail st
        else
          let n := g.nodes.getD p.node ⟨0#64, 0#64⟩
          { r with paths := r.paths ++ pathsTo s.now [n.succ0, n.succ1] }) s

/-- The completion status of a launch is posted (R231, R353, R356): to its image-queue entry, whose words 24 and 32 precede OWN; to the
tenant's error queue where the port of the queue was reset; or to its walker. -/
def postCompletion (id : Nat) (l : Launch) (code : BitVec 16) : Act := fun s =>
  match l.origin with
  | .imageQueue v addr tag live =>
    let port := portOf (s.vf v)
    if live then
      let w := Memory.get s.mem (hostPlace port (addr + 16))
      Act.seq (storeBytes (hostPlace port (addr + 24)) (wordBytes (code ++ 0#48) 8 ++ wordBytes (BitVec.ofNat 64 s.now) 8))
        (storeBytes (hostPlace port (addr + 16)) [setBit w 0 false]) s
    else
      let die := BitVec.ofNat 8 (24 + port)
      postTenant l.quarter l.cid.toNat
        { code := codeHostCompletion, sev := 0#3, etype := 8#8, die := die, unit := BitVec.ofNat 8 v, action := 0#16,
          detail := code ++ 0#16 ++ tag } s
  | .walker slot replay _ => taskDone slot replay id code s

/-- A launch is DONE: its status is posted and it is gone. -/
def finishLaunch (id : Nat) (code : BitVec 16) : Act := fun s =>
  match s.launches.find id with
  | none => []
  | some l => Act.seqs [fun _ => [.launch id none, .gang id none],
      modBlock l.quarter l.cid.toNat fun b => { b with queue := b.queue.erase id }, postCompletion id l code] s

/-- A launch is refused with a code (R354, R372). -/
def refuseLaunch (id : Nat) (code : BitVec 16) (why : BitVec 8) (va : Nat) : Act := fun s =>
  match s.launches.find id with
  | none => []
  | some l => Act.seq (postTenant l.quarter l.cid.toNat (refusalRecord s l code why va)) (finishLaunch id code) s

/-! Image queues (R352, R353). -/

/-- The entries of an image queue (R352). -/
def Vf.ringSize (v : Vf) : Nat := 2 ^ (v.size.toNat + 4)

/-- The bus address of an entry of an image queue. -/
def Vf.entryAddr (v : Vf) (i : BitVec 16) : Nat := (v.base.toNat / 64 * 64) + 64 * (i.toNat % v.ringSize)

/-- The partition in which the launches of a tenant's image queue run: the lowest one whose slots hold it (log entry 37). -/
def queuePartition (s : State) (v : Vf) : Option Nat := partOfCid s (v.map.extractLsb' 0 8)

/-- An entry of an image queue is read: with OWN it is a launch, otherwise it is consumed (R353). -/
def readEntry (vf : Nat) : Act := fun s =>
  let v := s.vf vf
  let port := portOf v
  let a := v.entryAddr v.head
  let w (o : Nat) : Word := BitVec.ofNat 64 (leNat (Memory.read s.mem (hostPlace port (a + o)) 8))
  Act.seq (modVf vf fun v => { v with head := v.head + 1#16 }) (
    match queuePartition s v with
    | some q =>
      Act.when ((w 16).getLsbD 0) (withId fun id s => [.free, .launch id (some
        { origin := .imageQueue vf a ((w 8).extractLsb' 0 32) true, quarter := q, cid := v.map.extractLsb' 0 8, img := (w 0).toNat,
          lbase := (w 40).toNat, entry := ((w 8).extractLsb' 32 16).toNat, noload := (w 16).getLsbD 1,
          ready := s.now + Config.freeNat s.free })])
    | none => Act.skip) s

/-- n entries of an image queue are read in order. -/
def readEntries (vf : Nat) : Nat → Act
  | 0 => Act.skip
  | n + 1 => Act.seq (readEntry vf) (readEntries vf n)

/-- DOORBELL (R353): a tail beyond the ring is discarded; otherwise the device reads the entries up to the tail. The tenant of an enabled
function must be bound to a partition. -/
def doorbell (vf : Nat) (tail : BitVec 16) : Act := fun s =>
  let v := s.vf vf
  let n := (tail - v.head).toNat
  if v.ringSize < n ∨ !v.map.getLsbD 8 then []
  else
    let reads := if (queuePartition s v).isSome then n else 0
    Act.seq (modVf vf fun v => { v with tail := tail }) (readEntries vf reads) s
/-- The meaning of DOORBELL. -/
def execDoorbell (vf : Nat) (tail : BitVec 16) (s : State) : Host.Outcome State Fault Refusal := done (doorbell vf tail) s

/-- A write of IQBASE (R352): it is taken only while IQHEAD equals the tail. -/
def iqbaseWrite (vf : Nat) (w : Word) : Act := fun s =>
  if (s.vf vf).head = (s.vf vf).tail then modVf vf (fun v => { v with base := w &&& ~~~0x3F#64 }) s else []
/-- The meaning of IQBASE_WRITE. -/
def execIqbaseWrite (vf : Nat) (value : Word) (s : State) : Host.Outcome State Fault Refusal := done (iqbaseWrite vf value) s

/-! Admission (R226, R354). -/

/-- The claims of an image entry (R355). -/
def Entry.claims (e : Entry) : Claims :=
  { ncores := e.ncores, nctx := e.nctx, quads := BitVec.ofNat 4 e.quads, prof := BitVec.ofNat 4 e.prof, det := e.flags % 2 = 1,
    lock := e.flags / 2 % 2 = 1, spad := e.spad, bfirst := if e.bfirst = 0xFFFF then 0 else e.bfirst,
    bcount := if e.bfirst = 0xFFFF then 0 else e.blast + 1 - e.bfirst, energy := e.energy, ctxs := e.ctxs }

/-- The handler's address that an image gives (R260, R355). -/
def Image.handler (m : Image) (lbase : Nat) : Word :=
  if m.svcoff = 2 ^ 64 - 1 then 0#64 else BitVec.ofNat 64 (lbase + m.text + m.svcoff)

/-- The start of the metadata section, or 0 (R355). -/
def Image.metaStart (m : Image) (lbase : Nat) : Word :=
  match m.sections.find? fun x => x.kind = 2 with
  | some x => BitVec.ofNat 64 (lbase + x.addr)
  | none => 0#64

/-- The unfenced dies of a partition (R276, R367). -/
def liveDies (s : State) (q : Nat) : List Nat := (diesOf s.pkg q).filter fun d => !(s.die d).fenced

/-- The walkers of a partition, in (die, cluster) order (R235). -/
def walkersOf (s : State) (q : Nat) : List Nat := (liveDies s q).flatMap fun d => (List.range 12).map fun c => d * 12 + c

/-- The graph slot that holds a graph of an image at a load base (R355). -/
def residentGraph (s : State) (q : Nat) (cid : BitVec 8) (img lbase g : Nat) : Option Nat :=
  (s.graphs.find? fun x => x.2.quarter = q && x.2.cid = cid && x.2.image = img && x.2.lbase = lbase && x.2.number = g).map (·.1)

/-- The first free graph slot of a partition (R235). -/
def freeGraphSlot (s : State) (q : Nat) : Option Nat :=
  (walkersOf s q).findSome? fun w => ((List.range 4).map fun i => w * 4 + i).find? fun k => (s.graphs.find k).isNone

/-- The source of a launch's image: host memory at the function of the launch, or of its tenant (R353). -/
def launchSource (s : State) (l : Launch) : ImageSource :=
  match l.origin with
  | .imageQueue v _ _ _ => hostSource s (portOf (s.vf v)) l.img
  | .walker _ _ _ =>
    match s.vfs.find? fun x => x.2.map.getLsbD 8 && x.2.map.extractLsb' 0 8 = l.cid with
    | some x => hostSource s (portOf x.2) l.img
    | none => fun _ _ => none

/-- Whether a launch writes its image's sections (R355). -/
def Launch.loads (l : Launch) : Bool :=
  match l.origin with
  | .imageQueue _ _ _ _ => !l.noload && decide (l.entry < 0x8000)
  | .walker _ _ _ => false

/-- A launch passes its checks: it holds what its image gives and enters its placement queue (R226, R227). A replay launch names its graph's
slot, which is loaded where it is not resident. -/
def accept (id : Nat) (l : Launch) (m : Image) (slot : Option Nat) : Act := fun s =>
  let e := (m.entries[l.entry]?).map Entry.claims
  let perms := m.data.map fun x => x.entry l.lbase 0
  let g := l.entry - 0x8000
  let load : Act := match slot, m.graphs[g]? with
    | some k, some x => Act.when (s.graphs.find k).isNone (fun _ => [.graph k (some
        { quarter := l.quarter, cid := l.cid, image := l.img, lbase := l.lbase, number := g, nodes := (List.range x.nnodes).map (x.node m.bytes),
          root := x.root, pb := l.lbase + x.pboff, pblen := x.pblen, cw := l.lbase + x.cwoff })])
    | _, _ => Act.skip
  Act.seqs [load,
    modLaunch id fun l => { l with stage := .queued, claims := e.getD {}, text := BitVec.ofNat 64 (l.lbase + m.text), meta_ := m.metaStart l.lbase,
                                   svcent := m.handler l.lbase, perms := perms, graph := slot },
    modBlock l.quarter l.cid.toNat fun b => { b with queue := b.queue ++ [id] }] s

/-- Whether the Accession Unit takes a launch out of SUBMITTED on this cycle (R226, R341). -/
def checkDue (s : State) (id : Nat) : Bool :=
  match s.launches.find id with
  | some l => l.stage = .submitted && decide (l.ready ≤ s.now) && (s.quarter l.quarter).pstate = pstateRun
  | none => false

/-- ACCESSION_CHECK (R226, R354): the checks in order, then the writing of the sections. A launch whose sections wait at a home, or whose
graph finds no free slot, is checked again on the next cycle. -/
def accessionCheck (id : Nat) : Act := fun s =>
  match s.launches.find id with
  | none => []
  | some l =>
    if !checkDue s id then []
    else
      let again : Act := modLaunch id fun l => { l with ready := s.now + 1 }
      Act.seq (fun _ => [.free]) (
        match readImage (launchSource s l) with
        | none => refuseLaunch id codeImgFetch 0x01#8 l.img
        | some b =>
          if !signatureOk b (tenantKeys s l.quarter l.cid.toNat) then refuseLaunch id codeImgSig 0#8 0
          else
            let m := parseImage b
            match m.fault l.lbase l.entry false with
            | some w => refuseLaunch id codeImgClaim w 0
            | none =>
              let ps := if l.loads then m.pieceList l.lbase else []
              let slot := if l.entry < 0x8000 then none
                else (residentGraph s l.quarter l.cid l.img l.lbase (l.entry - 0x8000)).orElse fun _ => freeGraphSlot s l.quarter
              match pieceHold s l.quarter l.cid (.launch id) ps with
              | .out => Act.seq (releaseDevice (.launch id)) (refuseLaunch id codeImgFetch 0x02#8 (firstWaiting s l.quarter l.cid ps))
              | .waits => Act.seq (holdPieces l.quarter l.cid (.launch id) ps) again
              | .none =>
              if decide (0x8000 ≤ l.entry) && slot.isNone then again
              else Act.seqs [releaseDevice (.launch id), writePieces l.quarter l.cid ps, match pieceFault s l.quarter l.cid ps with
                | some va => refuseLaunch id codeImgFetch 0x02#8 va
                | none => accept id l m slot]) s
/-- The meaning of ACCESSION_CHECK. -/
def execAccessionCheck (launch : Nat) (s : State) : Host.Outcome State Fault Refusal := done (accessionCheck launch) s

/-! Placement (R227, R229, R230). -/

/-- The gang switch period of a partition, in cycles (R340). -/
def Quarter.period (q : Quarter) : Nat := max 64 q.slice.toNat * 4096
/-- The mark of a partition whose gang switch tick has fallen on this cycle. -/
def tickMark (q : Nat) : Nat := 40000 + q
/-- The mark of a partition in which a first slice has begun on this cycle. -/
def sliceMark (q : Nat) : Nat := 40004 + q

/-- The next gang switch tick of a partition (R349): on the cycle of a tick that very one, until it has fallen; the slice that began on the cycle has its
first tick later. -/
def nextTick (s : State) (q : Nat) : Nat :=
  let p := (s.quarter q).period
  if s.now % p = 0 ∧ tickMark q ∉ s.served ∧ sliceMark q ∉ s.served then s.now else (s.now / p + 1) * p

/-- Whether the slice of a tenant runs in a partition. -/
def sliceRuns (s : State) (q cid : Nat) : Bool := (s.quarter q).running = some cid && (s.quarter q).switch.isNone

/-- The launches that hold a core reserved (R230). -/
def reservedOn (s : State) (core : Nat) : List Launch :=
  (s.launches.filter fun x => x.2.stage = .bound && decide (core ∈ x.2.cores)).map (·.2)

/-- Whether a context is unbound and not reserved. -/
def ctxFree (s : State) (key : Nat) : Bool :=
  (s.ctx key).mode = .unbound && !((reservedOn s (coreOf key)).any fun l => l.members.any fun ks => decide (key ∈ ks))

/-- The bound contexts of a core. -/
def boundOn (s : State) (core : Nat) : List Ctx :=
  ((List.range 4).map fun x => s.ctx (keyOf core x)).filter fun c => c.mode ≠ .unbound

/-- The quadrants of a core that bound or reserved contexts own. -/
def ownedQuads (s : State) (core : Nat) : BitVec 4 :=
  (boundOn s core).foldl (fun q c => q ||| c.quads) ((reservedOn s core).foldl (fun q l => l.claims.ctxs.foldl (fun q r => q ||| r.quads) q) 0#4)

/-- The program-area ranges in use on a core. -/
def usedRanges (s : State) (core : Nat) : List (Nat × Nat) :=
  (boundOn s core).map (fun c => (c.spadBase, c.spadLen)) ++
    (reservedOn s core).flatMap fun l => ((l.cores.zip l.bases).filter fun x => x.1 = core).map fun x => (x.2, l.claims.spad)

/-- The barrier ranges in use on a core. -/
def usedBarriers (s : State) (core : Nat) : List (Nat × Nat) :=
  (boundOn s core).map (fun c => (c.barFirst, c.barCount)) ++ (reservedOn s core).map fun l => (l.claims.bfirst, l.claims.bcount)

/-- Whether two ranges of a start and a length overlap. -/
def rangesMeet (a b : Nat × Nat) : Bool := decide (a.1 < b.1 + b.2) && decide (b.1 < a.1 + a.2)

/-- The lowest range of the program area that fits beside ranges in use, aligned to 4,096 (R229). -/
def lowestFit (used : List (Nat × Nat)) (n : Nat) : Option Nat :=
  ((List.range 753).map (4096 * ·)).find? fun a => decide (a + n ≤ programArea) && !(used.any fun u => rangesMeet (a, n) u)

/-- What a candidate core gives a launch: its contexts and its program-area start (R229). -/
def candidate (s : State) (c : Claims) (core : Nat) : Option (Nat × List Nat × Nat) :=
  let per := c.nctx / c.ncores
  let free := ((List.range 4).map (keyOf core)).filter (ctxFree s)
  if free.length < per ∨ ownedQuads s core &&& c.quads ≠ 0#4 ∨ (usedBarriers s core).any (rangesMeet (c.bfirst, c.bcount)) then none
  else (lowestFit (usedRanges s core) c.spad).map fun a => (core, free.take per, a)

/-- The cores that the placer takes: the first n candidates of the lowest die of a partition that holds so many (R229). -/
def placeOn (s : State) (q : Nat) (c : Claims) : Option (Nat × List (Nat × List Nat × Nat)) :=
  (liveDies s q).findSome? fun d =>
    let cs := ((List.range 96).map fun i => d * 96 + i).filterMap (candidate s c)
    if cs.length < c.ncores then none else some (d, cs.take c.ncores)

/-- The start tick of a launch bound on this cycle (R230). -/
def startTick (now : Nat) : Nat := (now + 1024 + 255) / 256 * 256

/-- The head of a tenant's placement queue (R227). -/
def queueHead (s : State) (q cid : Nat) : Option (Nat × Launch) :=
  match (s.block q cid).queue with
  | id :: _ => (s.launches.find id).map fun l => (id, l)
  | [] => none

/-- What PLACEMENT does with the head of a queue on this cycle, where it changes anything: the energy test of a head, in the scheduler's part of the
cycle and whether or not its tenant's slice runs (R320; log entry 99), or its binding, while the slice runs (R227). -/
def placementStep (s : State) (q cid : Nat) : Option Act :=
  match queueHead s q cid with
    | none => none
    | some (id, l) =>
      if l.graph.isSome then none
      else match l.stage with
        | .queued =>
          if s.late then none
          else if (s.quarter q).admits l.claims.energy then
            some (Act.seq (modLaunch id fun l => { l with stage := .waiting })
              (modQuarter q fun x => { x with rem := some (x.remaining - l.claims.energy) }))
          else some (modLaunch id fun l => { l with stage := .deferred })
        | .waiting =>
          if !sliceRuns s q cid || decide (s.now < l.ready) then none
          else match placeOn s q l.claims with
            | none => none
            | some (d, cs) =>
              let t := startTick s.now
              if nextTick s q < t + 4096 then some (modLaunch id fun l => { l with ready := nextTick s q + 1 })
              else some (Act.seq
                (modLaunch id fun l =>
                  { l with stage := .bound, die := d, cores := cs.map (·.1), members := cs.map (·.2.1), bases := cs.map (·.2.2), start := t })
                (modBlock q cid fun b => { b with queue := b.queue.erase id }))
        | _ => none

/-- PLACEMENT (R226 to R230). -/
def placement (q cid : Nat) : Act := fun s => match placementStep s q cid with | some f => f s | none => []
/-- The meaning of PLACEMENT. -/
def execPlacement (quarter cid : Nat) (s : State) : Host.Outcome State Fault Refusal := done (placement quarter cid) s

/-! The start (R21, R36, R76, R228, R230). -/

/-- Whether the tenant of a partition has SYSOK (R348). -/
def tenantSysok (s : State) (q : Nat) (cid : BitVec 8) : Bool :=
  (s.quarter q).tslot.any fun x => x.2.getLsbD 63 && x.2.extractLsb' 0 8 = cid && x.2.getLsbD 59

/-- A permission-table entry with the start of the task's program-area range in its base (R355). -/
def PermEntry.placed (e : PermEntry) (base : Nat) : PermEntry :=
  match e.kind with
  | .spad => { e with base := e.base + BitVec.ofNat 52 base }
  | .mcast => { e with base := e.base + BitVec.ofNat 52 base }
  | _ => e

/-- The permission table of entries from number 0 (R242). -/
def permTable (es : List PermEntry) : Sparse PermEntry := es.zipIdx.map fun x => (x.2, x.1)

/-- A context of a task as its binding makes it: position `pos`, the k-th context of its core, with a program-area start (R76, R228). The member and the
started contexts of a task that a walker dispatched take the arguments of its node (R237). -/
def newCtx (s : State) (id : Nat) (l : Launch) (pos k base : Nat) : Ctx :=
  let r := l.claims.ctxs.find? fun r => r.ctx = k
  let args : List Word := match r with
    | some r => l.args.getD r.args
    | none => if k = 0 then l.args.getD [] else []
  let regs : Sparse Word := args.zipIdx.map fun x => (x.2 + 1, x.1)
  { mode := if r.isSome then .run else .halted, s := regs, pc := match r with | some r => l.text + r.entry | none => 0#64, cid := l.cid,
    pos := BitVec.ofNat 7 pos, lock := l.claims.lock && decide (k = 0), det := l.claims.det, sysok := tenantSysok s l.quarter l.cid,
    fuse := (r.map CtxRecord.fuse).getD 0#2, quads := (r.map (·.quads)).getD 0#4, pri := (r.map (·.pri)).getD 0#3, mpc := l.meta_,
    svcent := l.svcent, perm := permTable (l.perms.map fun e => e.placed base), task := some id, index := k, spadBase := base,
    spadLen := l.claims.spad, barFirst := l.claims.bfirst, barCount := l.claims.bcount, profiles := l.claims.prof }

/-- What the start does on one core: barriers of the range at reset (R194), spad sections zero (R21), no line older than the task (R215),
and its contexts bound. -/
def startCore (id : Nat) (l : Launch) (pos core : Nat) (keys : List Nat) (base : Nat) : Act := fun s =>
  let inRange (b : Nat) : Bool := decide (l.claims.bfirst ≤ b) && decide (b < l.claims.bfirst + l.claims.bcount)
  Act.seqs [modCore core fun x => { x with bars := x.bars.filter fun b => !inRange b.1, barIn := x.barIn.filter fun b => !inRange b.bar,
                                           vcache := x.vcache.filter fun v => !(v.cid = l.cid || v.cid = 0#8) },
    Act.each (l.perms.filter fun e => e.kind = .spad) fun e => storeBytes (spadPlace core (base + e.base.toNat)) (List.replicate e.bound.toNat 0#8),
    Act.each keys.zipIdx fun k s => [.ctx k.1 (newCtx s id l pos k.2 base)]] s

/-- START_TICK (R230): the binding takes effect in every context at once, while the slice of its tenant runs (R227). -/
def startTask (id : Nat) : Act := fun s =>
  match s.launches.find id with
  | none => []
  | some l =>
    if l.stage ≠ .bound ∨ s.now < l.start ∨ !sliceRuns s l.quarter l.cid.toNat then []
    else Act.seqs [Act.each (l.cores.zip (l.members.zip l.bases)).zipIdx fun x => startCore id l x.2 x.1.1 x.1.2.1 x.1.2.2,
      modLaunch id fun l => { l with stage := .running }, fun _ => [.gang id (some {})]] s
/-- The meaning of START_TICK. -/
def execStartTick (task : Nat) (s : State) : Host.Outcome State Fault Refusal := done (startTask task) s

/-! The end of a task (R226, R231). -/

/-- Whether a save of a tenant that another one displaces holds contexts of a task (R273). -/
def taskSaved (s : State) (id : Nat) : Bool := s.saves.any fun x => x.2.ctxs.any fun y => y.2.task = some id

/-- Whether every context of a task is HALTED with no child queued or running (R226). The contexts of a saved task are not. -/
def taskHalted (s : State) (id : Nat) (l : Launch) : Bool :=
  !taskSaved s id && (taskContexts s id).all (fun k => (s.ctx k).mode = .halted && (s.ctx k).child.isNone) &&
    !(l.cores.any fun c => (s.core c).deque.any fun x => x.task = id)

/-- Whether an M operation is a matrix drain. -/
def MOp.drains (m : MOp) : Bool := match m.instr with | some (.mdrain _) => true | some (.mdrainV _) => true | _ => false

/-- Whether every store, copy and matrix drain of a task is performed (R26, R226): a saved task may hold some as records. -/
def taskPerformed (s : State) (id : Nat) : Bool :=
  !taskSaved s id && (taskContexts s id).all fun k =>
    (s.ctx k).mode = .halted && !((s.ctx k).mops.any MOp.drains) && !(s.accs.any fun x => x.2.key = k && x.2.what.writes) &&
      !(s.copies.any fun x => x.2.key = k) && !(s.mcasts.any fun x => x.2.key = k && !x.2.landed)

/-- What TASK_COMPLETION does with a task on this cycle, where it changes anything. -/
def completionStep (s : State) (id : Nat) : Option Act :=
  match s.launches.find id with
  | none => none
  | some l =>
    match l.stage with
    | .running => if taskHalted s id l then some (modLaunch id fun l => { l with stage := .completing }) else none
    | .completing =>
      if l.ended then (if taskContexts s id = [] then some (finishLaunch id l.status) else none)
      else if taskPerformed s id then some (Act.seq (Act.each (taskContexts s id) unbind) (finishLaunch id 0#16))
      else none
    | _ => none

/-- TASK_COMPLETION (R226, R231). -/
def taskCompletion (id : Nat) : Act := fun s => match completionStep s id with | some f => f s | none => []
/-- The meaning of TASK_COMPLETION. -/
def execTaskCompletion (task : Nat) (s : State) : Host.Outcome State Fault Refusal := done (taskCompletion task) s

/-! Replays (R237 to R240). -/

/-- A record of a graph walker (R372). -/
def graphRecord (g : Graph) (walker : Nat) (code : BitVec 16) (node va : Nat) : Act :=
  postTenant g.quarter g.cid.toNat
    { code := code, sev := 3#3, etype := 9#8, die := BitVec.ofNat 8 (walker / 12), unit := BitVec.ofNat 8 (walker % 12),
      va := BitVec.ofNat 52 va, action := 0x0003#16, detail := BitVec.ofNat 64 node }

/-- A replay starts running: one path at the root (R237, R238). -/
def runReplay (slot id : Nat) : Act := fun s =>
  match s.graphs.find slot with
  | none => []
  | some g => Act.seqs [modGraph slot fun g => { g with running := some id, accepted := none },
      modReplay id fun r => { r with paths := if r.status = 0#16 then pathsTo s.now [g.root] else [] },
      modLaunch id fun l => { l with stage := .running }] s

/-- The replay launch that its walker accepts on this cycle: the head of the running tenant's queue, whose graph has no ACCEPTED replay. -/
def acceptable (s : State) (id : Nat) : Option (Launch × Nat × Graph) :=
  match s.launches.find id with
  | none => none
  | some l =>
    match l.graph with
    | none => none
    | some slot =>
      match s.graphs.find slot with
      | none => none
      | some g =>
        if sliceRuns s l.quarter l.cid.toNat && (queueHead s l.quarter l.cid.toNat).map (·.1) = some id && g.accepted.isNone then
          some (l, slot, g) else none

/-- The replay that a walker accepts (R238): its parameter block as it is captured, or the status of a block that cannot be read (log entry 38). -/
def captured (s : State) (l : Launch) (g : Graph) : Replay :=
  match tenantRead s l.quarter l.cid g.pb g.pblen (Config.freeOrder s.free 2 % 3 = 1) with
  | .ok b => { block := b }
  | .error _ => { block := [], status := codeGraphRead }

/-- REPLAY_ACCEPT (R238): the parameter block is captured, and the replay runs at once where none does. A block that cannot be read ends
the replay with GRAPH_READ and its record (R372; log entry 38). -/
def replayAccept (id : Nat) : Act := fun s =>
  match acceptable s id with
  | none => []
  | some (l, slot, g) =>
    let r := captured s l g
    Act.seqs [fun _ => [.free, .replay id (some r)],
      Act.when (decide (r.status ≠ 0#16)) (graphRecord g (slot / 4) codeGraphRead g.root g.pb), modGraph slot fun g => { g with accepted := some id },
      modBlock l.quarter l.cid.toNat fun b => { b with queue := b.queue.erase id }, modLaunch id fun l => { l with stage := .bound },
      Act.when g.running.isNone (runReplay slot id)] s
/-- The meaning of REPLAY_ACCEPT. -/
def execReplayAccept (launch : Nat) (s : State) : Host.Outcome State Fault Refusal := done (replayAccept launch) s

/-- The paths of a walker's running replays that stand at a node since an earlier cycle, with their graph slots and replays (R240): those that reach their
nodes on one cycle are evaluated from the next on, so that they are all there (log entry 99). -/
def readyPaths (s : State) (walker : Nat) : List (Nat × Nat × Path) :=
  (List.range 4).flatMap fun i =>
    match s.graphs.find (walker * 4 + i) with
    | none => []
    | some g => match g.running with
      | none => []
      | some r => match s.replays.find r with
        | none => []
        | some x => (x.paths.filter fun p => p.waits.isNone && decide (p.since < s.now)).map fun p => (walker * 4 + i, r, p)

/-- The earlier of two paths: by arrival, and of one cycle by node (R240). -/
def earlierPath (a b : Nat × Nat × Path) : Nat × Nat × Path :=
  if b.2.2.since < a.2.2.since ∨ (b.2.2.since = a.2.2.since ∧ b.2.2.node < a.2.2.node) then b else a

/-- The path that a walker evaluates on this cycle. -/
def nextPath (s : State) (walker : Nat) : Option (Nat × Nat × Path) :=
  if s.now < s.walkerFree.get 0 walker then none
  else match readyPaths s walker with
    | [] => none
    | x :: r => some (r.foldl earlierPath x)

/-- A path ends with an error of its graph: the status of the replay, and a record, if it is still 0 (R237, R239). -/
def failPath (g : Graph) (walker replay : Nat) (code : BitVec 16) (node va : Nat) : Act := fun s =>
  match s.replays.find replay with
  | none => []
  | some r => Act.seq (Act.when (r.status = 0#16) (graphRecord g walker code node va)) (modReplay replay fun r => r.fail code) s

/-- A condition word, or none where its read faults (R239). Whether the far side of a path answers with an error is free (log entry 2). -/
def conditionWord (s : State) (g : Graph) (i : Nat) : Option Nat :=
  match tenantRead s g.quarter g.cid (g.cw + 8 * i) 8 (Config.freeOrder s.free 2 % 3 = 1) with
  | .ok b => some (leNat b)
  | .error _ => none

/-- A path goes on from its node. -/
def goOn (replay : Nat) (succ : List Nat) : Act := fun s => modReplay replay (fun r => { r with paths := r.paths ++ pathsTo s.now succ }) s

/-- The arguments that a TASK node gives its task (R237). -/
def nodeArgs (block : List Byte) (x : Nat) : Option (List Word) :=
  if x = 0xFFFFFFFF then none else some ((List.range 4).map fun i => BitVec.ofNat 64 (numAt block (x + 8 * i) 8))

/-- A path acts at its node (R237). -/
def evaluate (walker slot replay : Nat) (p : Path) (g : Graph) (r : Replay) : Act := fun s =>
  let n := g.nodes.getD p.node ⟨0#64, 0#64⟩
  let take : Act := modReplay replay fun r => { r with paths := r.paths.erase p }
  match n.kind with
  | 1 =>
    if r.status ≠ 0#16 then take s
    else Act.seq take (withId fun id => Act.seq (fun s => [.launch id (some
        { origin := .walker slot replay p.node, quarter := g.quarter, cid := g.cid, img := g.image, lbase := g.lbase, entry := n.arg,
          noload := true, args := nodeArgs r.block n.x, ready := s.now })])
      (modReplay replay fun r => { r with tasks := r.tasks ++ [id], paths := r.paths ++ [{ p with waits := some id }] })) s
  | 2 =>
    (match conditionWord s g n.arg with
     | none => Act.seq take (failPath g walker replay codeGraphRead p.node (g.cw + 8 * n.arg)) s
     | some w => Act.seq take (goOn replay [if w ≠ 0 then n.succ0 else n.succ1]) s)
  | 3 =>
    (match conditionWord s g n.arg with
     | none => Act.seq take (failPath g walker replay codeGraphRead p.node (g.cw + 8 * n.arg)) s
     | some w =>
       let pass := r.passes.get 0 p.node
       let setPass (k : Nat) : Act := modReplay replay fun r => { r with passes := r.passes.set p.node k }
       if w ≠ 0 then
         if pass = n.x then Act.seq take (failPath g walker replay codeGraphLoop p.node 0) s
         else Act.seqs [take, setPass (pass + 1), goOn replay [n.succ0]] s
       else Act.seqs [take, setPass 0, goOn replay [n.succ1]] s)
  | _ =>
    let arr := r.joins.get 0 p.node + 1
    let setJoin (k : Nat) : Act := modReplay replay fun r => { r with joins := r.joins.set p.node k }
    if arr = n.arg then Act.seqs [take, setJoin 0, goOn replay [n.succ0]] s else Act.seq take (setJoin arr) s

/-- NODE_EVALUATION (R240): a walker evaluates its next path and starts no other for 4 cycles. -/
def nodeEvaluation (walker : Nat) : Act := fun s =>
  match nextPath s walker with
  | none => []
  | some (slot, replay, p) =>
    match s.graphs.find slot, s.replays.find replay with
    | some g, some r => Act.seq (evaluate walker slot replay p g r) (fun s => [.free, .walker walker (s.now + 4)]) s
    | _, _ => []
/-- The meaning of NODE_EVALUATION. -/
def execNodeEvaluation (walker : Nat) (s : State) : Host.Outcome State Fault Refusal := done (nodeEvaluation walker) s

/-- The graph slot of a running replay that has ended: no path remains and every task it dispatched is DONE (R237). -/
def endedReplay (s : State) (id : Nat) : Option (Nat × Graph × Replay) :=
  match s.graphs.find? (fun x => x.2.running = some id), s.replays.find id with
  | some x, some r => if r.paths = [] ∧ r.tasks = [] then some (x.1, x.2, r) else none
  | _, _ => none

/-- REPLAY_END (R237, R238): the status is posted, and an ACCEPTED replay of the graph runs. -/
def replayEnd (id : Nat) : Act := fun s =>
  match endedReplay s id with
  | none => []
  | some (slot, g, r) =>
    Act.seqs [modGraph slot fun g => { g with running := none }, fun _ => [.replay id none], finishLaunch id r.status,
      match g.accepted with
      | some n => runReplay slot n
      | none => Act.skip] s
/-- The meaning of REPLAY_END. -/
def execReplayEnd (launch : Nat) (s : State) : Host.Outcome State Fault Refusal := done (replayEnd launch) s

end Sys2Proof.Machine
end

