-- ==== Sys2Proof/Machine/Switch.lean ====
section
/-!
DEFINITION. Tenant slices and gang switches (R253, R273 to R276, R349): the tick, the saves and their deadline, the restore, and the first slice of a
partition.
-/
namespace Sys2Proof.Machine

/-! The choice of a tenant (R348, R349). -/

/-- The compute-core contexts of a partition that a tenant holds, by key. -/
def heldBy (s : State) (q cid : Nat) : List Nat :=
  (s.ctxs.filter fun x => !isService (coreOf x.1) && partOf s.pkg (coreOf x.1) = q && x.2.cid.toNat = cid && x.2.mode ≠ .unbound).map (·.1)

/-- Whether a tenant has work in a partition (R348). -/
def hasWork (s : State) (q cid : Nat) : Bool :=
  (s.block q cid).queue ≠ [] || (heldBy s q cid).any (fun k => (s.ctx k).mode ≠ .halted) ||
    s.saves.any fun x => x.2.quarter = q && x.2.cid.toNat = cid && x.2.ctxs ≠ []

/-- The tenant of a slot that is valid, with its priority. -/
def slotTenant (x : Quarter) (k : Nat) : Option (Nat × Nat) :=
  let w := x.tslot.get 0#64 k
  if w.getLsbD 63 then some ((w.extractLsb' 60 3).toNat, (w.extractLsb' 0 8).toNat) else none

/-- The slots in order after a slot, which comes last. -/
def slotsAfter (k : Nat) : List Nat := (List.range 16).map fun i => (k + 1 + i) % 16

/-- The tenants of slots in an order, with their priorities, that have work and meet a condition. -/
def workers (s : State) (q : Nat) (order : List Nat) (ok : Nat → Bool) : List (Nat × Nat) :=
  (order.filterMap (slotTenant (s.quarter q))).filter fun x => hasWork s q x.2 && ok x.2

/-- The highest priority of a list of tenants. -/
def topPri (l : List (Nat × Nat)) : Nat := l.foldl (fun n x => max n x.1) 0

/-- The first tenant of the highest priority (R349). -/
def chooseTenant (l : List (Nat × Nat)) : Option Nat := (l.find? fun x => x.1 = topPri l).map (·.2)

/-- The lowest slot of a tenant. -/
def slotOf (x : Quarter) (cid : Nat) : Option Nat := (List.range 16).find? fun k => (slotTenant x k).any fun y => y.2 = cid

/-- The order of the slots at a tick, after the slot of the outgoing tenant (R349). -/
def tickOrder (s : State) (q out : Nat) : List Nat := slotsAfter ((slotOf (s.quarter q) out).getD 15)

/-- The tenant due at a gang switch tick (R349). -/
def dueTenant (s : State) (q out : Nat) : Option Nat := chooseTenant (workers s q (tickOrder s q out) fun _ => true)

/-- The tenant whose slice begins in a partition without a running tenant (R349): that of the highest priority, in the lowest slot, that has work. -/
def firstTenant (s : State) (q : Nat) : Option Nat :=
  if lowest s.pkg q = q ∧ (s.quarter q).running = none then chooseTenant (workers s q (List.range 16) fun _ => true) else none
/-- SLICE_START (R349). -/
def sliceStart (q : Nat) : Act := fun s =>
  match firstTenant s q with
  | some cid => Act.seq (fun s => [.served (sliceMark q :: s.served)]) (modQuarter q fun x => { x with running := some cid }) s
  | none => []
/-- The meaning of SLICE_START. -/
def execSliceStart (quarter : Nat) (s : State) : Host.Outcome State Fault Refusal := done (sliceStart quarter) s

/-! The tick (R273). -/

/-- The outgoing tenant of a gang switch tick that falls on this cycle (R349): not where the slice began on it. -/
def tickFalls (s : State) (q : Nat) : Option Nat :=
  let x := s.quarter q
  if lowest s.pkg q = q ∧ s.now % x.period = 0 ∧ x.switch = none ∧ tickMark q ∉ s.served ∧ sliceMark q ∉ s.served then x.running else none

/-- Whether a tenant has a save area in a partition (R349). -/
def hasSaveArea (s : State) (q cid : Nat) : Bool := (s.block q cid).savea.getLsbD 0

/-- The cores of a die, counted over the package. -/
def coresOfDie (d : Nat) : List Nat := (List.range 96).map fun i => d * 96 + i

/-- The bytes of a core's slot of a save area (R349). -/
def saveSlot : Nat := 6 * 2 ^ 20

/-- The address of a core's slot in a tenant's save area (R349). -/
def slotAddr (s : State) (q cid g : Nat) : Nat :=
  ((s.block q cid).savea.extractLsb' 12 40).toNat * 4096 + saveSlot * (g - ((diesOf s.pkg q).headD 0) * 96)

/-- The place of a core's slot, where its frame takes the save engine's accesses (R253). -/
def slotSpot (s : State) (q cid g : Nat) : Option Spot := (locate s q 0xFF#8 (slotAddr s q cid g) useSave (BitVec.ofNat 8 cid)).toOption

/-- Whether the frames of the slots of some cores in a tenant's save area may take its save engine's accesses (R253, R349): the area lies in the
hypervisor's space, and every frame reads USE save area with OWN the tenant. Where the slots' bytes lie is the device's own, so that all of them
are looked at (log entry 59). -/
def areaStands (s : State) (q cid : Nat) (cores : List Nat) : Bool :=
  cores.all fun g =>
    let a := slotAddr s q cid g
    (List.range ((a + saveSlot - 1) / 65536 - a / 65536 + 1)).all fun i =>
      match locate s q 0xFF#8 (max a ((a / 65536 + i) * 65536)) useSave (BitVec.ofNat 8 cid) with
      | .ok _ => true
      | .error _ => false

/-- The cores of a die whose state a tenant's save holds: those with one of its contexts (R273). -/
def savedCores (s : State) (q cid d : Nat) : List Nat := (coresOfDie d).filter fun c => (heldBy s q cid).any fun k => coreOf k = c

/-- SAVE_LATE of a partition (R276, R349). -/
def saveLateRecord (q : Nat) (die : Nat) (why : BitVec 8) (action : BitVec 16) (detail : Nat) : Act :=
  postHypervisor q { code := codeSaveLate, why := why, sev := 1#3, etype := 11#8, die := BitVec.ofNat 8 die, action := action,
                     detail := BitVec.ofNat 64 detail }

/-- The SAVE_LATE of a tenant without a save area; the die it names is a free one of the partition (log entry 2). -/
def noAreaRecord (q cid : Nat) : Act := fun s =>
  if hasSaveArea s q cid then []
  else
    let ds := diesOf s.pkg q
    withFree (fun n => saveLateRecord q (ds.getD (n % ds.length) 0) 2#8 0#16 cid) s

/-- A context stops for a save; a context that is PARKED, or held as a lockstep peer, is saved as it is (R264, R273, R277). -/
def stopForSave (key : Nat) : Act := fun s =>
  let c := s.ctx key
  match c.mode with
  | .run => takeStop key .save { code := 0#16 } s
  | .service => takeStop key .save { code := 0#16 } s
  | .halted => takeStop key .save { code := 0#16 } s
  | .parked => Act.seq (dropClaims key) (fun _ => [.ctx key { c with mode := .saved, savedAs := .parked }]) s
  | .stopping =>
    if c.held then [.ctx key { c with mode := .saved, savedAs := .stopping }]
    else if c.stop.any (fun st => st.kind = .unbind || st.kind = .save) then []
    else takeStop key .save { code := 0#16 } s
  | _ => []

/-- The program-area bytes that a die saves of a tenant (R273). -/
def savedBytes (s : State) (q cid d : Nat) : Nat :=
  (distinct (((heldBy s q cid).filter fun k => dieOf (coreOf k) = d).map fun k => (coreOf k, (s.ctx k).spadBase, (s.ctx k).spadLen))).foldl
    (fun n x => n + x.2.2) 0

/-- The save of a die begins: it ends no earlier than its program-area bytes take, and a free time for the rest (R273; log entry 2). -/
def startSave (q cid d : Nat) : Act := fun s =>
  withFree (fun n => modQuarter q fun x => { x with saveAt := x.saveAt.set d (s.now + 1 + savedBytes s q cid d / 1280 + n) }) s

/-- GANG_SWITCH_TICK (R273, R349). -/
def gangSwitchTick (q : Nat) : Act := fun s =>
  match tickFalls s q with
  | none => []
  | some out =>
    Act.seq (fun s => [.served (tickMark q :: s.served)]) (fun s =>
      match dueTenant s q out with
      | none => []
      | some due =>
        if due = out then []
        else if !(hasSaveArea s q out && hasSaveArea s q due) then Act.seq (noAreaRecord q out) (noAreaRecord q due) s
        else Act.seqs [modQuarter q fun x => { x with switch := some s.now, switchDue := some due, switchTo := none, savedDies := [], saveAt := [], saveTok := [] },
            Act.each (liveDies s q) (startSave q out), Act.each (heldBy s q out) stopForSave] s) s
/-- The meaning of GANG_SWITCH_TICK. -/
def execGangSwitchTick (quarter : Nat) (s : State) : Host.Outcome State Fault Refusal := done (gangSwitchTick quarter) s

/-! The return of saved contexts (R264, R274, R277). -/

/-- Whether another member of a context's lockstep gang returns with a cause of its own: the gang resumes only after that member has (R277). -/
def gangHasCause (s : State) (key : Nat) : Bool :=
  (s.ctx key).lock && (lockMembers s key).any fun m => m ≠ key && (s.ctx m).savedStop.any fun st => st.kind ≠ .peer

/-- The claims of a priority queue that a context saved in SERVICE waits with, one that parks on its return among them, are made again on a cycle (R262,
R264). -/
def claimAgain (t0 key : Nat) : Act := fun s =>
  let c := s.ctx key
  let ids := c.pending.filterMap fun p => match p.src with | .pqClaim id => some id | _ => none
  if ids = [] then [] else modDie (dieOf (coreOf key)) (fun d => { d with pqMoves := d.pqMoves ++ ids.map fun id =>
    ({ id := id, due := t0 + 13, ctx := key, cid := c.cid, push := none, det := c.det } : PqMove) }) s

/-- A saved context returns to its saved state, or enters the state that a cause kept with it gives, from a cycle t0 (R264, R271, R274); a lockstep
member whose gang has such a cause is held (R277). -/
def returnSaved (t0 key : Nat) : Act := fun s =>
  let c := s.ctx key
  let back (m : Mode) : Ctx := { c with mode := m, savedAs := .run, fetched := [], notBefore := max c.notBefore (t0 + 1) }
  let held (halted : Bool) (st : Stop) : List Effect :=
    [.ctx key { back .stopping with held := true, stop := some { st with kind := .peer, wasHalted := halted }, savedStop := none }]
  match c.savedStop with
  | some st =>
    if st.kind = .peer then held st.wasHalted st
    else Act.seqs [fun _ => [.ctx key (back .stopping)], enterCause key st, modCtx key fun c => { c with notBefore := max c.notBefore (t0 + 1) }, claimAgain t0 key] s
  | none =>
    match c.savedAs with
    | .run =>
      if gangHasCause s key then held false { kind := .peer, t := t0 }
      else Act.seq (fun _ => [.ctx key (back .run)]) (reissueAll key t0) s
    | .halted =>
      if gangHasCause s key then held true { kind := .peer, t := t0 }
      else Act.seq (fun _ => [.ctx key (back .halted)]) (reissueAll key t0) s
    | .service => Act.seq (fun _ => [.ctx key (back .service)]) (claimAgain t0 key) s
    | m => Act.seq (fun _ => [.ctx key (back m)]) (claimAgain t0 key) s

/-- Saved contexts return together: those without a cause of their own while the causes of their gangs still stand. -/
def returnAll (t0 : Nat) (ks : List Nat) : Act := fun s =>
  Act.each ((ks.filter fun k => (s.ctx k).savedStop.isNone) ++ ks.filter fun k => (s.ctx k).savedStop.isSome) (returnSaved t0) s

/-- The saved contexts that stand in a partition, by key. -/
def standingSaved (s : State) (q : Nat) : List Nat :=
  (s.ctxs.filter fun x => !isService (coreOf x.1) && partOf s.pkg (coreOf x.1) = q && x.2.mode = .saved).map (·.1)

/-! The saves (R273, R275). -/

/-- Whether a die's save can be complete on this cycle (R273): its copy is written, which an area that refuses it never takes. -/
def saveDue (s : State) (q d : Nat) : Bool :=
  let x := s.quarter q
  match x.switch, x.running with
  | some _, some out =>
    x.switchTo.isNone && decide (d ∈ liveDies s q) && !decide (d ∈ x.savedDies) && decide (x.saveAt.get 0 d ≤ s.now) &&
      ((heldBy s q out).all fun k => dieOf (coreOf k) ≠ d || (s.ctx k).mode = .saved) && areaStands s q out (savedCores s q out d)
  | _, _ => false

/-- The saved contexts of a die that a save given up left behind (R276). -/
def leftSaved (s : State) (q d : Nat) : List Nat :=
  if (s.quarter q).switch.isSome then [] else (standingSaved s q).filter fun k => dieOf (coreOf k) = d && some (s.ctx k).cid.toNat = (s.quarter q).running

/-- The incoming tenant, as the last save completes (R275): a tenant of a higher priority than the one due takes the slice, where it has a save
area; failing a tenant that is still bound, the outgoing one keeps it. -/
def incoming (s : State) (q out : Nat) : Nat :=
  let x := s.quarter q
  let pri := (x.switchDue.bind fun d => (slotOf x d).bind (slotTenant x)).map (·.1)
  match x.switchDue, pri with
  | some d, some p =>
    let l := (workers s q (tickOrder s q out) (hasSaveArea s q)).filter fun y => decide (p < y.1)
    (chooseTenant l).getD d
  | _, _ => (chooseTenant (workers s q (tickOrder s q out) (hasSaveArea s q))).getD out

/-- When every live die has saved, the incoming tenant is chosen (R275). -/
def chooseIncoming (q : Nat) : Act := fun s =>
  let x := s.quarter q
  match x.running with
  | some out =>
    if (liveDies s q).all fun d => decide (d ∈ x.savedDies) then
      modQuarter q (fun x => { x with switchTo := some (incoming s q out), running := some (incoming s q out) }) s
    else []
  | none => []

/-- What the save engine writes into the slot of a core: the layout is the device's own, so that the first word stands for all of the slot, with a value
that is free for every save (R349; log entry 59). -/
def writeSlot (q cid n g : Nat) : Act := fun s =>
  match slotSpot s q cid g with
  | some sp => Act.seq (applyWrite sp (leBytes (Config.freeOrder n g) 32)) (modQuarter q fun x => { x with saveTok := x.saveTok.set g (Config.freeOrder n g) }) s
  | none => []

/-- The copy of a die's save is written into the slots of its cores (R273, R349). -/
def writeSave (q d : Nat) : Act := fun s =>
  let cid := (s.quarter q).running.getD 0
  withFree (fun n => Act.each (savedCores s q cid d) (writeSlot q cid n)) s

/-- SAVE_COMPLETE (R273, R275); where the save was given up, the contexts of the die return (R276). -/
def saveComplete (q d : Nat) : Act := fun s =>
  if saveDue s q d then Act.seqs [writeSave q d, modQuarter q fun x => { x with savedDies := x.savedDies ++ [d] }, chooseIncoming q] s
  else returnAll s.now (leftSaved s q d) s
/-- The meaning of SAVE_COMPLETE. -/
def execSaveComplete (quarter die : Nat) (s : State) : Host.Outcome State Fault Refusal := done (saveComplete quarter die) s

/-! The deadline (R276). -/

/-- The mark of a partition whose save deadline has fallen on this cycle. -/
def deadlineMark (q : Nat) : Nat := 50000 + q

/-- Whether the deadline of a partition's saves falls on this cycle (R274). -/
def deadlineFalls (s : State) (q : Nat) : Bool :=
  (s.quarter q).switch.any (fun t => t + 40000 = s.now) && !decide (deadlineMark q ∈ s.served)

/-- The mask of the fenced dies. -/
def fencedMask (s : State) : Word := BitVec.ofNat 64 ((List.range 24).foldl (fun n d => if (s.die d).fenced || s.pkg.fenced.getLsbD d then n + 2 ^ d else n) 0)

/-- A task ends with DIE_FENCED (R276, R372). -/
def fenceTask (q d t : Nat) : Act := fun s =>
  match s.launches.find t with
  | none => []
  | some l =>
    let r : ErrRecord := { code := codeDieFenced, sev := 5#3, etype := 11#8, die := BitVec.ofNat 8 d, action := 5#16, detail := fencedMask s }
    Act.seqs [postTenant q l.cid.toNat r, postHypervisor q r, endTask t codeDieFenced] s

/-- A die is fenced out of its partition (R276). -/
def fenceDie (q out d : Nat) : Act := fun s =>
  let ks := (heldBy s q out).filter fun k => dieOf (coreOf k) = d
  Act.seqs [modDie d fun x => { x with fenced := true }, Act.each (distinct (ks.filterMap fun k => (s.ctx k).task)) (fenceTask q d),
    Act.each ks unbind] s

/-- SAVE_DEADLINE (R276). -/
def saveDeadline (q : Nat) : Act := fun s =>
  if !deadlineFalls s q then []
  else
    let x := s.quarter q
    let late := (liveDies s q).filter fun d => !decide (d ∈ x.savedDies)
    let fence := late.filter fun d => (s.die d).missed = 2
    Act.seqs [fun s => [.served (deadlineMark q :: s.served)],
      Act.each (liveDies s q) fun d => modDie d fun y => { y with missed := if d ∈ late then y.missed + 1 else 0 },
      Act.each late fun d s =>
        let n := (s.die d).missed
        saveLateRecord q d 1#8 (if n = 3 then 5#16 else 0#16) n s,
      if late = [] then Act.skip
      else if fence = [] then Act.seq (modQuarter q fun x => { x with switch := none, switchDue := none, savedDies := [], saveAt := [], saveTok := [] })
        (returnAll s.now (standingSaved s q))
      else Act.seq (Act.each fence (fenceDie q (x.running.getD 0))) (chooseIncoming q)] s
/-- The meaning of SAVE_DEADLINE. -/
def execSaveDeadline (quarter : Nat) (s : State) : Host.Outcome State Fault Refusal := done (saveDeadline quarter) s

/-! The restore (R274). -/

/-- The cores whose state the save of a tenant holds. -/
def Saved.coreList (v : Saved) : List Nat := distinct (v.ctxs.map fun x => coreOf x.1)

/-- The cores whose slots the restore of a tenant reads: those of its save, or of its contexts that stand saved where it keeps the partition. -/
def incomingCores (s : State) (q cid : Nat) : List Nat :=
  match s.saves.find (q * 256 + cid) with
  | some v => v.coreList
  | none => distinct (((standingSaved s q).filter fun k => (s.ctx k).cid.toNat = cid).map coreOf)

/-- Whether the incoming tenant of a partition is restored on this cycle (R274): its save area must take the reads of the save engines (R253; log entry
59). -/
def restoreDue (s : State) (q : Nat) : Option Nat :=
  let x := s.quarter q
  match x.switch, x.switchTo with
  | some t, some cid =>
    if t + 80000 ≤ s.now ∧ areaStands s q cid (incomingCores s q cid) then some cid else none
  | _, _ => none

/-- The ranges of a core's scratchpad that a save holds of a context: its task's range and its carve-out, where its Vitrine and cover map lie
(R265, R273, R292). -/
def inSavedRange (core a : Nat) (x : Nat) (c : Ctx) : Bool :=
  (decide (spadPlace core c.spadBase ≤ a) && decide (a < spadPlace core (c.spadBase + c.spadLen))) ||
    (decide (spadPlace core (carveOut x) ≤ a) && decide (a < spadPlace core (carveOut (x + 1))))

/-- The cells that the save of some contexts holds. -/
def savedCells (s : State) (ks : List Nat) : List (Nat × Byte) :=
  s.mem.filter fun m => ks.any fun k => inSavedRange (coreOf k) m.1 (ctxOf k) (s.ctx k)

/-- The tenant of contexts that stand saved leaves them to another (R273); the return predictor is not saved (R114). -/
def swapOut (q : Nat) (ks : List Nat) : Act := fun s =>
  match ks with
  | [] => []
  | k :: _ =>
    let cid := (s.ctx k).cid
    let cores := distinct (ks.map coreOf)
    let v : Saved := { quarter := q, cid := cid, ctxs := ks.map fun k => (k, { s.ctx k with predictor := [] }),
                       cores := cores.map fun c => (c, (s.core c).bars, (s.core c).deque), ranges := savedCells s ks, toks := (s.quarter q).saveTok }
    Act.seqs [fun _ => [.save (q * 256 + cid.toNat) (some v)], modQuarter q fun x => { x with saveTok := [] }, Act.each ks fun k _ => [.ctx k {}],
      Act.each cores fun c => modCore c fun x => { x with bars := [], deque := [], barIn := [] }] s

/-- The bytes of the ranges of saved contexts, as they were when they were saved. -/
def restoreCells (v : Saved) : Act := fun s =>
  let ks := v.ctxs
  let old := s.mem.filter fun m => ks.any fun x => inSavedRange (coreOf x.1) m.1 (ctxOf x.1) x.2
  old.map (fun m => .mem m.1 [0#8]) ++ v.ranges.map fun m => .mem m.1 [m.2]

/-- A tenant's saved contexts stand again, saved (R274). -/
def swapIn (q cid : Nat) : Act := fun s =>
  match s.saves.find (q * 256 + cid) with
  | none => []
  | some v => Act.seqs [restoreCells v, Act.each v.ctxs fun x _ => [.ctx x.1 x.2],
      Act.each v.cores fun x => modCore x.1 fun c => { c with bars := x.2.1, deque := x.2.2 },
      modQuarter q fun x => { x with saveTok := v.toks }, fun _ => [.save (q * 256 + cid) none]] s

/-- A context whose slot holds other bytes than its save wrote: what the restore makes of them is free (log entry 59). -/
def Ctx.scrambled (n : Nat) (c : Ctx) : Ctx :=
  let w (k i : Nat) : Nat := Config.freeOrder (Config.freeOrder n k) i
  { c with s := (List.range 63).map fun i => (i + 1, BitVec.ofNat 64 (w 0 i)), v := (List.range 64).map fun i => (i, BitVec.ofNat 1024 (w 1 i)),
           o := (List.range 8).map fun i => (i, BitVec.ofNat 1024 (w 2 i)), lp := (List.range 4).map fun i => (i, BitVec.ofNat 64 (w 3 i)),
           acc := c.acc.map fun x => (x.1, BitVec.ofNat 32 (w 4 x.1)) }

/-- The contexts of a core, and the scratchpad ranges of its tenant, as a restore reads them from bytes that their save did not write. -/
def scrambleCore (ks : List Nat) : Act := fun s =>
  withFree (fun n => Act.seq (fun s => (savedCells s ks).map fun m => .mem m.1 [BitVec.ofNat 8 (Config.freeOrder n m.1)])
    (Act.each ks fun k => modCtx k (Ctx.scrambled (n + k)))) s

/-- The message of an uncorrectable error in a save area (R325). -/
def areaError (s : State) (key : Nat) : FaultMsg :=
  { key := key, bseq := (s.ctx key).bseq, slot := 7, code := codeUncorrectable, why := 0x4A#8, va := 0#52, elem := 0#6, home := 0xFF#8, access := 0,
    found := s.now }

/-- A core's slot is read back (R274, R349): a poisoned word gives UNCORRECTABLE to its contexts (R325, R326), and other bytes than those of its save give
free contents. -/
def readSlot (q cid g : Nat) : Act := fun s =>
  let ks := (standingSaved s q).filter fun k => coreOf k = g
  match slotSpot s q cid g, (s.quarter q).saveTok.find g with
  | some sp, some n =>
    if spotPoisoned s sp 32 then
      Act.seq (scrambleCore ks) (Act.each ks fun k s => Act.seq (countError q (some (s.ctx k).cid) .unc 1) (stopOnFault k (areaError s k)) s) s
    else if Memory.read s.mem (hbmPlace sp.die sp.loc) 32 = leBytes n 32 then []
    else scrambleCore ks s
  | _, _ => []

/-- The slots of the cores whose contexts stand saved are read back. -/
def readBack (q cid : Nat) : Act := fun s => Act.each (distinct ((standingSaved s q).map coreOf)) (readSlot q cid) s

/-- RESTORE (R274): at T + 80,000 the incoming tenant's contexts return to their saved states. -/
def restore (q : Nat) : Act := fun s =>
  match restoreDue s q with
  | none => []
  | some cid =>
    Act.seqs [Act.when (!(standingSaved s q).all fun k => (s.ctx k).cid.toNat = cid) (swapOut q (standingSaved s q)), swapIn q cid, readBack q cid,
      modQuarter q fun x => { x with switch := none, switchDue := none, switchTo := none, savedDies := [], saveAt := [], saveTok := [] },
      Act.on (fun s => standingSaved s q) (returnAll s.now)] s
/-- The meaning of RESTORE. -/
def execRestore (quarter : Nat) (s : State) : Host.Outcome State Fault Refusal := done (restore quarter) s

end Sys2Proof.Machine
end

