-- ==== Sys2Proof/Machine/Svc.lean ====
section
/-!
DEFINITION. The binding of service contexts (R350, R351).
-/
namespace Sys2Proof.Machine

/-- The key of service context j of a die (R351). -/
def svcKey (die j : Nat) : Nat := keyOf (computeCores + 4 * die + j / 8) (j % 8)
/-- A binding block of a die. -/
def Die.svcBlock (d : Die) (j : Nat) : SvcBlock := d.svc.get {} j
def modSvc (die j : Nat) (f : SvcBlock → SvcBlock) : Act := modDie die fun d => { d with svc := d.svc.set j (f (d.svcBlock j)) }

/-- SVCCFG of a CID, V, ERR and CODE (R351). -/
def svcCfg (v err : Bool) (cid : BitVec 8) (code : BitVec 16) : Word :=
  BitVec.ofBool v ++ BitVec.ofBool err ++ 0#6 ++ cid ++ 0#32 ++ code

/-- A GLOBAL entry of the permission table over a range of the control window. -/
def windowEntry (perm : BitVec 3) (base bound : Nat) : PermEntry :=
  { v := true, kind := .global, perm := perm, base := BitVec.ofNat 52 base, bound := BitVec.ofNat 53 bound }

/-- The entries 254 and 255 of a service context (R351). -/
def serviceEntries (q cid : Nat) : Sparse PermEntry :=
  [(254, windowEntry 1#3 (0xE000030000018 + 0x1000000 * q) 8), (255, windowEntry 3#3 (0xE000030010000 + 0x1000000 * q + 128 * cid) 128)]

/-- A service context as its binding makes it (R351): every register at its reset value (R76, R78, R79) but for the permission table; PC, the arguments,
PRI and DET are the image's, MPC its first metadata word, and SYSOK its tenant's. It is no gang member, and SVCENT is 0 (log entry 60). -/
def serviceCtx (m : Image) (lbase : Nat) (cid : BitVec 8) (sysok : Bool) (entries : Sparse PermEntry) : Ctx :=
  let e := m.entries[0]?
  let r := e.bind fun e => e.ctxs.head?
  { mode := .run, pc := BitVec.ofNat 64 (lbase + m.text) + r.elim 0#64 (·.entry), cid := cid,
    s := (r.elim [] (·.args)).zipIdx.map fun x => (x.2 + 1, x.1), pri := r.elim 0#3 (·.pri), mpc := m.metaStart lbase,
    det := e.any fun e => e.flags % 2 = 1, sysok := sysok,
    perm := permTable ((m.data.map fun x => x.entry lbase 0).take 254) ++ entries }

/-- A binding fails with a code (R351). -/
def svcFail (die j : Nat) (code : BitVec 16) : Act := modSvc die j fun b =>
  { b with cfg := svcCfg false true (b.cfg.extractLsb' 48 8) code, pending := none }

/-- Whether a binding that a write began can end on this cycle: the context it binds must be unbound. -/
def bindDue (s : State) (die j : Nat) : Bool :=
  (((s.die die).svcBlock j).pending.any fun t => decide (t ≤ s.now)) && (s.ctx (svcKey die j)).mode = .unbound

/-- SVC_BIND (R351, R354, R355): the checks of the image, its sections, and the start of the context. -/
def svcBind (die j : Nat) : Act := fun s =>
  if !bindDue s die j then []
  else
    let b := (s.die die).svcBlock j
    let cid := b.cfg.extractLsb' 48 8
    let q := lowest s.pkg (quarterOf die)
    let lbase := b.lb.toNat
    match readImage (virtualSource s q cid b.img.toNat) with
    | none => svcFail die j codeImgFetch s
    | some bytes =>
      if !signatureOk bytes (tenantKeys s q cid.toNat) then svcFail die j codeImgSig s
      else
        let m := parseImage bytes
        match m.fault lbase 0 true with
        | some _ => svcFail die j codeImgClaim s
        | none =>
          let ps := m.pieceList lbase
          match pieceHold s q cid (.svc die j) ps with
          | .out => Act.seq (releaseDevice (.svc die j)) (svcFail die j codeImgFetch) s
          | .waits => Act.seq (holdPieces q cid (.svc die j) ps) (modSvc die j fun b => { b with pending := some (s.now + 1) }) s
          | .none => Act.seqs [releaseDevice (.svc die j), writePieces q cid ps, match pieceFault s q cid ps with
            | some _ => svcFail die j codeImgFetch
            | none => Act.seq (fun _ => [.ctx (svcKey die j) (serviceCtx m lbase cid (tenantSysok s q cid) (serviceEntries q cid.toNat))])
                (modSvc die j fun b => { b with cfg := svcCfg true false cid 0#16, pending := none })] s
/-- The meaning of SVC_BIND. -/
def execSvcBind (die j : Nat) (s : State) : Host.Outcome State Fault Refusal := done (svcBind die j) s

/-- SVC_UNBIND (R351): V is cleared, and the context stops at its next bundle boundary and is unbound at the end of its STOPPING. -/
def svcUnbind (die j : Nat) : Act := fun s =>
  Act.seq (modSvc die j fun b => { b with cfg := setBit b.cfg 63 false, pending := none }) (stopUnbind (svcKey die j)) s
/-- The meaning of SVC_UNBIND. -/
def execSvcUnbind (die j : Nat) (s : State) : Host.Outcome State Fault Refusal := done (svcUnbind die j) s

/-- A write of SVCCFG (R351): CID is written; a write that sets V while it is 0 begins a binding, which ends after a free time, and one that
clears V unbinds. -/
def svcWrite (die j : Nat) (w : Word) : Act := fun s =>
  let b := (s.die die).svcBlock j
  let cid (b : SvcBlock) : SvcBlock := { b with cfg := (b.cfg &&& ~~~(0xFF#64 <<< 48)) ||| (w &&& (0xFF#64 <<< 48)) }
  Act.seq (modSvc die j cid) (
    if w.getLsbD 63 then
      if b.cfg.getLsbD 63 || b.pending.isSome then Act.skip
      else withFree fun n => modSvc die j fun b => { b with pending := some (s.now + 1 + n) }
    else svcUnbind die j) s

end Sys2Proof.Machine
end

