-- ==== Sys2Proof/Machine/Host.lean ====
section
/-!
DEFINITION. Upstream resets and function-level resets (R356, R357), and the connections of the Ethernet units (R364).
-/
namespace Sys2Proof.Machine

/-! Resets of host functions. -/

/-- The enabled functions of a port (R352). -/
def portFunctions (s : State) (port : Nat) : List Nat := (List.range 64).filter fun v => (s.vf v).map.getLsbD 8 && portOf (s.vf v) = port

/-- HOST_LINK_RESET (R372). -/
def linkResetRecord (port : Nat) (sev : BitVec 3) (action : BitVec 16) : ErrRecord :=
  { code := codeHostLinkReset, sev := sev, etype := 7#8, die := BitVec.ofNat 8 (24 + port), action := action, detail := BitVec.ofNat 64 port }

/-- Whether an address lies in a window of a host port, among path entries. -/
def onHostPort (q : Quarter) (va port : Nat) : Bool := inPathWindow va && (q.pathEntry va).kind = port

/-- The parts of an access that are on their way over a path to a host port. -/
def hostParts (s : State) (a : Access) (port : Nat) : List Part :=
  if a.kind ≠ .global then []
  else a.parts.filter fun p => !p.done && onHostPort (accessQuarter s a) p.va port && !foundAtCore s a p

/-- The accesses in flight to the memory of a host whose link goes down take NOT_PRESENT with WHY 0x36 (R356); a write that its far side has taken is
performed. -/
def failHostAccesses (port : Nat) : Act :=
  Act.seq completeBegun (fun s => Act.each s.accs (fun x => match hostParts s x.2 port with
    | [] => Act.skip
    | l => faultAccess x.1 x.2 (l.map fun p => (p, (codeNotPresent, 0x36#8), 0xFF#8)) false) s)

/-- Whether an address of a side of a copy lies in a window of a host port. -/
def sideOnHost (s : State) (c : Copy) (kind : HandleKind) (va : Int) (port : Nat) : Bool :=
  kind = .global && onHostPort (s.quarter (partOf s.pkg (coreOf c.key))) va.toNat port

/-- The copies that move bytes to or from the memory of such a host take it too (R193, R356). -/
def failHostCopies (port : Nat) : Act := fun s =>
  Act.each s.copies (fun x =>
    let c := x.2
    let b := c.beat
    let into := sideOnHost s c c.dk b.dst port
    let from_ := c.form ≠ .cfill && c.buf = [] && sideOnHost s c c.sk b.src port
    if c.launched && c.fault.isNone && decide (c.prog < c.total) && (into || from_) && (c.buf ≠ [] || decide (0 < c.movedBytes)) then
      faultCopy x.1 c (if from_ then b.src else b.dst) ((codeNotPresent, 0x36#8), 0xFF#8) 0
    else Act.skip) s

/-- The registers of a function's queue at 0 (R356). -/
def clearQueue (v : Nat) : Act := modVf v fun x => { x with base := 0#64, size := 0#4, head := 0#16, tail := 0#16 }

/-- Whether a launch comes from an image queue of a function. -/
def Launch.fromFunction (l : Launch) (v : Nat) : Bool := match l.origin with | .imageQueue w _ _ _ => w = v | .walker _ _ _ => false
/-- A launch whose completion goes to its tenant's error queue (R356). -/
def Launch.orphan (l : Launch) : Launch := match l.origin with | .imageQueue v a t _ => { l with origin := .imageQueue v a t false } | .walker _ _ _ => l

/-- The tenant of a function receives HOST_LINK_RESET in the partition of its queue (log entry 37). -/
def tellTenant (v port : Nat) : Act := fun s =>
  match queuePartition s (s.vf v) with
  | some q => postTenant q ((s.vf v).map.extractLsb' 0 8).toNat (linkResetRecord port 0#3 0#16) s
  | none => []

/-- HOT_RESET_SELF_HOSTED (R356): the port's functions, and nothing else. -/
def hotResetSelfHosted (port : Nat) : Act := fun s =>
  if s.pkg.hostmgd ∨ 2 ≤ port then []
  else
    let vs := portFunctions s port
    Act.seqs [failHostAccesses port, failHostCopies port, modPkg fun p => { p with hostUp := p.hostUp.filter fun x => decide (x ≠ port) },
      Act.each (s.launches.filter fun x => vs.any fun v => x.2.fromFunction v) fun x => modLaunch x.1 Launch.orphan,
      Act.each ((List.range 64).filter fun v => portOf (s.vf v) = port) clearQueue, Act.each vs fun v => tellTenant v port,
      postHypervisor (iodPartition s port) (linkResetRecord port 0#3 0#16)] s
/-- The meaning of HOT_RESET_SELF_HOSTED. -/
def execHotResetSelfHosted (port : Nat) (s : State) : Host.Outcome State Fault Refusal := done (hotResetSelfHosted port) s

/-- Whether a launch is a task that is placed: its contexts are reserved or bound. -/
def Launch.placed (l : Launch) : Bool := l.graph.isNone && (l.stage = .bound || l.stage = .running || l.stage = .completing)
/-- Whether a launch is a replay that its walker has accepted (R238). -/
def Launch.replays (l : Launch) : Bool := l.graph.isSome && (l.stage = .bound || l.stage = .running)
/-- Whether a launch waits in its tenant's queue, or for its checks. -/
def Launch.waits (l : Launch) : Bool := l.stage = .submitted || l.stage = .queued || l.stage = .deferred || l.stage = .waiting

/-- A waiting launch is discarded; a walker that waits for it is told (R237, R357). -/
def discardLaunch (id : Nat) (l : Launch) : Act := fun s =>
  Act.seqs [fun _ => [.launch id none], modBlock l.quarter l.cid.toNat fun b => { b with queue := b.queue.erase id },
    match l.origin with
    | .walker slot replay _ => taskDone slot replay id codeHostLinkReset
    | .imageQueue _ _ _ _ => Act.skip] s

/-- A replay ends with HOST_LINK_RESET (R357): its walker dispatches nothing more for it. -/
def endReplay (id : Nat) : Act := fun s =>
  Act.seqs [Act.each (s.graphs.filter fun x => x.2.running = some id || x.2.accepted = some id) (fun x => modGraph x.1 fun g =>
      { g with running := if g.running = some id then none else g.running, accepted := if g.accepted = some id then none else g.accepted }),
    fun _ => [.replay id none], finishLaunch id codeHostLinkReset] s

/-- The tenant of a reset function in one partition (R357): one HOST_LINK_RESET for each task and replay that ends, and one where none does (R372). -/
def resetTenant (cid : BitVec 8) (port q : Nat) : Act := fun s =>
  let mine := s.launches.filter fun x => x.2.quarter = q && x.2.cid = cid
  let r := linkResetRecord port 3#3 3#16
  let ended := (mine.filter fun x => x.2.placed || x.2.replays).map (·.1)
  Act.seqs [Act.each (mine.filter fun x => x.2.placed) fun x =>
      if x.2.stage = .bound then finishLaunch x.1 codeHostLinkReset else endTask x.1 codeHostLinkReset,
    Act.each (mine.filter fun x => x.2.waits) fun x => discardLaunch x.1 x.2,
    Act.each (mine.filter fun x => x.2.replays) fun x => endReplay x.1,
    Act.each (diesOf s.pkg q) fun d => modDie d (dropPq cid),
    Act.when ((s.block q cid.toNat).state ≠ 0#2) (abortSnapshot q cid.toNat 3#8),
    Act.each (if ended = [] then [0] else ended) fun _ => Act.seq (postTenant q cid.toNat r) (postHypervisor q r)] s

/-- FUNCTION_LEVEL_RESET (R357): the function's registers, and its tenant in every partition; the hypervisor receives its record also where the tenant is
bound nowhere (log entry 27). -/
def functionReset (v : Nat) : Act := fun s =>
  let x := s.vf v
  let cid := x.map.extractLsb' 0 8
  let qs := (List.range 4).filter fun q => lowest s.pkg q = q && decide (cid ∈ boundCids (s.quarter q))
  if !x.map.getLsbD 8 then clearQueue v s
  else Act.seqs [clearQueue v, Act.each qs (resetTenant cid (portOf x)),
    Act.when (qs = []) (postHypervisor (iodPartition s (portOf x)) (linkResetRecord (portOf x) 3#3 3#16))] s
/-- The meaning of FUNCTION_LEVEL_RESET. -/
def execFunctionLevelReset (vf : Nat) (s : State) : Host.Outcome State Fault Refusal := done (functionReset vf) s

/-- HOT_RESET_HOST_MANAGED (R357): every function of the port is reset. -/
def hotResetHostManaged (port : Nat) : Act := fun s =>
  if !s.pkg.hostmgd ∨ 2 ≤ port then [] else Act.each (portFunctions s port) functionReset s
/-- The meaning of HOT_RESET_HOST_MANAGED. -/
def execHotResetHostManaged (port : Nat) (s : State) : Host.Outcome State Fault Refusal := done (hotResetHostManaged port) s

/-- HOST_LINK_RETRAINED (R356). In a start that halts no host port trains (R368). -/
def hostLinkRetrained (port : Nat) : Act := fun s =>
  if s.boot = .done ∧ port < 2 ∧ port ∉ s.pkg.hostUp then modPkg (fun p => { p with hostUp := port :: p.hostUp }) s else []
/-- The meaning of HOST_LINK_RETRAINED. -/
def execHostLinkRetrained (port : Nat) (s : State) : Host.Outcome State Fault Refusal := done (hostLinkRetrained port) s

/-! Connections (R364). -/

/-- The states of a connection. -/
def connDown : BitVec 3 := 0#3
def connConnecting : BitVec 3 := 1#3
def connUp : BitVec 3 := 2#3
def connFailed : BitVec 3 := 3#3

def Conn.wanted (c : Conn) : Bool := c.w0.getLsbD 63
def Conn.state (c : Conn) : BitVec 3 := c.w0.extractLsb' 60 3
def Conn.kind (c : Conn) : BitVec 2 := c.w0.extractLsb' 58 2
/-- A connection with a STATE. -/
def Conn.withState (c : Conn) (x : BitVec 3) : Conn := { c with w0 := c.w0.extractLsb' 63 1 ++ x ++ c.w0.extractLsb' 0 60 }

/-- CONNECTION_ENABLE (R364): V becomes 1; LQPN, and for an RDMA path LPSN, take values of the device's choice (log entry 2). -/
def connectionEnable (n : Nat) : Act := fun s =>
  if (s.conn n).wanted then []
  else
    let k := s.free
    Act.seq (fun _ => [.free]) (modConn n fun c =>
      let lqpn := BitVec.ofNat 24 (Config.freeOrder k 0)
      let lpsn := BitVec.ofNat 24 (Config.freeOrder k 1)
      let c := { c with w0 := 1#1 ++ c.w0.extractLsb' 24 39 ++ lqpn }.withState (if c.kind.toNat < 2 then connConnecting else connDown)
      if c.kind = 0#2 then { c with w5 := 0#16 ++ lpsn ++ c.w5.extractLsb' 0 24 } else c) s
/-- The meaning of CONNECTION_ENABLE. -/
def execConnectionEnable (conn : Nat) (s : State) : Host.Outcome State Fault Refusal := done (connectionEnable conn) s

/-- CONNECTION_WORD5_WRITE (R364): RPSN is written, and the first write after V became 1 brings an RDMA path up. -/
def word5Write (n : Nat) (v : Word) : Act :=
  modConn n fun c =>
    let c := { c with w5 := c.w5.extractLsb' 24 40 ++ v.extractLsb' 0 24 }
    if c.wanted && c.kind = 0#2 && c.state = connConnecting then c.withState connUp else c
/-- The meaning of CONNECTION_WORD5_WRITE. -/
def execConnectionWord5Write (conn : Nat) (value : Word) (s : State) : Host.Outcome State Fault Refusal := done (word5Write conn value) s

/-- NVMEOF_CONNECTED (R364): all queues of the connection are connected. -/
def nvmeofConnected (n : Nat) : Act := fun s =>
  let c := s.conn n
  if c.wanted && c.kind = 1#2 && c.state = connConnecting then modConn n (fun c => c.withState connUp) s else []
/-- The meaning of NVMEOF_CONNECTED. -/
def execNvmeofConnected (conn : Nat) (s : State) : Host.Outcome State Fault Refusal := done (nvmeofConnected conn) s

/-- CONNECTION_FAILURE (R364): STATE becomes failed, and ERRC holds the syndrome or status. -/
def connectionFailure (n : Nat) (errc : W32) : Act := fun s =>
  let c := s.conn n
  if c.wanted && (c.state = connConnecting || c.state = connUp) then modConn n (fun c => { c.withState connFailed with errc := errc }) s else []
/-- The meaning of CONNECTION_FAILURE. -/
def execConnectionFailure (conn : Nat) (errc : BitVec 32) (s : State) : Host.Outcome State Fault Refusal := done (connectionFailure conn errc) s

end Sys2Proof.Machine
end

