-- ==== Sys2Proof/Machine/Control.lean ====
section
/-!
DEFINITION. The control window (R344 to R346) and the registers in it: what each reads, and what a write of each does (R6). A register or field
that is not assigned reads 0 and takes no write.
-/
namespace Sys2Proof.Machine

/-- Bits of a word replaced under a mask of its writable bits (R6). -/
def maskWrite (old new mask : Word) : Word := (old &&& ~~~mask) ||| (new &&& mask)

/-! The unit of a die (R250, R252, R315, R351, R360). -/

/-- Whether a die has a Lorig-D port (R360): its neighbours in the grid of 4 columns and 6 rows, and port 4 beside an I/O die. -/
def portExists (die port : Nat) : Bool :=
  match port with
  | 0 => decide (4 ≤ die)
  | 1 => decide (die % 4 < 3)
  | 2 => decide (die < 20)
  | 3 => decide (0 < die % 4)
  | _ => decide (port = 4) && decide (die ∈ [0, 3, 20, 23])

/-- EYE of a lane (R337). -/
def Lane.eye (l : Lane) : Word := 0#24 ++ l.thresh ++ l.margin ++ l.lowrun ++ 0#14 ++ l.rate
def eyeWrite (k : Nat) (w : Word) : Act := modLane k fun l => { l with thresh := w.extractLsb' 32 8 }

/-- The registers of a die's unit. -/
inductive DieReg where
  | enwt (k : Nat) | wstat | tcsd | ptroot (c : Nat) | eye (lane : Nat) | svcCfg (j : Nat) | svcImg (j : Nat) | svcLb (j : Nat) | none
  deriving DecidableEq, Repr

/-- The register of a die at an offset. -/
def dieReg (die off : Nat) : DieReg :=
  if off < 0x20 then .enwt (off / 8)
  else if off = 0x20 then .wstat
  else if off = 0x40 then .tcsd
  else if 0x1000 ≤ off ∧ off < 0x1800 then .ptroot ((off - 0x1000) / 8)
  else if 0x2000 ≤ off ∧ off < 0x2000 + 8 * 170 then
    (let n := (off - 0x2000) / 8
     if portExists die (n / 34) then .eye (dLane die (n / 34) (n % 34)) else .none)
  else if 0x3000 ≤ off ∧ off < 0x3400 then
    (match (off - 0x3000) % 32 with
     | 0 => .svcCfg ((off - 0x3000) / 32)
     | 8 => .svcImg ((off - 0x3000) / 32)
     | 16 => .svcLb ((off - 0x3000) / 32)
     | _ => .none)
  else .none

/-- ENWTk of a die (R315). -/
def enwtWord (d : Die) (k : Nat) : Word :=
  BitVec.ofNat 64 (d.weight (4 * k) + d.weight (4 * k + 1) * 2 ^ 16 + d.weight (4 * k + 2) * 2 ^ 32 + d.weight (4 * k + 3) * 2 ^ 48)

def DieReg.read (s : State) (die : Nat) : DieReg → Word
  | .enwt k => enwtWord (s.die die) k
  | .wstat => (s.die die).wstat.setWidth 64
  | .tcsd => if (s.die die).shoot.isSome then 1#64 else 0#64
  | .ptroot c => ((s.die die).rootNew.find c).getD ((s.die die).ptroot.get 0#64 c)
  | .eye l => (s.lane l).eye
  | .svcCfg j => ((s.die die).svcBlock j).cfg
  | .svcImg j => ((s.die die).svcBlock j).img
  | .svcLb j => ((s.die die).svcBlock j).lb
  | .none => 0#64

/-- A write of a register of a die; `id` is the access that writes, 0 for none. -/
def DieReg.write (die : Nat) (w : Word) (id : Nat) : DieReg → Act
  | .enwt k => modDie die fun d => { d with enwt := (List.range 4).foldl (fun t i => t.set (4 * k + i) (w.extractLsb' (16 * i) 16)) d.enwt }
  | .wstat => modDie die fun d => { d with wstat := w.extractLsb' 0 16 }
  | .tcsd => tcsdWrite die w id
  | .ptroot c => modDie die fun d => { d with rootNew := d.rootNew.set c (w &&& 0xFFFFF8001#64) }
  | .eye l => eyeWrite l w
  | .svcCfg j => svcWrite die j w
  | .svcImg j => modSvc die j fun b => { b with img := w &&& 0xFFFFFFFFFFFFF#64 }
  | .svcLb j => modSvc die j fun b => { b with lb := w &&& 0xFFFFFFFFFFFFF#64 }
  | .none => Act.skip

/-! The unit of the package (R319, R340, R352, R366, R376). -/

/-- BOOTSTAT (R366). -/
def bootstat (p : Package) : Word := p.start ++ 0#2 ++ p.xrate ++ 0#4 ++ p.fenced

def packageRead (s : State) (off : Nat) : Word :=
  let p := s.pkg
  match off with
  | 0x00 => p.pcfg.setWidth 64
  | 0x08 => p.govlim.setWidth 64
  | 0x10 => p.gate.setWidth 64
  | 0x18 => (BitVec.ofBool p.hostmgd).setWidth 64
  | 0x20 => p.pkgid.setWidth 64
  | 0x28 => p.cause.setWidth 64
  | 0x30 => (BitVec.ofBool p.retry ++ 0#1).setWidth 64
  | 0x38 => bootstat p
  | _ => if 0x100 ≤ off ∧ off < 0x300 then (s.vf ((off - 0x100) / 8)).map else 0#64

def packageWrite (off : Nat) (w : Word) : Act :=
  match off with
  | 0x00 => pcfgWrite w
  | 0x08 => governorWrite none w
  | 0x18 => modPkg fun p => { p with hostmgd := w.getLsbD 0 }
  | 0x20 => modPkg fun p => { p with pkgid := w.extractLsb' 0 22 }
  | 0x30 => if w.getLsbD 0 then hvReset (w.getLsbD 1) else modPkg fun p => { p with retry := w.getLsbD 1 }
  | _ => if 0x100 ≤ off ∧ off < 0x300 then modVf ((off - 0x100) / 8) fun v => { v with map := w &&& 0x3FF#64 } else Act.skip

/-! The units of the I/O dies: lanes, and the Ethernet units of IOD2 and IOD3 (R360, R364). -/

/-- The word w of a connection. -/
def Conn.word (c : Conn) : Nat → Word
  | 0 => c.w0
  | 1 => c.w1
  | 2 => c.w2
  | 3 => c.w3
  | 4 => c.w4
  | 5 => c.w5
  | 7 => c.errc.setWidth 64
  | _ => 0#64

/-- A write of word 0 of a connection (R364): its fields are written; setting V enables it, and clearing V takes it down. -/
def word0Write (n : Nat) (w : Word) : Act := fun s =>
  let was := (s.conn n).wanted
  Act.seq (modConn n fun c =>
      let c := { c with w0 := maskWrite c.w0 w 0x0FFFFF0000000000#64 }
      if w.getLsbD 63 then c else { c with w0 := c.w0 &&& 0x7FFFFFFFFFFFFFFF#64 }.withState connDown)
    (Act.when (w.getLsbD 63 && !was) (connectionEnable n)) s

def connWrite (n k : Nat) (w : Word) : Act :=
  match k with
  | 0 => word0Write n w
  | 1 => modConn n fun c => { c with w1 := w &&& 0x0FFFFFFFFFFFFFFF#64 }
  | 2 => modConn n fun c => { c with w2 := w }
  | 3 => modConn n fun c => { c with w3 := w }
  | 4 => modConn n fun c => { c with w4 := w &&& 0xFFFF000000FFFFFF#64 }
  | 5 => word5Write n w
  | _ => Act.skip

/-- The writable bits of the address and identity words of an Ethernet unit (R364). -/
def etherMask (off : Nat) : Word :=
  if 0x8000 ≤ off ∧ off < 0x8080 then (match off % 32 with | 0 => ~~~0#64 | 8 => ~~~0#64 | 16 => 0xFFFFFFFFFFFF#64 | _ => 0#64)
  else if 0x9000 ≤ off ∧ off < 0x9110 then ~~~0#64
  else if 0x20000 ≤ off ∧ off < 0x28000 then ~~~0#64
  else 0#64

/-- The lane whose EYE lies at an offset of an I/O die's unit. -/
def iodLane (iod off : Nat) : Option Nat := if 0x2000 ≤ off ∧ off < 0x2080 then some (xLane iod ((off - 0x2000) / 8)) else none
/-- The connection and word at an offset of an Ethernet unit. -/
def connAt (iod off : Nat) : Option (Nat × Nat) :=
  if 2 ≤ iod ∧ 0x10000 ≤ off ∧ off < 0x12000 then some ((iod - 2) * 128 + (off - 0x10000) / 64, (off - 0x10000) % 64 / 8) else none
/-- The key of an address or identity word. -/
def etherKey (iod off : Nat) : Nat := iod * 2 ^ 24 + off / 8

def iodRead (s : State) (iod off : Nat) : Word :=
  match iodLane iod off, connAt iod off with
  | some l, _ => (s.lane l).eye
  | none, some x => (s.conn x.1).word x.2
  | none, none => if 2 ≤ iod then s.pkg.etherWords.get 0#64 (etherKey iod off) else 0#64

def iodWrite (iod off : Nat) (w : Word) : Act :=
  match iodLane iod off, connAt iod off with
  | some l, _ => eyeWrite l w
  | none, some x => connWrite x.1 x.2 w
  | none, none =>
    if 2 ≤ iod ∧ etherMask off ≠ 0#64 then modPkg fun p => { p with etherWords := p.etherWords.set (etherKey iod off) (w &&& etherMask off) }
    else Act.skip

/-! The units of the quarters (R246, R249, R319, R327, R340, R345, R348). -/

/-- PCTL (R340). -/
def pctl (x : Quarter) : Word := x.qtmo ++ x.slice ++ 0#6 ++ x.pqw ++ 0#1 ++ x.pstate ++ 0#15 ++ BitVec.ofBool x.qreq

/-- A write of PCTL (R340, R341): its fields, and a request to quiesce or to run. -/
def pctlWrite (q : Nat) (w : Word) : Act :=
  Act.seq (modQuarter q fun x => { x with qtmo := w.extractLsb' 48 16, slice := w.extractLsb' 32 16, pqw := w.extractLsb' 20 6 })
    (if w.getLsbD 0 then quiesceRequest q else quiesceCancel q)

/-- HBSTAT (R303). -/
def hbstat (s : State) (q c : Nat) : Word :=
  let b := s.block q c
  b.gen ++ b.stepcnt ++ 0#8 ++ BitVec.ofNat 16 (reserveLeft s q c) ++ 0#3 ++ BitVec.ofBool b.rsverr ++ BitVec.ofBool b.abrt ++
    BitVec.ofBool b.defer_ ++ b.state

/-- A register of a CID (R345). -/
def blockRead (s : State) (q c : Nat) (off : Nat) : Word :=
  let b := s.block q c
  match off with
  | 0x00 => b.hbctl
  | 0x08 => hbstat s q c
  | 0x10 => b.hbtgt0
  | 0x18 => b.hbtgt1
  | 0x20 => b.ecnt
  | 0x28 => b.pidle.setWidth 64
  | 0x30 => b.pqshare.setWidth 64
  | 0x38 => b.resid
  | 0x40 => b.fq.base
  | 0x48 => b.fq.head ++ b.fq.tail
  | 0x50 => b.eq.base
  | 0x58 => b.eq.head ++ b.eq.tail
  | 0x60 => b.akey
  | 0x68 => b.savea
  | _ => 0#64

/-- A write of FQBASE or EQBASE (R345, R347): a ring that it makes valid takes the records that wait. -/
def ringBaseWrite (q c : Nat) (eq : Bool) (w : Word) : Act := fun s =>
  Act.seq (modBlock q c fun b => b.setRing eq { b.ring eq with base := w &&& 0xFFFFFFFFFF01F#64 })
    (flushRing q c eq ((s.block q c).ring eq).waiting.length) s

/-- A write of a register of a CID; `writer` is the CID of the access (R303, R345, R347, R349). -/
def blockWrite (q c off : Nat) (w : Word) (writer : BitVec 8) : Act :=
  match off with
  | 0x00 => hbctlWrite q c w
  | 0x08 => modBlock q c fun b => { b with rsverr := b.rsverr && !w.getLsbD 4, abrt := b.abrt && !w.getLsbD 3 }
  | 0x10 => modBlock q c fun b => { b with hbtgt0 := w }
  | 0x18 => modBlock q c fun b => { b with hbtgt1 := w &&& 0xFFFFFFFF000000FF#64 }
  | 0x30 => modBlock q c fun b => { b with pqshare := w.extractLsb' 0 17 }
  | 0x40 => ringBaseWrite q c false w
  | 0x48 => ringHeadWrite q c false (w.extractLsb' 32 32)
  | 0x50 => ringBaseWrite q c true w
  | 0x58 => ringHeadWrite q c true (w.extractLsb' 32 32)
  | 0x60 => modBlock q c fun b => { b with akey := w &&& 0xFFFFFFFFFFFC3#64 }
  | 0x68 => if writer = 0xFF#8 then modBlock q c fun b => { b with savea := w &&& 0xFFFFFFFFF0001#64 } else Act.skip
  | _ => Act.skip

/-- The interleave registers as they were last written (R252). -/
def Quarter.ilWritten (x : Quarter) : Interleave := x.ilNew.getD { base := x.ilbase, lim := x.illim }

/-- A write of an interleave register (R246, R252): it acts after a shoot-down (log entry 89). -/
def ilWrite (q : Nat) (f : Interleave → Interleave) : Act := modQuarter q fun x => { x with ilNew := some (f x.ilWritten) }

/-- The registers of a quarter's unit. -/
inductive QuarterReg where
  | pctl | nbound | govshare | govrem | shcnt | ilbase (n : Nat) | illim (n : Nat) | tslot (k : Nat) | patha (k : Nat) | pathb (k : Nat)
  | block (c off : Nat) | none
  deriving DecidableEq, Repr

/-- The register of a quarter at an offset. -/
def quarterReg (off : Nat) : QuarterReg :=
  if off = 0x00 then .pctl
  else if off = 0x08 then .nbound
  else if off = 0x10 then .govshare
  else if off = 0x18 then .govrem
  else if off = 0x20 then .shcnt
  else if 0x100 ≤ off ∧ off < 0x200 then (if off % 16 = 0 then .ilbase ((off - 0x100) / 16) else .illim ((off - 0x100) / 16))
  else if 0x200 ≤ off ∧ off < 0x280 then .tslot ((off - 0x200) / 8)
  else if 0x400 ≤ off ∧ off < 0x1400 then (if off % 16 = 0 then .patha ((off - 0x400) / 16) else .pathb ((off - 0x400) / 16))
  else if 0x10000 ≤ off ∧ off < 0x18000 then .block ((off - 0x10000) / 128) ((off - 0x10000) % 128)
  else .none

def QuarterReg.read (s : State) (q : Nat) : QuarterReg → Word
  | .pctl => Machine.pctl (s.quarter q)
  | .nbound => ((s.quarter q).open_.getD (1#4 <<< q)).setWidth 64
  | .govshare => (s.quarter q).share.setWidth 64
  | .govrem => BitVec.ofInt 64 (s.quarter q).remaining
  | .shcnt => (s.quarter q).shcnt
  | .ilbase n => (s.quarter q).ilWritten.base.get 0#64 n
  | .illim n => (s.quarter q).ilWritten.lim.get 0#64 n
  | .tslot k => (s.quarter q).tslot.get 0#64 k
  | .patha k => (s.quarter q).patha.get 0#64 k
  | .pathb k => (s.quarter q).pathb.get 0#64 k
  | .block c off => blockRead s q c off
  | .none => 0#64

def QuarterReg.write (q : Nat) (w : Word) (writer : BitVec 8) : QuarterReg → Act
  | .pctl => pctlWrite q w
  | .nbound => nboundWrite q w
  | .govshare => governorWrite (some q) w
  | .ilbase n => ilWrite q fun x => { x with base := x.base.set n (w &&& 0xFFFFFFE000003#64) }
  | .illim n => ilWrite q fun x => { x with lim := x.lim.set n (w &&& 0xFFFFFFEFFFFFF#64) }
  | .tslot k => tslotWrite q k w
  | .patha k => modQuarter q fun x => { x with patha := x.patha.set k (w &&& 0xE0FF00FF003FFFFF#64) }
  | .pathb k => modQuarter q fun x => { x with pathb := x.pathb.set k w }
  | .block c off => blockWrite q c off w writer
  | _ => Act.skip

/-! The BAR0 of a virtual function (R352), which the host reaches: unit 0x80 of REGISTER_WRITE stands for it (log entry 39). -/

/-- What the host reads of a function. -/
def barRead (s : State) (v off : Nat) : Word :=
  let x := s.vf v
  let tenant (o : Nat) : Word := match queuePartition s x with
    | some q => blockRead s q (x.map.extractLsb' 0 8).toNat o
    | none => 0#64
  match off with
  | 0x0008 => x.head.setWidth 64
  | 0x0010 => x.base
  | 0x0018 => x.size.setWidth 64
  | 0x0100 => tenant 0x20
  | 0x0108 => tenant 0x38
  | 0x0110 => tenant 0x28
  | 0x0118 => BitVec.ofNat 64 s.now
  | _ => 0#64

def barWrite (v off : Nat) (w : Word) : Act :=
  match off with
  | 0x0000 => doorbell v (w.extractLsb' 0 16)
  | 0x0010 => iqbaseWrite v w
  | 0x0018 => modVf v fun x => { x with size := w.extractLsb' 0 4 }
  | _ => Act.skip

/-! The window. -/

/-- The register at an offset of a unit (R344). The registers of a quarter that is not the lowest of its partition read 0 (R340), and those of a die that
the start fenced, which is absent (R367; log entry 34). -/
def readReg (s : State) (unit off : Nat) : Word :=
  if off % 8 ≠ 0 then 0#64
  else if unit < 24 then (if s.pkg.fenced.getLsbD unit then 0#64 else (dieReg unit off).read s unit)
  else if unit = 0x20 then packageRead s off
  else if 0x24 ≤ unit ∧ unit < 0x28 then iodRead s (unit - 0x24) off
  else if 0x30 ≤ unit ∧ unit < 0x34 then (if lowest s.pkg (unit - 0x30) = unit - 0x30 then (quarterReg off).read s (unit - 0x30) else 0#64)
  else 0#64

/-- A write at an offset of a unit, by an access `id` of a CID. -/
def writeReg (unit off : Nat) (w : Word) (writer : BitVec 8) (id : Nat) : Act := fun s =>
  if off % 8 ≠ 0 then []
  else if unit < 24 then (if s.pkg.fenced.getLsbD unit then [] else (dieReg unit off).write unit w id s)
  else if unit = 0x20 then packageWrite off w s
  else if 0x24 ≤ unit ∧ unit < 0x28 then iodWrite (unit - 0x24) off w s
  else if 0x30 ≤ unit ∧ unit < 0x34 then
    (if lowest s.pkg (unit - 0x30) = unit - 0x30 then (quarterReg off).write (unit - 0x30) w writer s else [])
  else if unit = 0x80 then barWrite (off / 2 ^ 16) (off % 2 ^ 16) w s
  else []

/-- The meaning of REGISTER_WRITE: a write by the hypervisor, or of a function by the host (R6, R346). -/
def execRegisterWrite (unit : BitVec 8) (off : BitVec 24) (value : Word) (s : State) : Host.Outcome State Fault Refusal :=
  done (writeReg unit.toNat off.toNat value 0xFF#8 0) s

/-- Whether a write of TCSD by an access is held (R252). -/
def heldByShootDown (s : State) (id : Nat) : Bool := s.dies.any fun x => x.2.shootQ.any fun y => y.2 = id

/-- CONTROL_WINDOW_ACCESS (R346): an access that may be made reads or writes its register; any other has its fault on the next cycle. A write
of TCSD while a shoot-down is busy is held (R252). -/
def controlAccess (id : Nat) : Act := fun s =>
  match routedPart s id .control with
  | none => []
  | some (a, p) =>
    let unit := p.va / 2 ^ 24 % 256
    let off := p.va % 2 ^ 24
    let w : Word := BitVec.ofNat 64 (leNat ((a.data.drop p.pos).take p.len))
    if heldByShootDown s id then []
    else if !a.checked then Act.seq (fun _ => [.free]) (checkAccess id a s.free) s
    else match a.what with
      | .load => finishPart id p (some (leBytes (readReg s unit off).toNat p.len)) s
      | _ =>
        if unit = 0x80 then finishPart id p none s
        else if unit < 24 && dieReg unit off = .tcsd && w.getLsbD 63 && (s.die unit).shoot.isSome then tcsdWrite unit w id s
        else Act.seq (writeReg unit off w a.cid id) (finishPart id p none) s
/-- The meaning of CONTROL_WINDOW_ACCESS. -/
def execControlWindowAccess (id : Nat) (s : State) : Host.Outcome State Fault Refusal := done (controlAccess id) s

end Sys2Proof.Machine
end

