-- ==== Sys2Proof/Machine/Issue.lean ====
section
/-!
DEFINITION. The issue of bundles: fetch (R48 to R50), the header and the sticky slots (R45, R46, R51 to R53), the end of an issue (R50, R52, R120,
R313), the selection of contexts (R29 to R31, R35, R350), lockstep gangs (R40 to R43), and idle cycles (R316).
-/
namespace Sys2Proof.Machine

/-- What an operation of a slot does in an issue: the operation of its meaning. -/
def slotOp (i : Instr) : SlotOp :=
  match i with
  | .bundleIssue _ => act Act.skip
  | .idleCycle _ => act Act.skip
  | .instructionFetch _ => act Act.skip
  | .fixedLatencyLanding _ => act Act.skip
  | .variableLatencyArrival _ => act Act.skip
  | .lockstepStep _ => act Act.skip
  | .add f => opAdd f
  | .sub f => opSub f
  | .mul f => opMul f
  | .mulh f => opMulh f
  | .div f => opDiv f
  | .rem f => opRem f
  | .and f => opAnd f
  | .or f => opOr f
  | .xor f => opXor f
  | .shl f => opShl f
  | .shr f => opShr f
  | .sar f => opSar f
  | .min f => opMin f
  | .max f => opMax f
  | .clz f => opClz f
  | .addi f => opAddi f
  | .andi f => opAndi f
  | .ori f => opOri f
  | .xori f => opXori f
  | .shli f => opShli f
  | .shri f => opShri f
  | .sari f => opSari f
  | .movi f => opMovi f
  | .moviIns f => opMoviIns f
  | .cmp f => opCmp f
  | .cmpi f => opCmpi f
  | .sel f => opSel f
  | .popc f => opPopc f
  | .lea f => opLea f
  | .fadd f => opFadd f
  | .fsub f => opFsub f
  | .fmul f => opFmul f
  | .fma f => opFma f
  | .fdiv f => opFdiv f
  | .fsqrt f => opFsqrt f
  | .fmin f => opFmin f
  | .fmax f => opFmax f
  | .fcmp f => opFcmp f
  | .fcvt f => opFcvt f
  | .fsgn f => opFsgn f
  | .ld f => opLd f
  | .st f => opSt f
  | .amo f => opAmo f
  | .grant f => opGrant f
  | .revoke f => opRevoke f
  | .permld f => opPermld f
  | .cmpt f => opCmpt f
  | .cmptV f => opCmptV f
  | .fork f => opFork f
  | .join f => opJoin f
  | .pqpush f => opPqpush f
  | .pqpop f => opPqpop f
  | .barm f => opBarm f
  | .barrive f => opBarrive f
  | .bwait f => opBwait f
  | .gbarrive f => opGbarrive f
  | .gbwait f => opGbwait f
  | .gangBarrierRelease _ _ => act Act.skip
  | .qcfg f => opQcfg f
  | .drainR f => opDrainR f
  | .drainA f => opDrainA f
  | .drainBoth f => opDrainBoth f
  | .trap f => opTrap f
  | .resume f => opResume f
  | .resumeServiceCore f => opResumeServiceCore f
  | .resumeEnd f => opResumeEnd f
  | .rdrec f => opRdrec f
  | .wrrec f => opWrrec f
  | .vtsel f => opVtsel f
  | .srmovRead f => opSrmovRead f
  | .srmovWrite f => opSrmovWrite f
  | .cinv f => opCinv f
  | .cflush f => opCflush f
  | .waitt f => opWaitt f
  | .waittRelease _ => act Act.skip
  | .snap f => opSnap f
  | .step f => opStep f
  | .phase f => opPhase f
  | .phaseOff f => opPhaseOff f
  | .wdecl f => opWdecl f
  | .enrd f => opEnrd f
  | .enrdIdle f => opEnrdIdle f
  | .enclr f => opEnclr f
  | .yield f => opYield f
  | .halt f => opHalt f
  | .br f => opBr f
  | .breq f => opBreq f
  | .brne f => opBrne f
  | .brlt f => opBrlt f
  | .brge f => opBrge f
  | .brltu f => opBrltu f
  | .brgeu f => opBrgeu f
  | .brall f => opBrall f
  | .brnone f => opBrnone f
  | .call f => opCall f
  | .callRegister f => opCallRegister f
  | .ret f => opRet f
  | .jr f => opJr f
  | .loop f => opLoop f
  | .loopw f => opLoopw f
  | .vadd f => opVadd f
  | .vsub f => opVsub f
  | .vmul f => opVmul f
  | .vfma f => opVfma f
  | .vmin f => opVmin f
  | .vmax f => opVmax f
  | .vabs f => opVabs f
  | .vneg f => opVneg f
  | .vmulh f => opVmulh f
  | .vavg f => opVavg f
  | .vshl f => opVshl f
  | .vshr f => opVshr f
  | .vsar f => opVsar f
  | .vand f => opVand f
  | .vor f => opVor f
  | .vxor f => opVxor f
  | .vcvt f => opVcvt f
  | .vcmp f => opVcmp f
  | .vsel f => opVsel f
  | .vshuf f => opVshuf f
  | .vperm f => opVperm f
  | .vred f => opVred f
  | .vclmul f => opVclmul f
  | .vclmulh f => opVclmulh f
  | .vrcp f => opVrcp f
  | .vrsq f => opVrsq f
  | .vexp f => opVexp f
  | .vmov f => opVmov f
  | .vmovi f => opVmovi f
  | .vld f => opVld f
  | .vst f => opVst f
  | .vgath f => opVgath f
  | .vscat f => opVscat f
  | .vamo f => opVamo f
  | .qpush f => opQpush f
  | .qpop f => opQpop f
  | .vdup f => opVdup f
  | .mldw f => opMldw f
  | .mldwS f => opMldwS f
  | .mma f => opMma f
  | .mmas f => opMmas f
  | .mzero f => opMzero f
  | .mfuse f => opMfuse f
  | .mdrain f => opMdrain f
  | .mdrainV f => opMdrainV f
  | .sequencerOpStart _ => act Act.skip
  | .mmaRowStep _ => act Act.skip
  | .mdrainEntryStep _ => act Act.skip
  | .queueClaimArrival _ => act Act.skip
  | .cpy f => opCpy f
  | .cpy2 f => opCpy2 f
  | .cpy3 f => opCpy3 f
  | .cgath f => opCgath f
  | .cscat f => opCscat f
  | .cmcast f => opCmcast f
  | .cfill f => opCfill f
  | .credI32 f => opCredI32 f
  | .credFp32 f => opCredFp32 f
  | .credBf16 f => opCredBf16 f
  | .cpyAt f => opCpyAt f
  | .cpy2At f => opCpy2At f
  | .cpy3At f => opCpy3At f
  | .cgathAt f => opCgathAt f
  | .cscatAt f => opCscatAt f
  | .cmcastAt f => opCmcastAt f
  | .cfillAt f => opCfillAt f
  | .credI32At f => opCredI32At f
  | .credFp32At f => opCredFp32At f
  | .credBf16At f => opCredBf16At f
  | .atCopyLaunch _ => act Act.skip
  | .copyCompletion _ => act Act.skip
  | .mcastLanding _ => act Act.skip
  | .storeAcknowledge _ => act Act.skip
  | .homeAccess _ => act Act.skip
  | .pathAccess _ => act Act.skip
  | .farAccessArrival _ => act Act.skip
  | .pathResponseTimeout _ => act Act.skip
  | .deferredFault _ => act Act.skip
  | .stoppingComplete _ => act Act.skip
  | .childTake _ => act Act.skip
  | .stealComplete _ => act Act.skip
  | .pqArrival _ => act Act.skip
  | .pqClaimServe _ => act Act.skip
  | .doorbell _ _ => act Act.skip
  | .iqbaseWrite _ _ => act Act.skip
  | .accessionCheck _ => act Act.skip
  | .budgetIntervalStart _ => act Act.skip
  | .placement _ _ => act Act.skip
  | .startTick _ => act Act.skip
  | .taskCompletion _ => act Act.skip
  | .replayAccept _ => act Act.skip
  | .nodeEvaluation _ => act Act.skip
  | .replayEnd _ => act Act.skip
  | .gangSwitchTick _ => act Act.skip
  | .saveComplete _ _ => act Act.skip
  | .saveDeadline _ => act Act.skip
  | .restore _ => act Act.skip
  | .sliceStart _ => act Act.skip
  | .checkpointTimerTrigger _ _ => act Act.skip
  | .snapTick _ _ => act Act.skip
  | .drainFrameDone _ _ _ => act Act.skip
  | .drainHeaderDone _ _ => act Act.skip
  | .reserveHoldExpiry _ _ => act Act.skip
  | .drainWriteError _ _ => act Act.skip
  | .hbctlWrite _ _ _ => act Act.skip
  | .governorWrite _ _ => act Act.skip
  | .thermalGateOn _ => act Act.skip
  | .thermalGateOff _ => act Act.skip
  | .thermalTrip _ _ => act Act.skip
  | .railFault _ _ => act Act.skip
  | .carriedCheckMismatch _ => act Act.skip
  | .eccErrorConsumed _ => act Act.skip
  | .eccScrub _ _ _ _ => act Act.skip
  | .laneWindowEnd _ => act Act.skip
  | .quiesceRequest _ => act Act.skip
  | .quiesceCancel _ => act Act.skip
  | .quiesced _ => act Act.skip
  | .quiesceTimeout _ => act Act.skip
  | .pcfgWrite _ => act Act.skip
  | .nbondWrite _ _ => act Act.skip
  | .tslotWrite _ _ _ => act Act.skip
  | .controlWindowAccess _ => act Act.skip
  | .tcsdWrite _ _ => act Act.skip
  | .shootDownDone _ => act Act.skip
  | .svcBind _ _ => act Act.skip
  | .svcUnbind _ _ => act Act.skip
  | .hotResetSelfHosted _ => act Act.skip
  | .hotResetHostManaged _ => act Act.skip
  | .functionLevelReset _ => act Act.skip
  | .connectionEnable _ => act Act.skip
  | .connectionWord5Write _ _ => act Act.skip
  | .nvmeofConnected _ => act Act.skip
  | .connectionFailure _ _ => act Act.skip
  | .powerOn => act Act.skip
  | .pinReset => act Act.skip
  | .hvReset _ => act Act.skip
  | .bootStart => act Act.skip
  | .registerWrite _ _ _ => act Act.skip
  | .ringHeadWrite _ _ _ _ => act Act.skip
  | .hostLinkRetrained _ => act Act.skip

/-! The next issue of a context. -/

/-- A code address within 52 bits (R47). -/
def codeAddr (a : Word) : Nat := (pcMask a).toNat

/-- The code word at an address, once it is fetched (R48). -/
def codeWord (s : State) (key : Nat) (a : Word) : Option Word := (fetchedBytes s key (codeAddr a) 8).map wordOfBytes

/-- The words of the bundle at an address, once all its bytes are fetched (R47, R48). -/
def bundleWords (s : State) (key : Nat) (pc : Word) : Option (List Word) :=
  (codeWord s key pc).bind fun h =>
    ((List.range (Header.ofWord h).words).mapM fun k => codeWord s key (pc + BitVec.ofNat 64 (8 * (k + 1)))).map fun r => h :: r

/-- An issue that a context is to make: its words, its address, the repetitions that remain, and for a lockstep member the outcome of the
lead's branch slot. -/
structure NextIssue where
  key : Nat
  pc : Word
  words : List Word
  repleft : Nat
  follows : Option LockIssue := none
  deriving DecidableEq, Repr

/-- The header of an issue. -/
def NextIssue.header (n : NextIssue) : Header := Header.ofWord (n.words.headD 0#64)
/-- Whether an issue is the first of its bundle (R52). -/
def NextIssue.isFirst (n : NextIssue) : Bool := n.repleft = 0

/-- The next issue of a context by its own fetch; a bundle that repeats is fetched once (R29, R48). -/
def ownIssue (s : State) (key : Nat) : Option NextIssue :=
  let c := s.ctx key
  if c.repleft ≠ 0 ∧ c.fetched ≠ [] then some ⟨key, c.pc, c.fetched, c.repleft, none⟩
  else (bundleWords s key c.pc).map fun ws => ⟨key, c.pc, ws, c.repleft, none⟩

/-- Whether a context is a member of a lockstep gang that is not in SERVICE: only steps issue in it (R42). -/
def Ctx.inStream (c : Ctx) : Bool := c.lock && c.mode ≠ .service

/-- The header faults of a bundle (R46) and of one whose KIND does not match the context (R40), by WHY (R69). -/
def headerFaults (c : Ctx) (h : Header) : List (BitVec 8) :=
  need (h.kind = if c.lock && c.pos = 0#7 then 1#3 else 0#3) 0x10#8 ++
  need (h.p &&& h.q = 0#7) 0x11#8 ++
  need (h.resv = 0#2 && (h.be = 1#1 || h.bsrc = 0#6)) 0x12#8

/-- The trap of an illegal header (R46, stage 1 of R68). A lockstep member's bundle was fetched by the lead. -/
def headerTrap (c : Ctx) (n : NextIssue) : Option Trap :=
  match if n.follows.isSome then [] else headerFaults c n.header with
  | [] => none
  | l => some { code := codeIllegalBundle, why := leastWhy l, slots := n.header.p &&& n.header.q }

/-- The sticky state as the first issue of a bundle gives it (R52). -/
def Ctx.giveSlots (c : Ctx) (n : NextIssue) : Ctx :=
  let given := slotWords n.header (n.words.drop 1)
  { c with slots := (List.range 7).foldl (fun t k =>
      match given.find? fun x => x.1 = k with
      | some x => t.set k ⟨x.2, false, 0#32⟩
      | none => if n.header.quiet k then t.set k { t.get {} k with idle := true } else t) c.slots }

/-- The context as it stands when the slots of an issue are looked at (R52). -/
def Ctx.atIssue (c : Ctx) (n : NextIssue) : Ctx := if n.isFirst then c.giveSlots n else c

/-- The slots that issue, with their sticky state: S and B only in SERVICE and on a service core (R52, R53, R350). -/
def activeSlots (c : Ctx) (key : Nat) : List (Nat × Sticky) :=
  (List.range 7).filterMap fun k =>
    let x := c.sticky k
    if x.idle || ((c.mode = .service || isService (coreOf key)) && k ≠ 0 && k ≠ 6) then none else some (k, x)

/-- The operations of the active slots, each on its step (R52, R63). -/
def slotIssues (l : List (Nat × Sticky)) : List (SlotIssue × SlotOp) :=
  l.filterMap fun x => match decodeSlot (slotClass x.1) x.2.w with
    | .ok i => let j := stepped x.2.n.toNat i
               some (⟨x.1, x.2.w, x.2.n, j⟩, slotOp j)
    | .error _ => none

/-- The slot words that decode to no operation, with their WHY (R69). -/
def undecoded (l : List (Nat × Sticky)) : List (Nat × BitVec 8) :=
  l.filterMap fun x => match decodeSlot (slotClass x.1) x.2.w with
    | .ok _ => none
    | .error .reservedOpcode => some (x.1, 0x01#8)
    | .error .reservedField => some (x.1, 0x02#8)

/-- The trap of an issue with words that decode to no operation: every failing slot, and the smallest WHY (stage 2 of R68). -/
def undecodedTrap (v : View) (bad : List (Nat × BitVec 8)) (ops : Ops) : Trap :=
  let faultsOf (x : Nat × Instr) := slotFaults { v with i := { v.i with partner := partnerOf ops x.1 } } x.2
  let all := bad ++ (ops.flatMap fun x => (faultsOf x).map fun w => (x.1, w))
  let why := leastWhy (all.map (·.2))
  { code := codeIllegalSlot, why := why, slots := all.foldl (fun a x => a ||| slotBit x.1) 0#7,
    slot := (List.range 7).find? fun k => all.any fun x => x.1 = k && x.2 = why }

/-- The issue in progress before its slots, of a context as it stood before it (R45, R52). -/
def startIssue (c : Ctx) (n : NextIssue) : Issue :=
  let h := n.header
  { key := n.key, pc := n.pc, len := h.length, bimm := h.bimm, be := h.be = 1#1, bsrc := h.bsrc, rep := h.rep.toNat, kind := h.kind,
    svc := c.mode = .service, slots := c.slots }

/-! The end of an issue. -/

/-- The charge of an issue in picojoules (R313). -/
def issueCharge (s : State) (i : Issue) (l : List SlotIssue) : Nat :=
  (s.die (dieOf (coreOf i.key))).wstat.toNat + (l.map fun x =>
    opCharge s { i with slot := x.slot, sw := x.sw, step := x.step } (((l.find? fun y => y.slot = 3 - x.slot).map (·.sw)).getD 0#64)).foldl
    (· + ·) 0

/-- The back-edge test over the frames that end where the bundle ends, the most recently activated first (R120, R295). -/
def backEdge (key : Nat) (next : Word) : List Nat → Act
  | [] => Act.skip
  | n :: r => fun s =>
    let c := s.ctx key
    let f := c.frame n
    if !(f.act && f.fin = next) then backEdge key next r s
    else if f.ow then Act.seq (walkEndTest key true) (if c.lpreg n = 0#64 then backEdge key next r else Act.skip) s
    else if 1 < (c.lpreg n).toNat then
      Act.seq (modCtx key fun c => { c with lp := c.lp.set n (c.lpreg n - 1#64) }) (goTo f.beg) s
    else Act.seq (modCtx key fun c => { c.closeFrame n with lp := c.lp.set n 0#64 }) (backEdge key next r) s

/-- The repetitions that remain after an issue that did not leave its bundle (R45, R48). -/
def NextIssue.remaining (n : NextIssue) : Nat := if n.isFirst then n.header.rep.toNat else n.repleft - 1

/-- The counts of an issue: the sticky N of its slots, BSEQ, which an issue of a handler does not take (R261), and the model's issue order (R52, R83). -/
def Ctx.counted (c : Ctx) (l : List SlotIssue) : Ctx :=
  { c with slots := l.foldl (fun t x => t.set x.slot { t.get {} x.slot with n := (t.get {} x.slot).n + 1#32 }) c.slots,
           bseq := if c.mode = .service then c.bseq else c.bseq + 1#48, ino := c.ino + 1 }

/-- The place of the next issue: the target of a taken branch, the next repetition, or the next bundle (R50, R52, R113, R120). -/
def moveOn (n : NextIssue) : Act := fun s =>
  let next := pcMask (linkValue s.cur)
  let bundle (a : Word) : Act := modCtx n.key fun c => { c with pc := pcMask a, repleft := 0, fetched := [] }
  match s.cur.target with
  | some a => bundle a s
  | none =>
    if 0 < n.remaining then modCtx n.key (fun c => { c with repleft := n.remaining, fetched := n.words }) s
    else Act.seq (Act.when (!s.cur.loopIssued) (backEdge n.key next (s.ctx n.key).order)) (fun s => bundle (s.cur.target.getD next) s) s

/-- The capture of a phase that this issue began ends with the place of the next issue (R333). -/
def recapture (key : Nat) : Act := fun s =>
  if s.cur.phased && (s.ctx key).phase.held then
    modCtx key (fun c => { c with phase := { c.phase with cap :=
      { c.phase.cap with lp := c.lp, frames := c.frames, order := c.order, slots := c.slots, pc := c.pc, repleft := c.repleft } } }) s
  else []

/-- The end of an issue that committed. One that left SERVICE, or ended its task there, leaves what was restored (R261, R280). -/
def endIssue (n : NextIssue) (l : List SlotIssue) (charge : Nat) : Act := fun s =>
  let c := s.ctx n.key
  Act.seqs [dropTouched (coreOf n.key), keepAtomics,
    if s.cur.svc && c.mode ≠ .service then Act.skip
    else Act.seqs [modCtx n.key fun c => c.counted l, moveOn n, recapture n.key],
    modCtx n.key fun c => { c.charge charge with reserve := c.reserve - 1 }] s

/-! What becomes of an issue. -/

/-- LOCKSTEP_DIVERGE (R43): the branch slot of a member's issue has another outcome than the lead's. -/
def divergeTrap (n : NextIssue) (s : State) : Option Trap :=
  match n.follows with
  | some e => if s.cur.branch = e.target then none else some { code := codeLockstepDiverge, slots := slotBit 6 }
  | none => none

/-- The copies from the own scratchpad that are under way, those of this issue among them, keep what its stores overwrite: such a copy reads as a load
issued with it (R107, R213). `s0` is the state before the slots of the issue, `s1` the state after them. -/
def keepRead (core : Nat) (e : List Effect) (s0 s1 : State) : List Effect :=
  let places := e.flatMap fun x => match x with
    | .mem a bs => (List.range bs.length).map fun i => a + i
    | _ => []
  if places = [] then [] else keepSources core (fun _ => true) places { s1 with mem := s0.mem }

/-- What becomes of an issue made now, where the copy engines in `engines` accept it: the effects of one that commits are all it does but a
software stop. -/
def tryIssue (engines : Nat → Bool) (n : NextIssue) (s : State) : Verdict :=
  let c0 := s.ctx n.key
  match headerTrap c0 n with
  | some t => .traps t
  | none =>
    let c := c0.atIssue n
    let active := activeSlots c n.key
    let l := slotIssues active
    let i := startIssue c0 n
    let e0 := Act.seq (fun _ => [.ctx n.key { c with yielded := false }, .cur i]) (endWait n.key) s
    let s0 := applyAll e0 s
    match undecoded active with
    | x :: r => .traps (undecodedTrap s0.view (x :: r) (opsOf (l.map (·.1))))
    | [] =>
      match judge engines n.header.p n.header.q [] l s0 with
      | .waits => .waits
      | .traps t => .traps t
      | .commits e1 =>
        let e2 := modCur (fun i => { i with slot := 7 }) (applyAll e1 s0)
        let s1 := applyAll e2 (applyAll e1 s0)
        match divergeTrap n s1 with
        | some t => .traps t
        | none =>
          let e2 := e2 ++ keepRead (coreOf n.key) e1 s0 s1
          .commits (e0 ++ e1 ++ e2 ++ endIssue n (l.map (·.1)) (issueCharge s0 i (l.map (·.1))) (applyAll e2 (applyAll e1 s0)))

/-- Whether a verdict lets the issue take place: it commits or traps. -/
def Verdict.takesPlace (v : Verdict) : Bool := match v with | .waits => false | _ => true

/-- Whether a context's own state lets it issue on this cycle: its mode, what its next issue waits for, a rollback, and the thermal gate
(R29, R198, R285, R322, R336). -/
def mayIssue (s : State) (key : Nat) : Bool :=
  let c := s.ctx key
  (c.mode = .service || (c.mode = .run && c.phase.stage = 0)) && waitOver s key && dieIssues s (dieOf (coreOf key))

/-- Whether a context is ready for this cycle (R29). -/
def isReady (s : State) (engines : Nat → Bool) (key : Nat) : Bool :=
  !(s.ctx key).inStream && mayIssue s key && (ownIssue s key).any fun n => (tryIssue engines n s).takesPlace

/-! Selection. -/

/-- The members of a list from a number on, and round again (R30, R35, R350). -/
def issueRing (n start : Nat) : List Nat := (List.range n).map fun i => (start + i) % n

/-- The contexts of a core that are ready, by number. One that yielded is ready only when no other is (R286). -/
def readyContexts (s : State) (engines : Nat → Bool) (core : Nat) : List Nat :=
  let l := (List.range (contextsOf core)).filter fun x => isReady s engines (keyOf core x)
  let awake := l.filter fun x => !(s.ctx (keyOf core x)).yielded
  if awake = [] then l else awake

/-- The highest priority of contexts of a core. -/
def topPriority (s : State) (core : Nat) (l : List Nat) : Nat := l.foldl (fun p x => max p (s.ctx (keyOf core x)).pri.toNat) 0

/-- The ready contexts of the highest priority. -/
def topContexts (s : State) (core : Nat) (l : List Nat) : List Nat :=
  l.filter fun x => (s.ctx (keyOf core x)).pri.toNat = topPriority s core l

/-- yield_due of R31: `peers` are the ready contexts of the highest priority. -/
def yieldDue (s : State) (core : Nat) (peers : List Nat) : Bool :=
  let x := s.core core
  decide (4096 ≤ x.runCount) && (s.ctx (keyOf core x.holder)).repleft = 0 && peers.any fun y => y ≠ x.holder

/-- The selection of R30 among ready contexts. -/
def select (s : State) (core : Nat) (l : List Nat) : Option Nat :=
  let x := s.core core
  let top := topContexts s core l
  if x.holder ∈ top ∧ !yieldDue s core top then some x.holder
  else (issueRing (contextsOf core) (x.holder + 1)).find? fun y => decide (y ∈ top)

/-- The context that issues on a core: on a service core, the first with reserve after the last issuer, where there is one (R350). -/
def issuer (s : State) (engines : Nat → Bool) (core : Nat) : Option Nat :=
  let l := readyContexts s engines core
  (if isService core then (issueRing 8 ((s.core core).last + 1)).find? fun x => decide (x ∈ l) && decide (0 < (s.ctx (keyOf core x)).reserve)
   else none).orElse fun _ => select s core l

/-- Whether an issue presents an operation to a copy engine (R35). -/
def presentsTo (s : State) (n : NextIssue) (e : Nat) : Bool :=
  (slotIssues (activeSlots ((s.ctx n.key).atIssue n) n.key)).any fun x => (copyKind x.1.op).isSome && engineOf (coreOf n.key) x.1.slot = e

/-- The mark of a core on which an issue of this cycle has taken a precise trap: the cycle is still to be charged as an idle one (R316). -/
def trapMark (core : Nat) : Nat := 20000 + core

/-- Whether a core has issued, or had its cycle. -/
def hasIssued (s : State) (core : Nat) : Bool := decide (core ∈ s.served) || decide (trapMark core ∈ s.served)

/-! Lockstep. -/

/-- The issue due to a member of a lockstep gang on the gang's next step: to the lead its own next issue, and to the member at position p the
issue that the lead made 2p steps before (R41). -/
inductive DueIssue where
  | nothing
  | unfetched
  | issue (n : NextIssue)
  deriving DecidableEq, Repr

/-- The issue of the stream that a member executes on a step (R41). -/
def streamAt (g : Gang) (p step : Nat) : Option LockIssue := g.stream.find? fun e => e.step + 2 * p = step

/-- What is due to a member (R41). -/
def dueIssue (s : State) (g : Gang) (key p : Nat) : DueIssue :=
  if p = 0 then
    if (s.ctx key).mode ≠ .run then .nothing
    else match ownIssue s key with
      | some n => .issue n
      | none => .unfetched
  else match streamAt g p g.step with
    | some e => .issue ⟨key, e.pc, e.words, e.repleft, some e⟩
    | none => .nothing

/-- The members of a gang with their positions and what is due to them. -/
def dueIssues (s : State) (t : Nat) : List (Nat × DueIssue) :=
  (gangMembers s t).zipIdx.map fun x => (x.1, dueIssue s (s.gang t) x.1 x.2)

/-- Whether a gang's stream still has steps to take: its lead runs, or a later member has issues to make; every member is in RUN or HALTED
(R41, R43). -/
def stepsRemain (s : State) (t : Nat) : Bool :=
  let ms := gangMembers s t
  ms.any (fun m => (s.ctx m).lock) && ms.all (fun m => (s.ctx m).mode = .run || (s.ctx m).mode = .halted) &&
    (ms.head?.any (fun m => (s.ctx m).mode = .run) || (s.gang t).stream ≠ [])

/-- The copy engines that accept a member's issue, where `engines` says which accept an operation of a core: those that no other member presents to on the
step (R35, R41). -/
def memberEngines (engines : Nat → Nat → Bool) (s : State) (due : List (Nat × DueIssue)) (key e : Nat) : Bool :=
  engines (coreOf key) e && !(due.any fun x => x.1 ≠ key && match x.2 with | .issue n => presentsTo s n e | _ => false)

/-- Whether a member is ready for what is due to it (R41, R42); one with nothing due must be one that may issue (R322). -/
def memberReady (engines : Nat → Nat → Bool) (s : State) (due : List (Nat × DueIssue)) (x : Nat × DueIssue) : Bool :=
  match x.2 with
  | .nothing => dieIssues s (dieOf (coreOf x.1))
  | .unfetched => false
  | .issue n =>
    let core := coreOf x.1
    !hasIssued s core && mayIssue s x.1 && (tryIssue (memberEngines engines s due x.1) n s).takesPlace &&
      (!(s.ctx x.1).yielded || readyContexts s (engines core) core = [])

/-- Whether the pushes that the members make on a step fit into the priority queue together (R41, R206): the members lie on one die (R229). -/
def pushesFit (s : State) (due : List (Nat × DueIssue)) : Bool :=
  let l := due.filter fun x => match x.2 with
    | .issue n => (slotIssues (activeSlots ((s.ctx x.1).atIssue n) x.1)).any fun y => match y.1.op with | .pqpush _ => true | _ => false
    | _ => false
  l.all fun x =>
    let d := s.die (dieOf (coreOf x.1))
    let c := s.ctx x.1
    decide (pqEntries d c.cid + l.length ≤ (s.block (partOf s.pkg (coreOf x.1)) c.cid.toNat).pqshare.toNat) && decide (pqAll d + l.length ≤ 65536)

/-- The mark of a gang whose step of this cycle is decided. -/
def lockMark (t : Nat) : Nat := 60000 + t

/-- Whether a lockstep step takes place, or a trap withholds it, on this cycle, where the engines accept what `engines` says (R41, R43). -/
def stepDueWith (engines : Nat → Nat → Bool) (s : State) (t : Nat) : Bool :=
  !decide (lockMark t ∈ s.served) && stepsRemain s t && (dueIssues s t).all (memberReady engines s (dueIssues s t)) && pushesFit s (dueIssues s t)

/-- Whether a member of a gang has an issue due on a core that meets a condition. -/
def dueOn (s : State) (t core : Nat) (p : NextIssue → Bool) : Bool :=
  (dueIssues s t).any fun x => coreOf x.1 = core && match x.2 with | .issue n => p n | _ => false

/-- The gangs whose step takes a core's issue width, were no other core to present (R42). -/
def gangsOn (s : State) (core : Nat) : List Nat :=
  (s.gangs.filter fun x => stepDueWith (fun _ => freeEngines s) s x.1 && dueOn s x.1 core fun _ => true).map (·.1)

/-! The copy engines (R35). -/

/-- The mark of a core that gives its place at the engines up on this cycle. -/
def waitMark (core : Nat) : Nat := 30000 + core

/-- Whether a core presents an operation to an engine on this cycle (R35): the member of a lockstep gang on it whose step is due does, and else the context
that it would select. DESIGN CHOICE (log entry 98): a core whose bundle another engine refuses holds its place until it gives it up. -/
def corePresents (s : State) (core e : Nat) : Bool :=
  !hasIssued s core && !decide (waitMark core ∈ s.served) &&
    match gangsOn s core, issuer s (freeEngines s) core with
    | t :: r, _ => (t :: r).any fun t => dueOn s t core fun n => presentsTo s n e
    | [], some x => (ownIssue s (keyOf core x)).any fun n => presentsTo s n e
    | [], none => false

/-- The copy engines that accept an operation of a core on this cycle: those that have accepted none, for the first core that presents one
after the core accepted last (R35). -/
def accepts (s : State) (core e : Nat) : Bool :=
  freeEngines s e &&
  !(((issueRing 8 ((s.engine e).last + 1)).takeWhile fun m => m ≠ core % 8).any fun m => corePresents s (clusterOf core * 8 + m) e)

/-- Whether a lockstep step takes place, or a trap withholds it, on this cycle (R41, R43). -/
def stepDue (s : State) (t : Nat) : Bool := stepDueWith (accepts s) s t

/-! The cycle of a core. -/

/-- What the cycle of a core ends with: rollbacks and the resumption of lockstep gangs go on (R277, R336). -/
def endCycle (core : Nat) : Act := fun s =>
  Act.each (List.range (contextsOf core)) (fun x => Act.seq (advanceRollback (keyOf core x)) (resumeGang (keyOf core x))) s

/-- A core has had its cycle. -/
def serve (core : Nat) : Act := fun s => [.served (core :: s.served)]

/-- Another context of a core has issued, or no context was ready: a YIELD is over (R286). -/
def endYields (core : Nat) (issuer : Option Nat) : Act := fun s =>
  ((List.range (contextsOf core)).filter fun x => issuer ≠ some x && (s.ctx (keyOf core x)).yielded).map fun x =>
    .ctx (keyOf core x) { s.ctx (keyOf core x) with yielded := false }

/-- The holder and the run count after an issue of a context (R30, R31). -/
def holdAfter (x : Core) (issuer : Nat) (peers : List Nat) : Core :=
  { x with holder := issuer, last := issuer,
           runCount := if issuer ≠ x.holder then 0 else if peers.any fun y => y ≠ issuer then x.runCount + 1 else x.runCount }

/-- The issue of a core on this cycle (R30, R31, R52): it commits, or takes a precise trap, and the cycle is then an idle one as well (R316). -/
def coreIssue (core : Nat) : Act := fun s =>
  match issuer s (accepts s core) core with
  | none => []
  | some x =>
    let key := keyOf core x
    match ownIssue s key with
    | none => []
    | some n =>
      let peers := topContexts s core (readyContexts s (accepts s core) core)
      match tryIssue (accepts s core) n s with
      | .waits => []
      | .traps t => Act.seqs [takePrecise key t, modCore core fun y => holdAfter y x peers, endYields core (some x), fun s =>
          [.served (trapMark core :: s.served)]] s
      | .commits e => Act.seqs [fun _ => e, modCore core fun y => holdAfter y x peers, endYields core (some x), softwareStop, serve core,
          endCycle core] s

/-- Whether a core issues on this cycle. -/
def issuesNow (s : State) (core : Nat) : Bool := !hasIssued s core && (issuer s (accepts s core) core).isSome

/-- The cores of a core's cluster. -/
def clusterCores (core : Nat) : List Nat := (List.range 8).map fun m => clusterOf core * 8 + m

/-- Whether nothing of a core's cluster can issue, while the core would, were the engines free: it and another core refuse each other an engine, and
it gives its place up (log entry 98). -/
def givesWay (s : State) (core : Nat) : Bool :=
  !hasIssued s core && !decide (waitMark core ∈ s.served) && (issuer s (freeEngines s) core).isSome &&
    (clusterCores core).all (fun c => !issuesNow s c) && !(s.gangs.any fun x => stepDue s x.1)

/-- BUNDLE_ISSUE (R30, R52). -/
def bundleIssue (core : Nat) : Act := fun s =>
  if issuesNow s core then coreIssue core s
  else if givesWay s core then [.served (waitMark core :: s.served)] else []
/-- The meaning of BUNDLE_ISSUE. -/
def execBundleIssue (core : Nat) (s : State) : Host.Outcome State Fault Refusal := done (bundleIssue core) s

/-- IDLE_CYCLE (R316): no context of the core issues on this cycle, or its issue took a precise trap; after the issues of the cycle, so that what they read
of PIDLE is as it was (R318). -/
def idleCycle (core : Nat) : Act := fun s =>
  if core ∈ s.served ∨ issuesNow s core then [] else Act.seqs [chargeIdle core, endYields core none, serve core, endCycle core] s
/-- The meaning of IDLE_CYCLE. -/
def execIdleCycle (core : Nat) (s : State) : Host.Outcome State Fault Refusal := done (idleCycle core) s

/-! Fetch. -/

/-- The issue of the stream that is due to a later member of a lockstep gang (R41). -/
def memberIssue (s : State) (key : Nat) : Option NextIssue :=
  (s.ctx key).task.bind fun t => match dueIssue s (s.gang t) key ((gangMembers s t).idxOf key) with
    | .issue n => some n
    | _ => none

/-- Whether a context is a later member of a lockstep gang, which does not fetch the stream (R40). -/
def Ctx.follows (c : Ctx) : Bool := c.inStream && c.pos ≠ 0#7

/-- The lines that the next issue of a context needs, each with its first byte, the WHY of its fault and the address that the fault names: the
line of the header, the other line of the bundle, and the line of the metadata word of an MLDW.S (R48, R49, R175). -/
def neededLines (s : State) (key : Nat) : List (Nat × BitVec 8 × Nat) :=
  let c := s.ctx key
  let line (a : Nat) : Nat := a / 64 * 64
  let metaOf (n : NextIssue) : List (Nat × BitVec 8 × Nat) :=
    if (slotIssues (activeSlots (c.atIssue n) key)).any fun x => match x.1.op with | .mldwS _ => true | _ => false then
      [(line c.mpc.toNat, 0x22#8, c.mpc.toNat)] else []
  if c.follows then (memberIssue s key).elim [] metaOf
  else match ownIssue s key with
  | some n => metaOf n
  | none =>
    let a := codeAddr c.pc
    (line a, 0x20#8, line a) :: (match codeWord s key c.pc with
      | some h =>
        let b := line (codeAddr (c.pc + BitVec.ofNat 64 ((Header.ofWord h).length - 8)))
        if b = line a then [] else [(b, 0x21#8, b)]
      | none => [])

/-- Whether a context fetches: in SERVICE, or in RUN where its phase does not roll back (R50, R336). Of a lockstep gang the lead alone fetches the stream
(R40); every member fetches metadata of its own (R175). -/
def fetches (c : Ctx) : Bool := c.mode = .service || (c.mode = .run && c.phase.stage = 0)

/-- The fetch of a context in flight. -/
def fetchInFlight (s : State) (key : Nat) : Option (Nat × Access) := s.accs.find? fun x => x.2.key = key && x.2.what = .fetch

/-- The line that a context is to ask for: none while a fetch of its own is in flight. -/
def lineToFetch (s : State) (key : Nat) : Option (Nat × BitVec 8 × Nat) :=
  if fetches (s.ctx key) && (fetchInFlight s key).isNone then (neededLines s key).find? fun x => (fetchedLine s key x.1).isNone else none

/-- A fetched line enters the instruction cache, which holds 1,024 lines (R89): which line leaves a full one is free (log entry 2). -/
def Core.fillCode (x : Core) (l : CacheLine) (n : Nat) : Core :=
  let rest := x.icache.filter fun y => !(y.cid = l.cid && y.va = l.va)
  { x with icache := l :: if rest.length < 1024 then rest else rest.eraseIdx (n % rest.length) }

/-- INSTRUCTION_FETCH (R48): a line that has arrived enters the instruction cache; a line that the next issue needs is asked for. -/
def instructionFetch (key : Nat) : Act := fun s =>
  match fetchInFlight s key with
  | some x =>
    if x.2.performed.isSome then
      let va := (x.2.parts.head?.map (·.va)).getD 0
      let l : CacheLine := { cid := effectiveCid x.2.cid va, va := va / 64, window := false, data := x.2.data }
      [.free, .acc x.1 none, .core (coreOf key) ((s.core (coreOf key)).fillCode l (Config.freeNat s.free))]
    else []
  | none =>
    match lineToFetch s key with
    | none => []
    | some (a, why, va) =>
      let c := s.ctx key
      let op : OpRec := { bseq := c.issueBseq, ino := c.ino, slot := 7, ca := why.setWidth 64, cb := BitVec.ofNat 64 va, svc := c.mode = .service }
      withId (fun id s => [.free, .acc id (some
        { key := key, cid := c.cid, op := op, kind := .global, what := .fetch, data := List.replicate 64 0#8,
          parts := timeParts s (coreOf key) c.cid .global op [⟨0, 0, a, 64, 0, false⟩] })]) s
/-- The meaning of INSTRUCTION_FETCH. -/
def execInstructionFetch (key : Nat) (s : State) : Host.Outcome State Fault Refusal := done (instructionFetch key) s

/-! Faults of fetches and of operations (R49, R175, R257). -/

/-- What the next issue of a context needs of the line of a fetch, and does not have yet (R50): the WHY of its fault and the address that it names. -/
def neededFetch (s : State) (m : FaultMsg) : Option (BitVec 8 × Nat) :=
  if fetches (s.ctx m.key) then
    ((neededLines s m.key).find? fun x => x.1 = m.va.toNat / 64 * 64 && (fetchedLine s m.key x.1).isNone).map (·.2)
  else none

/-- FETCH_FAULT reaches its context (R49, R175): it is the fault of what the next issue needs of the line; an uncorrectable error is consumed (R324, R336). A
context that is stopping makes no issue that the fetch was for, and the fault of a fetch off the path is dropped with its fetch (R50). -/
def fetchFault (m : FaultMsg) : Act := fun s =>
  let strike (m : FaultMsg) : Act := if m.why = 0x23#8 then consumeError m else stopOnFault m.key m
  if m.slot ≠ 7 then strike m s
  else if (s.ctx m.key).stop.isSome then [.acc m.access none]
  else match neededFetch s m with
  | some x => strike { m with why := if m.why = 0x23#8 then 0x23#8 else x.1, va := BitVec.ofNat 52 x.2 } s
  | none => [.acc m.access none]

/-- DEFERRED_FAULT (R257): a message that has come due reaches its context. -/
def deferredFault (m : FaultMsg) : Act := fun s =>
  match s.faults.find? fun x => x.2 = m && decide (x.1 ≤ s.now) with
  | none => []
  | some x =>
    Act.seq (fun s => [.faults (s.faults.erase x)]) (fun s =>
      if !faultStands s m then []
      else if m.code = codeUncorrectable then consumeError m s
      else if m.code = codeFetchFault then fetchFault m s
      else stopOnFault m.key m s) s
/-- The meaning of DEFERRED_FAULT. -/
def execDeferredFault (m : FaultMsg) (s : State) : Host.Outcome State Fault Refusal := done (deferredFault m) s

/-! Steps. -/

/-- The traps that members meet on a step. -/
def stepTraps (s : State) (due : List (Nat × DueIssue)) : List (Nat × Trap) :=
  due.filterMap fun x => match x.2 with
    | .issue n => (match tryIssue (memberEngines (accepts s) s due x.1) n s with
      | .traps t => some (x.1, t)
      | _ => none)
    | _ => none

/-- Members stop, each with its cause, and then the other members as their peers (R43). -/
def stopMembers (kind : StopKind) (at_ : Nat) (l : List (Nat × Trap)) (rest : Act) : Act :=
  Act.seq (Act.each l fun x => modCtx x.1 fun c => beginStop c kind at_ x.2) rest

/-- A withheld step: the members that trap stop on the cycle before, and no member executes its issue (R43). -/
def withholdStep (l : List (Nat × Trap)) : Act := fun s =>
  stopMembers .precise (s.now - 1) l (Act.each l fun x => takePrecise x.1 x.2) s

/-- The place of a member in the stream: that of the issue due to it next (R43). -/
def followStream (t key p : Nat) : Act := fun s =>
  match streamAt (s.gang t) p ((s.gang t).step + 1) with
  | some e => if p = 0 then [] else modCtx key (fun c => { c with pc := e.pc, repleft := e.repleft, fetched := [] }) s
  | none => []

/-- What the lead's issue adds to the stream. -/
def extendStream (t : Nat) (n : NextIssue) : Act := fun s =>
  modGang t (fun g => { g with stream := g.stream ++ [⟨g.step, n.pc, n.words, n.repleft, s.cur.branch⟩] }) s

/-- The issues of a step, member by member; those that executed TRAP stop after all of them (R43, R279). -/
def commitStep (t : Nat) : List ((Nat × DueIssue) × Nat) → List (Nat × Trap) → Act
  | [], stops => fun s => stopMembers .software s.now stops (Act.each stops fun x => takeStop x.1 .software x.2) s
  | x :: r, stops => fun s =>
    match x.1.2 with
    | .issue n =>
      let key := x.1.1
      let e := (match tryIssue (fun _ => true) n s with
        | .commits e => e
        | _ => []) ++ [Effect.served (coreOf key :: s.served)]
      let s1 := applyAll e s
      let e1 := Act.seqs [Act.when (x.2 = 0) (extendStream t n), endYields (coreOf key) (some (ctxOf key)), followStream t key x.2, endCycle (coreOf key)] s1
      let s2 := applyAll e1 s1
      let stops := match s2.cur.trapped with
        | some idx => stops ++ [(key, { code := codeSwtrap, idx := idx, slots := slotBit 0 })]
        | none => stops
      e ++ e1 ++ commitStep t r stops s2
    | _ => commitStep t r stops s

/-- The stream after a step: issues that every member has executed leave it (R41). -/
def Gang.advance (g : Gang) (members : Nat) : Gang :=
  { g with step := g.step + 1, stream := g.stream.filter fun e => decide (g.step < e.step + 2 * (members - 1)) }

/-- Whether a gang gives its places at the engines up: no core of its members' clusters can issue, and its step would be due, were the engines free (log
entry 98). -/
def gangGivesWay (s : State) (t : Nat) : Bool :=
  stepDueWith (fun _ => freeEngines s) s t && !(s.gangs.any fun x => stepDue s x.1) &&
    (gangMembers s t).all fun m => (clusterCores (coreOf m)).all fun c => !issuesNow s c && !givesWay s c

/-- LOCKSTEP_STEP (R41 to R43). -/
def lockstepStep (t : Nat) : Act := fun s =>
  if !stepDue s t then (if gangGivesWay s t then [.served (lockMark t :: s.served)] else [])
  else
    let due := dueIssues s t
    Act.seqs [fun s => [.served (lockMark t :: s.served)],
      match stepTraps s due with
      | [] => Act.seq (commitStep t due.zipIdx []) (modGang t fun g => g.advance due.length)
      | l => withholdStep l] s
/-- The meaning of LOCKSTEP_STEP. -/
def execLockstepStep (task : Nat) (s : State) : Host.Outcome State Fault Refusal := done (lockstepStep task) s

end Sys2Proof.Machine
end

