-- ==== Sys2Proof/Machine/Boot.lean ====
section
/-!
DEFINITION. The start-up of the device (R367, R368) and the hypervisor's binding at its last step (R351).
-/
namespace Sys2Proof.Machine

/-! The steps and their methods. -/

/-- Whether a step is run for each die (R367). -/
def stepPerDie (step : Nat) : Bool := 4 ≤ step && step ≤ 6
/-- Whether a step is optional (R367). -/
def stepOptional (step : Nat) : Bool := step = 7 || step = 8 || step = 10
/-- The last method of a step (R367). -/
def lastMethod (step : Nat) : Nat :=
  match step with
  | 2 => 1
  | 4 => 2
  | 5 => 2
  | 6 => 2
  | 7 => 2
  | 9 => 1
  | 11 => 1
  | _ => 0
/-- The method after one that failed; the self-test of a die has no method 1 (R367; log entry 34). -/
def nextMethod (step m : Nat) : Nat := if step = 6 then 2 else m + 1

/-- The steps of a start in order, with their dies; 0xFF stands for no die (R367, R368). -/
def bootSteps : List (Nat × Nat) :=
  (List.range 11).flatMap fun i => if stepPerDie (i + 1) then (List.range 24).map fun d => (i + 1, d) else [(i + 1, 0xFF)]

/-- An entry of the step log: OUT and METHOD (R368). -/
structure LogEntry where
  out : Nat
  method : Nat
  deriving DecidableEq, Repr

/-- The most recent entry of the log for a step and die (R368). -/
def lastEntry (s : State) (step die : Nat) : Option LogEntry :=
  (List.range (min 65536 s.pkg.logAt)).findSome? fun k =>
    let w := BitVec.ofNat 64 (leNat (Memory.read s.mem (logPlace (s.pkg.logAt - 1 - k)) 8))
    if (w.extractLsb' 0 8).toNat = step ∧ (w.extractLsb' 24 8).toNat = die then
      some ⟨(w.extractLsb' 16 8).toNat, (w.extractLsb' 8 8).toNat⟩ else none

/-- The method of a step and die, and whether it is skipped (R368). -/
def bootMethod (s : State) (step die : Nat) : Nat × Bool :=
  match if s.pkg.retryStart then none else lastEntry s step die with
  | none => (0, false)
  | some e =>
    if e.out = 0 then (e.method, false)
    else if e.out = 2 then (0, false)
    else if e.method < lastMethod step then (nextMethod step e.method, false)
    else (e.method, stepOptional step)

/-! The hypervisor's image (R351). -/

/-- The bytes of a copy of the hypervisor's image in the flash. -/
def flashImage (method : Nat) : ImageSource := fun off n =>
  some ((List.range n).map fun i => Config.flashByte (method * 2 ^ 30 + off + i))

/-- The load base of the hypervisor. -/
def hypervisorBase : Nat := 0xC000000000000

/-- The hypervisor's image of a method, where it meets the checks of a service image. -/
def hypervisorImage (method : Nat) : Option Image :=
  (readImage (flashImage method)).bind fun b =>
    let m := parseImage b
    if (m.fault hypervisorBase 0 true).isNone && decide (m.lspan ≤ 2 ^ 35) then some m else none

/-- An entry of a page table that the boot ROM writes: an address with the bits V and LEAF (R250). -/
def tableWord (addr : Nat) (leaf : Bool) : List Byte := leBytes (addr + if leaf then 3 else 1) 8

/-- Frames of a die's stack given to the hypervisor with a use (R253). -/
def giveFrames (die first n : Nat) (use : BitVec 3) : Act :=
  Act.each (List.range n) fun i => modDie die fun d => { d with frames := d.frames.set (first + i) { own := 0xFF#8, use := use } }

/-- The frames, tables and interleave range of the hypervisor's image (R351): which frames the boot ROM takes is the model's choice
(log entry 34): the top table in frame 0, the middle one in frames 4 to 7, the bottom ones from frame 16 and the pages from frame 512 on. -/
def mapHypervisor (die lspan : Nat) : Act :=
  let pages := (lspan + 65535) / 65536
  let granules := (lspan + 2 ^ 25 - 1) / 2 ^ 25
  let base : Word := BitVec.ofNat 64 (hypervisorBase + 1)
  let limit : Word := BitVec.ofNat 64 (hypervisorBase + (granules - 1) * 2 ^ 25 + 2 ^ die)
  Act.seqs [giveFrames die 0 1 useTable, giveFrames die 4 4 useTable, giveFrames die 16 ((granules + 15) / 16) useTable,
    giveFrames die 512 pages useData,
    storeBytes (hbmPlace die (8 * 0xC00)) (tableWord (2 ^ 18) false),
    Act.each (List.range granules) fun j => storeBytes (hbmPlace die (2 ^ 18 + 8 * j)) (tableWord (2 ^ 20 + 4096 * j) false),
    Act.each (List.range pages) fun i =>
      storeBytes (hbmPlace die (2 ^ 20 + 4096 * (i / 512) + 8 * (i % 512))) (tableWord (2 ^ 25 + 65536 * i) true),
    modDie die fun d => { d with ptroot := d.ptroot.set 255 1#64 },
    modQuarter (quarterOf die) fun q => { q with ilbase := q.ilbase.set 15 base, illim := q.illim.set 15 limit }]

/-- The binding of the hypervisor to context 0 of svc0 of a die (R351). -/
def bindHypervisor (die : Nat) (m : Image) : Act :=
  Act.seqs [mapHypervisor die m.lspan, writePieces (quarterOf die) 0xFF#8 (m.pieceList hypervisorBase),
    fun _ => [.ctx (svcKey die 0) (serviceCtx m hypervisorBase 0xFF#8 false [(255, windowEntry 3#3 0xE000000000000 (2 ^ 48))])],
    modSvc die 0 fun b => { b with cfg := svcCfg true false 0xFF#8 0#16, lb := BitVec.ofNat 64 hypervisorBase }]

/-- The lowest-numbered unfenced die. -/
def firstDie (p : Package) : Option Nat := (List.range 24).find? fun d => !p.fenced.getLsbD d

/-! The run of a start. -/

/-- Whether a method of a step passes: the world decides, but for fencing a die; the hypervisor's image must also be one (log entry 34). -/
def bootPasses (s : State) (step die method : Nat) : Bool :=
  (stepPerDie step && method = 2) ||
  (Config.bootOutcome s.pkg.start.toNat (step * 4 + method) die &&
    (step ≠ 11 || ((hypervisorImage method).isSome && (firstDie s.pkg).isSome)))

/-- A die is fenced at this start (R367). -/
def fenceAtBoot (die : Nat) : Act := Act.seq (modPkg fun p => { p with fenced := setBit p.fenced die true })
  (modDie die fun d => { d with fenced := true })

/-- The lanes of a Lorig-X link take a rate (R337, R367). -/
def setRate (rate : BitVec 2) : Act := Act.each (List.range 8) fun link => Act.each (xLanes link) fun k => modLane k fun l => { l with rate := rate }

/-- The spare lanes of the Lorig-D ports of a die leave service (R360, R367). -/
def dropSpares (die : Nat) : Act :=
  Act.each (List.range 5) fun port => Act.each [32, 33] fun i => modLane (dLane die port i) fun l => { l with rate := 3#2 }

/-- What a step that passed leaves (R351, R367): of the methods 1 of steps 4 and 9, ports without spares and PCIe without CXL. -/
def stepEffect (step die method : Nat) : Act := fun s =>
  if stepPerDie step then Act.seq (Act.when (method = 2) (fenceAtBoot die)) (Act.when (step = 4 && method = 1) (dropSpares die)) s
  else if step = 7 then Act.seq (modPkg fun p => { p with xrate := BitVec.ofNat 2 method }) (setRate (BitVec.ofNat 2 method)) s
  else if step = 9 then modPkg (fun p => { p with hostUp := [0, 1], pcieOnly := method = 1 }) s
  else if step = 11 then
    (match hypervisorImage method, firstDie s.pkg with
     | some m, some d => bindHypervisor d m s
     | _, _ => [])
  else []

/-- What an optional step that did not pass leaves: without Lorig-X training no Lorig-X lane is in service, and without the Ethernet ports no connection
carries traffic (log entry 34). -/
def skipEffect (step : Nat) : Act :=
  if step = 7 then Act.seq (setRate 3#2) (modPkg fun p => { p with xrate := 3#2, xlinks := (List.range 8).map fun l => (l, 8) })
  else if step = 8 then modPkg fun p => { p with ether := false }
  else Act.skip

/-- An outcome is logged (R368); the sub-cause of a failure is a free value (log entry 2). -/
def logOutcome (step die out method : Nat) : Act :=
  let log (detail : Word) : Act := appendLog (BitVec.ofNat 8 die) (BitVec.ofNat 8 out) (BitVec.ofNat 8 method) (BitVec.ofNat 8 step) detail
  if out = 1 then withFree fun n => log (BitVec.ofNat 64 n) else log 0#64

/-- The steps of a start from one on (R367, R368). A fenced die's later steps are not run. -/
def runSteps : List (Nat × Nat) → Act
  | [] => fun _ => [.boot .done]
  | (step, die) :: r => fun s =>
    if stepPerDie step && s.pkg.fenced.getLsbD die then runSteps r s
    else
      let m := (bootMethod s step die).1
      if (bootMethod s step die).2 then Act.seqs [logOutcome step die 2 m, skipEffect step, runSteps r] s
      else if bootPasses s step die m then Act.seqs [logOutcome step die 0 m, stepEffect step die m, runSteps r] s
      else if stepOptional step then Act.seqs [logOutcome step die 1 m, skipEffect step, runSteps r] s
      else if m < lastMethod step then
        Act.seq (logOutcome step die 1 m) (deviceReset causeBootHalt (0#32 ++ BitVec.ofNat 8 m ++ BitVec.ofNat 8 die ++ BitVec.ofNat 8 step)) s
      else Act.seqs [logOutcome step die 1 m, modPkg fun p => { p with hostUp := [] }, fun _ => [.boot .halted]] s

/-- BOOT_START (R367): the boot ROM runs the steps of the start that a reset began. The log supplies the start count, the cause and RETRY (R365, R366). -/
def bootStart : Act := fun s =>
  if s.boot = .pending then
    Act.seq (modPkg fun p => { p with start := p.start + 1#32, cause := (logReset s).1, retryStart := (logReset s).2 }) (runSteps bootSteps) s
  else []
/-- The meaning of BOOT_START. -/
def execBootStart (s : State) : Host.Outcome State Fault Refusal := done bootStart s

end Sys2Proof.Machine
end

