-- ==== Sys2Proof/Machine/Dispatch.lean ====
section
/-!
DEFINITION. The dispatch: one arm per instruction, each one direct call of its meaning.
-/
namespace Sys2Proof.Machine

def exec (i : Instr) (s : State) : Host.Outcome State Fault Refusal :=
  match i with
  | .bundleIssue core => Sys2Proof.Machine.execBundleIssue core s
  | .idleCycle core => Sys2Proof.Machine.execIdleCycle core s
  | .instructionFetch key => Sys2Proof.Machine.execInstructionFetch key s
  | .fixedLatencyLanding key => Sys2Proof.Machine.execFixedLatencyLanding key s
  | .variableLatencyArrival key => Sys2Proof.Machine.execVariableLatencyArrival key s
  | .lockstepStep task => Sys2Proof.Machine.execLockstepStep task s
  | .add f => Sys2Proof.Machine.execAdd f s
  | .sub f => Sys2Proof.Machine.execSub f s
  | .mul f => Sys2Proof.Machine.execMul f s
  | .mulh f => Sys2Proof.Machine.execMulh f s
  | .div f => Sys2Proof.Machine.execDiv f s
  | .rem f => Sys2Proof.Machine.execRem f s
  | .and f => Sys2Proof.Machine.execAnd f s
  | .or f => Sys2Proof.Machine.execOr f s
  | .xor f => Sys2Proof.Machine.execXor f s
  | .shl f => Sys2Proof.Machine.execShl f s
  | .shr f => Sys2Proof.Machine.execShr f s
  | .sar f => Sys2Proof.Machine.execSar f s
  | .min f => Sys2Proof.Machine.execMin f s
  | .max f => Sys2Proof.Machine.execMax f s
  | .clz f => Sys2Proof.Machine.execClz f s
  | .addi f => Sys2Proof.Machine.execAddi f s
  | .andi f => Sys2Proof.Machine.execAndi f s
  | .ori f => Sys2Proof.Machine.execOri f s
  | .xori f => Sys2Proof.Machine.execXori f s
  | .shli f => Sys2Proof.Machine.execShli f s
  | .shri f => Sys2Proof.Machine.execShri f s
  | .sari f => Sys2Proof.Machine.execSari f s
  | .movi f => Sys2Proof.Machine.execMovi f s
  | .moviIns f => Sys2Proof.Machine.execMoviIns f s
  | .cmp f => Sys2Proof.Machine.execCmp f s
  | .cmpi f => Sys2Proof.Machine.execCmpi f s
  | .sel f => Sys2Proof.Machine.execSel f s
  | .popc f => Sys2Proof.Machine.execPopc f s
  | .lea f => Sys2Proof.Machine.execLea f s
  | .fadd f => Sys2Proof.Machine.execFadd f s
  | .fsub f => Sys2Proof.Machine.execFsub f s
  | .fmul f => Sys2Proof.Machine.execFmul f s
  | .fma f => Sys2Proof.Machine.execFma f s
  | .fdiv f => Sys2Proof.Machine.execFdiv f s
  | .fsqrt f => Sys2Proof.Machine.execFsqrt f s
  | .fmin f => Sys2Proof.Machine.execFmin f s
  | .fmax f => Sys2Proof.Machine.execFmax f s
  | .fcmp f => Sys2Proof.Machine.execFcmp f s
  | .fcvt f => Sys2Proof.Machine.execFcvt f s
  | .fsgn f => Sys2Proof.Machine.execFsgn f s
  | .ld f => Sys2Proof.Machine.execLd f s
  | .st f => Sys2Proof.Machine.execSt f s
  | .amo f => Sys2Proof.Machine.execAmo f s
  | .grant f => Sys2Proof.Machine.execGrant f s
  | .revoke f => Sys2Proof.Machine.execRevoke f s
  | .permld f => Sys2Proof.Machine.execPermld f s
  | .cmpt f => Sys2Proof.Machine.execCmpt f s
  | .cmptV f => Sys2Proof.Machine.execCmptV f s
  | .fork f => Sys2Proof.Machine.execFork f s
  | .join f => Sys2Proof.Machine.execJoin f s
  | .pqpush f => Sys2Proof.Machine.execPqpush f s
  | .pqpop f => Sys2Proof.Machine.execPqpop f s
  | .barm f => Sys2Proof.Machine.execBarm f s
  | .barrive f => Sys2Proof.Machine.execBarrive f s
  | .bwait f => Sys2Proof.Machine.execBwait f s
  | .gbarrive f => Sys2Proof.Machine.execGbarrive f s
  | .gbwait f => Sys2Proof.Machine.execGbwait f s
  | .gangBarrierRelease task bar => Sys2Proof.Machine.execGangBarrierRelease task bar s
  | .qcfg f => Sys2Proof.Machine.execQcfg f s
  | .drainR f => Sys2Proof.Machine.execDrainR f s
  | .drainA f => Sys2Proof.Machine.execDrainA f s
  | .drainBoth f => Sys2Proof.Machine.execDrainBoth f s
  | .trap f => Sys2Proof.Machine.execTrap f s
  | .resume f => Sys2Proof.Machine.execResume f s
  | .resumeServiceCore f => Sys2Proof.Machine.execResumeServiceCore f s
  | .resumeEnd f => Sys2Proof.Machine.execResumeEnd f s
  | .rdrec f => Sys2Proof.Machine.execRdrec f s
  | .wrrec f => Sys2Proof.Machine.execWrrec f s
  | .vtsel f => Sys2Proof.Machine.execVtsel f s
  | .srmovRead f => Sys2Proof.Machine.execSrmovRead f s
  | .srmovWrite f => Sys2Proof.Machine.execSrmovWrite f s
  | .cinv f => Sys2Proof.Machine.execCinv f s
  | .cflush f => Sys2Proof.Machine.execCflush f s
  | .waitt f => Sys2Proof.Machine.execWaitt f s
  | .waittRelease key => Sys2Proof.Machine.execWaittRelease key s
  | .snap f => Sys2Proof.Machine.execSnap f s
  | .step f => Sys2Proof.Machine.execStep f s
  | .phase f => Sys2Proof.Machine.execPhase f s
  | .phaseOff f => Sys2Proof.Machine.execPhaseOff f s
  | .wdecl f => Sys2Proof.Machine.execWdecl f s
  | .enrd f => Sys2Proof.Machine.execEnrd f s
  | .enrdIdle f => Sys2Proof.Machine.execEnrdIdle f s
  | .enclr f => Sys2Proof.Machine.execEnclr f s
  | .yield f => Sys2Proof.Machine.execYield f s
  | .halt f => Sys2Proof.Machine.execHalt f s
  | .br f => Sys2Proof.Machine.execBr f s
  | .breq f => Sys2Proof.Machine.execBreq f s
  | .brne f => Sys2Proof.Machine.execBrne f s
  | .brlt f => Sys2Proof.Machine.execBrlt f s
  | .brge f => Sys2Proof.Machine.execBrge f s
  | .brltu f => Sys2Proof.Machine.execBrltu f s
  | .brgeu f => Sys2Proof.Machine.execBrgeu f s
  | .brall f => Sys2Proof.Machine.execBrall f s
  | .brnone f => Sys2Proof.Machine.execBrnone f s
  | .call f => Sys2Proof.Machine.execCall f s
  | .callRegister f => Sys2Proof.Machine.execCallRegister f s
  | .ret f => Sys2Proof.Machine.execRet f s
  | .jr f => Sys2Proof.Machine.execJr f s
  | .loop f => Sys2Proof.Machine.execLoop f s
  | .loopw f => Sys2Proof.Machine.execLoopw f s
  | .vadd f => Sys2Proof.Machine.execVadd f s
  | .vsub f => Sys2Proof.Machine.execVsub f s
  | .vmul f => Sys2Proof.Machine.execVmul f s
  | .vfma f => Sys2Proof.Machine.execVfma f s
  | .vmin f => Sys2Proof.Machine.execVmin f s
  | .vmax f => Sys2Proof.Machine.execVmax f s
  | .vabs f => Sys2Proof.Machine.execVabs f s
  | .vneg f => Sys2Proof.Machine.execVneg f s
  | .vmulh f => Sys2Proof.Machine.execVmulh f s
  | .vavg f => Sys2Proof.Machine.execVavg f s
  | .vshl f => Sys2Proof.Machine.execVshl f s
  | .vshr f => Sys2Proof.Machine.execVshr f s
  | .vsar f => Sys2Proof.Machine.execVsar f s
  | .vand f => Sys2Proof.Machine.execVand f s
  | .vor f => Sys2Proof.Machine.execVor f s
  | .vxor f => Sys2Proof.Machine.execVxor f s
  | .vcvt f => Sys2Proof.Machine.execVcvt f s
  | .vcmp f => Sys2Proof.Machine.execVcmp f s
  | .vsel f => Sys2Proof.Machine.execVsel f s
  | .vshuf f => Sys2Proof.Machine.execVshuf f s
  | .vperm f => Sys2Proof.Machine.execVperm f s
  | .vred f => Sys2Proof.Machine.execVred f s
  | .vclmul f => Sys2Proof.Machine.execVclmul f s
  | .vclmulh f => Sys2Proof.Machine.execVclmulh f s
  | .vrcp f => Sys2Proof.Machine.execVrcp f s
  | .vrsq f => Sys2Proof.Machine.execVrsq f s
  | .vexp f => Sys2Proof.Machine.execVexp f s
  | .vmov f => Sys2Proof.Machine.execVmov f s
  | .vmovi f => Sys2Proof.Machine.execVmovi f s
  | .vld f => Sys2Proof.Machine.execVld f s
  | .vst f => Sys2Proof.Machine.execVst f s
  | .vgath f => Sys2Proof.Machine.execVgath f s
  | .vscat f => Sys2Proof.Machine.execVscat f s
  | .vamo f => Sys2Proof.Machine.execVamo f s
  | .qpush f => Sys2Proof.Machine.execQpush f s
  | .qpop f => Sys2Proof.Machine.execQpop f s
  | .vdup f => Sys2Proof.Machine.execVdup f s
  | .mldw f => Sys2Proof.Machine.execMldw f s
  | .mldwS f => Sys2Proof.Machine.execMldwS f s
  | .mma f => Sys2Proof.Machine.execMma f s
  | .mmas f => Sys2Proof.Machine.execMmas f s
  | .mzero f => Sys2Proof.Machine.execMzero f s
  | .mfuse f => Sys2Proof.Machine.execMfuse f s
  | .mdrain f => Sys2Proof.Machine.execMdrain f s
  | .mdrainV f => Sys2Proof.Machine.execMdrainV f s
  | .sequencerOpStart key => Sys2Proof.Machine.execSequencerOpStart key s
  | .mmaRowStep key => Sys2Proof.Machine.execMmaRowStep key s
  | .mdrainEntryStep key => Sys2Proof.Machine.execMdrainEntryStep key s
  | .queueClaimArrival key => Sys2Proof.Machine.execQueueClaimArrival key s
  | .cpy f => Sys2Proof.Machine.execCpy f s
  | .cpy2 f => Sys2Proof.Machine.execCpy2 f s
  | .cpy3 f => Sys2Proof.Machine.execCpy3 f s
  | .cgath f => Sys2Proof.Machine.execCgath f s
  | .cscat f => Sys2Proof.Machine.execCscat f s
  | .cmcast f => Sys2Proof.Machine.execCmcast f s
  | .cfill f => Sys2Proof.Machine.execCfill f s
  | .credI32 f => Sys2Proof.Machine.execCredI32 f s
  | .credFp32 f => Sys2Proof.Machine.execCredFp32 f s
  | .credBf16 f => Sys2Proof.Machine.execCredBf16 f s
  | .cpyAt f => Sys2Proof.Machine.execCpyAt f s
  | .cpy2At f => Sys2Proof.Machine.execCpy2At f s
  | .cpy3At f => Sys2Proof.Machine.execCpy3At f s
  | .cgathAt f => Sys2Proof.Machine.execCgathAt f s
  | .cscatAt f => Sys2Proof.Machine.execCscatAt f s
  | .cmcastAt f => Sys2Proof.Machine.execCmcastAt f s
  | .cfillAt f => Sys2Proof.Machine.execCfillAt f s
  | .credI32At f => Sys2Proof.Machine.execCredI32At f s
  | .credFp32At f => Sys2Proof.Machine.execCredFp32At f s
  | .credBf16At f => Sys2Proof.Machine.execCredBf16At f s
  | .atCopyLaunch id => Sys2Proof.Machine.execAtCopyLaunch id s
  | .copyCompletion id => Sys2Proof.Machine.execCopyCompletion id s
  | .mcastLanding id => Sys2Proof.Machine.execMcastLanding id s
  | .storeAcknowledge id => Sys2Proof.Machine.execStoreAcknowledge id s
  | .homeAccess id => Sys2Proof.Machine.execHomeAccess id s
  | .pathAccess id => Sys2Proof.Machine.execPathAccess id s
  | .farAccessArrival a => Sys2Proof.Machine.execFarAccessArrival a s
  | .pathResponseTimeout id => Sys2Proof.Machine.execPathResponseTimeout id s
  | .deferredFault d => Sys2Proof.Machine.execDeferredFault d s
  | .stoppingComplete key => Sys2Proof.Machine.execStoppingComplete key s
  | .childTake key => Sys2Proof.Machine.execChildTake key s
  | .stealComplete key => Sys2Proof.Machine.execStealComplete key s
  | .pqArrival die => Sys2Proof.Machine.execPqArrival die s
  | .pqClaimServe die => Sys2Proof.Machine.execPqClaimServe die s
  | .doorbell vf tail => Sys2Proof.Machine.execDoorbell vf tail s
  | .iqbaseWrite vf value => Sys2Proof.Machine.execIqbaseWrite vf value s
  | .accessionCheck launch => Sys2Proof.Machine.execAccessionCheck launch s
  | .budgetIntervalStart quarter => Sys2Proof.Machine.execBudgetIntervalStart quarter s
  | .placement quarter cid => Sys2Proof.Machine.execPlacement quarter cid s
  | .startTick task => Sys2Proof.Machine.execStartTick task s
  | .taskCompletion task => Sys2Proof.Machine.execTaskCompletion task s
  | .replayAccept launch => Sys2Proof.Machine.execReplayAccept launch s
  | .nodeEvaluation walker => Sys2Proof.Machine.execNodeEvaluation walker s
  | .replayEnd launch => Sys2Proof.Machine.execReplayEnd launch s
  | .gangSwitchTick quarter => Sys2Proof.Machine.execGangSwitchTick quarter s
  | .saveComplete quarter die => Sys2Proof.Machine.execSaveComplete quarter die s
  | .saveDeadline quarter => Sys2Proof.Machine.execSaveDeadline quarter s
  | .restore quarter => Sys2Proof.Machine.execRestore quarter s
  | .sliceStart quarter => Sys2Proof.Machine.execSliceStart quarter s
  | .checkpointTimerTrigger quarter cid => Sys2Proof.Machine.execCheckpointTimerTrigger quarter cid s
  | .snapTick quarter cid => Sys2Proof.Machine.execSnapTick quarter cid s
  | .drainFrameDone quarter cid die => Sys2Proof.Machine.execDrainFrameDone quarter cid die s
  | .drainHeaderDone quarter cid => Sys2Proof.Machine.execDrainHeaderDone quarter cid s
  | .reserveHoldExpiry quarter cid => Sys2Proof.Machine.execReserveHoldExpiry quarter cid s
  | .drainWriteError quarter cid => Sys2Proof.Machine.execDrainWriteError quarter cid s
  | .hbctlWrite quarter cid value => Sys2Proof.Machine.execHbctlWrite quarter cid value s
  | .governorWrite share value => Sys2Proof.Machine.execGovernorWrite share value s
  | .thermalGateOn die => Sys2Proof.Machine.execThermalGateOn die s
  | .thermalGateOff die => Sys2Proof.Machine.execThermalGateOff die s
  | .thermalTrip die reading => Sys2Proof.Machine.execThermalTrip die reading s
  | .railFault die rail => Sys2Proof.Machine.execRailFault die rail s
  | .carriedCheckMismatch e => Sys2Proof.Machine.execCarriedCheckMismatch e s
  | .eccErrorConsumed e => Sys2Proof.Machine.execEccErrorConsumed e s
  | .eccScrub die frame word uncorrectable => Sys2Proof.Machine.execEccScrub die frame word uncorrectable s
  | .laneWindowEnd margins => Sys2Proof.Machine.execLaneWindowEnd margins s
  | .quiesceRequest quarter => Sys2Proof.Machine.execQuiesceRequest quarter s
  | .quiesceCancel quarter => Sys2Proof.Machine.execQuiesceCancel quarter s
  | .quiesced quarter => Sys2Proof.Machine.execQuiesced quarter s
  | .quiesceTimeout quarter => Sys2Proof.Machine.execQuiesceTimeout quarter s
  | .pcfgWrite value => Sys2Proof.Machine.execPcfgWrite value s
  | .nbondWrite quarter value => Sys2Proof.Machine.execNbondWrite quarter value s
  | .tslotWrite quarter k value => Sys2Proof.Machine.execTslotWrite quarter k value s
  | .controlWindowAccess id => Sys2Proof.Machine.execControlWindowAccess id s
  | .tcsdWrite die value => Sys2Proof.Machine.execTcsdWrite die value s
  | .shootDownDone die => Sys2Proof.Machine.execShootDownDone die s
  | .svcBind die j => Sys2Proof.Machine.execSvcBind die j s
  | .svcUnbind die j => Sys2Proof.Machine.execSvcUnbind die j s
  | .hotResetSelfHosted port => Sys2Proof.Machine.execHotResetSelfHosted port s
  | .hotResetHostManaged port => Sys2Proof.Machine.execHotResetHostManaged port s
  | .functionLevelReset vf => Sys2Proof.Machine.execFunctionLevelReset vf s
  | .connectionEnable conn => Sys2Proof.Machine.execConnectionEnable conn s
  | .connectionWord5Write conn value => Sys2Proof.Machine.execConnectionWord5Write conn value s
  | .nvmeofConnected conn => Sys2Proof.Machine.execNvmeofConnected conn s
  | .connectionFailure conn errc => Sys2Proof.Machine.execConnectionFailure conn errc s
  | .powerOn => Sys2Proof.Machine.execPowerOn s
  | .pinReset => Sys2Proof.Machine.execPinReset s
  | .hvReset retry => Sys2Proof.Machine.execHvReset retry s
  | .bootStart => Sys2Proof.Machine.execBootStart s
  | .registerWrite unit off value => Sys2Proof.Machine.execRegisterWrite unit off value s
  | .ringHeadWrite quarter cid eq head => Sys2Proof.Machine.execRingHeadWrite quarter cid eq head s
  | .hostLinkRetrained port => Sys2Proof.Machine.execHostLinkRetrained port s

end Sys2Proof.Machine
end

