-- ==== Sys2Proof/Machine/Sequencer.lean ====
section
/-!
DEFINITION. The order of the steps: what the outside world does on a cycle, which event the device takes next, and the end of a cycle (log
entry 1).
-/
namespace Sys2Proof.Machine

/-- Whether a part of a meaning changes anything. -/
def acts (f : Act) (s : State) : Bool := !(f s).isEmpty

/-! What the outside world does. -/

/-- Whether an event comes from outside the device: from its hosts, its sensors and power, its links, its management, and the errors that
strike it (log entry 3). -/
def fromOutside (i : Instr) : Bool :=
  match i with
  | .farAccessArrival _ => true
  | .doorbell _ _ => true
  | .iqbaseWrite _ _ => true
  | .drainWriteError _ _ => true
  | .hbctlWrite _ _ _ => true
  | .governorWrite _ _ => true
  | .thermalGateOn _ => true
  | .thermalGateOff _ => true
  | .thermalTrip _ _ => true
  | .railFault _ _ => true
  | .carriedCheckMismatch _ => true
  | .eccErrorConsumed _ => true
  | .eccScrub _ _ _ _ => true
  | .laneWindowEnd _ => true
  | .quiesceRequest _ => true
  | .quiesceCancel _ => true
  | .pcfgWrite _ => true
  | .nbondWrite _ _ => true
  | .tslotWrite _ _ _ => true
  | .tcsdWrite _ _ => true
  | .svcUnbind _ _ => true
  | .hotResetSelfHosted _ => true
  | .hotResetHostManaged _ => true
  | .functionLevelReset _ => true
  | .connectionEnable _ => true
  | .connectionWord5Write _ _ => true
  | .nvmeofConnected _ => true
  | .connectionFailure _ _ => true
  | .powerOn => true
  | .pinReset => true
  | .hvReset _ => true
  | .registerWrite _ _ _ => true
  | .ringHeadWrite _ _ _ _ => true
  | .hostLinkRetrained _ => true
  | _ => false

/-- Whether an input is an access of another agent to the memory or the registers of the device: it is applied after the issues of its cycle, with what
memory applies on it (R308, R315). -/
def appliedLate (i : Instr) : Bool :=
  match i with
  | .farAccessArrival _ => true
  | .iqbaseWrite _ _ => true
  | .hbctlWrite _ _ _ => true
  | .governorWrite _ _ => true
  | .pcfgWrite _ => true
  | .nbondWrite _ _ => true
  | .tslotWrite _ _ _ => true
  | .tcsdWrite _ _ => true
  | .connectionWord5Write _ _ => true
  | .registerWrite _ _ _ => true
  | .ringHeadWrite _ _ _ _ => true
  | _ => false

/-- Whether a snapshot's tick falls in a state: what comes from outside on its cycle comes after it (R308). -/
def tickFirst (s : State) : Bool := s.blocks.any fun x => tickDue s (x.1 / 256) (x.1 % 256)

/-- The first input that is due in its part of the cycle. -/
def nextInput (s : State) : Option (Nat × Instr) :=
  if tickFirst s then none
  else s.inputs.find? fun x => decide (x.1 ≤ s.now) && fromOutside x.2 && (s.late || !appliedLate x.2)

/-! The events of memory, copies and paths. -/

/-- The next event of an access: its part at a home, over a path or in the control window, where nothing holds it. -/
def accessEvent (s : State) (id : Nat) : Option Instr :=
  match routedPart s id .home with
  | some (a, _) => if a.heldSince.isSome && reserveHolds s id a then none else some (.homeAccess id)
  | none =>
    if (routedPart s id .path).isSome then some (.pathAccess id)
    else if (routedPart s id .control).isSome && !heldByShootDown s id then some (.controlWindowAccess id)
    else none

/-- The one of events, each with the cycle since which its write is held, that has waited longest. -/
def heldLongest : List (Nat × Instr) → Option Instr
  | [] => none
  | x :: r => some (r.foldl (fun a b => if b.1 < a.1 then b else a) x).2

/-- Of the accesses and copies held for reserve frames that may go on, the one held longest (R312). -/
def heldEvent (s : State) : Option Instr :=
  heldLongest ((s.accs.filterMap fun x => x.2.heldSince.bind fun t => (accessEvent s x.1).map fun i => (t, i)) ++
    s.copies.filterMap fun x => x.2.heldSince.bind fun t => (dueCopy s x.1).map fun _ => (t, Instr.copyCompletion x.1))

/-- The next event of copies, paths and homes. -/
def memoryEvent (s : State) : Option Instr :=
  [fun s => (s.copies.find? fun x => acts (launchCopy x.1) s).map fun x => .atCopyLaunch x.1,
   heldEvent,
   fun s => (s.copies.find? fun x => (dueCopy s x.1).isSome).map fun x => .copyCompletion x.1,
   fun s => (s.accs.find? fun x => ackDue s x.1).map fun x => .storeAcknowledge x.1,
   fun s => s.accs.findSome? fun x => accessEvent s x.1,
   fun s => (s.accs.find? fun x => acts (pathTimeout x.1) s).map fun x => .pathResponseTimeout x.1].findSome? fun f : State → Option Instr => f s

/-! The events of contexts and engines. -/

/-- The keys of the contexts. -/
def State.keys (s : State) : List Nat := s.ctxs.map (·.1)

/-- The next event of results and waits: landings, then arrivals, then multicast landings and releases (R86, R87, R91, R197, R285). -/
def resultEvent (s : State) : Option Instr :=
  [fun s => (s.keys.find? fun k => (s.ctx k).flows && dueLandings s k ≠ []).map .fixedLatencyLanding,
   fun s => s.keys.findSome? fun k => (nextArrival s k).map fun p => if p.isClaim then .queueClaimArrival k else .variableLatencyArrival k,
   fun s => (s.mcasts.find? fun x => acts (mcastLanding x.1) s).map fun x => .mcastLanding x.1,
   fun s => s.gangs.findSome? fun x => (x.2.bars.find? fun y => acts (releaseGangBarrier x.1 y.1) s).map fun y => .gangBarrierRelease x.1 y.1,
   fun s => (s.keys.find? fun k => acts (releaseWaitt k) s).map .waittRelease].findSome? fun f : State → Option Instr => f s

/-- The next event of the matrix sequencers, the work deques and the priority queues (R168, R204, R206). -/
def engineEvent (s : State) : Option Instr :=
  [fun s => (s.keys.find? fun k => sequencerReady s k).map .sequencerOpStart,
   fun s => (s.keys.find? fun k => acts (rowStep k) s).map .mmaRowStep,
   fun s => (s.keys.find? fun k => acts (drainStep k) s).map .mdrainEntryStep,
   fun s => (s.keys.find? fun k => acts (completeSteal k) s).map .stealComplete,
   fun s => (s.keys.find? fun k => acts (takeChild k) s).map .childTake,
   fun s => (s.dies.find? fun x => x.2.pqMoves.any fun m => decide (m.due ≤ s.now) && !m.here).map fun x => .pqArrival x.1,
   fun s => (s.dies.find? fun x => (servable s x.2).isSome).map fun x => .pqClaimServe x.1].findSome? fun f : State → Option Instr => f s

/-! The events of scheduling, snapshots and partitions. -/

/-- The quarters. -/
def quarterNumbers : List Nat := List.range 4
/-- The walkers. -/
def walkers : List Nat := List.range 288

/-- The place of a launch in the order of one cycle (R227): launches from image queues, and then those of walkers by (die, cluster). -/
def Launch.rank (l : Launch) : Nat := match l.origin with | .imageQueue _ _ _ _ => 0 | .walker slot _ _ => slot / 4 + 1

/-- The launch whose check is due first (R227); of one walker, the one dispatched first. -/
def checkEvent (s : State) : Option Instr :=
  match s.launches.filter fun x => checkDue s x.1 with
  | [] => none
  | x :: r => some (.accessionCheck (r.foldl (fun a b => if b.2.rank < a.2.rank then b else a) x).1)

/-- A placement queue whose head PLACEMENT acts on (R226 to R230). -/
def placementEvent (s : State) : Option Instr :=
  (s.blocks.find? fun x => (placementStep s (x.1 / 256) (x.1 % 256)).isSome).map fun x => .placement (x.1 / 256) (x.1 % 256)

/-- The next event of the scheduler (R226 to R240, R320, R349). -/
def schedulerEvent (s : State) : Option Instr :=
  [fun s => (quarterNumbers.find? fun q => intervalDue s q).map .budgetIntervalStart,
   fun s => (quarterNumbers.find? fun q => (firstTenant s q).isSome).map .sliceStart,
   fun s => if s.graphs = [] then none else (walkers.find? fun w => acts (nodeEvaluation w) s).map .nodeEvaluation,
   checkEvent,
   fun s => (s.launches.find? fun x => (completionStep s x.1).isSome).map fun x => .taskCompletion x.1,
   fun s => (s.launches.find? fun x => (endedReplay s x.1).isSome).map fun x => .replayEnd x.1,
   fun s => (s.launches.find? fun x => (acceptable s x.1).isSome).map fun x => .replayAccept x.1,
   placementEvent,
   fun s => (s.launches.find? fun x => acts (startTask x.1) s).map fun x => .startTick x.1].findSome? fun f : State → Option Instr => f s

/-- The first per-CID block of a quarter that satisfies a condition. -/
def blockEvent (s : State) (p : Nat → Nat → Bool) (f : Nat → Nat → Instr) : Option Instr :=
  (s.blocks.find? fun x => p (x.1 / 256) (x.1 % 256)).map fun x => f (x.1 / 256) (x.1 % 256)

/-- The next event of snapshots (R303 to R312). -/
def snapshotEvent (s : State) : Option Instr :=
  [fun s => blockEvent s (timerDue s) .checkpointTimerTrigger,
   fun s => blockEvent s (fun q c => acts (snapTick q c) s) .snapTick,
   fun s => blockEvent s (fun q c => drainLost s q c || drainSilent s q c) .drainWriteError,
   fun s => blockEvent s (fun q c => acts (holdExpiry q c) s) .reserveHoldExpiry,
   fun s => s.blocks.findSome? fun x => ((List.range 24).find? fun d => drainDue s (x.1 / 256) (x.1 % 256) d).map fun d =>
     .drainFrameDone (x.1 / 256) (x.1 % 256) d,
   fun s => blockEvent s (fun q c => drained (s.block q c)) .drainHeaderDone].findSome? fun f : State → Option Instr => f s

/-- The next event of partitions, shoot-downs and service bindings (R252, R341, R351). -/
def partitionEvent (s : State) : Option Instr :=
  [fun s => (quarterNumbers.find? fun q => acts (quiesced q) s).map .quiesced,
   fun s => (quarterNumbers.find? fun q => acts (quiesceTimeout q) s).map .quiesceTimeout,
   fun s => (s.dies.find? fun x => acts (shootDownDone x.1) s).map fun x => .shootDownDone x.1,
   fun s => s.dies.findSome? fun x => (x.2.svc.find? fun y => bindDue s x.1 y.1).map fun y => .svcBind x.1 y.1].findSome? fun f :
     State → Option Instr => f s

/-! The events of the cores. -/

/-- The cores that have something to do with a context: bound, reserved, or to be restored. -/
def busyCores (s : State) : List Nat :=
  distinct (((s.ctxs.filter fun x => x.2.mode ≠ .unbound).map fun x => coreOf x.1) ++
    (s.launches.filter fun x => x.2.stage = .bound).flatMap (·.2.cores) ++ s.saves.flatMap fun x => x.2.ctxs.map fun y => coreOf y.1)

/-- Whether an idle cycle of a core changes anything but its being over. -/
def idleMatters (s : State) (core : Nat) : Bool :=
  !decide (core ∈ s.served) && (acts (chargeIdle core) s || acts (endYields core none) s || acts (endCycle core) s)

/-- Whether an issue holds a SNAP. -/
def hasSnap (s : State) (n : NextIssue) : Bool :=
  (slotIssues (activeSlots ((s.ctx n.key).atIssue n) n.key)).any fun x => match x.1.op with | .snap _ => true | _ => false

/-- The core at which a lockstep step stands among the issues of its cycle: the lowest on which a member's issue holds a SNAP (R304), or else the lowest
of its members. -/
def stepCore (s : State) (t : Nat) : Nat :=
  let ms := (gangMembers s t).map coreOf
  let snaps := ms.filter fun c => dueOn s t c (hasSnap s)
  (if snaps = [] then ms else snaps).foldl min (computeCores * 2)

/-- The first of events, each with its core, in ascending order of cores. -/
def lowestCore : List (Nat × Instr) → Option Instr
  | [] => none
  | x :: r => some (r.foldl (fun a b => if b.1 < a.1 then b else a) x).2

/-- The next lockstep step or issue of this cycle, in ascending order of cores (R304); the cores of a gang whose step is due issue in the step alone (R42). Where
none can be made, a core or a gang gives its place at the engines up (R35, log entry 98). DESIGN CHOICE (log entry 58): of two steps at one core, that of the
lower task comes first, and where both have an issue there the other misses its step. -/
def issueEvent (s : State) : Option Instr :=
  let steps := (s.gangs.filter fun x => stepDue s x.1).map (·.1)
  let busy := busyCores s
  let taken (c : Nat) : Bool := steps.any fun t => dueOn s t c fun _ => true
  (lowestCore ((steps.map fun t => (stepCore s t, Instr.lockstepStep t)) ++
    (busy.filter fun c => issuesNow s c && !taken c).map fun c => (c, Instr.bundleIssue c))).orElse fun _ =>
  (lowestCore ((busy.filter fun c => givesWay s c).map fun c => (c, Instr.bundleIssue c))).orElse fun _ =>
  (s.gangs.find? fun x => gangGivesWay s x.1).map fun x => .lockstepStep x.1

/-- The next event of the cores: lines that have arrived, lockstep steps and issues, idle cycles, and fetches (R30, R42, R48, R316). -/
def coreEvent (s : State) : Option Instr :=
  [fun s => (s.keys.find? fun k => match fetchInFlight s k with | some x => x.2.performed.isSome | none => false).map .instructionFetch,
   issueEvent,
   fun s => ((busyCores s).find? fun c => idleMatters s c).map .idleCycle,
   fun s => (s.keys.find? fun k => acts (instructionFetch k) s).map .instructionFetch].findSome? fun f : State → Option Instr => f s

/-- The next event after the issues of a cycle: faults, the gang switch, and the ends of stops (R257, R264, R273 to R276). -/
def stopEvent (s : State) : Option Instr :=
  [fun s => (s.faults.find? fun x => decide (x.1 ≤ s.now)).map fun x => .deferredFault x.2,
   fun s => (quarterNumbers.find? fun q => (tickFalls s q).isSome).map .gangSwitchTick,
   fun s => (s.keys.find? fun k => stopReady s k).map .stoppingComplete,
   fun s => quarterNumbers.findSome? fun q => ((List.range 24).find? fun d => saveDue s q d || leftSaved s q d ≠ []).map fun d => .saveComplete q d,
   fun s => (quarterNumbers.find? fun q => deadlineFalls s q).map .saveDeadline,
   fun s => (quarterNumbers.find? fun q => (restoreDue s q).isSome).map .restore].findSome? fun f : State → Option Instr => f s

/-- Whether a core has begun its cycle: what its issue changes at once for others shows to them from the next cycle on. -/
def coresBegun (s : State) : Bool := s.served.any fun n => decide (n < 10000) || (decide (20000 ≤ n) && decide (n < 40000))

/-- The next event of this cycle up to the issues of the cores, in the order of log entry 1: a core sees the memory, the registers of the device and the
results as they stand at the start of the cycle, with the landings and arrivals of the cycle (R212, R308, R315). -/
def earlyEvent (s : State) : Option Instr :=
  if s.boot = .pending then some .bootStart
  else if coresBegun s then coreEvent s
  else [snapshotEvent, resultEvent, engineEvent, schedulerEvent, partitionEvent, coreEvent].findSome? fun f => f s

/-- The next event after the issues: what memory applies on the cycle, and then the stops (R257, R264). -/
def lateEvent (s : State) : Option Instr :=
  if s.boot = .pending then some .bootStart
  else [memoryEvent, snapshotEvent, partitionEvent, stopEvent, placementEvent].findSome? fun f => f s

/-! The end of a cycle. -/

/-- Landings in order of gang position (R91). -/
def insertMcast (m : Mcast) : List Mcast → List Mcast
  | [] => [m]
  | x :: r => if m.pos < x.pos then m :: x :: r else x :: insertMcast m r

/-- The multicast landings of the cycle are applied after its stores, in order of gang position (R91, R212), and are over. -/
def settleMcasts : Act := fun s =>
  let landed := s.mcasts.filter (·.2.landed)
  Act.seq (Act.each (landed.foldr (fun x l => insertMcast x.2 l) []) landMcast) (fun _ => landed.map fun x => .mcast x.1 none) s

/-- The barriers of a cycle (R196). -/
def settleBarriers : Act := fun s =>
  Act.each ((s.cores.filter fun x => x.2.barIn.any fun i => decide (i.due ≤ s.now)).map (·.1)) (fun c => modCore c fun x => x.stepBarriers s.now) s

/-- The cycles of residence of the running tenants (R349). -/
def countResidence : Act := fun s =>
  Act.each (quarterNumbers.filter fun q => lowest s.pkg q = q && (s.quarter q).switch.isNone) (fun q s => match (s.quarter q).running with
    | some cid => modBlock q cid (fun b => { b with resid := b.resid + 1#64 }) s
    | none => []) s

/-- The rings that have records waiting for something but space (R331): they are written as soon as they can be. -/
def settleRings : Act := fun s =>
  Act.each (s.blocks.flatMap fun x => [(x.1, false), (x.1, true)]) (fun x s =>
    let r := (Sparse.get {} s.blocks x.1).ring x.2
    if r.waiting ≠ [] && !r.full then flushRing (x.1 / 256) (x.1 % 256) x.2 r.waiting.length s else []) s

/-- The end of a cycle. -/
def endOfCycle : Act := Act.seqs [settleMcasts, settleBarriers, settleRings, countResidence]

/-- The state at the start of the next cycle. -/
def tick (s : State) : State :=
  let t := applyAll (endOfCycle s) s
  { t with now := t.now + 1, served := [], late := false }

end Sys2Proof.Machine
end

