-- ==== Sys2Proof/Machine/Step.lean ====
section
/-!
DEFINITION. One step of the device: an input that is due, the next event of this cycle before or after what its cores issue, or the end of the cycle (log
entry 1); and the
placement of an instruction where the next step fetches.
-/
namespace Sys2Proof.Machine

/-- The next event of the first part of a cycle, while it lasts. -/
def nextEarly (s : State) : Option Instr := if s.late then none else earlyEvent s

/-- The step of a cycle whose cores have had it: an access of another agent, what memory applies and the stops, or the end of the cycle. -/
def lateStep (s : State) : Host.Outcome State Fault Refusal :=
  match nextInput s with
  | some x => exec x.2 { s with inputs := s.inputs.erase x }
  | none =>
    match lateEvent s with
    | some i => exec i s
    | none => .next (tick s)

/-- One step. -/
def step (s : State) : Host.Outcome State Fault Refusal :=
  match nextInput s with
  | some x => exec x.2 { s with inputs := s.inputs.erase x }
  | none =>
    match nextEarly s with
    | some i => exec i s
    | none => lateStep { s with late := true }

/-- The two lines of a core's instruction cache that hold 64 bytes from an address on. -/
def bundleLines (cid : BitVec 8) (a : Nat) (bytes : List Byte) : List CacheLine :=
  let b := List.replicate (a % 64) 0#8 ++ bytes ++ List.replicate (64 - a % 64) 0#8
  [{ cid := cid, va := a / 64, window := false, data := b.take 64 }, { cid := cid, va := a / 64 + 1, window := false, data := b.drop 64 }]

/-- The state with a bundle placed where the next step fetches: in the instruction cache of core 0 at the program counter of its ctx0, which
is in RUN, with the boot over, no budget interval still to begin on this cycle, no input, and no core served (log entry 40). -/
def State.withFetchWord (s : State) (nbits w : Nat) : State :=
  let c := s.ctx 0
  let x := s.core 0
  let lines := bundleLines (effectiveCid c.cid (codeAddr c.pc)) (codeAddr c.pc) (bytesOfNat 64 (w % 2 ^ nbits))
  { s with boot := .done, inputs := [],
           served := (quarterNumbers.map budgetMark) ++ s.served.filter fun n => decide (n ≠ 0 ∧ n ≠ trapMark 0 ∧ n ≠ waitMark 0), late := false,
           ctxs := s.ctxs.set 0 { c with mode := .run, repleft := 0, fetched := [], wait := none, notBefore := s.now, stop := none },
           cores := s.cores.set 0 { x with icache := lines ++ x.icache } }

end Sys2Proof.Machine
end

