-- ==== Sys2Proof/Safety.lean ====
section
/-!
DEFINITION. What counts as a well-formed state, in the terms that claims use: memory and every table in canonical form.
-/
namespace Sys2Proof.Machine

/-- Memory and the tables of the state have their canonical form: equal memories and equal tables are equal data. -/
structure State.Wf (s : State) : Prop where
  mem : Memory.wf s.mem = true
  ctxs : s.ctxs.wf = true
  before : s.before.wf = true
  cores : s.cores.wf = true
  engines : s.engines.wf = true
  accs : s.accs.wf = true
  copies : s.copies.wf = true
  mcasts : s.mcasts.wf = true
  launches : s.launches.wf = true
  gangs : s.gangs.wf = true
  graphs : s.graphs.wf = true
  replays : s.replays.wf = true
  dies : s.dies.wf = true
  quarters : s.quarters.wf = true
  blocks : s.blocks.wf = true
  vfs : s.vfs.wf = true
  lanes : s.lanes.wf = true
  conns : s.conns.wf = true
  saves : s.saves.wf = true
  walkerFree : s.walkerFree.wf = true

/-! An operation issued alone, as statements about its meaning speak of it. -/

/-- The context that issues. -/
def State.issuer (s : State) : Ctx := s.ctx s.cur.key

/-- The operations that the legality of an operation issued alone is judged with: itself, and the partner of a VDUP. -/
def opsAlone (i : Instr) (s : State) : Ops := (slotFor s i, i) :: besides s (slotFor s i) i

/-- The issue of an operation issued alone: it names its slot, and for a VDUP its partner. -/
def issueOf (i : Instr) (s : State) : Issue := { (withPartner s (opsAlone i s)).cur with slot := slotFor s i }

/-- The state that an operation issued alone reads. -/
def issuedAt (i : Instr) (s : State) : State := { s with cur := issueOf i s }

/-- An operation issues now: its context is in RUN or SERVICE, the issue is legal (R68), no source and no engine refuses it (R29, R88), no
declaration phase excludes it (R294), and the issue has made nothing yet that its end would still perform. -/
structure Issues (i : Instr) (s : State) : Prop where
  mode : s.issuer.mode = .run ∨ s.issuer.mode = .service
  legal : legalityTrap s.view (opsAlone i s) (slotBit (slotFor s i)) 0#7 = none
  sources : waitsForSource s.view (opsAlone i s) = false
  accepted : refused s s.cur.key (freeEngines s) [⟨slotFor s i, s.cur.sw, s.cur.step, i⟩] = false
  declared : declarationTrap s.view (opsAlone i s) = none
  full : emptyReadTrap s.view (opsAlone i s) = none
  stores : s.cur.stores = []
  near : s.cur.near = []
  trapped : s.cur.trapped = none

/-- The record of an operation issued now (R267): its issue, slot and word. -/
def OpRec.isOf (r : OpRec) (i : Instr) (s : State) : Prop :=
  r.bseq = s.issuer.issueBseq ∧ r.slot = slotFor s i ∧ r.sw = s.cur.sw ∧ r.step = s.cur.step

/-- Nothing of the state but the issue in progress has changed. -/
def OnlyCur (s t : State) : Prop := t = { s with cur := t.cur } ∧ t.cur.key = s.cur.key

/-- A state with the issuing context written: memory, every other context, every other core, engine and table stand. -/
def State.withIssuer (s : State) (c : Ctx) : State := { s with ctxs := s.ctxs.set s.cur.key c }

/-- An operation has put a result on its way, to land n cycles after its issue (R86), and has changed nothing else. -/
def Lands (i : Instr) (s t : State) (n : Nat) (d : Dest) (v : Result) : Prop :=
  ∃ r : OpRec, r.isOf i s ∧ OnlyCur (s.withIssuer { s.issuer with landings := s.issuer.landings ++ [⟨r, s.now + n, d, v⟩] }) t

/-- A context with a pending operation, whose destinations are empty (R87). -/
def Ctx.withPending (c : Ctx) (r : OpRec) (ds : List Dest) (src : Source) : Ctx :=
  ds.foldl (fun c d => c.markEmpty r.order d) { c with pending := c.pending ++ [⟨r, ds, src⟩] }

/-- A variable-latency operation is under way (R87), and nothing else has changed. -/
def Pends (i : Instr) (s t : State) (ds : List Dest) (src : Source) : Prop :=
  ∃ r : OpRec, r.isOf i s ∧ OnlyCur (s.withIssuer (s.issuer.withPending r ds src)) t

/-- The meaning of an instruction in a state is a next state, and that state is as a condition says. -/
def Answers (i : Instr) (s : State) (P : State → Prop) : Prop := ∃ t, exec i s = .next t ∧ P t

/-- A source of the scalar space as the issuer reads it (R64). -/
def State.src (s : State) (n : OpName) : Word := readS s.issuer s.cur n
/-- A source of the vector space as the issuer reads it (R64). -/
def State.vsrc (s : State) (ty : BitVec 4) (n : OpName) : Vec := readV s.issuer s.cur ty n

/-- Wherever it issues, an operation of the S slot puts a result on its way to a scalar register, to land n cycles after the issue, and changes
nothing else. -/
def LandsS (i : Instr) (d : OpName) (n : Nat) (v : State → Word) : Prop :=
  ∀ s, Issues i s → Answers i s fun t => Lands i s t n (.s d.toNat) (.word (v s))

/-- Wherever it issues, a conditional branch on a condition goes to its direct target, the bundle's address plus DISP times 8 (R60), exactly
where the condition holds; it costs 3 cycles where its hint says otherwise, no hint counting as not taken (R114, R115). -/
def BranchesOn (i : Instr) (f : FmtJ) (taken : State → Bool) : Prop :=
  ∀ s, Issues i s → Answers i s fun t =>
    (t.cur.target = if taken s then some (pcMask (s.cur.pc + f.disp.signExtend 64 * 8#64)) else s.cur.target) ∧
    (if taken s = decide (f.hint = 1#2) then OnlyCur s t
     else OnlyCur (s.withIssuer { s.issuer with notBefore := max s.issuer.notBefore (s.now + 4) }) t)

/-- The meaning of an instruction in a state is that its context takes a precise trap and nothing of the issue happens (R259). -/
def Traps (i : Instr) (s : State) (tr : Trap) : Prop := exec i s = done (takePrecise s.cur.key tr) s

/-- The quotient and the remainder of R99 of two values of w bits: truncated division and its two corners. -/
def DividesAs (w : Nat) (signed : Bool) (a b q r : Int) : Prop :=
  if b = 0 then q = 2 ^ w - 1 ∧ r = a
  else if signed = true ∧ a = -(2 ^ (w - 1)) ∧ b = -1 then q = a ∧ r = 0
  else q = a.tdiv b ∧ r = a - q * b

/-- An operand of DIV and REM as VAR reads it (R95, R99). -/
def divOperand (f : FmtR) (x : Word) : Int := if f.var = 0#8 then (signedIn f.ty x).toInt else (unsignedIn f.ty x).toNat

/-- Wherever it issues, DIV or REM delivers one of the results of R99 12 to 40 cycles later, on a free cycle (log entry 2); `pick` chooses the
quotient or the remainder. -/
def Divides (i : Instr) (f : FmtR) (pick : Int → Int → Int) : Prop :=
  ∀ s, Issues i s → Answers i s fun t => ∃ due q r, s.now + 12 ≤ due ∧ due ≤ s.now + 40 ∧
    DividesAs (opWidth f.ty) (f.var = 0#8) (divOperand f (s.src f.a)) (divOperand f (s.src f.b)) q r ∧
    Pends i { s with free := s.free + 1 } t [.s f.d.toNat] (.value due [.word (resultOut f.ty (BitVec.ofInt 64 (pick q r)))])

/-- Whether a binary32 pattern is a NaN. -/
def isNan32 (x : Nat) : Prop := x / 2 ^ 23 % 256 = 255 ∧ x % 2 ^ 23 ≠ 0

/-- A state with an access in flight, under the next identifier; one free value is drawn for the cycles of its parts (log entry 2). -/
def State.withAccess (s : State) (a : Access) : State :=
  { s with nextId := s.nextId + 1, free := s.free + 1, accs := s.accs.set s.nextId a }

/-- The access that a memory operation of the issuer starts through a handle: the elements' parts, each due on its own cycle, held behind the
ordered atomics of its context and, where it reads, behind the reads before a DRAIN.A, as fresh as its context must read, and with the path
entries that it meets (R201, R209, R214, R215, R247, R249). -/
def State.accessFor (s : State) (r : OpRec) (what : AccessOp) (h : Handle) (es : List Elem) (data cmp : List Byte) (scope : BitVec 3)
    (buffered : Bool) : Access :=
  { key := s.cur.key, cid := s.issuer.cid, op := r, kind := h.kind, what := what,
    parts := timeParts { s with nextId := s.nextId + 1 } (coreOf s.cur.key) s.issuer.cid h.kind r (layParts h 0 es), data := data, cmp := cmp,
    scope := scope, after := heldBehind s.issuer what.reads, fresh := s.issuer.fresh, freshC := s.issuer.freshC,
    paths := pathsMet s (coreOf s.cur.key) h.kind (layParts h 0 es), buffered := buffered }

/-- The next state is this one but for the issue in progress. -/
def Becomes (i : Instr) (s u : State) : Prop := Answers i s fun t => OnlyCur u t

/-- The bytes that elements reach in the own scratchpad through a handle, in their order: where a store or an atomic of them writes. -/
def reached (core : Nat) (h : Handle) (es : List Elem) : List Nat :=
  es.flatMap fun e => (List.range e.len).map fun b => spadPlace core ((h.address e.off).toNat + b)

/-- A store of bytes at places, in order, and nothing else: in a memory in canonical form, where no place is named twice the byte of each place
is the one stored there, and every other byte reads as before. -/
def Stores (s t : State) (places : List Nat) (data : List Byte) : Prop :=
  t = { s with mem := t.mem, cur := t.cur } ∧ t.cur.key = s.cur.key ∧
  (Memory.wf s.mem = true → (places.Nodup → ∀ (k p : Nat) (b : Byte), places[k]? = some p → data[k]? = some b → Memory.get t.mem p = b) ∧
    ∀ a, a ∉ places → Memory.get t.mem a = Memory.get s.mem a)

/-- Whether element k of a destination is active under MSK (R122): every element is where MEN is 0. -/
def State.active (s : State) (msk : BitVec 4) (k : Nat) : Prop := msk.getLsbD 3 = false ∨ (s.issuer.mreg (msk.extractLsb' 0 3).toNat).getLsbD k = true

/-- Element k of a vector source under a type (R121). -/
def State.velem (s : State) (ty : BitVec 4) (n : OpName) (k : Nat) : Nat := elem (tyWidth ty) (s.vsrc ty n) k

/-- Wherever it issues, an operation of a V slot puts a result on its way to D, to land n cycles after the issue: under the type, the elements that
it writes have the given patterns of w bits, and every other element keeps the bits that D holds when the result lands (R122). -/
def LandsElems (i : Instr) (d : OpName) (n : Nat) (ty : BitVec 4) (writes : State → Nat → Prop) (v : State → Nat → Nat) : Prop :=
  ∀ s, Issues i s → Answers i s fun t => ∃ x m : Vec, Lands i s t n (vectorDest d) (.vec x m) ∧ ∀ k, k < elemCount ty →
    (writes s k → elem (tyWidth ty) x k = v s k % 2 ^ tyWidth ty ∧ elem (tyWidth ty) m k = 2 ^ tyWidth ty - 1) ∧
    (¬ writes s k → elem (tyWidth ty) m k = 0)

/-- An element-wise operation of format R (R122, R126). -/
def ElementWise (i : Instr) (f : FmtR) (n : Nat) (v : State → Nat → Nat) : Prop :=
  LandsElems i f.d n f.ty (fun s k => s.active f.msk k) v

/-- A pattern of w bits as VAR[3] reads it: unsigned under .u, signed else (R124). -/
def asU (f : FmtR) (x : Nat) : Int := if f.var.getLsbD 3 then (x : Int) else signedOf (tyWidth f.ty) x
/-- A pattern of w bits as the OVF field reads it: unsigned under .usat, signed else (R124). -/
def asOvf (f : FmtR) (x : Nat) : Int := if f.var.extractLsb' 0 2 = 2#2 then (x : Int) else signedOf (tyWidth f.ty) x
/-- ovf(x) of R124, as a pattern of w bits. -/
def ovf (f : FmtR) (x : Int) : Nat := overflow (f.var.extractLsb' 0 2).toNat (tyWidth f.ty) x

/-- An M operation of an issue enters the sequencer of its context as the last entry (R168), to start on a free cycle from issue + 1 on (log entry
2). Of the own scratchpad it keeps the n bytes as they stand, beside those that its steps will meet; of any other place an access asks for them,
byte by byte. -/
def Enters (i : Instr) (s : State) (n : Nat) (what : MOp → Prop) (more : MOp → Ctx → Ctx) : Prop :=
  ∃ m : MOp, m.op.isOf i s ∧ what m ∧ m.begun = false ∧ m.prog = 0 ∧ s.now + 1 ≤ m.ready ∧
    let queued : Ctx := { s.issuer with mops := s.issuer.mops ++ [m] }
    (n = 0 → Becomes i s ({ s with free := s.free + 1 }.withIssuer (more m queued))) ∧
    (n ≠ 0 → m.kind = .spad → m.access = none ∧ m.data = Memory.read s.mem (spadPlace (coreOf s.cur.key) m.addr) n ∧
      Becomes i s ({ s with free := s.free + 1 }.withIssuer (more m queued))) ∧
    (n ≠ 0 → m.kind ≠ .spad → m.access = some s.nextId ∧ ∃ a : Access, a.key = s.cur.key ∧ a.cid = s.issuer.cid ∧ a.what = .matrix ∧
      a.kind = m.kind ∧ a.performed = none ∧ a.after = heldBehind s.issuer true ∧ a.data.length = n ∧
      (∀ b, b < n → ∃ p, p ∈ a.parts ∧ p.done = false ∧ p.pos ≤ b ∧ b < p.pos + p.len ∧ p.va + (b - p.pos) = m.addr + b) ∧
      Becomes i s ({ s with nextId := s.nextId + 1, free := s.free + 2, accs := s.accs.set s.nextId a }.withIssuer (more m queued)))

/-- The copy instruction of a form, and its .AT form (R75, R189). -/
def copyInstr (form : CopyForm) (at_ : Bool) (f : FmtC) : Instr :=
  match form with
  | .cpy => if at_ then .cpyAt f else .cpy f
  | .cpy2 => if at_ then .cpy2At f else .cpy2 f
  | .cpy3 => if at_ then .cpy3At f else .cpy3 f
  | .cgath => if at_ then .cgathAt f else .cgath f
  | .cscat => if at_ then .cscatAt f else .cscat f
  | .cmcast => if at_ then .cmcastAt f else .cmcast f
  | .cfill => if at_ then .cfillAt f else .cfill f
  | .credI32 => if at_ then .credI32At f else .credI32 f
  | .credFp32 => if at_ then .credFp32At f else .credFp32 f
  | .credBf16 => if at_ then .credBf16At f else .credBf16 f

/-- A copy operation whose sizes are the length operand, and not those of a descriptor (R185, R187). -/
def isLinear (form : CopyForm) (at_ : Bool) : Bool := !at_ && (decide (form = .cpy) || decide (form = .cfill) || form.isRed)

end Sys2Proof.Machine
end

