-- ==== Sys2Proof/Certificates/Slice0/Obligations.lean ====
section
/-!
DEFINITION. The statements about this machine that the provers are to prove. Parts that are stated together are named Clause.<part>, and each
Obligations.<name> says what it conjoins.
-/
open Sys2Proof Sys2Proof.Machine

/-! The integer instructions of the S slot (R94 to R101). -/

/-- ADD, SUB, MUL, AND, OR and XOR (R95, R98): each lands its result on issue plus its latency, 3 for MUL and 1 for the others. -/
def Clause.IntegerOperations : Prop :=
  (∀ f : FmtR, LandsS (.add f) f.d 1 fun s => resultOut f.ty (s.src f.a + s.src f.b)) ∧
  (∀ f : FmtR, LandsS (.sub f) f.d 1 fun s => resultOut f.ty (s.src f.a - s.src f.b)) ∧
  (∀ f : FmtR, LandsS (.mul f) f.d 3 fun s => resultOut f.ty (s.src f.a * s.src f.b)) ∧
  (∀ f : FmtR, LandsS (.and f) f.d 1 fun s => resultOut f.ty (s.src f.a &&& s.src f.b)) ∧
  (∀ f : FmtR, LandsS (.or f) f.d 1 fun s => resultOut f.ty (s.src f.a ||| s.src f.b)) ∧
  (∀ f : FmtR, LandsS (.xor f) f.d 1 fun s => resultOut f.ty (s.src f.a ^^^ s.src f.b))

/-- SHL, SHR and SAR, and SHLI, SHRI and SARI (R95, R98, R101): the amount is taken modulo the operation width. -/
def Clause.Shifts : Prop :=
  (∀ f : FmtR, LandsS (.shl f) f.d 1 fun s => resultOut f.ty (s.src f.a <<< ((s.src f.b).toNat % opWidth f.ty))) ∧
  (∀ f : FmtR, LandsS (.shr f) f.d 1 fun s => resultOut f.ty (unsignedIn f.ty (s.src f.a) >>> ((s.src f.b).toNat % opWidth f.ty))) ∧
  (∀ f : FmtR, LandsS (.sar f) f.d 1 fun s => resultOut f.ty ((signedIn f.ty (s.src f.a)).sshiftRight ((s.src f.b).toNat % opWidth f.ty))) ∧
  (∀ f : FmtI, LandsS (.shli f) f.d 1 fun s => resultOut f.ty (s.src f.a <<< (f.imm.toNat % opWidth f.ty))) ∧
  (∀ f : FmtI, LandsS (.shri f) f.d 1 fun s => resultOut f.ty (unsignedIn f.ty (s.src f.a) >>> (f.imm.toNat % opWidth f.ty))) ∧
  (∀ f : FmtI, LandsS (.sari f) f.d 1 fun s => resultOut f.ty ((signedIn f.ty (s.src f.a)).sshiftRight (f.imm.toNat % opWidth f.ty)))

/-- MULH (R95, R98): the high w bits of the product of the operands, signed by signed, unsigned by unsigned or signed by unsigned, as VAR
selects. The product is exact, and the division by 2^w rounds down. -/
def Clause.HighProduct : Prop :=
  ∀ f : FmtR,
    (f.var = 0#8 → LandsS (.mulh f) f.d 3 fun s => resultOut f.ty (BitVec.ofInt 64
      ((signedIn f.ty (s.src f.a)).toInt * (signedIn f.ty (s.src f.b)).toInt / 2 ^ opWidth f.ty))) ∧
    (f.var = 1#8 → LandsS (.mulh f) f.d 3 fun s => resultOut f.ty (BitVec.ofNat 64
      ((unsignedIn f.ty (s.src f.a)).toNat * (unsignedIn f.ty (s.src f.b)).toNat / 2 ^ opWidth f.ty))) ∧
    (f.var = 2#8 → LandsS (.mulh f) f.d 3 fun s => resultOut f.ty (BitVec.ofInt 64
      ((signedIn f.ty (s.src f.a)).toInt * (unsignedIn f.ty (s.src f.b)).toNat / 2 ^ opWidth f.ty)))

/-- MIN, MAX, CLZ, POPC, SEL and LEA (R95, R98). -/
def Clause.IntegerSelection : Prop :=
  (∀ f : FmtR, f.var = 0#8 → LandsS (.min f) f.d 1 fun s => resultOut f.ty
    (if (signedIn f.ty (s.src f.a)).toInt ≤ (signedIn f.ty (s.src f.b)).toInt then s.src f.a else s.src f.b)) ∧
  (∀ f : FmtR, f.var = 1#8 → LandsS (.min f) f.d 1 fun s => resultOut f.ty
    (if (unsignedIn f.ty (s.src f.a)).toNat ≤ (unsignedIn f.ty (s.src f.b)).toNat then s.src f.a else s.src f.b)) ∧
  (∀ f : FmtR, f.var = 0#8 → LandsS (.max f) f.d 1 fun s => resultOut f.ty
    (if (signedIn f.ty (s.src f.b)).toInt ≤ (signedIn f.ty (s.src f.a)).toInt then s.src f.a else s.src f.b)) ∧
  (∀ f : FmtR, f.var = 1#8 → LandsS (.max f) f.d 1 fun s => resultOut f.ty
    (if (unsignedIn f.ty (s.src f.b)).toNat ≤ (unsignedIn f.ty (s.src f.a)).toNat then s.src f.a else s.src f.b)) ∧
  (∀ f : FmtR, ∃ n : Word → Nat, (LandsS (.clz f) f.d 1 fun s => BitVec.ofNat 64 (n (s.src f.a))) ∧ ∀ x, n x ≤ opWidth f.ty ∧
    x.toNat % 2 ^ opWidth f.ty < 2 ^ (opWidth f.ty - n x) ∧ (n x < opWidth f.ty → 2 ^ (opWidth f.ty - 1 - n x) ≤ x.toNat % 2 ^ opWidth f.ty)) ∧
  (∀ f : FmtR, LandsS (.popc f) f.d 1 fun s =>
    BitVec.ofNat 64 ((List.range (opWidth f.ty)).filter fun k => (s.src f.a).getLsbD k).length) ∧
  (∀ f : FmtR, LandsS (.sel f) f.d 1 fun s => if s.src f.a = 0#64 then s.src f.c else s.src f.b) ∧
  (∀ f : FmtR, LandsS (.lea f) f.d 1 fun s => s.src f.a + BitVec.ofNat 64 (2 ^ f.var.toNat) * s.src f.b)

/-- CMP and CMPI (R95, R98, R100, R101): the conditions of R100 on the operands as the width reads them, in VAR[2:0]; 6 and 7 are reserved. -/
def Clause.Comparisons : Prop :=
  (∀ f : FmtR, LandsS (.cmp f) f.d 1 fun s => if condition f.var.toNat f.ty (s.src f.a) (s.src f.b) then 1#64 else 0#64) ∧
  (∀ f : FmtI, LandsS (.cmpi f) f.d 1 fun s => if condition f.var.toNat f.ty (s.src f.a) (f.imm.signExtend 64) then 1#64 else 0#64) ∧
  (∀ (ty : BitVec 4) (a b : Word),
    (condition 0 ty a b = true ↔ unsignedIn ty a = unsignedIn ty b) ∧ (condition 1 ty a b = true ↔ unsignedIn ty a ≠ unsignedIn ty b) ∧
    (condition 2 ty a b = true ↔ (signedIn ty a).toInt < (signedIn ty b).toInt) ∧
    (condition 3 ty a b = true ↔ (signedIn ty b).toInt ≤ (signedIn ty a).toInt) ∧
    (condition 4 ty a b = true ↔ (unsignedIn ty a).toNat < (unsignedIn ty b).toNat) ∧
    (condition 5 ty a b = true ↔ (unsignedIn ty b).toNat ≤ (unsignedIn ty a).toNat)) ∧
  (∀ f : FmtR, 6 ≤ f.var.toNat → wellFormed (.cmp f) = false) ∧ ∀ f : FmtI, 6 ≤ f.var.toNat → wellFormed (.cmpi f) = false

/-- ADDI, ANDI, ORI, XORI and both forms of MOVI (R95, R101). -/
def Clause.Immediates : Prop :=
  (∀ f : FmtI, LandsS (.addi f) f.d 1 fun s => resultOut f.ty (s.src f.a + f.imm.signExtend 64)) ∧
  (∀ f : FmtI, LandsS (.andi f) f.d 1 fun s => resultOut f.ty (s.src f.a &&& f.imm.signExtend 64)) ∧
  (∀ f : FmtI, LandsS (.ori f) f.d 1 fun s => resultOut f.ty (s.src f.a ||| f.imm.signExtend 64)) ∧
  (∀ f : FmtI, LandsS (.xori f) f.d 1 fun s => resultOut f.ty (s.src f.a ^^^ f.imm.signExtend 64)) ∧
  (∀ f : FmtI, LandsS (.movi f) f.d 1 fun _ => f.imm.signExtend 64) ∧
  (∀ f : FmtI, ∃ v : Word → Word, (LandsS (.moviIns f) f.d 1 fun s => v (s.src f.a)) ∧ ∀ x k, k < 64 →
    (v x).getLsbD k = if k / 16 = f.var.toNat % 4 then f.imm.getLsbD (k % 16) else x.getLsbD k)

/-- DIV and REM (R99): the truncated quotient and its remainder, signed or unsigned as VAR selects; all ones and A where B is 0; A and 0 for the
most negative value divided by -1. Neither traps, and the result arrives 12 to 40 cycles after the issue. -/
def Obligations.DivisionAndRemainder : Prop :=
  (∀ f : FmtR, Divides (.div f) f fun q _ => q) ∧ (∀ f : FmtR, Divides (.rem f) f fun _ r => r)

/-! The FP32 instructions of the S slot (R102 to R104). -/

/-- The latencies and results of the FP32 instructions (R102, R103): each reads bits [31:0] of its sources and writes its result
zero-extended. -/
def Obligations.FloatInstructions : Prop :=
  (∀ f : FmtR, LandsS (.fadd f) f.d 4 fun s => fpWord (fpAdd fp32 f.rnd.toNat (low32 (s.src f.a)) (low32 (s.src f.b)))) ∧
  (∀ f : FmtR, LandsS (.fsub f) f.d 4 fun s => fpWord (fpSub fp32 f.rnd.toNat (low32 (s.src f.a)) (low32 (s.src f.b)))) ∧
  (∀ f : FmtR, LandsS (.fmul f) f.d 4 fun s => fpWord (fpMul fp32 f.rnd.toNat (low32 (s.src f.a)) (low32 (s.src f.b)))) ∧
  (∀ f : FmtR, LandsS (.fma f) f.d 5 fun s =>
    fpWord (fpFma fp32 f.rnd.toNat false false (low32 (s.src f.a)) (low32 (s.src f.b)) (low32 (s.src f.c)))) ∧
  (∀ f : FmtR, LandsS (.fdiv f) f.d 12 fun s => fpWord (fpDiv fp32 f.rnd.toNat (low32 (s.src f.a)) (low32 (s.src f.b)))) ∧
  (∀ f : FmtR, LandsS (.fsqrt f) f.d 14 fun s => fpWord (fpSqrt fp32 f.rnd.toNat (low32 (s.src f.a)))) ∧
  (∀ f : FmtR, LandsS (.fmin f) f.d 1 fun s => fpWord (fpMinMax fp32 false (low32 (s.src f.a)) (low32 (s.src f.b)))) ∧
  (∀ f : FmtR, LandsS (.fmax f) f.d 1 fun s => fpWord (fpMinMax fp32 true (low32 (s.src f.a)) (low32 (s.src f.b)))) ∧
  (∀ f : FmtR, LandsS (.fcmp f) f.d 1 fun s =>
    if fpCompare fp32 f.var.toNat (low32 (s.src f.a)) (low32 (s.src f.b)) then 1#64 else 0#64) ∧
  (∀ f : FmtR, LandsS (.fcvt f) f.d 3 fun s => convertScalar f.var.toNat f.rnd.toNat (s.src f.a)) ∧
  (∀ f : FmtR, ∃ v : Word → Word → Word, (LandsS (.fsgn f) f.d 1 fun s => v (s.src f.a) (s.src f.b)) ∧ ∀ a b,
    (v a b).extractLsb' 0 31 = a.extractLsb' 0 31 ∧ (v a b).extractLsb' 32 32 = 0#32 ∧ (f.var = 0#8 → (v a b).getLsbD 31 = b.getLsbD 31) ∧
    (f.var = 1#8 → (v a b).getLsbD 31 = !b.getLsbD 31) ∧ (f.var = 2#8 → (v a b).getLsbD 31 = (a.getLsbD 31 ^^ b.getLsbD 31)))

/-- NaN rule of R102 and the NaN rules of FMIN, FMAX and FCMP of R103, on binary32 patterns: a NaN result is 0x7FC00000, whatever the rounding
direction; FMIN and FMAX give the other source's bits where exactly one source is a NaN; an ordered comparison with a NaN is false and .un
is true. -/
def Clause.FloatNan : Prop :=
  ∀ rnd x y z, (isNan32 x ∨ isNan32 y →
    fpAdd fp32 rnd x y = 0x7FC00000 ∧ fpSub fp32 rnd x y = 0x7FC00000 ∧ fpMul fp32 rnd x y = 0x7FC00000 ∧ fpDiv fp32 rnd x y = 0x7FC00000 ∧
    fpFma fp32 rnd false false x y z = 0x7FC00000 ∧ fpFma fp32 rnd false false z x y = 0x7FC00000) ∧
    (isNan32 x → fpSqrt fp32 rnd x = 0x7FC00000) ∧
    (∀ isMax, (isNan32 x → isNan32 y → fpMinMax fp32 isMax x y = 0x7FC00000) ∧ (isNan32 x → ¬ isNan32 y → fpMinMax fp32 isMax x y = y) ∧
      (¬ isNan32 x → isNan32 y → fpMinMax fp32 isMax x y = x)) ∧
    (isNan32 x ∨ isNan32 y → fpCompare fp32 0 x y = false ∧ fpCompare fp32 1 x y = false ∧ fpCompare fp32 2 x y = false) ∧
    (fpCompare fp32 3 x y = true ↔ isNan32 x ∨ isNan32 y)

/-- Invalid operations and division by zero on binary32 patterns (R102, R103): infinity less infinity, zero times infinity, zero by zero and
the root of a negative number give the NaN; a finite number that is not zero divided by zero gives infinity with the product of the signs;
the root of -0 is -0; FMIN and FMAX order -0 before +0, and FCMP takes them as equal. -/
def Clause.FloatInvalid : Prop :=
  ∀ rnd, fpAdd fp32 rnd 0x7F800000 0xFF800000 = 0x7FC00000 ∧ fpSub fp32 rnd 0x7F800000 0x7F800000 = 0x7FC00000 ∧
    fpMul fp32 rnd 0 0x7F800000 = 0x7FC00000 ∧ fpDiv fp32 rnd 0 0x80000000 = 0x7FC00000 ∧ fpSqrt fp32 rnd 0x80000000 = 0x80000000 ∧
    (∀ x, 0x80000000 < x → x ≤ 0xFF800000 → fpSqrt fp32 rnd x = 0x7FC00000) ∧
    (∀ x, 0 < x → x < 0x7F800000 → fpDiv fp32 rnd x 0 = 0x7F800000 ∧ fpDiv fp32 rnd x 0x80000000 = 0xFF800000) ∧
    fpMinMax fp32 false 0 0x80000000 = 0x80000000 ∧ fpMinMax fp32 true 0x80000000 0 = 0 ∧ fpCompare fp32 0 0 0x80000000 = true

/-- FCVT (R104): a NaN converts to 0; an infinity, and with rounding toward zero a value beyond a bound, saturates to the bound; 0 converts to 0
both ways. -/
def Clause.FloatConversions : Prop :=
  ∀ (rnd : Nat) (a : Word), (isNan32 (low32 a) → convertScalar 0 rnd a = 0#64 ∧ convertScalar 1 rnd a = 0#64) ∧
    (low32 a = 0x7F800000 → convertScalar 0 rnd a = 0x7FFFFFFFFFFFFFFF#64 ∧ convertScalar 1 rnd a = 0x7FFFFFFF#64) ∧
    (low32 a = 0xFF800000 → convertScalar 0 rnd a = 0x8000000000000000#64 ∧ convertScalar 1 rnd a = 0xFFFFFFFF80000000#64) ∧
    (0x4F000000 ≤ low32 a → low32 a < 0x7F800000 → convertScalar 1 rnd a = 0x7FFFFFFF#64) ∧
    convertScalar 2 rnd 0#64 = 0#64 ∧ convertScalar 3 rnd 0#64 = 0#64

/-! The B slot (R113 to R120, R290). -/

/-- BR, BREQ, BRNE, BRLT, BRGE, BRLTU and BRGEU (R60, R114, R115): the comparisons read A and B as 64-bit values. -/
def Clause.Branches : Prop :=
  (∀ (f : FmtJ) s, Issues (.br f) s → Answers (.br f) s fun t =>
    OnlyCur s t ∧ t.cur.target = some (pcMask (s.cur.pc + f.disp.signExtend 64 * 8#64))) ∧
  (∀ f : FmtJ, BranchesOn (.breq f) f fun s => decide (s.src f.a = s.src f.b)) ∧
  (∀ f : FmtJ, BranchesOn (.brne f) f fun s => decide (s.src f.a ≠ s.src f.b)) ∧
  (∀ f : FmtJ, BranchesOn (.brlt f) f fun s => decide ((s.src f.a).toInt < (s.src f.b).toInt)) ∧
  (∀ f : FmtJ, BranchesOn (.brge f) f fun s => decide ((s.src f.b).toInt ≤ (s.src f.a).toInt)) ∧
  (∀ f : FmtJ, BranchesOn (.brltu f) f fun s => decide ((s.src f.a).toNat < (s.src f.b).toNat)) ∧
  (∀ f : FmtJ, BranchesOn (.brgeu f) f fun s => decide ((s.src f.b).toNat ≤ (s.src f.a).toNat))

/-- BRALL and BRNONE (R116): they examine the first N bits of the mask. All ones take BRALL and not BRNONE, all zeros BRNONE and not BRALL, and a
mixed mask is the precise trap NONUNIFORM. -/
def Clause.MaskBranches : Prop :=
  ∀ (f : FmtJ) (s : State),
    let m := s.issuer.mreg (f.a.extractLsb' 0 3).toNat
    let ones := ∀ k, k < maskCount f.b → m.getLsbD k = true
    let zeros := ∀ k, k < maskCount f.b → m.getLsbD k = false
    let goes (i : Instr) (taken : Bool) := Answers i s fun t =>
      (t.cur.target = if taken then some (pcMask (s.cur.pc + f.disp.signExtend 64 * 8#64)) else s.cur.target) ∧
      (if taken = decide (f.hint = 1#2) then OnlyCur s t
       else OnlyCur (s.withIssuer { s.issuer with notBefore := max s.issuer.notBefore (s.now + 4) }) t)
    (Issues (.brall f) s → (ones → goes (.brall f) true) ∧ (zeros → goes (.brall f) false) ∧
      (¬ ones → ¬ zeros → Traps (.brall f) s { code := codeNonuniform, slots := slotBit (slotFor s (.brall f)) })) ∧
    (Issues (.brnone f) s → (zeros → goes (.brnone f) true) ∧ (ones → goes (.brnone f) false) ∧
      (¬ ones → ¬ zeros → Traps (.brnone f) s { code := codeNonuniform, slots := slotBit (slotFor s (.brnone f)) }))

/-- CALL in both forms, RET and JR (R113, R114, R117): a call puts the address after its bundle on its way to D, to land on issue + 1, and on the
return predictor; the register forms go to A's address within 52 bits, and cost 3 cycles, but for a RET to the address on top of the
predictor. -/
def Clause.CallsAndReturns : Prop :=
  ∀ (f : FmtJ) (s : State),
    let link := s.cur.pc + BitVec.ofNat 64 s.cur.len
    let pushed := (link :: s.issuer.predictor).take 8
    let late := max s.issuer.notBefore (s.now + 4)
    let dest := pcMask (s.src f.a)
    let calls (i : Instr) (t : State) (nb : Nat) := ∃ r : OpRec, r.isOf i s ∧ OnlyCur (s.withIssuer { s.issuer with
      landings := s.issuer.landings ++ [⟨r, s.now + 1, .s f.d.toNat, .word link⟩], predictor := pushed, notBefore := nb }) t
    (Issues (.call f) s → Answers (.call f) s fun t =>
      t.cur.target = some (pcMask (s.cur.pc + f.disp.signExtend 64 * 8#64)) ∧ calls (.call f) t s.issuer.notBefore) ∧
    (Issues (.callRegister f) s → Answers (.callRegister f) s fun t => t.cur.target = some dest ∧ calls (.callRegister f) t late) ∧
    (Issues (.ret f) s → Answers (.ret f) s fun t => t.cur.target = some dest ∧
      if s.issuer.predictor.head? = some dest then OnlyCur (s.withIssuer { s.issuer with predictor := s.issuer.predictor.drop 1 }) t
      else OnlyCur (s.withIssuer { s.issuer with predictor := s.issuer.predictor.drop 1, notBefore := late }) t) ∧
    (Issues (.jr f) s → Answers (.jr f) s fun t => t.cur.target = some dest ∧ OnlyCur (s.withIssuer { s.issuer with notBefore := late }) t)

/-- LOOP (R119, R301): a count of 2^32 or more is the precise trap LOOP_RANGE; the lp register of an active walk is WALK_STATE; 0 closes the
frame and goes to the exit; any other count opens the frame from the next bundle to the exit, and lpN is the count. The back-edge test (R120) of an issue that ends, with no
repetition left, no branch taken and no loop instruction: of the active frames that end where the bundle ends, the most recent first, those whose lpN is 0 or 1 close with lpN 0, and
the first whose lpN is above 1 counts down and sends the next issue to its begin; where there is none, the next bundle follows. An overwriting frame has the end test of R295. -/
def Obligations.Loops : Prop :=
  (∀ (f : FmtL) (s : State), Issues (.loop f) s →
    let n := f.lp.toNat
    let cnt := s.src f.a
    let exit_ := pcMask (s.cur.pc + f.disp.signExtend 64 * 8#64)
    let next := s.cur.pc + BitVec.ofNat 64 s.cur.len
    (2 ^ 32 ≤ cnt.toNat → Traps (.loop f) s { code := codeLoopRange, slots := slotBit (slotFor s (.loop f)) }) ∧
    (cnt.toNat < 2 ^ 32 → s.issuer.walk.act = true → s.issuer.walk.lp = f.lp →
      Traps (.loop f) s { code := codeWalkState, why := 0x7A#8, slots := slotBit (slotFor s (.loop f)) }) ∧
    (cnt.toNat < 2 ^ 32 → ¬ (s.issuer.walk.act = true ∧ s.issuer.walk.lp = f.lp) → Answers (.loop f) s fun t => OnlyCur (s.withIssuer t.issuer) t ∧
      t.issuer.lp = s.issuer.lp.set n cnt ∧ t.cur.loopIssued = true ∧
      (if cnt = 0#64 then (t.issuer.frame n).act = false ∧ t.cur.target = some exit_
       else t.issuer.frame n = { act := true, beg := next, fin := exit_, ow := false } ∧ t.issuer.order.head? = some n ∧
         t.cur.target = s.cur.target) ∧
      ∀ k, k ≠ n → t.issuer.frame k = s.issuer.frame k)) ∧
  ∀ (x : NextIssue) (s : State),
    let c := s.ctx x.key
    let next := pcMask (s.cur.pc + BitVec.ofNat 64 s.cur.len)
    let ends (k : Nat) := (c.frame k).act = true ∧ (c.frame k).fin = next
    let closes (k : Nat) := ends k → (c.frame k).ow = false ∧ (c.lpreg k).toNat ≤ 1
    let t := applyAll (moveOn x s) s
    let d := t.ctx x.key
    let goes (closed : List Nat) (a : Word) := t = { s with ctxs := s.ctxs.set x.key d, cur := t.cur } ∧
      d = { c with pc := pcMask a, repleft := 0, fetched := [], lp := d.lp, frames := d.frames } ∧
      (∀ k, k ∈ closed → ends k → d.frame k = { c.frame k with act := false } ∧ d.lpreg k = 0#64) ∧
      ∀ k, ¬ (k ∈ closed ∧ ends k) → d.frame k = c.frame k
    (∀ a, s.cur.target = some a → goes [] a ∧ d.lp = c.lp) ∧
    (s.cur.target = none → 0 < x.remaining → t = { s with ctxs := s.ctxs.set x.key { c with repleft := x.remaining, fetched := x.words } }) ∧
    (s.cur.target = none → x.remaining = 0 →
      (s.cur.loopIssued = true → goes [] next ∧ d.lp = c.lp) ∧
      (s.cur.loopIssued = false →
        (∀ a k b, c.order = a ++ k :: b → k ∉ a → (∀ j, j ∈ a → closes j) → ends k → (c.frame k).ow = false → 1 < (c.lpreg k).toNat →
          goes a (c.frame k).beg ∧ d.lpreg k = c.lpreg k - 1#64 ∧ ∀ j, j ≠ k → ¬ (j ∈ a ∧ ends j) → d.lpreg j = c.lpreg j) ∧
        ((∀ j, j ∈ c.order → closes j) → goes c.order next ∧ ∀ j, ¬ (j ∈ c.order ∧ ends j) → d.lpreg j = c.lpreg j) ∧
        (∀ k b, c.order = k :: b → ends k → (c.frame k).ow = true → c.lpreg k ≠ 0#64 → let u := applyAll (walkEndTest x.key true s) s
          t = { u with ctxs := u.ctxs.set x.key { u.ctx x.key with pc := pcMask (u.cur.target.getD next), repleft := 0, fetched := [] } })))

/-! Loads, stores and atomics of the S slot (R93, R105 to R107, R199 to R201). -/

/-- check_handle (R93, R89, R90, R91): the first failing check in the order HANDLE_INVALID, HANDLE_BOUND, HANDLE_PERM. The bound covers offsets
of [0, BOUND), and a target that reaches a carve-out is out of bounds; an MCAST handle gives write permission only. -/
def Obligations.HandleChecks : Prop :=
  ∀ (h : Handle) (off : Word) (n perm : Nat),
    let inside := 0 ≤ off.toInt ∧ off.toInt + n ≤ h.bound.toNat
    let top := h.base.toNat + off.toInt + n
    let clear := ((h.kind = .spad ∨ h.kind = .mcast) → top ≤ 0x2F0000) ∧ (h.kind = .cluster → top ≤ 0x1780000)
    let may := h.perm.getLsbD perm = true ∧ (h.kind = .mcast → perm = 1)
    (h.v = false → checkHandle h off n perm = some codeHandleInvalid) ∧
    (h.v = true → ¬ (inside ∧ clear) → checkHandle h off n perm = some codeHandleBound) ∧
    (h.v = true → inside → clear → ¬ may → checkHandle h off n perm = some codeHandlePerm) ∧
    (h.v = true → inside → clear → may → checkHandle h off n perm = none)

/-- LD (R105, R106): through a SPAD handle the bytes at BASE + off, extended as TY says, land on issue + 6; through any other an access starts,
and D is empty until it arrives. `off` is value(B) + value(C) times the size + n times STRIDE times the unit. A failing check of the handle or of
an active walk is its precise trap. -/
def Clause.Loads : Prop :=
  ∀ (f : FmtX) (s : State), Issues (.ld f) s →
    let h := s.issuer.handle f.h.toNat
    let size := tyBytes f.ty
    let off := s.src f.b + BitVec.ofInt 64 (s.cur.step.toNat * f.stride.toInt * unitBytes f.sunit) +
      (if f.c = 0x80#8 then 0#64 else s.src f.c) * BitVec.ofNat 64 size
    let e : Elem := ⟨0, off, size⟩
    let free := checkHandle h off size 0 = none ∧ readTrap s.issuer (issueOf (.ld f) s) h e = none
    (∀ code, checkHandle h off size 0 = some code → Traps (.ld f) s (accessTrap (issueOf (.ld f) s) code (h.base + off) 0 0#8)) ∧
    (∀ tr, checkHandle h off size 0 = none → readTrap s.issuer (issueOf (.ld f) s) h e = some tr → Traps (.ld f) s tr) ∧
    (free → h.kind = .spad → Answers (.ld f) s fun t => Lands (.ld f) s t 6 (.s f.d.toNat)
      (.word (loadExtend f.ty (leNat (Memory.read s.mem (spadPlace (coreOf s.cur.key) (h.base + off).toNat) size))))) ∧
    (free → h.kind ≠ .spad → ∃ r : OpRec, r.isOf (.ld f) s ∧ Becomes (.ld f) s
      ((s.withAccess (s.accessFor r .load h [e] (List.replicate size 0#8) [] 3#3 false)).withIssuer
        (s.issuer.withPending r [.s f.d.toNat] (.access s.nextId))))

/-- The extensions of a load (R105): the integer types extend the sign, the floating-point types and I64 do not. -/
def Clause.LoadExtensions : Prop :=
  ∀ x : Nat, (∀ ty : BitVec 4, (ty = 4#4 ∨ ty = 5#4) → x < 2 ^ 16 → (loadExtend ty x).toNat = x) ∧
    (x < 2 ^ 32 → (loadExtend 6#4 x).toNat = x) ∧ (x < 2 ^ 64 → (loadExtend 3#4 x).toNat = x) ∧
    (x < 2 ^ 8 → (loadExtend 0#4 x).toInt = (BitVec.ofNat 8 x).toInt) ∧ (x < 2 ^ 16 → (loadExtend 1#4 x).toInt = (BitVec.ofNat 16 x).toInt) ∧
    (x < 2 ^ 32 → (loadExtend 2#4 x).toInt = (BitVec.ofNat 32 x).toInt)

/-- ST (R105, R106): it stores the low bytes of D at BASE + off. Through a SPAD handle they are in memory after the issue, and every byte outside
them reads as before; an MCAST store lands 24 cycles later; any other starts an access. A failing check of the handle or of an active walk is its
precise trap, and a store to a covered cell of a walk stores nothing. -/
def Obligations.StoresOfScalars : Prop :=
  ∀ (f : FmtX) (s : State), Issues (.st f) s →
    let h := s.issuer.handle f.h.toNat
    let size := tyBytes f.ty
    let off := s.src f.b + BitVec.ofInt 64 (s.cur.step.toNat * f.stride.toInt * unitBytes f.sunit) +
      (if f.c = 0x80#8 then 0#64 else s.src f.c) * BitVec.ofNat 64 size
    let e : Elem := ⟨0, off, size⟩
    let data := leBytes (s.src f.d).toNat size
    let core := coreOf s.cur.key
    let i := issueOf (.st f) s
    let free := checkHandle h off size 1 = none ∧ writeTrap s.issuer i h e = none
    let left := unsuppressed s.mem s.issuer s.cur.key h [e]
    (∀ code, checkHandle h off size 1 = some code → Traps (.st f) s (accessTrap i code (h.base + off) 0 0#8)) ∧
    (∀ tr, checkHandle h off size 1 = none → writeTrap s.issuer i h e = some tr → Traps (.st f) s tr) ∧
    (free → h.kind = .spad → Answers (.st f) s fun t => Stores s t (reached core h left) data) ∧
    (free → h.kind = .mcast → ∃ m : Mcast, m.due = s.now + 24 ∧ m.pos = s.issuer.pos.toNat ∧ m.cores = mcastCores s s.cur.key h.tgt ∧
      m.bytes = (left.flatMap fun e => (List.range e.len).map fun b => (h.base + e.off).toNat + b).zip data ∧ m.landed = false ∧
      Becomes (.st f) s { s with nextId := s.nextId + 1, mcasts := s.mcasts.set s.nextId m }) ∧
    (free → h.kind ≠ .spad → h.kind ≠ .mcast → if left = [] then Becomes (.st f) s s else ∃ r : OpRec, r.isOf (.st f) s ∧
      Becomes (.st f) s (s.withAccess (s.accessFor r .store h left data [] 3#3 (h.kind = .global))))

/-- AMO (R199 to R201): through a SPAD handle the aligned word at BASE + off takes the value of AOP in one step, and its old value lands on issue
+ 8, and what the context accesses after an ordered one it reads afresh; through any other an access starts at the scope that SYSOK allows, and D is empty until it
arrives. -/
def Clause.ScalarAtomics : Prop :=
  ∀ (f : FmtA) (s : State), Issues (.amo f) s →
    let h := s.issuer.handle f.h.toNat
    let w := tyWidth f.ty
    let e : Elem := ⟨0, s.src f.b, w / 8⟩
    let a := (h.base + s.src f.b).toNat
    let i := issueOf (.amo f) s
    let x := (s.src f.c).toNat % 2 ^ w
    let cmp := (s.src f.d).toNat % 2 ^ w
    let old := leNat (Memory.read s.mem (spadPlace (coreOf s.cur.key) a) (w / 8))
    let checks := checkHandle h e.off e.len 2 = none ∧ a % e.len = 0
    let free := checks ∧ readTrap s.issuer i h e = none
    let demoted (c : Ctx) : Ctx := if f.scope = 4#3 ∧ s.issuer.sysok = false then { c with scdem := true } else c
    (∀ code, checkHandle h e.off e.len 2 = some code → Traps (.amo f) s (accessTrap i code (h.base + e.off) 0 0#8)) ∧
    (checkHandle h e.off e.len 2 = none → a % e.len ≠ 0 → Traps (.amo f) s (accessTrap i codeAtomicAlign (h.base + e.off) 0 0#8)) ∧
    (∀ tr, checks → readTrap s.issuer i h e = some tr → Traps (.amo f) s tr) ∧
    (free → h.kind = .spad → Answers (.amo f) s fun t =>
      Stores ({ s with free := s.free + f.ord.toNat }.withIssuer t.issuer) t (reached (coreOf s.cur.key) h [e])
        (leBytes (atomicNew f.aop.toNat w old x cmp) (w / 8)) ∧
      ∃ r : OpRec, r.isOf (.amo f) s ∧ t.issuer = demoted { s.issuer with
        landings := s.issuer.landings ++ [⟨r, s.now + 8, .s f.d.toNat, .word (atomicOld f.ty old)⟩],
        fresh := if f.ord = 1#1 then s.free + 1 else s.issuer.fresh }) ∧
    (free → h.kind ≠ .spad → ∃ r : OpRec, r.isOf (.amo f) s ∧ Becomes (.amo f) s
      ((s.withAccess (s.accessFor r (.atomic f.aop (f.ty = 6#4)) h [e] (leBytes x (w / 8)) (leBytes cmp (w / 8))
        (if f.scope = 4#3 ∧ s.issuer.sysok = false then 3#3 else f.scope) (h.kind = .global))).withIssuer
        (demoted { s.issuer.withPending r [.s f.d.toNat] (.access s.nextId) with
          holdAll := if f.ord = 1#1 then s.issuer.holdAll ++ [⟨s.nextId, 3#3⟩] else s.issuer.holdAll })))

/-- The operations of R199 on words of 32 or 64 bits: the old value, the operand and the compare value are patterns of w bits. -/
def Clause.AtomicOperations : Prop :=
  ∀ w, (w = 32 ∨ w = 64) → ∀ old x cmp : BitVec w,
    let new (aop : Nat) := BitVec.ofNat w (atomicNew aop w old.toNat x.toNat cmp.toNat)
    new 0 = old + x ∧ new 1 = old &&& x ∧ new 2 = old ||| x ∧ new 3 = old ^^^ x ∧
    new 4 = (if x.slt old then x else old) ∧ new 5 = (if old.slt x then x else old) ∧
    new 6 = (if x.ult old then x else old) ∧ new 7 = (if old.ult x then x else old) ∧
    new 8 = x ∧ new 9 = (if old = cmp then x else old)

/-! Handles, the permission table and the compare of copies (R108 to R110, R283, R332). -/

/-- GRANT (R108): the handle derived from the entry lands in hN on issue + 12; an entry that is not valid, a number above 255 or a range outside
the entry is the precise trap GRANT_DENIED with IDX the number. -/
def Clause.Grant : Prop :=
  ∀ (f : FmtY) (s : State), Issues (.grant f) s →
    let e := s.src f.a
    let off := if f.b = 0x80#8 then 0#64 else s.src f.b
    let len := if f.c = 0x80#8 then 0#64 else s.src f.c
    let p := s.issuer.permEntry e.toNat
    let n := if len = 0#64 then p.bound.toNat - off.toNat else len.toNat
    let granted := e.toNat ≤ 255 ∧ p.v = true ∧ off.toNat < p.bound.toNat ∧ off.toNat + n ≤ p.bound.toNat
    let walk := walkChecks s.issuer = true ∧ s.issuer.walk.wh = f.d.setWidth 4
    (¬ granted → Traps (.grant f) s { code := codeGrantDenied, idx := e.setWidth 16, slots := slotBit (slotFor s (.grant f)) }) ∧
    (granted → walk → Traps (.grant f) s { code := codeWalkState, why := 0x7B#8, slots := slotBit (slotFor s (.grant f)) }) ∧
    (granted → ¬ walk → Answers (.grant f) s fun t => Lands (.grant f) s t 12 (.h (f.d.toNat % 16)) (.handle
      { v := true, kind := p.kind, perm := p.perm, base := p.base.setWidth 64 + off, bound := BitVec.ofNat 64 n, tgt := p.tgt, entry := e.toNat }))

/-- REVOKE (R110, R301): on issue + 1 the handle is revoked; the handle of an active walk is WALK_STATE. PERMLD (R283): its status, and the entry
where it may be written, are there on issue + 2. -/
def Clause.RevokeAndPermld : Prop :=
  (∀ (f : FmtY) (s : State), Issues (.revoke f) s →
    let walk := walkChecks s.issuer = true ∧ s.issuer.walk.wh = f.d.setWidth 4
    (walk → Traps (.revoke f) s { code := codeWalkState, why := 0x7B#8, slots := slotBit (slotFor s (.revoke f)) }) ∧
    (¬ walk → Answers (.revoke f) s fun t => Lands (.revoke f) s t 1 .none (.act (.revoke (f.d.toNat % 16))))) ∧
  (∀ (f : FmtY) (s : State), Issues (.permld f) s →
    let k := s.issuer.vtsel.getD s.cur.key
    let x := permldResult s k (s.src f.a) (s.src f.b)
    ∃ r : OpRec, r.isOf (.permld f) s ∧ Becomes (.permld f) s (s.withIssuer { s.issuer with
      landings := s.issuer.landings ++ ((match x.2 with
        | some e => [⟨r, s.now + 2, .none, .act (.permld k (s.src f.a).toNat e)⟩]
        | none => []) ++ [⟨r, s.now + 2, .s f.d.toNat, .word x.1⟩]) }))

/-- CMPT (R332): copies that agree have no effect; copies that differ are the precise trap DUP_MISMATCH, with IDX the lowest 64-bit word of the
vector form in which they differ. -/
def Clause.CompareOfCopies : Prop :=
  (∀ (f : FmtY) (s : State), Issues (.cmpt f) s →
    (s.src f.a = s.src f.b → Becomes (.cmpt f) s s) ∧
    (s.src f.a ≠ s.src f.b → Traps (.cmpt f) s { code := codeDupMismatch, idx := 0#16, slots := slotBit (slotFor s (.cmpt f)) })) ∧
  (∀ (f : FmtY) (s : State), Issues (.cmptV f) s →
    let a := s.vsrc 3#4 f.a
    let b := s.vsrc 3#4 f.b
    (a = b → Becomes (.cmptV f) s s) ∧
    (∀ k, k < 16 → elem 64 a k ≠ elem 64 b k → (∀ j, j < k → elem 64 a j = elem 64 b j) →
      Traps (.cmptV f) s { code := codeDupMismatch, idx := BitVec.ofNat 16 k, slots := slotBit (slotFor s (.cmptV f)) }))

/-! Children, the priority queue, barriers and drains (R194 to R198, R203 to R207, R233). -/

/-- FORK (R203): the child is at the head of the core's deque, with its entry, the four arguments and its parent, and JCNT counts it. JOIN (R205):
the count of the children is awaited. -/
def Clause.ForkAndJoin : Prop :=
  (∀ (f : FmtY) (s : State), Issues (.fork f) s →
    let core := coreOf s.cur.key
    let child : Child := ⟨pcMask (s.cur.pc + s.cur.bimm.signExtend 64 * 8#64), [s.src f.d, s.src f.a, s.src f.b, s.src f.c], s.cur.key,
      s.issuer.task.getD 0⟩
    Becomes (.fork f) s (({ s with cores := s.cores.set core { s.core core with deque := child :: (s.core core).deque } } : State).withIssuer
      { s.issuer with jcnt := s.issuer.jcnt + 1#16 })) ∧
  (∀ (f : FmtY) (s : State), Issues (.join f) s → Answers (.join f) s fun t => Pends (.join f) s t [.s f.d.toNat] (.join s.now (if s.issuer.jcnt = 0#16 then some (s.now + 2) else none)))

/-- PQPUSH and PQPOP (R206, R207, R233): the push or the claim is on its way to the priority queue of the issuer's die, which it reaches 12 cycles
after the issue; under DET a push carries the ticket of its gang position and of its count. -/
def Clause.PriorityQueue : Prop :=
  (∀ (f : FmtY) (s : State), Issues (.pqpush f) s →
    let d := dieOf (coreOf s.cur.key)
    let e : PqEntry := { cid := s.issuer.cid, key := (s.src f.a).setWidth 32, payload := s.src f.b,
                         ticket := if s.issuer.det then some (s.issuer.pos.toNat, s.issuer.tickets) else none, order := 0 }
    let m : PqMove := { id := s.nextId, due := s.now + 12, ctx := s.cur.key, cid := s.issuer.cid, push := some e }
    let u : State := { s with nextId := s.nextId + 1, dies := s.dies.set d { s.die d with pqMoves := (s.die d).pqMoves ++ [m] } }
    Becomes (.pqpush f) s (u.withIssuer { s.issuer with tickets := s.issuer.tickets + 1 })) ∧
  (∀ (f : FmtY) (s : State), Issues (.pqpop f) s →
    let d := dieOf (coreOf s.cur.key)
    let m : PqMove := { id := s.nextId, due := s.now + 12, ctx := s.cur.key, cid := s.issuer.cid, push := none, det := s.issuer.det }
    let u : State := { s with nextId := s.nextId + 1, dies := s.dies.set d { s.die d with pqMoves := (s.die d).pqMoves ++ [m] } }
    ∃ r : OpRec, r.isOf (.pqpop f) s ∧ Becomes (.pqpop f) s (u.withIssuer
      (s.issuer.withPending r [.s f.d.toNat, .s (f.d.toNat + 1)] (.pqClaim s.nextId))))

/-- BARM, BARRIVE and BWAIT (R194, R195): a BARM's count and a BARRIVE's addition reach the barrier on issue + 1, and BWAIT has no effect; a barrier
that the image does not claim, or a count beyond 32 bits, is the precise trap BARRIER_RANGE with IDX the barrier. -/
def Clause.NamedBarriers : Prop :=
  ∀ (f : FmtY) (s : State),
    let k := (f.sf.extractLsb' 0 11).toNat
    let claimed := s.issuer.barFirst ≤ k ∧ k < s.issuer.barFirst + s.issuer.barCount
    let core := coreOf s.cur.key
    let sends (b : BarrierInput) : State := { s with cores := s.cores.set core { s.core core with barIn := (s.core core).barIn ++ [b] } }
    let range (i : Instr) : Trap := { code := codeBarrierRange, idx := BitVec.ofNat 16 k, slots := slotBit (slotFor s i) }
    (Issues (.barm f) s →
      (claimed → (s.src f.a).toNat < 2 ^ 32 → Becomes (.barm f) s (sends ⟨k, s.now + 1, 0, some ((s.src f.a).setWidth 32)⟩)) ∧
      (¬ (claimed ∧ (s.src f.a).toNat < 2 ^ 32) → Traps (.barm f) s (range (.barm f)))) ∧
    (Issues (.barrive f) s →
      (claimed → Becomes (.barrive f) s (sends ⟨k, s.now + 1, (s.src f.a).toNat % 2 ^ 32, none⟩)) ∧
      (¬ claimed → Traps (.barrive f) s (range (.barrive f)))) ∧
    (Issues (.bwait f) s → (claimed → Becomes (.bwait f) s s) ∧ (¬ claimed → Traps (.bwait f) s (range (.bwait f))))

/-- The update of a barrier (R196): the additions saturate at 2^32 - 1; an armed barrier that has its count flips its phase, is no longer armed and
keeps what is over; any other keeps its phase. -/
def Clause.BarrierUpdate : Prop :=
  ∀ (b : Barrier) (now add : Nat) (arm : Option W32),
    let arr := min (b.arr.toNat + add) (2 ^ 32 - 1)
    let cnt := arm.getD b.cnt
    let armd := arm.isSome ∨ b.armd = true
    let t := b.step now add arm
    t.cnt = cnt ∧ (armd → cnt.toNat ≤ arr → t.arr.toNat + cnt.toNat = arr ∧ t.ph = !b.ph ∧ t.armd = false) ∧
    (¬ (armd ∧ cnt.toNat ≤ arr) → t.arr.toNat = arr ∧ t.ph = b.ph ∧ (t.armd = true ↔ armd))

/-- GBARRIVE and GBWAIT (R197): the arrival is counted, and where every member of the gang has arrived the release is 32 cycles later; GBWAIT has
no effect; a barrier that the image does not claim is BARRIER_RANGE. GANG_BARRIER_RELEASE: from the release cycle on GA clears in every member
that arrived, and the barrier is as new. -/
def Clause.GangBarriers : Prop :=
  (∀ (f : FmtY) (s : State),
    let k := (f.sf.extractLsb' 0 11).toNat
    let claimed := s.issuer.barFirst ≤ k ∧ k < s.issuer.barFirst + s.issuer.barCount
    let range (i : Instr) : Trap := { code := codeBarrierRange, idx := BitVec.ofNat 16 k, slots := slotBit (slotFor s i) }
    (Issues (.gbarrive f) s → (¬ claimed → Traps (.gbarrive f) s (range (.gbarrive f))) ∧
      (claimed → Answers (.gbarrive f) s fun t => t.issuer = { s.issuer with ga := some k } ∧ t.mem = s.mem ∧
        ∀ task, s.issuer.task = some task → let g := ((t.gang task).bars.get {} k)
          s.cur.key ∈ g.arrived ∧ (∀ m, m ∈ ((s.gang task).bars.get {} k).arrived → m ∈ g.arrived) ∧
          ((∀ m, m ∈ gangMembers t task → m ∈ g.arrived) → g.release = some (s.now + 32)))) ∧
    (Issues (.gbwait f) s → (claimed → Becomes (.gbwait f) s s) ∧ (¬ claimed → Traps (.gbwait f) s (range (.gbwait f))))) ∧
  (∀ (task bar r : Nat) (s : State), ((s.gang task).bars.get {} bar).release = some r → r ≤ s.now →
    Answers (.gangBarrierRelease task bar) s fun t => t.mem = s.mem ∧ t.cores = s.cores ∧ (t.gang task).bars = (s.gang task).bars.erase bar ∧
      ∀ k, (k ∈ ((s.gang task).bars.get {} bar).arrived →
          if (s.ctx k).ga = some bar then (t.ctx k).ga = none ∧ s.free < (t.ctx k).fresh ∧
            t.ctx k = { s.ctx k with ga := none, fresh := (t.ctx k).fresh }
          else t.ctx k = s.ctx k) ∧
        (k ∉ ((s.gang task).bars.get {} bar).arrived → t.ctx k = s.ctx k))

/-! The V slots (R121 to R140, R202). -/

/-- The OVF field (R124): an exact result wraps to w bits, is clamped to the signed range, or is clamped to the unsigned range. -/
def Clause.OverflowTreatment : Prop :=
  ∀ (w : Nat) (x : Int), 0 < w →
    ((overflow 0 w x : Nat) : Int) = x % 2 ^ w ∧
    signedOf w (overflow 1 w x) = max (-(2 ^ (w - 1))) (min x (2 ^ (w - 1) - 1)) ∧
    ((overflow 2 w x : Nat) : Int) = max 0 (min x (2 ^ w - 1)) ∧
    overflow 1 w x < 2 ^ w

/-- The integer forms of VADD, VSUB, VMUL, VABS, VNEG, VMIN, VMAX, VMULH, VAVG, VSHL, VSHR and VSAR (R126): their latencies, and every active
element of D from the elements of A and B. -/
def Clause.VectorIntegers : Prop :=
  ∀ f : FmtR, isFpTy f.ty = false →
    let a (s : State) := s.velem f.ty f.a
    let b (s : State) := s.velem f.ty f.b
    let w := tyWidth f.ty
    let r (k : Nat) : Int := if f.var.getLsbD 2 ∧ k ≠ 0 then 2 ^ (k - 1) else 0
    let bits (x : Int) : Nat := (x % 2 ^ w).toNat
    ElementWise (.vadd f) f 2 (fun s k => ovf f (asOvf f (a s k) + asOvf f (b s k))) ∧
    ElementWise (.vsub f) f 2 (fun s k => ovf f (asOvf f (a s k) - asOvf f (b s k))) ∧
    ElementWise (.vmul f) f 4 (fun s k => ovf f (asOvf f (a s k) * asOvf f (b s k))) ∧
    (f.var = 0#8 ∨ f.var = 1#8 → ElementWise (.vabs f) f 2 (fun s k => ovf f (signedOf w (a s k)).natAbs)) ∧
    (f.var = 0#8 ∨ f.var = 1#8 → ElementWise (.vneg f) f 2 (fun s k => ovf f (-signedOf w (a s k)))) ∧
    ElementWise (.vmin f) f 2 (fun s k => if asU f (a s k) < asU f (b s k) then a s k else b s k) ∧
    ElementWise (.vmax f) f 2 (fun s k => if asU f (a s k) < asU f (b s k) then b s k else a s k) ∧
    ElementWise (.vmulh f) f 4 (fun s k => bits ((asU f (a s k) * asU f (b s k) + r w) / 2 ^ w)) ∧
    ElementWise (.vavg f) f 2 (fun s k => bits ((asU f (a s k) + asU f (b s k) + r 1) / 2)) ∧
    (f.var = 0#8 ∨ f.var = 1#8 ∨ f.var = 2#8 →
      ElementWise (.vshl f) f 2 (fun s k => ovf f (asOvf f (a s k) * 2 ^ (b s k % w)))) ∧
    ElementWise (.vshr f) f 2 (fun s k => if b s k % w = 0 then a s k else bits ((a s k + r (b s k % w)) / 2 ^ (b s k % w))) ∧
    ElementWise (.vsar f) f 2 (fun s k => if b s k % w = 0 then a s k else bits ((signedOf w (a s k) + r (b s k % w)) / 2 ^ (b s k % w)))

/-- The floating-point forms of VADD, VSUB, VMUL, VFMA, VMIN, VMAX, VABS and VNEG (R125, R126): their latencies, and every active element of D
from the elements of A, B and C. VABS and VNEG act on the sign bit. -/
def Clause.VectorFloats : Prop :=
  ∀ f : FmtR, isFpTy f.ty = true →
    let a (s : State) := s.velem f.ty f.a
    let b (s : State) := s.velem f.ty f.b
    let c (s : State) := s.velem f.ty f.c
    let w := tyWidth f.ty
    let fmt := fpOf f.ty
    let rnd := f.rnd.toNat
    ElementWise (.vadd f) f 4 (fun s k => fpAdd fmt rnd (a s k) (b s k)) ∧
    ElementWise (.vsub f) f 4 (fun s k => fpSub fmt rnd (a s k) (b s k)) ∧
    ElementWise (.vmul f) f 4 (fun s k => fpMul fmt rnd (a s k) (b s k)) ∧
    ElementWise (.vfma f) f 5 (fun s k => fpFma fmt rnd (f.var.getLsbD 1) (f.var.getLsbD 0) (a s k) (b s k) (c s k)) ∧
    ElementWise (.vmin f) f 2 (fun s k => fpMinMax fmt false (a s k) (b s k)) ∧
    ElementWise (.vmax f) f 2 (fun s k => fpMinMax fmt true (a s k) (b s k)) ∧
    ElementWise (.vabs f) f 2 (fun s k => if 2 ^ (w - 1) ≤ a s k then a s k - 2 ^ (w - 1) else a s k) ∧
    ElementWise (.vneg f) f 2 (fun s k => if 2 ^ (w - 1) ≤ a s k then a s k - 2 ^ (w - 1) else a s k + 2 ^ (w - 1))

/-- VAND, VOR, VXOR, VMOV, VMOVI, VSEL, VSHUF and VPERM (R126, R127, R130 to R132). -/
def Obligations.VectorMoves : Prop :=
  (∀ f : FmtR,
    let a (s : State) := s.velem f.ty f.a
    let b (s : State) := s.velem f.ty f.b
    let n := elemCount f.ty
    let pair (s : State) (j : Nat) := if j < n then a s j else b s (j - n)
    let perm (v : BitVec 8) (p : State → Nat → Nat) := f.var = v → ElementWise (.vperm f) f 3 p
    ElementWise (.vand f) f 2 (fun s k => a s k &&& b s k) ∧ ElementWise (.vor f) f 2 (fun s k => a s k ||| b s k) ∧
    ElementWise (.vxor f) f 2 (fun s k => a s k ^^^ b s k) ∧ ElementWise (.vmov f) f 1 (fun s k => a s k) ∧
    LandsElems (.vsel f) f.d 2 f.ty (fun _ _ => True) (fun s k => if (maskOf s.issuer f.msk).getLsbD k then a s k else b s k) ∧
    ElementWise (.vshuf f) f 3 (fun s k => pair s (s.velem f.ty f.c k % (2 * n))) ∧
    perm 0#8 (fun s k => a s ((k + b s 0) % n)) ∧
    perm 1#8 (fun s k => if k % 2 = 0 then a s (k / 2) else b s ((k - 1) / 2)) ∧
    perm 2#8 (fun s k => if k % 2 = 0 then a s (k / 2 + n / 2) else b s ((k - 1) / 2 + n / 2)) ∧
    perm 3#8 (fun s k => if k < n / 2 then a s (2 * k) else b s (2 * (k - n / 2))) ∧
    perm 4#8 (fun s k => if k < n / 2 then a s (2 * k + 1) else b s (2 * (k - n / 2) + 1)) ∧
    perm 5#8 (fun s k => a s (n - 1 - k)) ∧
    perm 6#8 (fun s _ => a s (b s 0 % n))) ∧
  (∀ f : FmtI, LandsElems (.vmovi f) f.d 1 f.ty (fun s k => s.active f.msk k) (fun _ _ =>
    if f.ty = 6#4 then f.imm.toNat * 2 ^ 16 else if isFpTy f.ty then f.imm.toNat else (f.imm.toInt % 2 ^ tyWidth f.ty).toNat))

/-- VCVT (R128): the elements of D that it writes, and the element of A that each is converted from. The conversions between integers clamp
when they narrow; a NaN gives 0 or the NaN of the destination; 0 gives 0. -/
def Clause.VectorConversions : Prop :=
  (∀ f : FmtR,
    let src := f.var.extractLsb' 0 4
    let ws := tyWidth src
    let wd := tyWidth f.ty
    let part := (f.var.extractLsb' 4 3).toNat
    let conv (s : State) (j : Nat) := convertElem src f.ty (f.var.getLsbD 7) f.rnd.toNat (elem ws (s.vsrc src f.a) j)
    (ws < wd → ElementWise (.vcvt f) f 4 (fun s k => conv s (part * elemCount f.ty + k))) ∧
    (ws = wd → ElementWise (.vcvt f) f 4 conv) ∧
    (wd < ws → LandsElems (.vcvt f) f.d 4 f.ty
      (fun s k => s.active f.msk k ∧ part * elemCount src ≤ k ∧ k < (part + 1) * elemCount src) (fun s k => conv s (k - part * elemCount src)))) ∧
  (∀ (src dst : BitVec 4) (u : Bool) (rnd x : Nat), isFpTy src = false → isFpTy dst = false → src.toNat < 4 → dst.toNat < 4 →
    x < 2 ^ tyWidth src →
    let y := convertElem src dst u rnd x
    if u then y = min x (2 ^ tyWidth dst - 1)
    else signedOf (tyWidth dst) y = max (-(2 ^ (tyWidth dst - 1))) (min (signedOf (tyWidth src) x) (2 ^ (tyWidth dst - 1) - 1))) ∧
  (∀ (dst : BitVec 4) (u : Bool) (rnd x : Nat), isNan32 x → (isFpTy dst = false → convertElem 6#4 dst u rnd x = 0) ∧
    convertElem 6#4 4#4 u rnd x = 0x7FC0 ∧ convertElem 6#4 5#4 u rnd x = 0x7E00)

/-- VCMP (R129): bit k of the mask says whether the condition holds on element k where k is active, and every other bit is 0. -/
def Clause.VectorCompares : Prop :=
  ∀ f : FmtR,
    let w := tyWidth f.ty
    let cond (x y : Nat) : Prop :=
      if isFpTy f.ty then fpCompare (fpOf f.ty) f.var.toNat x y = true
      else if f.var = 0#8 then x = y else if f.var = 1#8 then x ≠ y
      else if f.var = 2#8 then signedOf w x < signedOf w y else if f.var = 3#8 then signedOf w y ≤ signedOf w x
      else if f.var = 4#8 then x < y else y ≤ x
    ∀ s, Issues (.vcmp f) s → Answers (.vcmp f) s fun t => ∃ m : MaskVal, Lands (.vcmp f) s t 2 (.m (f.d.toNat % 8)) (.mask m) ∧
      ∀ k, k < 128 → (m.getLsbD k = true ↔ k < elemCount f.ty ∧ s.active f.msk k ∧ cond (s.velem f.ty f.a k) (s.velem f.ty f.b k))

/-- VRED (R133): D is written whole. The integer forms give the sum, the least or the greatest of the active elements; the floating-point forms the
top of a pairwise tree over n elements widened to FP32. -/
def Clause.VectorReductions : Prop :=
  ∀ (f : FmtR) (s : State), Issues (.vred f) s →
    let w := tyWidth f.ty
    let n := elemCount f.ty
    let a := s.velem f.ty f.a
    let u := f.var.getLsbD 3
    let x (k : Nat) : Int := if u then (a k : Int) else signedOf w (a k)
    let hi : Int := if u then 2 ^ w - 1 else 2 ^ (w - 1) - 1
    let lo : Int := if u then 0 else -(2 ^ (w - 1))
    let op := (f.var.extractLsb' 0 3).toNat
    let writes (v : Nat) := Answers (.vred f) s fun t => Lands (.vred f) s t 8 (vectorDest f.d) (.vec (BitVec.ofNat 1024 v) (~~~0#1024))
    (f.ty.toNat < 3 → ∃ r : Int, writes (r % 2 ^ 64).toNat ∧
      (op = 0 → ∃ m : Nat → Int, (∀ k, (s.active f.msk k → m k = x k) ∧ (¬ s.active f.msk k → m k = 0)) ∧ r = ((List.range n).map m).sum) ∧
      (op = 1 → r ≤ hi ∧ (∀ k, k < n → s.active f.msk k → r ≤ x k) ∧ (r = hi ∨ ∃ k, k < n ∧ s.active f.msk k ∧ r = x k)) ∧
      (op = 2 → lo ≤ r ∧ (∀ k, k < n → s.active f.msk k → x k ≤ r) ∧ (r = lo ∨ ∃ k, k < n ∧ s.active f.msk k ∧ r = x k))) ∧
    (isFpTy f.ty = true → op < 3 → ∃ tree : Nat → Nat → Nat, writes (tree (Nat.log2 n) 0) ∧
      (∀ k, k < n → (s.active f.msk k → tree 0 k = (Fp.ofBits (fpOf f.ty) (a k)).toBits fp32 0 0) ∧
        (¬ s.active f.msk k → tree 0 k = if op = 0 then 0 else if op = 1 then 0x7F800000 else 0xFF800000)) ∧
      ∀ l j, tree (l + 1) j = (if op = 0 then fpAdd fp32 f.rnd.toNat (tree l (2 * j)) (tree l (2 * j + 1))
        else fpMinMax fp32 (decide (op = 2)) (tree l (2 * j)) (tree l (2 * j + 1))))

/-- VCLMUL and VCLMULH (R134): each lane of 128 bits is the carry-less product of the low, or of the high, 64 bits of the lanes. -/
def Clause.CarrylessProducts : Prop :=
  ∀ (f : FmtR) (e : Nat), let i := if e = 0 then Instr.vclmul f else .vclmulh f
    e < 2 → ∀ s, Issues i s → Answers i s fun t => ∃ x : Vec, Lands i s t 4 (vectorDest f.d) (.vec x (~~~0#1024)) ∧
      ∀ j k, j < 8 → k < 128 →
        let a := elem 64 (s.vsrc f.ty f.a) (2 * j + e)
        let b := elem 64 (s.vsrc f.ty f.b) (2 * j + e)
        x.getLsbD (128 * j + k) = decide (((List.range 64).filter fun p => b.testBit p && decide (p ≤ k) && a.testBit (k - p)).length % 2 = 1)

/-- VRCP, VRSQ and VEXP (R135): their latency and the special inputs of every type. -/
def Clause.Estimates : Prop :=
  (∀ f : FmtR, ElementWise (.vrcp f) f 6 (fun s k => estimateRcp (fpOf f.ty) (s.velem f.ty f.a k)) ∧
    ElementWise (.vrsq f) f 6 (fun s k => estimateRsq (fpOf f.ty) (s.velem f.ty f.a k)) ∧
    ElementWise (.vexp f) f 6 (fun s k => estimateExp (fpOf f.ty) (s.velem f.ty f.a k))) ∧
  (∀ fmt, (fmt = fp32 ∨ fmt = fp16 ∨ fmt = bf16) →
    let inf := fmt.infBits false
    let neg := 2 ^ (fmt.eb + fmt.mb)
    estimateRcp fmt 0 = inf ∧ estimateRcp fmt neg = neg + inf ∧ estimateRcp fmt inf = 0 ∧ estimateRcp fmt (neg + inf) = neg ∧
    estimateRsq fmt 0 = inf ∧ estimateRsq fmt neg = neg + inf ∧ estimateRsq fmt inf = 0 ∧ estimateRsq fmt (neg + inf) = fmt.nan ∧
    estimateExp fmt 0 = (fmt.bias * 2 ^ fmt.mb) ∧ estimateExp fmt neg = (fmt.bias * 2 ^ fmt.mb) ∧ estimateExp fmt inf = inf ∧
    estimateExp fmt (neg + inf) = 0 ∧
    (∀ x, inf < x → x < neg → estimateRcp fmt x = fmt.nan ∧ estimateRsq fmt x = fmt.nan ∧ estimateExp fmt x = fmt.nan) ∧
    (∀ x, neg < x → x < neg + inf → estimateRsq fmt x = fmt.nan))

/-- VDUP (R140): it computes what its partner in the other V slot computes, from the partner's sources under the partner's mask, and lands it in its
own D after the partner's latency. -/
def Obligations.Duplication : Prop :=
  ∀ (f : FmtR) (p : Instr) (s : State), Issues (.vdup f) s → (issueOf (.vdup f) s).partner = some p → isPartner p = true →
    ∃ (n : Nat) (v : Result), latency p = .fixed n ∧
      (let img (k : Nat) := ((sources p).map fun u => s.vsrc (sourceType p) u.name).getD k 0#1024
       vectorResult p (img 0) (img 1) (img 2) (maskOf s.issuer (maskField p)) = some v) ∧
      Answers (.vdup f) s fun t => Lands (.vdup f) s t n (vdupDest p f.d) v

/-- VLD and VGATH (R136, R137): through a SPAD handle the active elements land on issue + 6 or issue + 8, each as its bytes stand; through any other an
access starts; with no active element no access is made and nothing of D is written. The checks are their precise traps: one of the whole span for
VLD, and element by element for VGATH. -/
def Obligations.VectorLoads : Prop :=
  ∀ (f : FmtX) (s : State) (gather : Bool),
    let i := if gather then Instr.vgath f else .vld f
    let h := s.issuer.handle f.h.toNat
    let size := tyBytes f.ty
    let off := s.src f.b + BitVec.ofInt 64 (s.cur.step.toNat * f.stride.toInt * unitBytes f.sunit)
    let at_ (k : Nat) : Word := if gather then off + BitVec.ofInt 64 (signedOf (tyWidth f.ty) (s.velem f.ty f.c k)) else off + BitVec.ofNat 64 (k * size)
    let es : List Elem := ((List.range (elemCount f.ty)).filter fun k => (maskOf s.issuer f.msk).getLsbD k).map fun k => ⟨k, at_ k, size⟩
    let check := if gather then elemsTrap (issueOf i s) h 0 (readTrap s.issuer (issueOf i s) h) es
      else (spanTrap (issueOf i s) h 0 es).orElse fun _ => es.findSome? (readTrap s.issuer (issueOf i s) h)
    let free := check = none
    Issues i s →
    (∀ tr, check = some tr → Traps i s tr) ∧
    (es = [] → if h.v ∧ h.kind = .spad then Answers i s fun t => Lands i s t (if gather then 8 else 6) (.v f.d.toNat) (.vec 0#1024 0#1024)
      else Answers i s fun t => Pends i s t [.v f.d.toNat] (.value (s.now + 1) [.vec 0#1024 0#1024])) ∧
    (es ≠ [] → free → h.kind = .spad → Answers i s fun t => ∃ x m : Vec,
      Lands i s t (if gather then 8 else 6) (.v f.d.toNat) (.vec x m) ∧ ∀ k, k < elemCount f.ty →
        if (maskOf s.issuer f.msk).getLsbD k = true then elem (tyWidth f.ty) m k = 2 ^ tyWidth f.ty - 1 ∧
          elem (tyWidth f.ty) x k = leNat (Memory.read s.mem (spadPlace (coreOf s.cur.key) (h.base + at_ k).toNat) size)
        else elem (tyWidth f.ty) m k = 0) ∧
    (es ≠ [] → free → h.kind ≠ .spad → ∃ r : OpRec, r.isOf i s ∧ Becomes i s
      ((s.withAccess (s.accessFor r .load h es (List.replicate (size * es.length) 0#8) [] 3#3 false)).withIssuer
        (s.issuer.withPending r [.v f.d.toNat] (.access s.nextId))))

/-- VST and VSCAT (R136 to R138): the bytes of the active elements that no walk suppresses go to their places, in ascending order of the elements:
through a SPAD handle they are in memory after the issue and every other byte reads as before; through an MCAST handle they land 24 cycles later;
through any other an access starts. -/
def Obligations.VectorStores : Prop :=
  ∀ (f : FmtX) (s : State) (scatter : Bool),
    let i := if scatter then Instr.vscat f else .vst f
    let h := s.issuer.handle f.h.toNat
    let size := tyBytes f.ty
    let off := s.src f.b + BitVec.ofInt 64 (s.cur.step.toNat * f.stride.toInt * unitBytes f.sunit)
    let at_ (k : Nat) : Word := if scatter then off + BitVec.ofInt 64 (signedOf (tyWidth f.ty) (s.velem f.ty f.c k)) else off + BitVec.ofNat 64 (k * size)
    let es : List Elem := ((List.range (elemCount f.ty)).filter fun k => (maskOf s.issuer f.msk).getLsbD k).map fun k => ⟨k, at_ k, size⟩
    let check := if scatter then elemsTrap (issueOf i s) h 1 (writeTrap s.issuer (issueOf i s) h) es
      else (spanTrap (issueOf i s) h 1 es).orElse fun _ => es.findSome? (writeTrap s.issuer (issueOf i s) h)
    let free := check = none
    let left := unsuppressed s.mem s.issuer s.cur.key h es
    let data := left.flatMap fun e => leBytes (s.velem f.ty f.d e.elem) size
    Issues i s →
    (∀ tr, check = some tr → Traps i s tr) ∧
    (free → left = [] → Becomes i s s) ∧
    (free → h.kind = .spad → Answers i s fun t => Stores s t (reached (coreOf s.cur.key) h left) data) ∧
    (free → left ≠ [] → h.kind = .mcast → ∃ m : Mcast, m.due = s.now + 24 ∧ m.pos = s.issuer.pos.toNat ∧
      m.cores = mcastCores s s.cur.key h.tgt ∧ m.landed = false ∧
      m.bytes = (left.flatMap fun e => (List.range e.len).map fun b => (h.base + e.off).toNat + b).zip data ∧
      Becomes i s { s with nextId := s.nextId + 1, mcasts := s.mcasts.set s.nextId m }) ∧
    (free → left ≠ [] → h.kind ≠ .spad → h.kind ≠ .mcast → ∃ r : OpRec, r.isOf i s ∧
      Becomes i s (s.withAccess (s.accessFor r .store h left data [] 3#3 (h.kind = .global))))

/-- VAMO (R202): one atomic for each active element, in ascending order. Through a SPAD handle the old values land on issue + 10, and no byte outside
the elements is written, and what the context accesses after an ordered one it reads afresh; through any other an access starts. What lands where no
element is active, and when, is the model's choice (log entry 51). -/
def Obligations.VectorAtomics : Prop :=
  ∀ (f : FmtA) (s : State), Issues (.vamo f) s →
    let h := s.issuer.handle f.h.toNat
    let w := tyWidth f.ty
    let i := issueOf (.vamo f) s
    let at_ (k : Nat) : Word := s.src f.b + BitVec.ofInt 64 (signedOf w (s.velem f.ty f.c k))
    let es : List Elem := ((List.range (elemCount f.ty)).filter fun k => (maskOf s.issuer f.msk).getLsbD k).map fun k => ⟨k, at_ k, w / 8⟩
    let align (e : Elem) : Option Trap :=
      if (h.base + e.off).toNat % e.len ≠ 0 then some (accessTrap i codeAtomicAlign (h.base + e.off) e.elem 0#8) else none
    let check := elemsTrap i h 2 (fun e => (align e).orElse fun _ => readTrap s.issuer i h e) es
    let free := es ≠ [] ∧ check = none
    let demoted (c : Ctx) : Ctx := if f.scope = 4#3 ∧ s.issuer.sysok = false then { c with scdem := true } else c
    (∀ tr, check = some tr → Traps (.vamo f) s tr) ∧
    (es = [] → ∃ r : OpRec, r.isOf (.vamo f) s ∧ Becomes (.vamo f) s (s.withIssuer (demoted
      (if h.v ∧ h.kind = .spad then { s.issuer with landings := s.issuer.landings ++ [⟨r, s.now + 10, .v f.d.toNat, .vec 0#1024 0#1024⟩] }
       else s.issuer.withPending r [.v f.d.toNat] (.value (s.now + 1) [.vec 0#1024 0#1024]))))) ∧
    (free → h.kind = .spad → Memory.wf s.mem = true → Answers (.vamo f) s fun t =>
      (∀ a, a ∉ reached (coreOf s.cur.key) h es → Memory.get t.mem a = Memory.get s.mem a) ∧ OnlyCur ({ s with mem := t.mem, free := s.free + f.ord.toNat }.withIssuer t.issuer) t ∧
      ∃ (r : OpRec) (x m : Vec), r.isOf (.vamo f) s ∧
        t.issuer = demoted { s.issuer with landings := s.issuer.landings ++ [⟨r, s.now + 10, .v f.d.toNat, .vec x m⟩],
                                           fresh := if f.ord = 1#1 then s.free + 1 else s.issuer.fresh } ∧
        ∀ k, k < elemCount f.ty → (¬ s.active f.msk k → elem w m k = 0) ∧ (s.active f.msk k → elem w m k = 2 ^ w - 1) ∧
          ((reached (coreOf s.cur.key) h es).Nodup → s.active f.msk k →
            let p := spadPlace (coreOf s.cur.key) (h.base + at_ k).toNat
            let old := leNat (Memory.read s.mem p (w / 8))
            elem w x k = old ∧ leNat (Memory.read t.mem p (w / 8)) = atomicNew f.aop.toNat w old (s.velem f.ty f.d k) 0 % 2 ^ w)) ∧
    (free → h.kind ≠ .spad → ∃ r : OpRec, r.isOf (.vamo f) s ∧ Becomes (.vamo f) s
      ((s.withAccess (s.accessFor r (.atomic f.aop (f.ty = 6#4)) h es (es.flatMap fun e => leBytes (s.velem f.ty f.d e.elem) (w / 8)) []
        (if f.scope = 4#3 ∧ s.issuer.sysok = false then 3#3 else f.scope) (h.kind = .global))).withIssuer
        (demoted { s.issuer.withPending r [.v f.d.toNat] (.access s.nextId) with
          holdAll := if f.ord = 1#1 then s.issuer.holdAll ++ [⟨s.nextId, 3#3⟩] else s.issuer.holdAll })))

/-- QPUSH and QPOP (R139, R161, R162, R182): a push appends an entry of its issue cycle, of the elements of A that the binding's formats hold, to its
queue; a pop claims the oldest unclaimed entry under the ordinal of the queue, and its D is empty until the claim is filled. -/
def Obligations.Queues : Prop :=
  (∀ (f : FmtR) (s : State), Issues (.qpush f) s →
    let q := (f.var.extractLsb' 0 3).toNat
    let b := s.issuer.qbind q
    let n := min (capacity (qbSource b)) (capacity (qbSink b))
    ∃ e : QEntry, e.n = n ∧ e.src = qbSource b ∧ e.appended = s.now ∧ e.taken = false ∧
      leNat e.image = (s.vsrc 0#4 f.a).toNat % 2 ^ imageBits (qbSource b) n ∧
      Becomes (.qpush f) s (s.withIssuer { s.issuer with
        queues := s.issuer.queues.set q { s.issuer.queue q with entries := (s.issuer.queue q).entries ++ [e] } })) ∧
  (∀ (f : FmtR) (s : State), Issues (.qpop f) s →
    let q := (f.var.extractLsb' 0 3).toNat
    let x := s.issuer.queue q
    ∃ r : OpRec, r.isOf (.qpop f) s ∧ Becomes (.qpop f) s (s.withIssuer
      { s.issuer.withPending r [.v f.d.toNat] (.claim q (x.base + x.claimed) x.ordinal (s.issuer.qbind q) s.now) with
        queues := s.issuer.queues.set q { x with claimed := x.claimed + 1, ordinal := x.ordinal + 1#40 } }))

/-! The M slot and the C slots (R164 to R181, R185 to R193). -/

/-- MLDW and MLDW.S (R172 to R175): the tile at BASE + off is to be read into the latch. MLDW.S takes the metadata word at MPC, whose positions
rise in every group and whose reserved bits are 0, or METADATA_ORDER is its precise trap; MPC then moves on by 32 bytes. -/
def Clause.WeightLoads : Prop :=
  ∀ (f : FmtM) (s : State) (sparse : Bool) (w : BitVec 256),
    let i := if sparse then Instr.mldwS f else .mldw f
    let q := selectedQuads s.issuer f.qsel
    let h := s.issuer.handle (f.a.toNat % 16)
    let off := s.src f.b + BitVec.ofInt 64 (s.cur.step.toNat * f.mstr.toInt * 64)
    let n := tileBytes (unitShape s.issuer.fuse q) f.ty
    let free := checkHandle h off n 0 = none ∧ readTrap s.issuer (issueOf i s) h ⟨0, off, n⟩ = none
    let pos (g t : Nat) := w.toNat / 2 ^ (12 * g + 3 * t) % 8
    let rises (g : Nat) := pos g 0 < pos g 1 ∧ pos g 1 < pos g 2 ∧ pos g 2 < pos g 3
    let orderTrap (g : Nat) : Trap :=
      { code := codeMetadataOrder, idx := BitVec.ofNat 16 g, slots := slotBit (slotFor s i), va := s.issuer.mpc.setWidth 52 }
    let entry (m : MOp) := m.quads = q ∧ m.fuse = s.issuer.fuse ∧ m.kind = h.kind ∧ m.addr = (h.base + off).toNat
    Issues i s → (sparse = true → fetchedMeta s s.cur.key = some w) →
    (∀ code, checkHandle h off n 0 = some code → Traps i s (accessTrap (issueOf i s) code (h.base + off) 0 0#8)) ∧
    (∀ tr, checkHandle h off n 0 = none → readTrap s.issuer (issueOf i s) h ⟨0, off, n⟩ = some tr → Traps i s tr) ∧
    (sparse = false → free → Enters i s n entry fun _ c => c) ∧
    (sparse = true → free → ∀ g, g < 16 → ¬ rises g → (∀ k, k < g → rises k) → Traps i s (orderTrap g)) ∧
    (sparse = true → free → (∀ g, g < 16 → rises g) → w.extractLsb' 192 64 ≠ 0#64 → Traps i s (orderTrap 16)) ∧
    (sparse = true → free → (∀ g, g < 16 → rises g) → w.extractLsb' 192 64 = 0#64 → Enters i s n (fun m => entry m ∧ m.words = w)
      fun _ c => { c with mpc := (s.issuer.mpc + 32#64) &&& 0x000FFFFFFFFFFFE0#64 })

/-- The units of the matrix array (R164) and the bytes of their tiles and rows (R161, R172, R177): Kc, Nw and the rows by the fusion, and a line of n
elements in each format, SE blocks of 16 elements taking 8, 12 and 18 bytes. -/
def Clause.MatrixShapes : Prop :=
  (∀ q : BitVec 4, (unitShape 0#2 q).kc = 32 ∧ (unitShape 0#2 q).nw = 32 ∧ (unitShape 0#2 q).rows = 32 ∧
    (unitShape 1#2 q).kc = 32 ∧ (unitShape 1#2 q).nw = 64 ∧ (unitShape 1#2 q).rows = 32 ∧
    (unitShape 2#2 q).kc = 64 ∧ (unitShape 2#2 q).nw = 64 ∧ (unitShape 2#2 q).rows = 64) ∧
  (∀ n, lineBytes 0#4 n = n ∧ lineBytes 4#4 n = 2 * n ∧ lineBytes 5#4 n = 2 * n ∧ lineBytes 8#4 (16 * n) = 8 * n ∧
    lineBytes 9#4 (16 * n) = 12 * n ∧ lineBytes 10#4 (16 * n) = 18 * n) ∧
  (∀ u ty, tileBytes u ty = u.nw * lineBytes ty u.kc ∧ rowBytes u ty false = lineBytes ty u.kc ∧ rowBytes u ty true = lineBytes ty (2 * u.kc))

/-- MMA, MMAS, MZERO and MFUSE (R171, R177 to R179): a row count outside 1 to the rows of the unit is MATRIX_RANGE; the activation rows at BASE + off
are to be read; MFUSE also changes CTXCFG.FUSE on issue + 1. -/
def Clause.MatrixProducts : Prop :=
  (∀ (f : FmtM) (s : State) (i : Instr), (i = .mma f ∨ i = .mmas f) →
    let q := selectedQuads s.issuer f.qsel
    let u := unitShape s.issuer.fuse q
    let h := s.issuer.handle (f.a.toNat % 16)
    let off := s.src f.b + BitVec.ofInt 64 (s.cur.step.toNat * f.mstr.toInt * 64)
    let fmt := pendingFormat s.issuer q (f.tgt.toNat % 4)
    let nr := s.src f.c
    let n := nr.toNat * rowBytes u f.ty fmt.2
    let inside := 1 ≤ nr.toInt ∧ nr.toInt ≤ u.rows
    let free := inside ∧ checkHandle h off n 0 = none ∧ readTrap s.issuer (issueOf i s) h ⟨0, off, n⟩ = none
    Issues i s →
    (¬ inside → Traps i s { code := codeMatrixRange, slots := slotBit (slotFor s i) }) ∧
    (∀ code, inside → checkHandle h off n 0 = some code → Traps i s (accessTrap (issueOf i s) code (h.base + off) 0 0#8)) ∧
    (∀ tr, inside → checkHandle h off n 0 = none → readTrap s.issuer (issueOf i s) h ⟨0, off, n⟩ = some tr → Traps i s tr) ∧
    (free → Enters i s n (fun m => m.quads = q ∧ m.fuse = s.issuer.fuse ∧ m.kind = h.kind ∧ m.addr = (h.base + off).toNat ∧
      m.rows = nr.toNat ∧ m.lfmt = fmt.1 ∧ m.lsparse = fmt.2) fun _ c => c)) ∧
  (∀ (f : FmtM) (s : State), Issues (.mzero f) s → Enters (.mzero f) s 0 (fun m => m.quads = selectedQuads s.issuer f.qsel) fun _ c => c) ∧
  (∀ (f : FmtM) (s : State), Issues (.mfuse f) s → ∃ r : OpRec, r.isOf (.mfuse f) s ∧ Enters (.mfuse f) s 0 (fun _ => True)
    fun _ c => { c with landings := c.landings ++ [⟨r, s.now + 1, .none, .act (.fuse (f.tgt.extractLsb' 0 2))⟩] })

/-- MDRAIN and MDRAIN.V (R171, R181): a range of rows outside the unit, and for MDRAIN.V more than 16 entries, is MATRIX_RANGE; MDRAIN.V marks the
vector registers of its entries empty and takes their ordinals of the queue. -/
def Clause.MatrixDrains : Prop :=
  ∀ (f : FmtM) (s : State) (vec : Bool),
    let i := if vec then Instr.mdrainV f else .mdrain f
    let q := f.tgt.toNat
    let u := unitShape s.issuer.fuse (selectedQuads s.issuer f.qsel)
    let st := if f.b = 0x80#8 then 0#64 else s.src f.b
    let nr := s.src f.c
    let cap := capacity (qbSink (s.issuer.qbind q))
    let k := (nr.toNat * u.nw + cap - 1) / cap
    let inside := 1 ≤ nr.toInt ∧ 0 ≤ st.toInt ∧ st.toInt + nr.toInt ≤ u.rows ∧ (vec = true → k ≤ 16)
    let entry (m : MOp) := m.quads = selectedQuads s.issuer f.qsel ∧ m.rows = nr.toNat ∧ m.start = st.toNat ∧ m.qb = s.issuer.qbind q
    Issues i s →
    (¬ inside → Traps i s { code := codeMatrixRange, slots := slotBit (slotFor s i) }) ∧
    (inside → vec = false → Enters i s 0 entry fun _ c => c) ∧
    (inside → vec = true → Enters i s 0 (fun m => entry m ∧ m.ordinal = (s.issuer.queue q).ordinal) fun m c =>
      (List.range k).foldl (fun c e => c.markEmpty m.op.order (.v ((4 * (f.mstr.extractLsb' 0 4).toNat + e) % 64)))
        { c with queues := c.queues.set q { s.issuer.queue q with ordinal := (s.issuer.queue q).ordinal + BitVec.ofNat 40 k } })

/-- A copy descriptor (R187, R188): the lowest word that breaks its rule gives the IDX of COPY_DESC, 1 for the sizes, 2 to 4 for the words that
the form does not use, 5 for an index list that leaves the program area. -/
def Clause.CopyDescriptors : Prop :=
  ∀ (form : CopyForm) (at_ : Bool) (d0 d1 d2 d3 : Word),
    let len0 := (d0.extractLsb' 0 32).toNat
    let n1 := (d0.extractLsb' 32 16).toNat
    let n2 := (d0.extractLsb' 48 16).toNat
    let flat := form = .cpy ∨ form = .cfill ∨ form.isRed = true
    let list := form = .cgath ∨ form = .cscat
    let w0 := len0 ≠ 0 ∧ n1 ≠ 0 ∧ n2 ≠ 0 ∧ (flat → n1 = 1) ∧ (form ≠ .cpy3 → n2 = 1) ∧ len0 * n1 * n2 < 2 ^ 32 ∧
      len0 * n1 * n2 % form.elem = 0
    let w1 := flat → d1 = 0#64
    let w2 := (list → d2.extractLsb' 32 32 = 0#32) ∧ (¬ list → form ≠ .cpy3 → d2 = 0#64)
    let w3 := at_ = false → d3 = 0#64
    let w4 := list → (d1.extractLsb' 0 32).toNat + 4 * n1 ≤ 0x2F0000
    (¬ w0 → descFault form at_ d0 d1 d2 d3 = some 1) ∧ (w0 → ¬ w1 → descFault form at_ d0 d1 d2 d3 = some 2) ∧
    (w0 → w1 → ¬ w2 → descFault form at_ d0 d1 d2 d3 = some 3) ∧ (w0 → w1 → w2 → ¬ w3 → descFault form at_ d0 d1 d2 d3 = some 4) ∧
    (w0 → w1 → w2 → w3 → ¬ w4 → descFault form at_ d0 d1 d2 d3 = some 5) ∧ (w0 → w1 → w2 → w3 → w4 → descFault form at_ d0 d1 d2 d3 = none)

/-- The copy instructions and their .AT forms (R185 to R192): COPY_DESC, then the traps of the handles, the barrier and the walk; where none is
taken the engine has accepted the copy, its token is empty, and nothing is moved yet. The order of these traps is log entry 22. -/
def Clause.Copies : Prop :=
  ∀ (form : CopyForm) (at_ : Bool) (f : FmtC) (s : State),
    let i := copyInstr form at_ f
    let core := coreOf s.cur.key
    let hd := s.issuer.handle f.dh.toNat
    let hs : Handle := if form = .cfill then {} else s.issuer.handle f.sh.toNat
    let len := s.src f.len
    let adv : Word := if isLinear form at_ && f.cstep = 1#1 then s.cur.step.setWidth 64 * len else 0#64
    let doff := s.src f.doff + adv
    let soff := s.src f.soff + (if form = .cfill then 0#64 else adv)
    let desc := (len + BitVec.ofNat 64 (32 * (if f.cstep = 1#1 then s.cur.step.toNat else 0))).toNat
    let w (k : Nat) : Word := BitVec.ofNat 64 (leNat (Memory.read s.mem (spadPlace core (desc + 8 * k)) 8))
    let odd := doff.toNat % form.elem ≠ 0 ∨ (form ≠ .cfill ∧ soff.toNat % form.elem ≠ 0)
    let bad0 := odd ∨ if isLinear form at_ then 2 ^ 32 ≤ len.toNat ∨ len.toNat % form.elem ≠ 0 else desc % 8 ≠ 0 ∨ 0x2F0000 < desc + 32
    let fault := if isLinear form at_ then none else descFault form at_ (w 0) (w 1) (w 2) (w 3)
    let sh : Shape := if isLinear form at_ then { len0 := len.toNat } else descShape (w 0) (w 1) (w 2) (w 3)
    let total := sh.len0 * sh.n1 * sh.n2
    let idx := if form.isIndexed then indexList s.mem core sh else []
    let ht := if total = 0 then none else copyHandleTrap (issueOf i s) form sh hd hs doff.toInt soff.toInt
    let wt := if total = 0 then none else copyWalkTrap s.issuer (issueOf i s) form sh idx hd hs doff.toInt soff.toInt
    let bar := f.bar.toNat
    let claimed := f.ben = 0#1 ∨ (s.issuer.barFirst ≤ bar ∧ bar < s.issuer.barFirst + s.issuer.barCount)
    let e := engineOf core (slotFor s i)
    let descTrap (k : Nat) : Trap := { code := codeCopyDesc, idx := BitVec.ofNat 16 k, slots := slotBit (slotFor s i) }
    Issues i s →
    (bad0 → Traps i s (descTrap 0)) ∧ (∀ k, ¬ bad0 → fault = some k → Traps i s (descTrap k)) ∧
    (¬ bad0 → fault = none →
      (∀ tr, ht = some tr → Traps i s tr) ∧
      (ht = none → ¬ claimed → Traps i s { code := codeBarrierRange, idx := BitVec.ofNat 16 bar, slots := slotBit (slotFor s i) }) ∧
      (∀ tr, ht = none → claimed → wt = some tr → Traps i s tr) ∧
      (ht = none → claimed → wt = none → ∃ c : Copy, c.key = s.cur.key ∧ c.cid = s.issuer.cid ∧ c.op.isOf i s ∧ c.engine = e ∧ c.form = form ∧
        c.dk = hd.kind ∧ c.sk = hs.kind ∧ c.dst = (hd.base + doff).toNat ∧ c.src = (hs.base + soff).toNat ∧ c.tgt = hd.tgt ∧ c.fill = soff ∧
        c.len0 = sh.len0 ∧ c.n1 = sh.n1 ∧ c.n2 = sh.n2 ∧ c.d1 = sh.d1 ∧ c.s1 = sh.s1 ∧ c.d2 = sh.d2 ∧ c.s2 = sh.s2 ∧ c.idx = idx ∧
        c.tok = f.tok.toNat ∧ c.bar = (if f.ben = 1#1 then some bar else none) ∧
        c.launch = (if at_ then some (max sh.t (s.now + 1)) else none) ∧ c.launched = !at_ ∧ c.prog = 0 ∧ c.fault = none ∧ s.now + 1 ≤ c.ready ∧
        Becomes i s ({ s with nextId := s.nextId + 1, free := s.free + 1, copies := s.copies.set s.nextId c,
                              engines := s.engines.set e { s.engine e with last := core % 8, acceptedAt := some s.now } }.withIssuer
          ((logCopy s.issuer c.op c.desc).markEmpty c.op.order (.s f.tok.toNat)))))

/-! System registers, selection and records (R78 to R81, R111, R281, R282). -/

/-- SRMOV (R111): the read form lands the register of the issuer, or of the context that VTSEL selected, on issue + 1; the write form writes it on
issue + 1. QCFG (R183) writes a binding on issue + 1. -/
def Clause.RegisterMoves : Prop :=
  (∀ f : FmtY, LandsS (.srmovRead f) f.d 1 fun s =>
    let k := s.issuer.vtsel.getD s.cur.key
    sysReg k s.now (if k = s.cur.key then { s.ctx k with slots := s.cur.slots } else s.ctx k) (f.sf.extractLsb' 0 12).toNat) ∧
  (∀ (f : FmtY) (s : State), Issues (.srmovWrite f) s → Answers (.srmovWrite f) s fun t => Lands (.srmovWrite f) s t 1 .none
    (.act (.srWrite (s.issuer.vtsel.getD s.cur.key) (f.sf.extractLsb' 0 12).toNat (s.src f.a)))) ∧
  (∀ (f : FmtY) (s : State), Issues (.qcfg f) s → Answers (.qcfg f) s fun t => ∃ v : Word, Lands (.qcfg f) s t 1 .none
    (.act (.qcfg (f.d.toNat % 8) v)) ∧ v.extractLsb' 32 32 = (if f.a = 0x80#8 then 0#32 else (s.src f.a).extractLsb' 0 32) ∧
      v.extractLsb' 8 4 = f.msk ∧ v.extractLsb' 4 4 = f.ty ∧ v.extractLsb' 0 3 = f.sf.extractLsb' 0 3 ∧ v.extractLsb' 12 20 = 0#20 ∧ v.getLsbD 3 = false)

/-- The system registers of R78 as a context outside SERVICE reads them, with the fields of CTXCFG, CTXSTAT, LWI, LWN and CMAPCFG (R79, R80, R291). -/
def Clause.SystemRegisterReads : Prop :=
  ∀ (key now : Nat) (c : Ctx), c.aside = none →
    let r := sysReg key now c
    r 0x000 = c.pc ∧ r 0x001 = c.bseq.setWidth 64 ∧ r 0x002 = c.mpc ∧ r 0x005 = c.trapcause ∧ r 0x006 = c.trapinfo ∧
    r 0x008 = BitVec.ofNat 64 (0x2F0000 + key % 8 * 0x44000) ∧ r 0x009 = c.vthead.setWidth 64 ∧ r 0x00A = c.vtcount.setWidth 64 ∧
    r 0x010 = c.enctr.setWidth 64 ∧ r 0x018 = BitVec.ofNat 64 now ∧
    (r 0x003).extractLsb' 0 3 = (match c.mode with
      | .unbound => 0#3 | .run => 1#3 | .service => 2#3 | .stopping => 3#3 | .parked => 4#3 | .saved => 5#3 | .halted => 6#3) ∧
    (r 0x003).getLsbD 3 = false ∧ (r 0x003).getLsbD 4 = c.scdem ∧ (r 0x003).getLsbD 5 = c.ensat ∧ (r 0x003).getLsbD 6 = c.walk.act ∧
    (r 0x003).getLsbD 7 = c.phase.held ∧ (r 0x003).extractLsb' 8 56 = 0#56 ∧
    (r 0x004).extractLsb' 0 3 = c.pri ∧ (r 0x004).getLsbD 3 = false ∧ (r 0x004).extractLsb' 4 4 = c.quads ∧ (r 0x004).extractLsb' 8 2 = c.fuse ∧
    (r 0x004).getLsbD 12 = c.sysok ∧ (r 0x004).getLsbD 13 = c.det ∧ (r 0x004).getLsbD 16 = c.lock ∧ (r 0x004).extractLsb' 17 7 = c.pos ∧
    (r 0x004).extractLsb' 24 8 = c.cid ∧
    (r 0x011).extractLsb' 0 32 = c.walk.iter ∧ (r 0x011).extractLsb' 36 3 = c.walk.ndecl ∧ (r 0x011).getLsbD 39 = c.walk.dph ∧
    (r 0x012).extractLsb' 0 32 = c.walk.trip ∧ (r 0x012).extractLsb' 32 32 = c.walk.nrun ∧
    (r 0x013).extractLsb' 0 32 = c.walk.off ∧ (r 0x013).extractLsb' 32 21 = c.walk.ncell ∧ (r 0x013).extractLsb' 55 2 = c.walk.lp ∧
    (r 0x013).extractLsb' 57 3 = c.walk.cell ∧ (r 0x013).extractLsb' 60 4 = c.walk.wh ∧
    (∀ n, n < 4 → r (0x20 + n) = c.lpreg n) ∧ (∀ n, n < 8 → r (0x28 + n) = c.qbind n) ∧
    ∀ n, n < 7 → r (0x30 + n) = (c.sticky n).w ∧ (r (0x38 + n)).extractLsb' 0 32 = (c.sticky n).n ∧ (r (0x38 + n)).getLsbD 32 = (c.sticky n).idle ∧
      (r (0x38 + n)).extractLsb' 33 31 = 0#31

/-- The writes of R78: the bits of each register that are written, and that nothing else of the context is. VTBASE, ENCTR and TIME are not
writable; the flags of CTXSTAT clear where a 1 is written; a written binding restarts its queue's ordinal (R162); a write of LPn from SERVICE or a service core
moves the iteration of an active walk on it with it, and keeps its frame (R301). In SERVICE, PC, BSEQ and the sticky S and B slots are those that the entry set aside, to read and to
write (R111). -/
def Clause.SystemRegisterWrites : Prop :=
  (∀ (c : Ctx) (v : Word) (svc : Bool), c.aside = none →
    let w := fun n => writeSysReg c n v svc
    w 0x000 = { c with pc := v &&& 0x000FFFFFFFFFFFF8#64 } ∧ w 0x001 = { c with bseq := v.setWidth 48 } ∧
    w 0x002 = { c with mpc := v &&& 0x000FFFFFFFFFFFE0#64 } ∧
    w 0x003 = { c with ensat := if v.getLsbD 5 then false else c.ensat, scdem := if v.getLsbD 4 then false else c.scdem } ∧
    w 0x004 = { c with pri := v.extractLsb' 0 3 } ∧ w 0x005 = { c with trapcause := v &&& 0x7FFFF#64 } ∧
    w 0x006 = { c with trapinfo := v &&& 0xFFFFFF7F#64 } ∧ w 0x008 = c ∧ w 0x009 = { c with vthead := v.extractLsb' 0 8 } ∧
    w 0x00A = { c with vtcount := v.extractLsb' 0 9 } ∧ w 0x010 = c ∧ w 0x018 = c ∧
    w 0x011 = { c with walk := { c.walk with iter := v.extractLsb' 0 32 } } ∧ w 0x012 = { c with walk := { c.walk with trip := v.extractLsb' 0 32 } } ∧
    w 0x013 = { c with walk := { c.walk with off := v.extractLsb' 0 32, ncell := v.extractLsb' 32 21, lp := v.extractLsb' 55 2,
                                             cell := v.extractLsb' 57 3, wh := v.extractLsb' 60 4 } } ∧
    (∀ n, n < 4 → svc = false → v ≠ 0#64 → w (0x20 + n) = { c with lp := c.lp.set n v }) ∧
    (∀ n, n < 4 → svc = false → v = 0#64 → w (0x20 + n) = { c with lp := c.lp.set n v, frames := c.frames.set n { c.frame n with act := false } }) ∧
    (∀ n, n < 8 → ∃ b : Word, (∀ k, k < 64 → b.getLsbD k = (v.getLsbD k && decide (k < 12 ∧ k ≠ 3 ∨ 32 ≤ k))) ∧
      w (0x28 + n) = { c with qb := c.qb.set n b, queues := c.queues.set n { c.queue n with ordinal := 0#40 } }) ∧
    ∀ n, n < 7 → w (0x30 + n) = { c with slots := c.slots.set n { c.sticky n with w := v } } ∧
      w (0x38 + n) = { c with slots := c.slots.set n { c.sticky n with idle := v.getLsbD 32, n := v.extractLsb' 0 32 } }) ∧
  (∀ (c : Ctx) (v : Word) (n : Nat), n < 4 →
    let set : Ctx := { c with lp := c.lp.set n v }
    writeSysReg c (0x20 + n) v true = (if c.walk.act = true ∧ c.walk.lp.toNat = n then { set with walk := { c.walk with iter := v.extractLsb' 0 32 } }
      else if v = 0#64 then { set with frames := c.frames.set n { c.frame n with act := false } } else set)) ∧
  (∀ (key now : Nat) (c : Ctx) (a : SetAside), c.aside = some a →
    let r := sysReg key now c
    let slot (n : Nat) (k : Sticky) := r (0x30 + n) = k.w ∧ (r (0x38 + n)).extractLsb' 0 32 = k.n ∧ (r (0x38 + n)).getLsbD 32 = k.idle ∧
      (r (0x38 + n)).extractLsb' 33 31 = 0#31
    r 0x000 = a.pc ∧ r 0x001 = a.bseq.setWidth 64 ∧ slot 0 a.s0w ∧ slot 6 a.s6w ∧ (∀ n, 1 ≤ n → n < 6 → slot n (c.sticky n)) ∧
    ∀ n, n ≠ 0x000 → n ≠ 0x001 → n ≠ 0x30 → n ≠ 0x36 → n ≠ 0x37 → n ≠ 0x38 → n ≠ 0x3E → r n = sysReg key now { c with aside := none } n) ∧
  ∀ (c : Ctx) (a : SetAside) (v : Word) (svc : Bool), c.aside = some a →
    let w := fun n => writeSysReg c n v svc
    let keeps (b : SetAside) : Ctx := { c with aside := some b }
    w 0x000 = keeps { a with pc := v &&& 0x000FFFFFFFFFFFF8#64 } ∧ w 0x001 = keeps { a with bseq := v.setWidth 48 } ∧
    w 0x30 = keeps { a with s0w := { a.s0w with w := v } } ∧ w 0x36 = keeps { a with s6w := { a.s6w with w := v } } ∧
    w 0x38 = keeps { a with s0w := { a.s0w with idle := v.getLsbD 32, n := v.extractLsb' 0 32 } } ∧
    w 0x3E = keeps { a with s6w := { a.s6w with idle := v.getLsbD 32, n := v.extractLsb' 0 32 } } ∧
    ∀ n, n < 0x40 → n ≠ 0x000 → n ≠ 0x001 → n ≠ 0x30 → n ≠ 0x36 → n ≠ 0x37 → n ≠ 0x38 → n ≠ 0x3E →
      w n = { writeSysReg { c with aside := none } n v svc with aside := some a }

/-- VTSEL, RDREC and WRREC (R281, R282): a context that may not be selected is VTSEL_DENIED; a word of the selected Vitrine lands on issue + 6, and a
word index from 18,432 on reads 0; a write takes effect on issue + 1, and its effect keeps the fields that WRREC may not write. -/
def Clause.RecordAccess : Prop :=
  (∀ (f : FmtY) (s : State), Issues (.vtsel f) s → (coreOf s.cur.key < 2304 → s.cur.key % 8 < 4) →
    let v := s.src f.a
    let k := (v.toNat / 4) * 8 + v.toNat % 4
    let t := s.ctx k
    let own := v = ~~~0#64 ∨ (coreOf s.cur.key < 2304 ∧ v.toNat = 4 * coreOf s.cur.key + s.cur.key % 8)
    let other := 2304 ≤ coreOf s.cur.key ∧ v.toNat < 9216 ∧ t.mode = .parked ∧ (s.issuer.cid = 0xFF#8 ∨ t.cid = s.issuer.cid)
    (own → Answers (.vtsel f) s fun u => Lands (.vtsel f) s u 1 .none (.act (.vtsel none))) ∧
    (v ≠ ~~~0#64 → other → Answers (.vtsel f) s fun u => Lands (.vtsel f) s u 1 .none (.act (.vtsel (some k)))) ∧
    (¬ own → ¬ other → Traps (.vtsel f) s { code := codeVtselDenied, slots := slotBit (slotFor s (.vtsel f)) })) ∧
  (∀ f : FmtY, LandsS (.rdrec f) f.d 6 fun s =>
    let k := s.issuer.vtsel.getD s.cur.key
    let n := (s.src f.a).toNat
    if n < 18432 ∧ (k = s.cur.key ∨ (s.ctx k).mode = .parked) then vitrineWord s.mem k n else 0#64) ∧
  (∀ (f : FmtY) (s : State), Issues (.wrrec f) s → Answers (.wrrec f) s fun t => Lands (.wrrec f) s t 1 .none
    (.act (.wrrec (s.issuer.vtsel.getD s.cur.key) (s.src f.a).toNat (s.src f.b)))) ∧
  (∀ (s : State) (key n : Nat) (v : Word), n < 18432 → Memory.wf s.mem = true →
    let t := applyAll (writeVitrine key n v s) s
    let old := vitrineWord s.mem key n
    let may (b : Nat) := n < 2048 → (n % 8 = 7 → False) ∧ (n % 8 = 1 → b = 11) ∧ (n % 8 = 2 → b < 32 ∨ 48 ≤ b) ∧ (n % 8 = 3 → 18 ≤ b)
    t = { s with mem := t.mem } ∧
    (∀ b, b < 64 → (may b → (vitrineWord t.mem key n).getLsbD b = v.getLsbD b) ∧ (¬ may b → (vitrineWord t.mem key n).getLsbD b = old.getLsbD b)) ∧
    ∀ a, (a < vitrinePlace key n ∨ vitrinePlace key n + 8 ≤ a) → Memory.get t.mem a = Memory.get s.mem a)

/-! Drains, waits and cache maintenance (R198, R284 to R286). -/

/-- DRAIN in its three forms (R198): .r waits for the writes outside the own scratchpad that are not performed, but at CTX for none; .a discards the
core's lines of the scope and holds later reads behind the reads in flight; both wait and then acquire. SYS acts at PART where it is not allowed, and
sets SCDEM (R80). -/
def Clause.Drains : Prop :=
  ∀ (f : FmtY) (s : State),
    let scope := f.sf.extractLsb' 0 3
    let acts := if scope = 4#3 ∧ s.issuer.sysok = false then 3#3 else scope
    let c : Ctx := if scope = 4#3 ∧ s.issuer.sysok = false then { s.issuer with scdem := true } else s.issuer
    let writes := if acts = 0#3 then [] else openWrites s s.cur.key
    let core := coreOf s.cur.key
    let kept := (s.core core).vcache.filter fun l => !drainsLine s.issuer.cid acts l
    (Issues (.drainR f) s → ∃ r : OpRec, r.isOf (.drainR f) s ∧
      Becomes (.drainR f) s (s.withIssuer { c with wait := some (.drain r acts false writes s.now) })) ∧
    (Issues (.drainA f) s → ∃ r : OpRec, r.isOf (.drainA f) s ∧
      Becomes (.drainA f) s (({ s with cores := s.cores.set core { s.core core with vcache := kept } } : State).withIssuer
        { c with wait := some (.drain r acts false [] (s.now + 3)), holdLoads := openReads s s.cur.key acts })) ∧
    (Issues (.drainBoth f) s → ∃ r : OpRec, r.isOf (.drainBoth f) s ∧
      Becomes (.drainBoth f) s (s.withIssuer { c with wait := some (.drain r acts true writes (s.now + 3)) }))

/-- WAITT and YIELD (R285, R286): the next issue waits until the target, and no less than a cycle; the turn passes to another context. WAITT_RELEASE:
once PTB has reached the target the wait is over. -/
def Clause.TimedWaits : Prop :=
  (∀ (f : FmtY) (s : State), Issues (.waitt f) s → ∃ r : OpRec, r.isOf (.waitt f) s ∧
    Becomes (.waitt f) s (s.withIssuer { s.issuer with wait := some (.until (max (s.src f.a).toNat (s.now + 1)) (some r)) })) ∧
  (∀ (f : FmtY) (s : State), Issues (.yield f) s → Becomes (.yield f) s (s.withIssuer { s.issuer with yielded := true })) ∧
  (∀ (key t : Nat) (r : OpRec) (s : State), (s.ctx key).wait = some (.until t (some r)) →
    (t ≤ s.now → exec (.waittRelease key) s = .next { s with ctxs := s.ctxs.set key { s.ctx key with wait := none } }) ∧
    (s.now < t → exec (.waittRelease key) s = .next s))

/-- CINV and CFLUSH (R284): a length of 0 does nothing but demote SYS; else CINV discards the lines of the range in the core's caches, and at PART
and SYS in the slices of their homes, and the next issue waits for the end of the maintenance, on a free cycle (log entry 2). What a slice holds is in
its frames (log entry 13). -/
def Clause.CacheMaintenance : Prop :=
  ∀ (f : FmtY) (s : State),
    let scope := f.sf.extractLsb' 0 3
    let c : Ctx := if scope = 4#3 ∧ s.issuer.sysok = false then { s.issuer with scdem := true } else s.issuer
    let acts := if scope = 4#3 ∧ s.issuer.sysok = false then 3#3 else scope
    let homed (l : CacheLine) (d : Nat) : Prop :=
      ∃ r, rangeOf (s.quarter (partOf s.pkg (coreOf s.cur.key))) (l.va * 128) = some r ∧ homeOf r (l.va * 128) = d
    let a := (s.src f.a).toNat
    let n := (s.src f.b).toNat % 2 ^ 32
    let core := s.core (coreOf s.cur.key)
    let out (l : CacheLine) (size : Nat) : Prop := l.cid = effectiveCid s.issuer.cid a ∧ l.window = false ∧
      l.va * size < (a + n + 127) / 128 * 128 ∧ a / 128 * 128 < (l.va + 1) * size
    let waits (u : State) (i : Instr) := ∃ t0, s.now + 1 ≤ t0 ∧
      Becomes i s ({ u with free := s.free + 1 }.withIssuer { c with wait := some (.until t0 none) })
    (Issues (.cinv f) s → (n = 0 → Answers (.cinv f) s fun t => t.issuer = c ∧ OnlyCur (s.withIssuer t.issuer) t) ∧
      (n ≠ 0 → ∃ (x : Core) (ds : Sparse Die), x = { core with icache := x.icache, vcache := x.vcache } ∧
        (∀ l, l ∈ x.icache ↔ l ∈ core.icache ∧ ¬ out l 64) ∧ (∀ l, l ∈ x.vcache ↔ l ∈ core.vcache ∧ ¬ out l 128) ∧
        (acts.toNat < 3 → ds = s.dies) ∧ (∀ d, ds.get {} d = { s.die d with slice := (ds.get {} d).slice }) ∧
        (∀ d l, 3 ≤ acts.toNat → (l ∈ (ds.get {} d).slice ↔ l ∈ (s.die d).slice ∧ ¬ (out l 128 ∧ homed l d))) ∧
        waits { s with cores := s.cores.set (coreOf s.cur.key) x, dies := ds } (.cinv f))) ∧
    (Issues (.cflush f) s → (n = 0 → Answers (.cflush f) s fun t => t.issuer = c ∧ OnlyCur (s.withIssuer t.issuer) t) ∧ (n ≠ 0 → waits s (.cflush f)))

/-! Energy, snapshots, phases and overwriting loops as instructions (R289 to R297, R304, R305, R318, R333). -/

/-- ENRD, ENRD.IDLE and ENCLR (R318): the count of the context, or the idle charge of its tenant in the partition, lands on issue + 2; ENCLR lands
ENSAT and the count, and clears both. -/
def Clause.EnergyReads : Prop :=
  (∀ f : FmtY, LandsS (.enrd f) f.d 2 fun s => s.issuer.enctr.setWidth 64) ∧
  (∀ f : FmtY, LandsS (.enrdIdle f) f.d 2 fun s => (s.block (partOf s.pkg (coreOf s.cur.key)) s.issuer.cid.toNat).pidle.setWidth 64) ∧
  (∀ (f : FmtY) (s : State), Issues (.enclr f) s → ∃ (r : OpRec) (v : Word), r.isOf (.enclr f) s ∧ v.extractLsb' 0 48 = s.issuer.enctr ∧
    v.extractLsb' 48 15 = 0#15 ∧ v.getLsbD 63 = s.issuer.ensat ∧ Becomes (.enclr f) s (s.withIssuer { s.issuer with
      landings := s.issuer.landings ++ [⟨r, s.now + 2, .s f.d.toNat, .word v⟩], enctr := 0#48, ensat := false }))

/-- SNAP and STEP (R304, R305): SNAP lands a refusal where checkpoints are off, a snapshot is in flight or another trigger of the partition was taken
on this cycle, and else the generation, and the snapshot's
tick is 4,096 cycles on; STEP counts on issue + 1 for the member at position 0, and else does nothing. -/
def Clause.SnapshotInstructions : Prop :=
  (∀ (f : FmtY) (s : State), Issues (.snap f) s →
    let q := partOf s.pkg (coreOf s.cur.key)
    let b := s.block q s.issuer.cid.toNat
    (b.hbctl.getLsbD 0 = false → Answers (.snap f) s fun t => Lands (.snap f) s t 2 (.s f.d.toNat) (.word 0x8000000200000000#64)) ∧
    let won := ∃ x, x ∈ s.blocks ∧ x.1 / 256 = q ∧ x.2.state = 1#2 ∧ x.2.snap.tick = s.now + 4096
    (b.hbctl.getLsbD 0 = true → b.state ≠ 0#2 ∨ won → Answers (.snap f) s fun t =>
      Lands (.snap f) s t 2 (.s f.d.toNat) (.word 0x8000000100000000#64)) ∧
    (b.hbctl.getLsbD 0 = true → b.state = 0#2 → ¬ won →
      let sn : Snap := { tick := s.now + 4096, inc := (s.src f.a).getLsbD 0, gen := b.gen }
      let u : State := { s with blocks := s.blocks.set (q * 256 + s.issuer.cid.toNat) { b with state := 1#2, snap := sn } }
      Answers (.snap f) s fun t => Lands (.snap f) u t 2 (.s f.d.toNat) (.word (b.gen.setWidth 64)))) ∧
  (∀ (f : FmtY) (s : State), Issues (.step f) s →
    (s.issuer.pos = 0#7 → Answers (.step f) s fun t => Lands (.step f) s t 1 .none (.act .countStep)) ∧
    (s.issuer.pos ≠ 0#7 → Becomes (.step f) s s))

/-- PHASE and PHASE.OFF where no copy is held (R333): the phase that was held commits; PHASE then holds the next one, with its capture, unless a walk
is active or the log overflowed. -/
def Obligations.Phases : Prop :=
  ∀ (f : FmtY) (s : State), s.issuer.phase.done = [] → (∀ x, x ∈ s.copies → x.2.key = s.cur.key → x.2.phase = none) →
    let p := s.issuer.phase
    let off : Phase := { p with held := false, heldLog := p.log, log := [], overflow := false }
    let cap : PhaseCapture := { s := s.issuer.s, emptyS := s.issuer.emptyS, lp := s.issuer.lp, frames := s.issuer.frames, order := s.issuer.order,
                                mpc := s.issuer.mpc, slots := s.issuer.slots, pc := s.issuer.pc, repleft := s.issuer.repleft }
    let on : Phase := { p with held := true, heldLog := p.log, log := [], overflow := false, rollbacks := 0, number := p.number + 1,
                               first := s.issuer.bseq, cap := cap }
    (Issues (.phase f) s → Answers (.phase f) s fun t => t.cur.phased = true ∧ OnlyCur (s.withIssuer { s.issuer with
      phase := if s.issuer.walk.act = true ∨ p.overflow = true then off else on }) t) ∧
    (Issues (.phaseOff f) s → Becomes (.phaseOff f) s (s.withIssuer { s.issuer with phase := off }))

/-- LOOPW (R290, R292, R301): the traps of the count, of an active walk, of the range and of the handle; a count of 0 goes to the exit; any other opens
the overwriting frame and the walk at the last iteration, and clears the cover bits of its cells. -/
def Clause.OverwritingLoops : Prop :=
  ∀ (f : FmtL) (s : State), Issues (.loopw f) s →
    let i := Instr.loopw f
    let c := s.issuer
    let n := f.lp.toNat
    let cnt := s.src f.a
    let off := s.src f.b
    let len := s.src f.c
    let cs := 2 ^ f.cell.toNat
    let nc := len.toNat / cs
    let h := c.handle f.wh.toNat
    let exit_ := pcMask (s.cur.pc + f.disp.signExtend 64 * 8#64)
    let next := s.cur.pc + BitVec.ofNat 64 s.cur.len
    let walkState (why : BitVec 8) : Trap := { code := codeWalkState, why := why, slots := slotBit (slotFor s i) }
    let short := cnt.toNat < 2 ^ 32
    let shut : Frame := { c.frame n with act := false }
    let idle : Walk := { c.walk with trip := 0#32, nrun := 0#32 }
    let ended : Walk := { c.walk with act := false, dph := false, decl := [] }
    let shaped := len ≠ 0#64 ∧ off.toNat % cs = 0 ∧ len.toNat % cs = 0 ∧ len.toNat ≤ 2 ^ 20 * cs ∧ off.toNat < 2 ^ 32
    (¬ short → Traps i s { code := codeLoopRange, slots := slotBit (slotFor s i) }) ∧
    (short → c.walk.act = true → ¬ (c.walk.lp = f.lp ∧ cnt = 0#64) → Traps i s (walkState 0x79#8)) ∧
    (short → c.walk.act = true → c.walk.lp = f.lp → cnt = 0#64 → Answers i s fun t => t.cur.target = some exit_ ∧ t.cur.loopIssued = true ∧
      OnlyCur (s.withIssuer { c with frames := c.frames.set n shut, walk := ended }) t) ∧
    (short → c.walk.act = false → ¬ shaped → Traps i s (walkState 0x78#8)) ∧
    (short → c.walk.act = false → shaped → ∀ code, checkHandle h off len.toNat 1 = some code →
      Traps i s (accessTrap (issueOf i s) code (h.base + off) 0 0#8)) ∧
    (short → c.walk.act = false → shaped → checkHandle h off len.toNat 1 = none → h.kind = .mcast →
      Traps i s (accessTrap (issueOf i s) codeHandlePerm (h.base + off) 0 0#8)) ∧
    (short → c.walk.act = false → shaped → checkHandle h off len.toNat 1 = none → h.kind ≠ .mcast → cnt = 0#64 → Answers i s fun t =>
      t.cur.target = some exit_ ∧ t.cur.loopIssued = true ∧
      OnlyCur (s.withIssuer { c with lp := c.lp.set n 0#64, frames := c.frames.set n shut, walk := idle }) t) ∧
    (short → c.walk.act = false → shaped → checkHandle h off len.toNat 1 = none → h.kind ≠ .mcast → cnt ≠ 0#64 → Answers i s fun t =>
      t.cur.target = s.cur.target ∧ t.cur.loopIssued = true ∧ OnlyCur ({ s with mem := t.mem }.withIssuer t.issuer) t ∧
      t.issuer.lp = c.lp.set n (cnt - 1#64) ∧ t.issuer.frame n = { act := true, beg := next, fin := exit_, ow := true } ∧
      t.issuer.order.head? = some n ∧
      t.issuer.walk = { act := true, wh := f.wh, cell := f.cell, lp := f.lp, ncell := BitVec.ofNat 21 nc, off := off.setWidth 32, dph := true,
                        ndecl := 0#3, iter := (cnt - 1#64).setWidth 32, nrun := 0#32, trip := cnt.setWidth 32, decl := [] } ∧
      (Memory.wf s.mem = true → ∀ j, j < nc → covered t.mem s.cur.key j = false) ∧
      (Memory.wf s.mem = true → ∀ j, nc ≤ j → covered t.mem s.cur.key j = covered s.mem s.cur.key j) ∧
      (Memory.wf s.mem = true → ∀ a, (a < coverPlace s.cur.key 0 ∨ coverPlace s.cur.key 0 + (nc + 7) / 8 ≤ a) → Memory.get t.mem a = Memory.get s.mem a))

/-- WDECL (R293 to R295): the WHY of DECL_ALIGN for each broken rule, in their order; a declaration joins the set, and the last one ends the
declaration phase; where every declared cell is covered already, the end test follows at once. -/
def Clause.Declarations : Prop :=
  (∀ (f : FmtY) (s : State), s.issuer.mode = .run → legalityTrap s.view (opsAlone (.wdecl f) s) (slotBit (slotFor s (.wdecl f))) 0#7 = none →
    waitsForSource s.view (opsAlone (.wdecl f) s) = false →
    refused s s.cur.key (freeEngines s) [⟨slotFor s (.wdecl f), s.cur.sw, s.cur.step, .wdecl f⟩] = false →
    s.issuer.walk.act = true → s.issuer.walk.dph = true → s.issuer.walk.ndecl = 4#3 →
    Traps (.wdecl f) s { code := codeDeclAlign, why := 0x74#8, slots := slotBit (slotFor s (.wdecl f)) }) ∧
  ∀ (f : FmtY) (s : State), Issues (.wdecl f) s →
    let i := Instr.wdecl f
    let c := s.issuer
    let cs := 2 ^ c.walk.cell.toNat
    let o := (s.src f.a).toNat
    let n := (s.src f.b).toNat
    let err (why : BitVec 8) := Traps i s { code := codeDeclAlign, why := why, slots := slotBit (slotFor s i) }
    let open_ := c.walk.act = true ∧ c.walk.dph = true ∧ c.mode ≠ .service
    let aligned := o % cs = 0
    let sized := n ≠ 0 ∧ n % cs = 0
    let inside := o + n ≤ c.walk.ncell.toNat * cs
    let decl := c.walk.decl ++ [(o / cs, (o + n) / cs)]
    let last := f.sf.getLsbD 0
    let joined : Ctx := { c with walk := { c.walk with ndecl := c.walk.ndecl + 1#3, decl := decl, dph := !last } }
    (¬ open_ → err 0x73#8) ∧ (open_ → ¬ aligned → err 0x70#8) ∧
    (open_ → aligned → ¬ sized → err 0x71#8) ∧ (open_ → aligned → sized → ¬ inside → err 0x72#8) ∧
    (open_ → aligned → sized → inside →
      let seen := ∀ r, r ∈ decl → ∀ j, r.1 ≤ j → j < r.2 → covered s.mem s.cur.key j = true
      (¬ (last = true ∧ seen) → Becomes i s (s.withIssuer joined)) ∧
      (last = true → seen → Answers i s fun t => t.cur.target = some (joined.walkStep false).2 ∧
        OnlyCur (s.withIssuer (joined.walkStep false).1) t))

/-- The end test of an overwriting frame (R295): the cells that an iteration which ran has declared are covered, and every other byte and cover bit is as it was; at the last
iteration the walk ends, its declaration phase and declarations with it, and the next issue comes from the exit; else the next lower
iteration begins in its declaration phase, with no declaration. NRUN counts the iterations that ran. -/
def Clause.WalkSteps : Prop :=
  (∀ (key : Nat) (ran : Bool) (s : State),
    let c := s.ctx key
    let declared (j : Nat) := ∃ r, r ∈ c.walk.decl ∧ r.1 ≤ j ∧ j < r.2
    let t := applyAll (walkEndTest key ran s) s
    t = { s with mem := t.mem, cur := t.cur, ctxs := s.ctxs.set key (c.walkStep ran).1 } ∧ t.cur.target = some (c.walkStep ran).2 ∧
    (ran = false → t.mem = s.mem) ∧ (ran = true → Memory.wf s.mem = true →
      (∀ j, (declared j → covered t.mem key j = true) ∧ (¬ declared j → covered t.mem key j = covered s.mem key j)) ∧
      ∀ a, (∀ j, declared j → a ≠ coverPlace key j) → Memory.get t.mem a = Memory.get s.mem a)) ∧
  ∀ (c : Ctx) (ran : Bool),
    let n := c.walk.lp.toNat
    let t := c.walkStep ran
    let nrun := if ran then c.walk.nrun + 1#32 else c.walk.nrun
    (c.lpreg n = 0#64 → t.2 = (c.frame n).fin ∧ t.1 = { c with walk := { c.walk with act := false, dph := false, decl := [], nrun := nrun },
                                                               frames := c.frames.set n { c.frame n with act := false } }) ∧
    (c.lpreg n ≠ 0#64 → t.2 = (c.frame n).beg ∧ t.1.lp = c.lp.set n (c.lpreg n - 1#64) ∧ t.1.frames = c.frames ∧
      t.1.walk = { c.walk with nrun := nrun, decl := [], iter := (c.lpreg n - 1#64).setWidth 32, dph := true, ndecl := 0#3 })

/-! Traps, service, resumption and the end of a task (R231, R256 to R265, R279, R280, R287). -/

/-- HALT (R287, R333) of a context with no copy held: it is HALTED, its phase has committed, and the HALT of a child moves its parent's counts (R204,
R205); where it was the last, the parent's JOIN arrives 2 cycles after the later of its issue and this one. In SERVICE, HALT ends the task with the code of TRAPCAUSE. -/
def Clause.Halts : Prop :=
  ∀ (f : FmtY) (s : State), Issues (.halt f) s →
    let p := s.issuer.phase
    let off : Phase := { p with held := false, heldLog := p.log, log := [], overflow := false }
    (s.issuer.mode = .run → p.done = [] → (∀ x, x ∈ s.copies → x.2.key = s.cur.key → x.2.phase = none) →
      (s.issuer.child = none → Becomes (.halt f) s (s.withIssuer { s.issuer with mode := .halted, phase := off })) ∧
      (∀ q, s.issuer.child = some q → q ≠ s.cur.key →
        let due (p : Pending) : Pending := match p.src with
          | .join since none => { p with src := .join since (some (max since s.now + 2)) }
          | _ => p
        let parent : Ctx := { s.ctx q with jcnt := (s.ctx q).jcnt - 1#16, done := (s.ctx q).done + 1#16,
                                           pending := if (s.ctx q).jcnt = 1#16 then (s.ctx q).pending.map due else (s.ctx q).pending }
        Becomes (.halt f) s (({ s with ctxs := s.ctxs.set q parent } : State).withIssuer
          { s.issuer with mode := .halted, phase := off, child := none }))) ∧
    (∀ task, s.issuer.mode = .service → s.issuer.task = some task →
      exec (.halt f) s = .next (applyAll (endTask task (s.issuer.trapcause.extractLsb' 0 16) (issuedAt (.halt f) s)) (issuedAt (.halt f) s)))

/-- A task ends (R231, R232): its launch is completing with the status of the first end, no deque holds its children, and its contexts are stopping
to be unbound, or unbound; every other context and all of memory stand. -/
def Clause.TaskEnd : Prop :=
  ∀ (task : Nat) (code : BitVec 16) (s : State) (l : Launch), s.ctxs.wf = true → s.launches.wf = true → s.launches.find task = some l →
    let t := applyAll (endTask task code s) s
    t.launches = s.launches.set task { l with status := if l.ended then l.status else code, ended := true, stage := .completing } ∧
    t.mem = s.mem ∧ (∀ core, core ∈ l.cores → ∀ ch, ch ∈ (t.core core).deque → ch.task ≠ task) ∧
    (∀ k, (s.ctx k).task = some task → (s.ctx k).mode ≠ .unbound → (t.ctx k).mode = .unbound ∨ ((t.ctx k).mode = (s.ctx k).mode ∨
      (t.ctx k).mode = .stopping) ∧ ∃ st, (t.ctx k).stop = some st ∧ st.kind = .unbind) ∧
    ∀ k, (s.ctx k).task ≠ some task → t.ctx k = s.ctx k

/-- TRAP (R279): the issue commits, and the context then stops: SWTRAP with IDX the low 16 bits of A, its pc, BSEQ and registers as they stand. -/
def Clause.SoftwareTraps : Prop :=
  ∀ (f : FmtY) (s : State), Issues (.trap f) s → s.issuer.stop = none → Answers (.trap f) s fun t =>
    let c := settleWait s s.cur.key s.issuer
    let heavy := if s.issuer.aside.isSome then true else decide (s.issuer.svcent = 0#64)
    let info := trapInfo { code := codeSwtrap, idx := (s.src f.a).extractLsb' 0 16, slots := slotBit 0 }
    let st : Stop := ⟨.software, s.now, [], false, s.issuer.aside.isSome, true, 0#52, none⟩
    t.mem = s.mem ∧
    t.issuer = { c with mode := .stopping, trapcause := trapCause false heavy false codeSwtrap, trapinfo := info, steal := none, stop := some st }

/-- Taking a precise trap (R81, R232, R256 to R259, R264, R265) of a context with no stop in progress: it is STOPPING with t the cycle before the
issue, its TRAPCAUSE and TRAPINFO give the trap, and everything else of it is as it stood before this cycle's landings, PC, BSEQ and REPLEFT with it,
but that a steal is abandoned. Where this cycle's landings changed nothing outside the contexts that stop, no byte of memory changes, and no context
but the members of its lockstep gang, which stop with it; what they changed is as it was. A trap parks where SVCENT is 0 or the handler took it
(R262). -/
def Clause.PreciseTraps : Prop :=
  ∀ (key : Nat) (tr : Trap) (s : State),
    let before (k : Nat) := settleWait s k (ctxBefore s k)
    let c := before key
    let heavy := if c.aside.isSome then decide (tr.code ≠ codeResumeBad) else decide (c.svcent = 0#64)
    let peers := lockPeers s key
    let st : Stop := ⟨.precise, s.now - 1, [], decide (c.mode = .halted), c.aside.isSome, true, tr.va, tr.slot⟩
    let cause := trapCause false heavy false tr.code
    let stopped : Ctx := { c with mode := .stopping, trapcause := cause, trapinfo := trapInfo tr, steal := none, stop := some st }
    let t := applyAll (takePrecise key tr s) s
    c.stop = none →
      done (takePrecise key tr) s = .next t ∧ t.now = s.now ∧
      ((∀ k b, k = key ∨ k ∈ peers → beforeNow s k = some b → b.undo = []) → t.mem = s.mem ∧ t.ctx key = stopped ∧
        (∀ k, k ≠ key → k ∉ peers → t.ctx k = s.ctx k) ∧
        (∀ k, k ∈ peers → (before k).stop = none → (t.ctx k).mode = .stopping ∧ (t.ctx k).pc = (before k).pc ∧
          (t.ctx k).trapcause = 0#64 ∧ (t.ctx k).trapinfo = 0#64)) ∧
      (∀ b a old, peers = [] → beforeNow s key = some b → b.undo = [.bytes a old] → t.mem = Memory.write s.mem a old ∧ t.ctx key = stopped)

/-- TRAPCAUSE and TRAPINFO (R81): CODE, DEFERRED, HEAVY and SUP; SLOTS, WHY and IDX; the reserved bits are 0. -/
def Clause.TrapRegisters : Prop :=
  ∀ (sup heavy deferred : Bool) (tr : Trap),
    let a := trapCause sup heavy deferred tr.code
    let b := trapInfo tr
    a.extractLsb' 0 16 = tr.code ∧ a.getLsbD 16 = deferred ∧ a.getLsbD 17 = heavy ∧ a.getLsbD 18 = sup ∧ a.extractLsb' 19 45 = 0#45 ∧
    b.extractLsb' 0 7 = tr.slots ∧ b.getLsbD 7 = false ∧ b.extractLsb' 8 8 = tr.why ∧ b.extractLsb' 16 16 = tr.idx ∧ b.extractLsb' 32 32 = 0#32

/-- The entry into SERVICE and the return (R53, R261, R263): PC, BSEQ, REPLEFT, the sticky S and B slots and s56 to s63 are set aside; the handler
starts at SVCENT with TRAPCAUSE, TRAPINFO and the address in s56 to s58, s59 to s63 0, and idle S and B slots. Leaving gives back what was set aside. -/
def Clause.ServiceEntryAndReturn : Prop :=
  ∀ (c : Ctx) (va : BitVec 52), c.aside = none →
    let t := enterService c va
    (t.mode = .service ∧ t.pc = c.svcent ∧ t.repleft = 0 ∧ t.bseq = c.bseq ∧ t.vtsel = none ∧ t.sreg 56 = c.trapcause ∧ t.sreg 57 = c.trapinfo ∧
      t.sreg 58 = va.setWidth 64 ∧ (∀ k, 59 ≤ k → k < 64 → t.sreg k = 0#64) ∧ (∀ k, k < 56 → t.sreg k = c.sreg k) ∧ t.sticky 0 = {} ∧ t.sticky 6 = {} ∧
      (∀ k, k ≠ 0 → k ≠ 6 → t.sticky k = c.sticky k) ∧ t.emptyS.extractLsb' 56 8 = 0#8 ∧ t.v = c.v ∧ t.h = c.h ∧ t.acc = c.acc) ∧
    ∀ n, let u := leaveService t n
      u.mode = (if c.parkedFromHalted then .halted else .run) ∧ u.pc = c.pc ∧ u.bseq = c.bseq ∧ u.repleft = c.repleft ∧ u.sticky 0 = c.sticky 0 ∧
      u.sticky 6 = c.sticky 6 ∧ (∀ k, k < 64 → u.sreg k = c.sreg k) ∧ u.emptyS = c.emptyS ∧ u.aside = none ∧ u.vtcount = 0#9

/-- RESUME (R270, R277, R280): a queue that fails validation is RESUME_BAD with the index and WHY of the first failure; with no record left the context
leaves SERVICE, to issue no earlier than issue + 2; a lockstep member waits for its gang. The form of a service core and RESUME.END land a status
on issue + 2 and act on the selected context. -/
def Clause.Resumption : Prop :=
  (∀ (f : FmtY) (s : State), Issues (.resume f) s →
    (∀ k why, validate s s.cur.key = some (k, why) → Traps (.resume f) s
      { code := codeResumeBad, why := why, idx := BitVec.ofNat 16 k, slots := slotBit (slotFor s (.resume f)) }) ∧
    (s.issuer.vtcount = 0#9 → s.issuer.lock = false → Answers (.resume f) s fun t =>
      t.issuer = { leaveService s.issuer (s.now + 2) with kept := [], heldReads := [] } ∧ OnlyCur (s.withIssuer t.issuer) t) ∧
    (s.issuer.vtcount = 0#9 → s.issuer.lock = true → Answers (.resume f) s fun t => OnlyCur (s.withIssuer t.issuer) t ∧ t.issuer.mode = .stopping ∧
      t.issuer.held = true ∧ t.issuer.resumed = true ∧ t.issuer.resumeAt = s.now + 1 ∧ t.issuer.aside = none)) ∧
  (∀ (f : FmtY) (s : State), Issues (.resumeServiceCore f) s →
    let k := s.issuer.vtsel.getD s.cur.key
    let t0 := s.ctx k
    (t0.mode ≠ .parked → Answers (.resumeServiceCore f) s fun t =>
      Lands (.resumeServiceCore f) s t 2 (.s f.d.toNat) (.word 0x8000000000000000#64)) ∧
    (∀ n why, t0.mode = .parked → validate s k = some (n, why) → n < 2 ^ 16 → Answers (.resumeServiceCore f) s fun t =>
      Lands (.resumeServiceCore f) s t 2 (.s f.d.toNat) (.word (BitVec.ofNat 64 (2 ^ 63 + n * 2 ^ 16 + why.toNat * 2 ^ 8)))) ∧
    (t0.mode = .parked → k ≠ s.cur.key → t0.vtcount = 0#9 → t0.lock = false → Answers (.resumeServiceCore f) s fun t =>
      Lands (.resumeServiceCore f)
        { s with ctxs := s.ctxs.set k { leaveService t0 (s.now + 17) with kept := [], heldReads := [] } } t 2 (.s f.d.toNat) (.word 0#64))) ∧
  (∀ (f : FmtY) (s : State), Issues (.resumeEnd f) s →
    let k := s.issuer.vtsel.getD s.cur.key
    let t0 := s.ctx k
    let v := (s.src f.a).extractLsb' 0 16
    (t0.mode ≠ .parked → Answers (.resumeEnd f) s fun t => Lands (.resumeEnd f) s t 2 (.s f.d.toNat) (.word 0x8000000000000000#64)) ∧
    (∀ task, t0.mode = .parked → t0.task = some task → s.issuer.task ≠ some task → s.ctxs.wf = true → Answers (.resumeEnd f) s fun t => ∃ u, Lands (.resumeEnd f)
      u t 2 (.s f.d.toNat) (.word 0#64) ∧ u = applyAll (endTask task (if v = 0#16 then t0.trapcause.extractLsb' 0 16 else v) (issuedAt (.resumeEnd f) s))
        (issuedAt (.resumeEnd f) s)))

/-! Events of the device (R26, R86, R87, and the chapters): each statement says in which states an event has its effect, and what the effect is. -/

/-- FIXED_LATENCY_LANDING (R84, R86, R87): the results of a context that are due are written, in their order: the last one due to a register
stands in it, unless a newer operation is its pending writer; a register that no result is due to stands. An action takes effect on the cycle its
result is due. Nothing outside the context changes by a register write. -/
def Clause.FixedLatencyLandings : Prop :=
  ∀ (key : Nat) (s : State),
    let c := s.ctx key
    let due := c.landings.filter fun l => decide (l.due ≤ s.now)
    c.flows = true → due ≠ [] → c.writerS.wf = true → c.writerV.wf = true →
    ((∀ l, l ∈ due → ∀ a, l.val ≠ .act a) → Answers (.fixedLatencyLanding key) s fun t =>
      let d := t.ctx key
      t = { s with ctxs := s.ctxs.set key d, before := t.before } ∧ d.landings = c.landings.filter (fun l => decide (s.now < l.due)) ∧
      d.pending = c.pending ∧ d.mode = c.mode ∧ d.pc = c.pc ∧ d.bseq = c.bseq ∧ d.acc = c.acc ∧ d.queues = c.queues ∧ d.lp = c.lp ∧
      (∀ r, (∀ l, l ∈ due → l.dest ≠ .s r) → d.sreg r = c.sreg r) ∧ (∀ r, (∀ l, l ∈ due → l.dest ≠ .v r) → d.vreg r = c.vreg r) ∧
      (∀ r, (∀ l, l ∈ due → l.dest ≠ .o r) → d.oreg r = c.oreg r) ∧ (∀ r, (∀ l, l ∈ due → l.dest ≠ .m r) → d.mreg r = c.mreg r) ∧
      (∀ r, (∀ l, l ∈ due → l.dest ≠ .h r) → d.handle r = c.handle r) ∧
      ∀ a l b, due = a ++ l :: b → (∀ x, x ∈ b → x.dest ≠ l.dest) →
        (∀ r w, l.dest = .s r → l.val = .word w → r ≠ 0 → (c.writer l.dest = none → d.sreg r = w) ∧
          (∀ n, c.writer l.dest = some n → n ≤ l.op.order → (∀ x, x ∈ a → x.dest ≠ l.dest) →
            d.sreg r = w ∧ d.emptyS.getLsbD r = false ∧ d.writer l.dest = none) ∧
          (∀ n, c.writer l.dest = some n → (∀ x, x ∈ due → x.op.order < n) → d.sreg r = c.sreg r)) ∧
        (∀ r x m, l.dest = .v r → l.val = .vec x m → (∀ y, y ∈ a → y.dest ≠ l.dest) → c.writer l.dest = none →
          d.vreg r = (c.vreg r &&& ~~~m) ||| (x &&& m)) ∧
        (∀ r x, l.dest = .m r → l.val = .mask x → d.mreg r = x) ∧ (∀ r h, l.dest = .h r → l.val = .handle h → d.handle r = h)) ∧
    (∀ l, due = [l] →
      (∀ n v, l.val = .act (.srWrite key n v) → Answers (.fixedLatencyLanding key) s fun t => ∃ d : Ctx,
        d = { c with landings := c.landings.filter (fun l => decide (s.now < l.due)), portAt := s.now, portS := d.portS, portV := d.portV } ∧
        t = { s with ctxs := t.ctxs, before := t.before } ∧ t.ctx key = writeSysReg d n v (c.mode = .service)) ∧
      (∀ h, l.val = .act (.revoke h) → Answers (.fixedLatencyLanding key) s fun t => t.mem = s.mem ∧
        (t.ctx key).handle h = { c.handle h with v := false } ∧ ∀ k, k ≠ h → (t.ctx key).handle k = c.handle k) ∧
      (∀ f, l.val = .act (.fuse f) → Answers (.fixedLatencyLanding key) s fun t => t.mem = s.mem ∧ (t.ctx key).fuse = f) ∧
      (∀ k, l.val = .act (.vtsel k) → Answers (.fixedLatencyLanding key) s fun t => t.mem = s.mem ∧ (t.ctx key).vtsel = k) ∧
      (∀ q v, l.val = .act (.qcfg q v) → Answers (.fixedLatencyLanding key) s fun t => t.mem = s.mem ∧
        (t.ctx key).qbind q = v &&& 0xFFFFFFFF00000FF7#64 ∧ ((t.ctx key).queue q).ordinal = 0#40) ∧
      (∀ e p, l.val = .act (.permld key e p) → Answers (.fixedLatencyLanding key) s fun t => t.mem = s.mem ∧ (t.ctx key).permEntry e = p ∧
        (∀ k, k ≠ e → (t.ctx key).permEntry k = c.permEntry k) ∧
        ∀ k, ((c.handle k).entry = e → e ≠ 256 → ((t.ctx key).handle k).v = false) ∧ ((c.handle k).entry ≠ e → (t.ctx key).handle k = c.handle k)))

/-- VARIABLE_LATENCY_ARRIVAL and QUEUE_CLAIM_ARRIVAL (R87, R162, R182, R205): the first operation of a context that can arrive does; where it is
still the pending writer of its register, the register takes the value and is full, and otherwise the value is discarded; a JOIN has the cycle that
the last child's end gave it, and clears the count it reads, and a claim takes the converted entry from its queue, no earlier than 3 cycles after the entry was appended. -/
def Clause.VariableLatencyArrivals : Prop :=
  ∀ (key : Nat) (s : State) (p : Pending), nextArrival s key = some p → (s.ctx key).writerS.wf = true → (s.ctx key).writerV.wf = true →
    let c := s.ctx key
    let i := if p.isClaim then Instr.queueClaimArrival key else .variableLatencyArrival key
    ∃ at_ vals, arrival s key p = some (at_, vals) ∧ at_ ≤ s.now ∧
      (∀ q n o b since, p.src = .claim q n o b since → ∃ e, (c.queue q).entryOf n = some e ∧ e.appended + 3 ≤ s.now ∧ since + 3 ≤ s.now ∧
        vals = [.vec (BitVec.ofNat 1024 (convertEntry b o e.src e.n (leNat e.image))) (~~~0#1024)]) ∧
      (∀ since due, p.src = .join since due → due = some at_ ∧ vals = [.word (c.done.setWidth 64)]) ∧
      Answers i s fun t =>
        let d := t.ctx key
        t = { s with ctxs := s.ctxs.set key d, before := t.before, accs := t.accs } ∧ d.pending = c.pending.erase p ∧ d.landings = c.landings ∧
        d.mode = c.mode ∧ d.pc = c.pc ∧ d.acc = c.acc ∧ d.m = c.m ∧ d.h = c.h ∧ d.o = c.o ∧
        (∀ r, .s r ∉ p.dests → d.sreg r = c.sreg r ∧ d.emptyS.getLsbD r = c.emptyS.getLsbD r) ∧ (∀ r, .v r ∉ p.dests → d.vreg r = c.vreg r) ∧
        (∀ r w, p.dests = [.s r] → vals = [.word w] → r ≠ 0 →
          if c.writer (.s r) = some p.op.order then d.sreg r = w ∧ d.emptyS.getLsbD r = false ∧ d.writer (.s r) = none
          else d.sreg r = c.sreg r ∧ d.writer (.s r) = c.writer (.s r)) ∧
        (∀ r x m, p.dests = [.v r] → vals = [.vec x m] →
          if c.writer (.v r) = some p.op.order then d.vreg r = (c.vreg r &&& ~~~m) ||| (x &&& m) ∧ d.emptyV.getLsbD r = false
          else d.vreg r = c.vreg r ∧ d.writer (.v r) = c.writer (.v r)) ∧
        ((∀ since due, p.src ≠ .join since due) → d.done = c.done) ∧ (∀ since due, p.src = .join since due → d.done = 0#16) ∧
        ((∀ id, p.src ≠ .access id) → t.accs = s.accs) ∧ (∀ id, p.src = .access id → t.accs = s.accs ∨ t.accs = s.accs.erase id)

/-- INSTRUCTION_FETCH (R48, R336): a context in SERVICE, or in RUN, not rolling back and not following a lockstep lead, that holds neither the line of its pc nor a fetch in
flight asks for the 64 bytes of that line; a fetch whose bytes have come puts its line into the instruction cache of the core, and is over. -/
def Clause.InstructionFetches : Prop :=
  (∀ (key : Nat) (s : State),
    let c := s.ctx key
    let a := (pcMask c.pc).toNat / 64 * 64
    (c.mode = .service ∨ (c.mode = .run ∧ c.phase.stage = 0 ∧ (c.lock = false ∨ c.pos = 0#7))) → (∀ x, x ∈ s.accs → x.2.key = key → x.2.what ≠ .fetch) →
    c.repleft = 0 → codeWord s key c.pc = none → fetchedLine s key a = none →
    Answers (.instructionFetch key) s fun t => ∃ (x : Access) (p : Part), x.key = key ∧ x.cid = c.cid ∧ x.kind = .global ∧ x.what = .fetch ∧
      x.performed = none ∧ x.parts = [p] ∧ p.va = a ∧ p.len = 64 ∧ p.done = false ∧ s.now + 1 ≤ p.due ∧
      t = { s with nextId := s.nextId + 1, free := s.free + 1, accs := s.accs.set s.nextId x }) ∧
  (∀ (key id : Nat) (s : State) (x : Access) (p : Part), s.accs.find? (fun y => y.2.key = key && y.2.what = .fetch) = some (id, x) →
    x.performed.isSome = true → x.parts.head? = some p → Answers (.instructionFetch key) s fun t => ∃ l : CacheLine,
      l.va = p.va / 64 ∧ l.cid = effectiveCid x.cid p.va ∧ l.data = x.data ∧
      t = { s with free := s.free + 1, accs := s.accs.erase id, cores := s.cores.set (coreOf key) (t.core (coreOf key)) } ∧
      ∃ rest, t.core (coreOf key) = { s.core (coreOf key) with icache := l :: rest } ∧ rest.Sublist (s.core (coreOf key)).icache ∧
        (rest.length < 1024 ∨ (s.core (coreOf key)).icache.length > 1024))

/-- IDLE_CYCLE (R286, R316): a core that has not had its cycle and from which nothing issues has it; its YIELDs are over, and WSTAT is charged to the
running tenant's PIDLE, which saturates, while the core has a bound context that is not saved. -/
def Clause.IdleCycles : Prop :=
  ∀ (core : Nat) (s : State), core ∉ s.served → issuesNow s core = false →
    (∀ x, x < contextsOf core → (s.ctx (keyOf core x)).lock = false ∧ (s.ctx (keyOf core x)).phase.stage = 0) →
    Answers (.idleCycle core) s fun t =>
      let q := partOf s.pkg core
      t = { s with served := core :: s.served, ctxs := t.ctxs, blocks := t.blocks } ∧
      (∀ x, x < contextsOf core → t.ctx (keyOf core x) = { s.ctx (keyOf core x) with yielded := false }) ∧
      ((s.quarter q).running = none → t.blocks = s.blocks) ∧
      (∀ cid x, (s.quarter q).running = some cid → core < 2304 → x < 4 → (s.ctx (keyOf core x)).mode ≠ .unbound → (s.ctx (keyOf core x)).mode ≠ .saved →
        (t.block q cid).pidle.toNat = min (2 ^ 48 - 1) ((s.block q cid).pidle.toNat + (s.die (dieOf core)).wstat.toNat))

/-- LOCKSTEP_STEP (R40 to R43): a step on which one member alone has an issue due makes that issue, where no rollback and no held gang goes on on its
core; the lead's joins the stream, with the outcome of its branch slot, and issues that every member has executed leave the stream. A step on which a member traps is withheld: that member stops, no
issue is made and the step is not counted. -/
def Clause.LockstepSteps : Prop :=
  ∀ (task : Nat) (s : State) (a b : List (Nat × DueIssue)) (key : Nat) (n : NextIssue),
    let s1 : State := { s with served := lockMark task :: s.served }
    let due := dueIssues s task
    stepDue s task = true → due = a ++ (key, .issue n) :: b → (∀ x, x ∈ a ++ b → x.2 = .nothing) →
    (∀ e, stepTraps s due = [] → tryIssue (fun _ => true) n s1 = .commits e →
      let v := applyAll e s1
      v.cur.trapped = none → v.gangs = s.gangs →
      (∀ x, x < contextsOf (coreOf key) → (v.ctx (keyOf (coreOf key) x)).phase.stage = 0 ∧
        gangHeld v (lockMembers v (keyOf (coreOf key) x)) = false) → Answers (.lockstepStep task) s fun t =>
        t.mem = v.mem ∧ t.core (coreOf key) = v.core (coreOf key) ∧ coreOf key ∈ t.served ∧ (t.gang task).step = (s.gang task).step + 1 ∧
        (t.gang task).bars = (s.gang task).bars ∧ (a = [] → t.ctx key = v.ctx key) ∧
        (∀ x, x ∈ (s.gang task).stream → (s.gang task).step < x.step + 2 * (due.length - 1) → x ∈ (t.gang task).stream) ∧
        (a = [] → 1 < due.length → (⟨(s.gang task).step, n.pc, n.words, n.repleft, v.cur.branch⟩ : LockIssue) ∈ (t.gang task).stream) ∧
        ∀ x, x ∈ (t.gang task).stream → (s.gang task).step < x.step + 2 * (due.length - 1)) ∧
    (∀ tr, stepTraps s due = [(key, tr)] → (s.ctx key).stop = none → (∀ k u, beforeNow s k = some u → u.undo = []) → Answers (.lockstepStep task) s fun t =>
      t.mem = s.mem ∧ t.gangs = s.gangs ∧ (t.ctx key).mode = .stopping ∧ (t.ctx key).pc = (ctxBefore s key).pc ∧
      (t.ctx key).trapcause.extractLsb' 0 16 = tr.code)

/-- SEQUENCER_OP_START (R166, R168, R173, R178, R179): an operation that has completed leaves the sequencer; an operation at the head that is ready
and has its data starts: MLDW takes its tile into the latch, and into the core's weight buffer (R169), and holds the sequencer for the tile's lines and 4 cycles; MZERO clears the section
of its quadrants, and MFUSE empties the latches, for 1 cycle; any other starts its steps at once. -/
def Clause.SequencerStarts : Prop :=
  ∀ (key : Nat) (s : State) (m : MOp) (r : List MOp),
    let c := s.ctx key
    let goes (x : Ctx) := Answers (.sequencerOpStart key) s fun t => t = { s with free := s.free + 1, ctxs := s.ctxs.set key x }
    let loads (x : Ctx) := Answers (.sequencerOpStart key) s fun t =>
      t = { s with free := s.free + 1, ctxs := s.ctxs.set key x, cores := t.cores } ∧
      t.core (coreOf key) = { s.core (coreOf key) with wbuf := (t.core (coreOf key)).wbuf } ∧ ∀ k, k ≠ coreOf key → t.core k = s.core k
    let latch := latchKey m.quads (m.fields.tgt.toNat % 4)
    let taken (ty : BitVec 4) (sparse : Bool) (w : BitVec 256) : Latch := ⟨m.bytes s key 0 (tileBytes m.unit ty), ty, sparse, w⟩
    let started (cycles : Nat) : List MOp := { m with begun := true, ready := s.now + cycles } :: r
    c.flows = true → c.mops = m :: r →
    (m.begun = true → m.steps ≤ m.prog → m.ready ≤ s.now → (r.head?.all fun x => x.begun = false ∧ s.now < x.ready) = true →
      m.access = none → m.metaAccess = none → Answers (.sequencerOpStart key) s fun t => t = { s with ctxs := s.ctxs.set key { c with mops := r } }) ∧
    (m.begun = false → m.ready ≤ s.now →
      (∀ f, m.instr = some (.mldw f) → m.present s 0 (tileBytes m.unit f.ty) = true →
        loads { c with mops := started ((tileBytes m.unit f.ty + 127) / 128 + 4), latches := c.latches.set latch (taken f.ty false 0#256) }) ∧
      (∀ f, m.instr = some (.mldwS f) → m.present s 0 (tileBytes m.unit f.ty) = true → m.metaAccess = none →
        loads { c with mops := started ((tileBytes m.unit f.ty + 127) / 128 + 4), latches := c.latches.set latch (taken f.ty true m.words) }) ∧
      (∀ f, m.instr = some (.mfuse f) → goes { c with mops := started 1, latches := [] }) ∧
      (∀ f, (m.instr = some (.mdrain f) ∨ m.instr = some (.mdrainV f) ∨ m.instr = some (.mma f) ∨ m.instr = some (.mmas f)) →
        goes { c with mops := started 0 }) ∧
      (∀ f, m.instr = some (.mzero f) → c.acc.wf = true → Answers (.sequencerOpStart key) s fun t =>
        t = { s with free := s.free + 1, ctxs := s.ctxs.set key { c with mops := started 1, tags := (t.ctx key).tags, acc := (t.ctx key).acc } } ∧
        ∀ n row col, n < 4 → row < 64 → col < 64 → (t.ctx key).accElem n row col =
          if n = m.fields.tgt.toNat % 4 ∧ m.quads.getLsbD (row / 32 * 2 + col / 32) = true then 0#32 else c.accElem n row col))

/-- MMA_ROW_STEP (R168, R171, R177): the row step of the operation at the head takes its row, and moves on by one row; the last row sets the tags of
the sections to INT32 for a pair of I8 formats and else to FP32, and is followed by the 12 drain steps. The elements of the row of the unit take the combination of the column's weights with the row's activations, onto 0 for
MMAS and onto what they held for MMA (under the reference profile, in the order that a draw gives: log entry 2); every other accumulator, and every
register, queue and byte of memory, stands. -/
def Clause.MatrixRowSteps : Prop :=
  ∀ (key : Nat) (s : State) (m : MOp) (r : List MOp) (set : Bool) (f : FmtM),
    let c := s.ctx key
    let u := m.unit
    let wait := if m.lfmt = 8#4 ∧ m.fields.ty = 8#4 then m.prog % 2 else if m.lfmt = 4#4 ∨ m.lfmt = 5#4 ∨ m.fields.ty = 4#4 ∨ m.fields.ty = 5#4 then 4 else 1
    let k := m.fields.tgt.toNat % 4
    let l := c.latch (latchKey m.quads k)
    let row := m.bytes s key (m.prog * m.rowBytes) m.rowBytes
    let acts := imageValues m.fields.ty (leNat row) (if l.sparse then 2 * u.kc else u.kc)
    c.flows = true → c.mops = m :: r → m.instr = some (if set then .mmas f else .mma f) → m.begun = true → m.prog < m.rows → m.rows ≤ u.rows →
    m.ready ≤ s.now → m.present s (m.prog * m.rowBytes) m.rowBytes = true → c.acc.wf = true →
    Answers (.mmaRowStep key) s fun t => ∃ ready,
      (let left : List MOp := { m with prog := m.prog + 1, ready := ready } :: r
       t = { s with free := s.free + 1, ctxs := s.ctxs.set key { c with mops := left, acc := (t.ctx key).acc, tags := (t.ctx key).tags } }) ∧
      (m.prog + 1 < m.rows → ready = s.now + wait ∧ (t.ctx key).tags = c.tags) ∧ (m.prog + 1 = m.rows → s.now + 12 ≤ ready ∧
        ∀ n q, n < 4 → q < 4 → (t.ctx key).tags.get false (tagKey n q) =
          if n = k ∧ m.quads.getLsbD q = true then decide (m.lfmt = 0#4 ∧ m.fields.ty = 0#4) else c.tags.get false (tagKey n q)) ∧
      (∃ draw : Nat → Nat → Nat → Nat, ∀ j, j < u.nw → let x := c.accElem k (u.row0 + m.prog) (u.col0 + j)
        (t.ctx key).accElem k (u.row0 + m.prog) (u.col0 + j) =
          combine m.fields.np.toNat (l.fmt = 0#4 ∧ m.fields.ty = 0#4) (draw j) (if set then 0#32 else x) (l.column u.kc j) acts) ∧
      ∀ n row col, n < 4 → row < 64 → col < 64 → (n ≠ k ∨ row ≠ u.row0 + m.prog ∨ col < u.col0 ∨ u.col0 + u.nw ≤ col) →
        (t.ctx key).accElem n row col = c.accElem n row col

/-- MDRAIN_ENTRY_STEP (R181): one entry of the drain at the head moves, one a cycle: MDRAIN appends it to its queue, a full queue holding the step;
MDRAIN.V has it on its way to register 4 DSTV + e, to arrive 3 cycles later under the ordinal of the entry. -/
def Clause.MatrixDrainSteps : Prop :=
  ∀ (key : Nat) (s : State) (m : MOp) (r : List MOp),
    let c := s.ctx key
    let e := drainEntry c m m.prog s.now
    let l : List MOp := { m with prog := m.prog + 1, ready := s.now + 1 } :: r
    let q := m.fields.tgt.toNat
    c.flows = true → c.mops = m :: r → m.begun = true → m.prog < m.steps → m.ready ≤ s.now →
    (∀ f, m.instr = some (.mdrain f) → ((c.queue q).entries.filter fun x => !x.taken).length < 16 → exec (.mdrainEntryStep key) s = .next
      { s with ctxs := s.ctxs.set key { c with mops := l, queues := c.queues.set q { c.queue q with entries := (c.queue q).entries ++ [e] } } }) ∧
    (∀ f, m.instr = some (.mdrainV f) → Answers (.mdrainEntryStep key) s fun t => t = { s with ctxs := s.ctxs.set key (t.ctx key) } ∧
      ∃ p : Pending, p.op = m.op ∧ p.dests = [.v ((4 * (m.fields.mstr.toNat % 16) + m.prog) % 64)] ∧
        p.src = .value (s.now + 3) [claimValue e (m.ordinal + BitVec.ofNat 40 m.prog) m.qb] ∧ p ∈ (t.ctx key).pending ∧
        t.ctx key = { c with mops := l, pending := (t.ctx key).pending }) ∧
    e.n = (e.image.length) / 4 ∧ e.appended = s.now ∧ e.taken = false

/-- An illegal header (R40, R46): a KIND that is not 0b000, or 0b001 where a lockstep lead fetches, a slot in both P and Q, reserved bits that are not zero, and a BSRC
without BE; and nothing else. The issue takes the precise trap ILLEGAL_BUNDLE as a whole. -/
def Clause.IllegalHeaders : Prop :=
  ∀ (c : Ctx) (n : NextIssue), n.follows = none →
    let h := n.header
    (headerTrap c n = none ↔ h.kind = (if c.lock = true ∧ c.pos = 0#7 then 1#3 else 0#3) ∧ h.p &&& h.q = 0#7 ∧ h.resv = 0#2 ∧ (h.be = 1#1 ∨ h.bsrc = 0#6)) ∧
    (∀ t, headerTrap c n = some t → t.code = codeIllegalBundle ∧ ∀ (engines : Nat → Bool) (s : State), s.ctx n.key = c → tryIssue engines n s = .traps t)

/-- AT_COPY_LAUNCH (R191): from its launch cycle on, an accepted .AT copy may read. -/
def Clause.CopyLaunches : Prop :=
  ∀ (id at_ : Nat) (s : State) (c : Copy), s.copies.find id = some c → c.launch = some at_ → c.launched = false → at_ ≤ s.now →
    exec (.atCopyLaunch id) s = .next { s with copies := s.copies.set id { c with launched := true, ready := s.now } }

/-- COPY_COMPLETION (R189, R190, R192, R193): a copy whose next beat may be made reads it, or writes what it has read, or is over. A CFILL reads
nothing; the own scratchpad gives its bytes as they stand, but where a later access of the core has overwritten them, as they stood before it (log entry
107). A beat written to the own scratchpad is in memory, no other byte changes, and the
engine counts it against the 128 bytes of the cycle. A row that fails its check ends the copy with the status BOUND. A copy that is over leaves the
engine, and where it has a token and no barrier, no phase holds it and nothing waits behind it, the token arrives on the next cycle: the bytes of the
copy, or bit 63 with the status and the bytes moved. -/
def Clause.CopyBeats : Prop :=
  ∀ (id : Nat) (s : State) (c : Copy), dueCopy s id = some c →
    let core := coreOf c.key
    let b := c.beat
    let ctx := s.ctx c.key
    let alone := (∀ x, x ∈ s.accs → ∀ h, h ∈ x.2.after → h.id ≠ id) ∧ ∀ h, h ∈ ctx.holdLoads ++ ctx.holdAll → h.id ≠ id
    let ends (v : Word) := alone → c.silent = false → c.phase = none → c.tok ≠ 0 → c.bar = none →
      Answers (.copyCompletion id) s fun t => ∃ p : Pending, p.op = c.op ∧ p.dests = [.s c.tok] ∧ p.src = .value (s.now + 1) [.word v] ∧
        p ∈ (t.ctx c.key).pending ∧ t = { s with free := s.free + 1, copies := s.copies.erase id, ctxs := s.ctxs.set c.key (t.ctx c.key) } ∧
        t.ctx c.key = { ctx with pending := (t.ctx c.key).pending }
    (c.prog = c.total → c.status = 0 → ends (BitVec.ofNat 64 c.total)) ∧
    (c.prog < c.total → c.buf = [] → c.rowFails = true → ends ((1#64 <<< 63) ||| BitVec.ofNat 64 (2 ^ 32 + c.movedBytes))) ∧
    (c.prog < c.total → c.buf = [] → c.rowFails = false → c.form = .cfill → exec (.copyCompletion id) s = .next
      { s with free := s.free + 1, copies := s.copies.set id { c with buf := List.replicate b.len 0#8, ready := s.now } }) ∧
    (c.prog < c.total → c.buf = [] → c.rowFails = false → c.form ≠ .cfill → c.sk = .spad → alone →
      (∀ x, x ∈ s.accs → x.2.key = c.key → x.2.kind ≠ .spad) → Answers (.copyCompletion id) s fun t => ∃ ready,
      let byte (i : Nat) : Byte :=
        let a := spadPlace core b.src.toNat + i
        ((c.old.find? fun o => o.1 = a).map (·.2)).getD (Memory.get s.mem a)
      s.now ≤ ready ∧ t = { s with free := s.free + 2, copies := s.copies.set id { c with buf := (List.range b.len).map byte, ready := ready } }) ∧
    (c.prog < c.total → c.buf ≠ [] → c.buf.length = b.len → c.dk = .spad → Memory.wf s.mem = true → Answers (.copyCompletion id) s fun t =>
      let place := spadPlace core b.dst.toNat
      let bytes := c.written b c.buf (Memory.read s.mem place b.len)
      (∀ k x, bytes[k]? = some x → Memory.get t.mem (place + k) = x) ∧
      (∀ a, (a < place ∨ place + bytes.length ≤ a) → Memory.get t.mem a = Memory.get s.mem a) ∧ t.ctxs = s.ctxs ∧ t.accs = s.accs ∧
      (t.engine c.engine).movedOn s.now = (s.engine c.engine).movedOn s.now + b.len ∧
      ∃ d : Copy, t.copies = s.copies.set id d ∧ d.buf = [] ∧ d.total = c.total ∧ c.prog ≤ d.prog ∧ (c.skip = 0 → c.ahead = [] → d.prog = c.prog + b.len))

/-- MCAST_LANDING (R91): the bytes of a multicast store that is due and waits for nothing are in the scratchpads of its targets, but where an atomic that
read the landing stands (R219, log entry 46), and no other byte changes; lines of the vector data caches follow (R213), and the landing is applied again
after the stores of the cycle. -/
def Clause.MulticastLandings : Prop :=
  ∀ (id : Nat) (s : State) (m : Mcast), s.mcasts.find id = some m → m.due ≤ s.now → m.landed = false → m.waits s id = false → Memory.wf s.mem = true →
    let places := m.cores.flatMap fun c => m.bytes.map fun b => spadPlace c b.1
    Answers (.mcastLanding id) s fun t =>
      t = { s with mem := t.mem, cores := t.cores, copies := t.copies, mcasts := s.mcasts.set id { m with landed := true } } ∧
      (∀ c, t.core c = { s.core c with vcache := (t.core c).vcache }) ∧
      (∀ a, a ∉ places → Memory.get t.mem a = Memory.get s.mem a) ∧
      (places.Nodup → ∀ c b, c ∈ m.cores → b ∈ m.bytes → spadPlace c b.1 ∉ m.kept → Memory.get t.mem (spadPlace c b.1) = b.2)

/-- STORE_ACKNOWLEDGE (R255): a GLOBAL write whose parts are performed and whose acknowledgement is due leaves the store buffer; an atomic whose
register still waits keeps its old value for its arrival. -/
def Clause.StoreAcknowledgements : Prop :=
  ∀ (id : Nat) (s : State) (a : Access), s.accs.find id = some a → a.buffered = true → (∀ p, p ∈ a.parts → p.done = true) → a.ack ≤ s.now →
    (a.faulted ≠ none → exec (.storeAcknowledge id) s = .next { s with accs := s.accs.set id { a with buffered := false } }) ∧
    (a.faulted = none → Answers (.storeAcknowledge id) s fun t =>
      t = { s with accs := s.accs.erase id, ctxs := s.ctxs.set a.key { s.ctx a.key with pending := (t.ctx a.key).pending } } ∧
      (t.ctx a.key).pending.length = (s.ctx a.key).pending.length ∧
      ∀ (k : Nat) (p : Pending), (s.ctx a.key).pending[k]? = some p → ∃ q : Pending, (t.ctx a.key).pending[k]? = some q ∧ q.op = p.op ∧ q.dests = p.dests ∧
        q.src = if p.src = .access id then .value (s.now + 1) (accessVals p.op a.data) else p.src)

/-- HOME_ACCESS (R107, R200, R210, R252, R256, R309, R312): an access is checked as its first part comes due: one that no home and no core faults goes on,
a GLOBAL write bound to the places that its homes have translated. A checked write for which a reserve has too few frames is held (log entry 67). Of one that faults, whose elements do not fault alone, nothing is performed and a
message is on its way to its context. A part of a checked access performs at its place, outside a snapshot set: a store's bytes are there and no other
byte of memory changes; an atomic's word takes the new value in one step and the old one is kept; a load takes each byte from the latest earlier store
of its context that is not yet performed, or else from memory where neither the core nor the slice of its home holds a line of it. -/
def Clause.HomeAccesses : Prop :=
  ∀ (id : Nat) (s : State) (a : Access) (p : Part), routedPart s id .home = some (a, p) →
    let i := Instr.homeAccess id
    let core := coreOf a.key
    let cid (va : Nat) := effectiveCid a.cid va
    let clear := ∀ q sliced, q ∈ a.parts → partFault s id a q sliced = none ∧ routeOf a q ≠ .path
    let isDone (t : State) := ∀ y, t.accs.find id = some y → ∀ q, q ∈ y.parts → q.elem = p.elem → q.pos = p.pos → q.done = true
    let ctxsStand (t : State) := ∀ k, t.ctx k = { s.ctx k with fresh := (t.ctx k).fresh, freshC := (t.ctx k).freshC }
    (a.checked = false → a.bound = [] → clear → (∀ x, x ∈ s.blocks → x.2.snap.todo = []) → Answers i s fun t => ∃ bound : List Bound,
      t = { s with free := s.free + 1, accs := s.accs.set id { a with checked := true, heldSince := none, heldOn := [], bound := bound } } ∧
      (a.kind ≠ .global ∨ a.what.writes = false → bound = []) ∧
      ∀ b, b ∈ bound → ∃ q, q ∈ a.parts ∧ q.pos = b.pos ∧
        locateRaw s (partOf s.pkg core) (cid q.va) q.va useData (cid q.va) = .ok ⟨b.die, b.loc⟩) ∧
    (∀ q, a.checked = false → a.faulted = none → q ∈ a.parts → q.done = false → (∀ sliced, partFault s id a q sliced ≠ none) →
      elementwise a.op = false → Answers i s fun t => t.mem = s.mem ∧ t.ctxs = s.ctxs ∧
        ∃ at_ m, t.faults = s.faults ++ [(at_, { m with found := s.now })] ∧ s.now ≤ at_ ∧ m.key = a.key ∧ m.access = id ∧ m.bseq = a.op.bseq ∧
        ∃ y, t.accs.find id = some y ∧ y.faulted = some m ∧ ∀ q, q ∈ y.parts → q.done = true) ∧
    (a.checked = true → reserveHolds s id a = true → 
      let held : Access := { a with heldSince := a.heldSince.orElse fun _ => some s.now, heldOn := reserveWants s (currentSpots s a) }
      exec i s = .next { s with free := s.free + 1, accs := s.accs.set id held }) ∧
    (∀ place, a.checked = true → reserveHolds s id a = false → a.heldSince = none →
      (match a.kind with
       | .global => ∃ sp, (homeSpot s a p = .ok sp) ∧ place = hbmPlace sp.die sp.loc ∧ inSnapshot s sp.die sp.loc = none
       | .cluster => place = windowPlace core p.va
       | _ => place = spadPlace core p.va) →
      Memory.wf s.mem = true → s.accs.wf = true →
      let mine := (a.data.drop p.pos).take p.len
      let old := Memory.read s.mem place p.len
      let puts (bytes : List Byte) (t : State) := ctxsStand t ∧ isDone t ∧ (∀ k x, bytes[k]? = some x → Memory.get t.mem (place + k) = x) ∧
        ∀ q, (q < place ∨ place + bytes.length ≤ q) → Memory.get t.mem q = Memory.get s.mem q
      (a.what = .store → Answers i s (puts mine)) ∧
      (∀ aop fp, a.what = .atomic aop fp → Answers i s fun t =>
        puts (leBytes (atomicNew aop.toNat (8 * p.len) (leNat old) (leNat mine) (leNat a.cmp)) p.len) t ∧
        ∃ y, t.accs.find id = some y ∧ y.data = putBytes a.data p.pos old) ∧
      (a.what = .load → clear → sliceLine s (partOf s.pkg core) (cid p.va) p.va true = none → Answers i s fun t =>
        t.mem = s.mem ∧ ctxsStand t ∧ isDone t ∧ ∃ y bytes, t.accs.find id = some y ∧
        y.data = putBytes a.data p.pos bytes ∧ bytes.length = p.len ∧ ∀ k, k < p.len →
          (∀ x, forwarded s id a (p.va + k) = some x → bytes[k]? = some x) ∧
          (forwarded s id a (p.va + k) = none → cachedLine s a p true = none → bytes[k]? = some (Memory.get s.mem (place + k)))))

/-- PATH_ACCESS (R249, R256): an access whose parts all go over a path is answered as one, where its elements do not fault alone, and which answer it
is, is free (log entries 2 and 87): an error, with which all of it faults as NOT_PRESENT with WHY 0x3B; from the host, none; or that it performs. A
part of a write then has its bytes at its place at the far side; a read's path that is down or does not carry it faults, and any other takes the bytes
at its place, or those of the earlier stores of its context that are not yet performed (R107), where no line of its core's vector data cache serves it.
PATH_RESPONSE_TIMEOUT: 2^30 cycles after it was sent an access, or an element of one, that is not answered faults in the same way. -/
def Clause.PathAccesses : Prop :=
  (∀ (id : Nat) (s : State) (a : Access) (p : Part), routedPart s id .path = some (a, p) → Memory.wf s.mem = true →
    let i := Instr.pathAccess id
    let q := accessQuarter s a
    let place := pathPlace q p.va
    let bytes := (a.data.drop p.pos).take p.len
    let ctxsStand (t : State) := ∀ k, t.ctx k = { s.ctx k with fresh := (t.ctx k).fresh, freshC := (t.ctx k).freshC }
    let faults (why : BitVec 8) (m : FaultMsg) (t : State) := t.mem = s.mem ∧ t.ctxs = s.ctxs ∧ m.key = a.key ∧ m.access = id ∧ m.why = why ∧
      (∃ at_, t.faults = s.faults ++ [(at_, { m with found := s.now })] ∧ s.now ≤ at_) ∧ ∃ y, t.accs.find id = some y ∧ y.faulted = some m
    (a.checked = false → a.faulted = none → elementwise a.op = false → a.what ≠ .fetch → a.what ≠ .metaFetch →
      (∀ x, x ∈ a.parts → x.done = false → routeOf a x = .path ∧ ∀ sliced, partFault s id a x sliced = none) →
      Answers i s fun t =>
        (∃ m, faults 0x3B#8 m t ∧ ∀ y, t.accs.find id = some y → ∀ x, x ∈ y.parts → x.done = true) ∨
        ((∃ x, x ∈ a.parts ∧ x.done = false ∧ pathToHost q x.va = true) ∧
          t = { s with free := s.free + 1, accs := s.accs.set id { a with checked := true, sent := some s.now } }) ∨
        t = { s with free := s.free + 1, accs := s.accs.set id { a with checked := true, heldSince := none, heldOn := [], bound := [] } }) ∧
    (∀ w, a.checked = true → a.faulted = none → a.what.writes = false → pathFault s q a p = some w → a.what ≠ .fetch → a.what ≠ .metaFetch →
      Answers i s fun t => ∃ m, faults w.2 m t ∧ m.code = w.1 ∧ m.va = BitVec.ofNat 52 p.va) ∧
    (a.checked = true → a.what = .store → Answers i s fun t => ctxsStand t ∧ (∀ k x, bytes[k]? = some x → Memory.get t.mem (place + k) = x) ∧
      ∀ x, (x < place ∨ place + bytes.length ≤ x) → Memory.get t.mem x = Memory.get s.mem x) ∧
    (a.checked = true → a.what = .load → pathFault s q a p = none → Answers i s fun t => t.mem = s.mem ∧ ctxsStand t ∧
      ∃ y bytes, t.accs.find id = some y ∧ y.data = putBytes a.data p.pos bytes ∧ bytes.length = p.len ∧ ∀ k, k < p.len →
        (∀ x, forwarded s id a (p.va + k) = some x → bytes[k]? = some x) ∧
        (forwarded s id a (p.va + k) = none → cachedLine s a p true = none → bytes[k]? = some (Memory.get s.mem (place + k))))) ∧
  (∀ (id at_ : Nat) (s : State) (a : Access) (p : Part), s.accs.find id = some a → a.sent = some at_ → a.faulted = none → p ∈ a.parts →
    p.done = false → a.silent p = true → routeOf a p = .path → at_ + 2 ^ 30 ≤ s.now → a.what ≠ .fetch → a.what ≠ .metaFetch →
    Answers (.pathResponseTimeout id) s fun t => t.mem = s.mem ∧ t.ctxs = s.ctxs ∧ ∃ n m, t.faults = s.faults ++ [(n, m)] ∧ s.now ≤ n ∧ m.key = a.key ∧
      m.access = id ∧ m.code = codeNotPresent ∧ m.why = 0x3B#8)

/-- FAR_ACCESS_ARRIVAL (R249, R363): an access of another package that no path entry of this one accepts or whose containment identifier has no
partition here (log entry 37: the lowest that has it), one of a host through a function that is disabled, through a port that is down or PCIe only, or an
atomic (log entry 97), one that goes into a window (log entry 97), that fails at its home or that a snapshot has held for too long (log entry 67), is
refused, and changes nothing in memory. Any other performs at its address, one of a host in the shared class (log entry 97): a read answers its bytes;
a write and an atomic write theirs through the home, and the atomic answers the old bytes; while a home holds it, for a shoot-down (R252) or a snapshot
set without frames (R312), it comes again on the next cycle. -/
def Clause.FarAccesses : Prop :=
  ∀ (a : FarAccess) (s : State),
    let n := farLength a.op
    let i := Instr.farAccessArrival a
    let free : State := { s with held := s.held.filter fun h => decide (h.who ≠ .far a) }
    let answer (t : State) (r : Option (List Byte)) : State := { t with answers := t.answers ++ [(a, r)] }
    let refuses := exec i s = .next (answer free none)
    let again (t : State) := t.mem = s.mem ∧ t.ctxs = s.ctxs ∧ t.answers = s.answers ∧ t.inputs = s.inputs ++ [(s.now + 1, i)]
    let atomic := ∃ aop m x cmp, a.op = .atomic aop m x cmp
    let up (f : Nat) := (s.vf f).map.getLsbD 8 = true ∧ (if (s.vf f).map.getLsbD 9 then 1 else 0) ∈ s.pkg.hostUp ∧ s.pkg.pcieOnly = false
    (a.hdm = none → farAccepted s a = false ∨ partOfCid s a.rcid = none → refuses) ∧
    (∀ f, a.hdm = some f → ¬ up f ∨ atomic ∨ partOfCid s ((s.vf f).map.extractLsb' 0 8) = none → refuses) ∧
    (∀ part cid va,
      (a.hdm = none ∧ farAccepted s a = true ∧ partOfCid s a.rcid = some part ∧ cid = effectiveCid a.rcid va ∧ va = a.va.toNat) ∨
        (∃ f, a.hdm = some f ∧ up f ∧ ¬ atomic ∧ partOfCid s ((s.vf f).map.extractLsb' 0 8) = some part ∧ cid = 0#8 ∧
          va = 0xF * 2 ^ 48 + a.va.toNat % 2 ^ 48) →
      (inPathWindow va = true ∨ inControlWindow va = true ∨ heldOut s (.far a) = true → refuses) ∧
      (inPathWindow va = false → inControlWindow va = false → heldOut s (.far a) = false →
        let shot := piecesShot s part (pieces (n + 1) va (List.replicate n 0#8))
        (shot = true → exec i s = .next { s with inputs := s.inputs ++ [(s.now + 1, i)] }) ∧
        (∀ w, shot = false → (∀ d, a.op ≠ .write d) → deviceRead s part cid va n = .error w → refuses) ∧
        (∀ aop m x cmp, shot = false → a.op = .atomic aop m x cmp → va % m ≠ 0 → refuses) ∧
        (∀ m old, shot = false → a.op = .read m → deviceRead s part cid va n = .ok old → exec i s = .next (answer free (some old))) ∧
        (∀ new reply, shot = false → (∀ m, a.op ≠ .read m) →
          (a.op = .write new ∧ reply = [] ∨ ∃ aop m x cmp, a.op = .atomic aop m x cmp ∧ va % m = 0 ∧ deviceRead s part cid va m = .ok reply ∧
            new = leBytes (atomicNew aop.toNat (8 * m) (leNat reply) (x.toNat % 2 ^ (8 * m)) (cmp.toNat % 2 ^ (8 * m))) m) →
          (∀ w, pieceSpots s part cid (pieces (new.length + 1) va new) = .error w → refuses) ∧
          (∀ l, pieceSpots s part cid (pieces (new.length + 1) va new) = .ok l →
            let waits := deviceWaits s (.far a) (l.map fun x => x.1.current s)
            (waits = true → Answers i s again) ∧
            (waits = false → exec i s = .next (answer (applyAll (writePlaced cid l free) free) (some reply)))))))

/-- CONTROL_WINDOW_ACCESS and REGISTER_WRITE (R6, R344, R346): a checked load of the control window takes the value of its register, and a checked
store writes it; a register's write holds the bits that it has, and nothing else changes; an offset that is no multiple of 8 has no register, nor has a
die that the start fenced (R367, log entry 34). A root and an interleave register act after a shoot-down (R252, log entry 89). -/
def Clause.RegisterAccesses : Prop :=
  (∀ (id : Nat) (s : State) (a : Access) (p : Part), routedPart s id .control = some (a, p) → heldByShootDown s id = false →
    let unit := p.va / 2 ^ 24 % 256
    let off := p.va % 2 ^ 24
    let w : Word := BitVec.ofNat 64 (leNat ((a.data.drop p.pos).take p.len))
    let ctxsStand (t : State) := ∀ k, t.ctx k = { s.ctx k with fresh := (t.ctx k).fresh, freshC := (t.ctx k).freshC }
    (a.checked = false → (∀ q, q ∈ a.parts → routeOf a q = .control ∧ ∀ sliced, partFault s id a q sliced = none) →
      exec (.controlWindowAccess id) s =
        .next { s with free := s.free + 1, accs := s.accs.set id { a with checked := true, heldSince := none, heldOn := [], bound := [] } }) ∧
    (a.checked = true → a.what = .load → Answers (.controlWindowAccess id) s fun t => t.mem = s.mem ∧ ctxsStand t ∧ t.dies = s.dies ∧
      t.quarters = s.quarters ∧ ∃ y, t.accs.find id = some y ∧ y.data = putBytes a.data p.pos (leBytes (readReg s unit off).toNat p.len)) ∧
    (a.checked = true → a.what = .store → unit = 0x20 → off = 0x20 → Answers (.controlWindowAccess id) s fun t =>
      t.pkg = { s.pkg with pkgid := w.extractLsb' 0 22 } ∧ t.mem = s.mem ∧ ctxsStand t ∧ t.dies = s.dies ∧ t.quarters = s.quarters) ∧
    (a.checked = true → a.what = .store → unit = 0x80 → Answers (.controlWindowAccess id) s fun t =>
      t.pkg = s.pkg ∧ t.mem = s.mem ∧ ctxsStand t ∧ t.vfs = s.vfs ∧ t.dies = s.dies ∧ t.quarters = s.quarters)) ∧
  (∀ (s : State) (v : Word) (unit : BitVec 8) (off : BitVec 24),
    let i := Instr.registerWrite unit off v
    let die (d : Die) : State := { s with dies := s.dies.set unit.toNat d }
    let old := s.die unit.toNat
    (off.toNat % 8 ≠ 0 → exec i s = .next s) ∧
    (unit.toNat < 24 → s.pkg.fenced.getLsbD unit.toNat = true → exec i s = .next s) ∧
    (unit.toNat < 24 → s.pkg.fenced.getLsbD unit.toNat = false → off = 0x20#24 → exec i s = .next (die { old with wstat := v.extractLsb' 0 16 })) ∧
    (∀ c : Nat, c < 256 → unit.toNat < 24 → s.pkg.fenced.getLsbD unit.toNat = false → off.toNat = 0x1000 + 8 * c →
      exec i s = .next (die { old with rootNew := old.rootNew.set c (v &&& 0xFFFFF8001#64) })) ∧
    (unit = 0x20#8 → off = 0x18#24 → exec i s = .next { s with pkg := { s.pkg with hostmgd := v.getLsbD 0 } }) ∧
    (unit = 0x20#8 → off = 0x20#24 → exec i s = .next { s with pkg := { s.pkg with pkgid := v.extractLsb' 0 22 } }) ∧
    (∀ q n : Nat, q < 4 → n < 16 → unit.toNat = 0x30 + q → lowest s.pkg q = q →
      let x := s.quarter q
      let new (w : Interleave) := exec i s = .next { s with quarters := s.quarters.set q { x with ilNew := some w } }
      (off.toNat = 0x100 + 16 * n → new { x.ilWritten with base := x.ilWritten.base.set n (v &&& 0xFFFFFFE000003#64) }) ∧
      (off.toNat = 0x108 + 16 * n → new { x.ilWritten with lim := x.ilWritten.lim.set n (v &&& 0xFFFFFFEFFFFFF#64) })) ∧
    (∀ q c : Nat, q < 4 → c < 256 → unit.toNat = 0x30 + q → lowest s.pkg q = q → off.toNat = 0x10030 + 128 * c →
      exec i s = .next { s with blocks := s.blocks.set (q * 256 + c) { s.block q c with pqshare := v.extractLsb' 0 17 } }))

/-- DEFERRED_FAULT (R256, R257, R259, R336): a message that is due and whose operation still stands stops its context, running or HALTED and not yet
stopping: it is STOPPING with the cause of the fault, DEFERRED and HEAVY, and no byte of memory changes. An uncorrectable error of a context with a
held phase rolls the phase back at most twice: results on their way are discarded and step 1 of the rollback begins. A fault of a fetch stops its context
where the next issue needs the line and does not have it, with the WHY and the address of what it needs of it (R50); any other, of a context that is
stopping or rolls back or does not need the line, is dropped with its fetch, which is the model's reading (log entry 82). A steal in progress is abandoned
at every stop, which R232 says of a gang switch alone (log entry 63). -/
def Clause.DeferredFaults : Prop :=
  ∀ (m : FaultMsg) (s : State) (x : Nat × FaultMsg), s.faults.find? (fun x => x.2 = m && decide (x.1 ≤ s.now)) = some x → faultStands s m = true →
    let s1 : State := { s with faults := s.faults.erase x }
    let c := settleWait s1 m.key (s.ctx m.key)
    (m.code ≠ codeUncorrectable → m.code ≠ codeFetchFault → (s.ctx m.key).stop = none →
      ((s.ctx m.key).mode = .run ∨ (s.ctx m.key).mode = .service ∨ (s.ctx m.key).mode = .halted) → Answers (.deferredFault m) s fun t =>
      let st : Stop := ⟨.deferred, s.now, [m], decide (c.mode = .halted), c.aside.isSome, false, m.va, none⟩
      t.mem = s.mem ∧ t.faults = s.faults.erase x ∧
      t.ctx m.key = { c with mode := .stopping, steal := none, stop := some st, trapcause := trapCause false true true m.code, trapinfo := trapInfo (faultTrap m) }) ∧
    (m.code = codeFetchFault → m.slot = 7 → (s.ctx m.key).stop.isSome = true ∨ neededFetch s1 m = none →
      exec (.deferredFault m) s = .next { s1 with accs := s.accs.erase m.access }) ∧
    (∀ why va, m.code = codeFetchFault → m.slot = 7 → m.why ≠ 0x23#8 → (s.ctx m.key).stop = none → neededFetch s1 m = some (why, va) →
      Answers (.deferredFault m) s fun t =>
      let f : FaultMsg := { m with why := why, va := BitVec.ofNat 52 va }
      let st : Stop := ⟨.deferred, s.now, [f], false, c.aside.isSome, false, f.va, none⟩
      t.mem = s.mem ∧ t.faults = s.faults.erase x ∧
      t.ctx m.key = { c with mode := .stopping, steal := none, stop := some st, trapcause := trapCause false true true m.code, trapinfo := trapInfo (faultTrap f) }) ∧
    (m.code = codeUncorrectable → m.why = 0x48#8 → (s.ctx m.key).mode = .run → (s.ctx m.key).phase.held = true → (s.ctx m.key).phase.stage = 0 →
      (s.ctx m.key).phase.rollbacks < 2 → Answers (.deferredFault m) s fun t =>
      let d := t.ctx m.key
      d.mode = .run ∧ d.phase.stage = 1 ∧ d.phase.rollbacks = (s.ctx m.key).phase.rollbacks + 1 ∧ d.phase.log = [] ∧ d.landings = [] ∧ d.pending = [] ∧
        d.mops = [] ∧ d.pc = (s.ctx m.key).pc ∧ d.s = (s.ctx m.key).s)

/-- STOPPING_COMPLETE (R257, R259 to R269): once nothing is awaited any more, every unfinished operation of the context is a record of its Vitrine,
none is in flight, and the context enters the state that its stop gives: SERVICE at SVCENT for a light trap, PARKED for a heavy one and for a deferred
fault, SAVED for a save, UNBOUND at the end of its task. -/
def Clause.StopsCompleted : Prop :=
  ∀ (key : Nat) (s : State) (st : Stop), stopReady s key = true → (s.ctx key).stop = some st →
    let c := s.ctx key
    let i := Instr.stoppingComplete key
    let gone (t : State) := s.accs.wf = true → s.copies.wf = true → (∀ x, x ∈ t.accs → x.2.key ≠ key) ∧ ∀ x, x ∈ t.copies → x.2.key ≠ key
    let own := st.fromService = false ∧ coreOf key < 2304
    let l := unfinished s key c st
    (st.kind = .unbind → Answers i s fun t => t.ctx key = {} ∧ gone t ∧ t.mem = s.mem ∧ ∀ k, k ≠ key → t.ctx k = s.ctx k) ∧
    (∀ u, (st.kind = .precise ∨ st.kind = .software) → c.trapcause.getLsbD 17 = false → own → l = [u] → u.imgs = [] → Memory.wf s.mem = true →
      Answers i s fun t => gone t ∧ (t.ctx key).vtcount = 1#9 ∧ (t.ctx key).vthead = 0#8 ∧
        Memory.read t.mem (vitrinePlace key 0) 64 = wordsBytes (u.words 0) ∧
        ∀ a, (a < vitrinePlace key 0 ∨ vitrinePlace key 0 + 64 ≤ a) → Memory.get t.mem a = Memory.get s.mem a) ∧
    ((st.kind = .precise ∨ st.kind = .software) → c.trapcause.getLsbD 17 = false → own → l = [] → c.aside = none → Answers i s fun t =>
      gone t ∧ t.mem = s.mem ∧ (∀ k, k ≠ key → t.ctx k = s.ctx k) ∧ (t.ctx key).mode = .service ∧ (t.ctx key).pc = c.svcent ∧
        (t.ctx key).vtcount = 0#9 ∧ (t.ctx key).sreg 56 = c.trapcause ∧ (t.ctx key).sreg 57 = c.trapinfo ∧ (t.ctx key).sreg 58 = st.va.setWidth 64 ∧
        (∀ k, k < 56 → (t.ctx key).sreg k = c.sreg k) ∧ (t.ctx key).v = c.v ∧ (t.ctx key).acc = c.acc) ∧
    ((st.kind = .precise ∨ st.kind = .software) → c.trapcause.getLsbD 17 = true → Answers i s fun t => gone t ∧
      (t.ctx key).mode = .parked ∧ (t.ctx key).stop = none ∧ (t.ctx key).pc = c.pc ∧ (t.ctx key).bseq = c.bseq ∧ (t.ctx key).s = c.s) ∧
    (∀ m, st.kind = .deferred → st.faults = [m] → Answers i s fun t => gone t ∧ (t.ctx key).mode = .parked ∧
      (t.ctx key).trapcause.extractLsb' 0 16 = m.code ∧ (t.ctx key).trapinfo = trapInfo (faultTrap m) ∧ (t.ctx key).s = c.s) ∧
    (st.kind = .save → Answers i s fun t => gone t ∧ (st.fromService = true → (t.ctx key).wait = c.wait) ∧ (t.ctx key).mode = .saved ∧ (t.ctx key).stop = none ∧ (t.ctx key).s = c.s ∧ (t.ctx key).pc = c.pc ∧
      (t.ctx key).savedAs = if st.fromService then .service else if st.wasHalted then .halted else .run) ∧
    (st.kind = .peer → Answers i s fun t => gone t ∧ (t.ctx key).mode = c.mode ∧ (t.ctx key).held = true ∧ (t.ctx key).s = c.s)

/-- CHILD_TAKE and STEAL_COMPLETE (R15, R204, R232): a context that takes children runs the newest child of its task from its own deque; failing that,
unless DET forbids it, it begins to steal for 16 cycles from the first deque after its own, in the ring of its cluster, that holds one. A steal that is
over takes the oldest child of the task that is still there and that no nearer thief of the cycle takes. A child runs at its entry with its arguments in s1 to s4 and every slot idle. -/
def Clause.ChildrenTaken : Prop :=
  let runs (c d : Ctx) (ch : Child) := d.mode = .run ∧ d.pc = ch.entry ∧ d.repleft = 0 ∧ d.slots = [] ∧ d.child = some ch.parent ∧ d.steal = none ∧
    (∀ k, k < 4 → d.sreg (k + 1) = ch.args.getD k 0#64) ∧ (∀ r, 5 ≤ r → d.sreg r = c.sreg r) ∧ d.v = c.v ∧ d.h = c.h ∧ d.acc = c.acc
  (∀ (key t : Nat) (s : State), takesChildren s key = true → (s.ctx key).task = some t →
    let core := coreOf key
    (∀ ch, (s.core core).deque.find? (fun x => x.task = t) = some ch → Answers (.childTake key) s fun u =>
      u = { s with cores := s.cores.set core { s.core core with deque := (s.core core).deque.erase ch }, ctxs := s.ctxs.set key (u.ctx key) } ∧
      runs (s.ctx key) (u.ctx key) ch) ∧
    (∀ a v b, (∀ ch, ch ∈ (s.core core).deque → ch.task ≠ t) → (s.ctx key).det = false →
      (List.range 7).map (fun i => core / 8 * 8 + (core + i + 1) % 8) = a ++ v :: b → (∀ w, w ∈ a → ∀ ch, ch ∈ (s.core w).deque → ch.task ≠ t) →
      (∃ ch, ch ∈ (s.core v).deque ∧ ch.task = t) →
      exec (.childTake key) s = .next { s with ctxs := s.ctxs.set key { s.ctx key with steal := some ⟨v, s.now + 16⟩ } })) ∧
  (∀ (key t : Nat) (s : State) (x : Steal), (s.ctx key).steal = some x → x.done ≤ s.now → (s.ctx key).task = some t →
    (s.ctx key).mode = .halted →
    let n := nearerThieves s key x.victim (some t)
    (∀ a ch b, (s.core x.victim).deque = a ++ ch :: b → ch.task = t → (b.filter fun y => y.task = t).length = n → ch ∉ b →
      Answers (.stealComplete key) s fun u =>
        u = { s with cores := s.cores.set x.victim { s.core x.victim with deque := a ++ b }, ctxs := s.ctxs.set key (u.ctx key) } ∧
        runs (s.ctx key) (u.ctx key) ch) ∧
    (((s.core x.victim).deque.filter fun y => y.task = t).length ≤ n →
      exec (.stealComplete key) s = .next { s with ctxs := s.ctxs.set key { s.ctx key with steal := none } }))

/-- PQ_ARRIVAL and PQ_CLAIM_SERVE (R206, R207, R233, R234): pushes that reach a die's priority queue are its entries, numbered in the order in which they
are applied, and claims that reach it wait there. A claim that waits removes an entry of its CID whose rank is below W, 1 for a DET context and
PQW + 1 for any other; which of them is free (log entry 2); its key and payload arrive no earlier than 20 cycles after the claim's issue. -/
def Clause.PriorityQueueService : Prop :=
  (∀ (die : Nat) (s : State),
    let d := s.die die
    let due (m : PqMove) := m.due ≤ s.now ∧ m.here = false
    Answers (.pqArrival die) s fun t =>
      let u := t.die die
      t = { s with free := s.free + 1, dies := s.dies.set die u } ∧ u = { d with pq := u.pq, pqOrder := u.pqOrder, pqMoves := u.pqMoves } ∧
      (∃ new : List PqEntry, u.pq = d.pq ++ new ∧ u.pqOrder = d.pqOrder + new.length ∧
        (∀ (k : Nat) (e : PqEntry), new[k]? = some e → e.order = d.pqOrder + k) ∧
        (∀ m e, m ∈ d.pqMoves → due m → m.push = some e → ∃ x, x ∈ new ∧ x = { e with order := x.order }) ∧
        ∀ x, x ∈ new → ∃ m e, m ∈ d.pqMoves ∧ due m ∧ m.push = some e ∧ x = { e with order := x.order }) ∧
      ∀ m, m ∈ d.pqMoves → (due m → m.push = none → { m with here := true } ∈ u.pqMoves) ∧ (¬ due m → m ∈ u.pqMoves)) ∧
  (∀ (die : Nat) (s : State) (m : PqMove), servable s (s.die die) = some m →
    let d := s.die die
    let w := if m.det then 1 else (s.quarter (lowest s.pkg (quarterOf die))).pqw.toNat + 1
    ∃ (e : PqEntry) (due : Nat), e ∈ d.pq ∧ e.cid = m.cid ∧ rankOf d.pq e < w ∧ m.due + 8 ≤ due ∧ s.now ≤ due ∧
      let give (p : Pending) : Pending :=
        if p.src = .pqClaim m.id then { p with src := .value due [.word e.payload, .word (e.key.setWidth 64)] } else p
      let c : Ctx := { s.ctx m.ctx with pending := (s.ctx m.ctx).pending.map give }
      exec (.pqClaimServe die) s = .next
        { s with free := s.free + 2, dies := s.dies.set die { d with pq := d.pq.erase e, pqMoves := d.pqMoves.erase m }, ctxs := s.ctxs.set m.ctx c }) ∧
  (∀ a b : PqEntry,
    (a.key.toNat < b.key.toNat → a.before b = true ∧ b.before a = false) ∧
    (a.key = b.key → a.ticket = none → b.ticket = none → a.before b = decide (a.order < b.order)) ∧
    (∀ x y, a.key = b.key → a.ticket = some x → b.ticket = some y → x ≠ y → a.before b = decide (x.1 < y.1 ∨ (x.1 = y.1 ∧ x.2 < y.2))))

/-- DOORBELL and a write of IQBASE (R352, R353): a tail beyond the ring, or of a function that is not enabled, is discarded; otherwise the device takes the
tail and reads the entries up to it: an entry with OWN is a launch of the tenant, and one without is consumed. IQBASE is taken only while
IQHEAD equals the tail. -/
def Clause.ImageQueues : Prop :=
  (∀ (vf : Nat) (tail : BitVec 16) (s : State),
    let v := s.vf vf
    let n := (tail - v.head).toNat
    let a := v.base.toNat / 64 * 64 + 64 * (v.head.toNat % 2 ^ (v.size.toNat + 4))
    let w (o : Nat) : Word := BitVec.ofNat 64 (leNat (Memory.read s.mem (hostPlace (portOf v) (a + o)) 8))
    let read : State := { s with vfs := s.vfs.set vf { v with tail := tail, head := v.head + 1#16 } }
    (2 ^ (v.size.toNat + 4) < n ∨ v.map.getLsbD 8 = false → exec (.doorbell vf tail) s = .next s) ∧
    (n ≤ 2 ^ (v.size.toNat + 4) → v.map.getLsbD 8 = true → partOfCid s (v.map.extractLsb' 0 8) = none →
      exec (.doorbell vf tail) s = .next { s with vfs := s.vfs.set vf { v with tail := tail } }) ∧
    (∀ q, n = 1 → v.map.getLsbD 8 = true → partOfCid s (v.map.extractLsb' 0 8) = some q →
      ((w 16).getLsbD 0 = false → exec (.doorbell vf tail) s = .next read) ∧
      ((w 16).getLsbD 0 = true → Answers (.doorbell vf tail) s fun t => ∃ l : Launch,
        t = { read with nextId := s.nextId + 1, free := s.free + 1, launches := s.launches.set s.nextId l } ∧
        l.origin = .imageQueue vf a ((w 8).extractLsb' 0 32) true ∧ l.quarter = q ∧ l.cid = v.map.extractLsb' 0 8 ∧ l.stage = .submitted ∧
        l.img = (w 0).toNat ∧ l.lbase = (w 40).toNat ∧ l.entry = ((w 8).extractLsb' 32 16).toNat ∧ l.noload = (w 16).getLsbD 1 ∧ s.now ≤ l.ready))) ∧
  (∀ (vf : Nat) (v : Word) (s : State),
    ((s.vf vf).head = (s.vf vf).tail → exec (.iqbaseWrite vf v) s = .next
      { s with vfs := s.vfs.set vf { s.vf vf with base := v &&& ~~~0x3F#64 } }) ∧
    ((s.vf vf).head ≠ (s.vf vf).tail → exec (.iqbaseWrite vf v) s = .next s))

/-- ACCESSION_CHECK (R226, R354, R372): the first check that a due launch fails refuses it with its code: the image cannot be read, its signature is no
key's of the tenant, or a claim is not kept. A launch of a task that passes, and has nothing to load, is QUEUED at the end of its tenant's queue with
the claims and the addresses of its image; no byte of memory changes. -/
def Clause.AccessionChecks : Prop :=
  ∀ (id : Nat) (s : State) (l : Launch), s.launches.find id = some l → checkDue s id = true →
    let i := Instr.accessionCheck id
    let s1 : State := { s with free := s.free + 1 }
    let refuses (code : BitVec 16) (why : BitVec 8) (va : Nat) := exec i s = .next (applyAll (refuseLaunch id code why va s1) s1)
    let image := readImage (launchSource s l)
    let keys := tenantKeys s l.quarter l.cid.toNat
    (image = none → refuses codeImgFetch 0x01#8 l.img) ∧
    (∀ b, image = some b → signatureOk b keys = false → refuses codeImgSig 0#8 0) ∧
    (∀ b w, image = some b → signatureOk b keys = true → (parseImage b).fault l.lbase l.entry false = some w → refuses codeImgClaim w 0) ∧
    (∀ b, image = some b → signatureOk b keys = true → (parseImage b).fault l.lbase l.entry false = none → l.noload = true → l.entry < 0x8000 →
      s.heldBy (.launch id) = none →
      let m := parseImage b
      let blk := s.block l.quarter l.cid.toNat
      Answers i s fun t => ∃ d : Launch, t = { s1 with launches := s.launches.set id d, blocks := t.blocks } ∧
        t.block l.quarter l.cid.toNat = { blk with queue := blk.queue ++ [id] } ∧
        (∀ k, k ≠ l.quarter * 256 + l.cid.toNat → t.blocks.get {} k = s.blocks.get {} k) ∧
        d.stage = .queued ∧ d.origin = l.origin ∧ d.claims = ((m.entries[l.entry]?).map Entry.claims).getD {} ∧
        d.text = BitVec.ofNat 64 (l.lbase + m.text) ∧ d.meta_ = m.metaStart l.lbase ∧ d.svcent = m.handler l.lbase ∧ d.graph = none)

/-- PLACEMENT (R226 to R230, R320): the head of a tenant's queue is admitted against REM, which loses its energy, or is DEFERRED, whether or not the
tenant's slice runs (log entry 99); in its slice, when waiting, it binds to the cores the placer takes, with a start tick at least 1,024 cycles off and a multiple of 256, unless the next gang switch tick comes
before 4,096 cycles after it: then it waits for the cycle after that tick. -/
def Clause.Placements : Prop :=
  ∀ (q cid id : Nat) (s : State) (l : Launch), queueHead s q cid = some (id, l) → l.graph = none →
    let i := Instr.placement q cid
    let x := s.quarter q
    let launch (d : Launch) : State := { s with launches := s.launches.set id d }
    let tick := nextTick s q
    let admits := (l.claims.energy : Int) ≤ x.remaining ∨ x.remaining = x.budget
    (l.stage = .queued → s.late = false → admits → exec i s = .next { launch { l with stage := .waiting } with
      quarters := s.quarters.set q { x with rem := some (x.remaining - l.claims.energy) } }) ∧
    (l.stage = .queued → s.late = false → ¬ admits → exec i s = .next (launch { l with stage := .deferred })) ∧
    (l.stage = .waiting → sliceRuns s q cid = false → exec i s = .next s) ∧
    (∀ d cs, l.stage = .waiting → sliceRuns s q cid = true → l.ready ≤ s.now → placeOn s q l.claims = some (d, cs) → Answers i s fun t => ∃ start,
      start % 256 = 0 ∧ s.now + 1024 ≤ start ∧ start < s.now + 1280 ∧
      (tick < start + 4096 → t = launch { l with ready := tick + 1 }) ∧
      (start + 4096 ≤ tick → t = { launch { l with stage := .bound, die := d, cores := cs.map (·.1), members := cs.map (·.2.1),
                                                   bases := cs.map (·.2.2), start := start } with
        blocks := s.blocks.set (q * 256 + cid) { s.block q cid with queue := (s.block q cid).queue.erase id } }))

/-- START_TICK (R21, R76, R194, R227, R228, R230, R237): on its start tick, in its tenant's slice, a bound task runs: every context of it is bound as new, at its gang position, in RUN where
the image gives it a record and HALTED where not; the barriers of its range are at reset on its cores, the scratchpad sections of its image are zero, and
no other byte of memory changes. -/
def Clause.StartTicks : Prop :=
  (∀ (id : Nat) (s : State) (l : Launch), s.launches.find id = some l → l.stage = .bound → l.start ≤ s.now →
    sliceRuns s l.quarter l.cid.toNat = true → l.members.flatten.Nodup →
    let parts := l.cores.zip (l.members.zip l.bases)
    let sections (a : Nat) := ∃ x e, x ∈ parts ∧ e ∈ l.perms ∧ e.kind = .spad ∧
      spadPlace x.1 (x.2.2 + e.base.toNat) ≤ a ∧ a < spadPlace x.1 (x.2.2 + e.base.toNat) + e.bound.toNat
    Answers (.startTick id) s fun t => t.launches = s.launches.set id { l with stage := .running } ∧ t.gangs = s.gangs.set id {} ∧
      t = { s with launches := t.launches, gangs := t.gangs, ctxs := t.ctxs, cores := t.cores, mem := t.mem } ∧
      (∀ p core keys base, parts[p]? = some (core, keys, base) → (∀ k key, keys[k]? = some key → t.ctx key = newCtx s id l p k base) ∧
        ∀ b, l.claims.bfirst ≤ b → b < l.claims.bfirst + l.claims.bcount → (t.core core).bars.get {} b = {}) ∧
      (∀ key, key ∉ l.members.flatten → t.ctx key = s.ctx key) ∧
      (Memory.wf s.mem = true → ∀ a, (sections a → Memory.get t.mem a = 0#8) ∧ (¬ sections a → Memory.get t.mem a = Memory.get s.mem a))) ∧
  (∀ (s : State) (id : Nat) (l : Launch) (pos k base : Nat),
    let c := newCtx s id l pos k base
    c.cid = l.cid ∧ c.pos = BitVec.ofNat 7 pos ∧ c.lock = (l.claims.lock && decide (k = 0)) ∧ c.det = l.claims.det ∧ c.mpc = l.meta_ ∧ c.svcent = l.svcent ∧ c.bseq = 0#48 ∧
    c.task = some id ∧ c.spadBase = base ∧ c.spadLen = l.claims.spad ∧ c.v = [] ∧ c.acc = [] ∧ c.h = [] ∧ c.emptyS = 0#64 ∧ c.emptyV = 0#64 ∧
    (∀ m, c.mreg m = ~~~0#128) ∧
    ((∀ r, r ∈ l.claims.ctxs → r.ctx ≠ k) → c.mode = .halted ∧ (k ≠ 0 → c.s = []) ∧
      (k = 0 → ∀ j, j < 63 → c.sreg (j + 1) = (l.args.getD []).getD j 0#64)) ∧
    (∀ a r b, l.claims.ctxs = a ++ r :: b → (∀ y, y ∈ a → y.ctx ≠ k) → r.ctx = k → c.mode = .run ∧ c.pc = l.text + r.entry ∧ c.pri = r.pri ∧
      c.quads = r.quads ∧ ∀ j, j < 63 → c.sreg (j + 1) = (l.args.getD r.args).getD j 0#64))

/-- TASK_COMPLETION (R226, R231): a task whose contexts have all halted is COMPLETING; once its stores, copies and drains are performed, or once the
contexts of an ended one are unbound, it is DONE: its launch is gone and its status is posted, for an image queue whose function was not reset
into words 24 and 32 of its entry, with OWN cleared. -/
def Clause.TaskCompletions : Prop :=
  ∀ (id : Nat) (s : State) (l : Launch), s.launches.find id = some l →
    let i := Instr.taskCompletion id
    let ends (code : BitVec 16) (t : State) := t.launches = s.launches.erase id ∧ t.gangs = s.gangs.erase id ∧
      (t.block l.quarter l.cid.toNat).queue = (s.block l.quarter l.cid.toNat).queue.erase id ∧
      ∀ v addr tag, l.origin = .imageQueue v addr tag true →
        Memory.read t.mem (hostPlace (portOf (s.vf v)) (addr + 24)) 16 = wordBytes (code ++ 0#48) 8 ++ wordBytes (BitVec.ofNat 64 s.now) 8 ∧
        (Memory.get t.mem (hostPlace (portOf (s.vf v)) (addr + 16))).getLsbD 0 = false
    let queued := ∃ v addr tag, l.origin = .imageQueue v addr tag true
    (l.stage = .running → taskHalted s id l = true → exec i s = .next { s with launches := s.launches.set id { l with stage := .completing } }) ∧
    (l.stage = .completing → l.ended = true → taskContexts s id = [] → queued → Memory.wf s.mem = true → Answers i s fun t => ends l.status t ∧ t.ctxs = s.ctxs) ∧
    (l.stage = .completing → l.ended = false → taskPerformed s id = true → queued → Memory.wf s.mem = true → Answers i s fun t => ends 0#16 t ∧
      ∀ k, (k ∈ taskContexts s id → t.ctx k = {}) ∧ (k ∉ taskContexts s id → t.ctx k = s.ctx k))

/-- REPLAY_ACCEPT, NODE_EVALUATION and REPLAY_END (R237 to R240): an accepted replay holds the bytes of its parameter block, or, where that read faults, ends
with GRAPH_READ (log entry 38) and its record, and runs at once from the root where no other replay of the graph runs. A walker evaluates its earliest path that stands at its node since an
earlier cycle (log entry 99) and no other for 4 cycles: a TASK node dispatches a launch that its path
waits for; an IF node goes on by its condition word; a WHILE node counts a pass, at most its X of them, or leaves with the count cleared; a JOIN node
goes on with the last of its arrivals. A replay whose paths and tasks are over ends, and leaves the graph free. -/
def Clause.GraphReplays : Prop :=
  (∀ (id slot : Nat) (s : State) (l : Launch) (g : Graph), acceptable s id = some (l, slot, g) →
    let runs (b : List Byte) (st : BitVec 16) := Answers (.replayAccept id) s fun t =>
      (t.block l.quarter l.cid.toNat).queue = (s.block l.quarter l.cid.toNat).queue.erase id ∧ (st = 0#16 → t.mem = s.mem) ∧
      (g.running ≠ none → t.graphs = s.graphs.set slot { g with accepted := some id } ∧ t.replays = s.replays.set id { block := b, status := st } ∧
        t.launches = s.launches.set id { l with stage := .bound }) ∧
      (g.running = none → t.graphs = s.graphs.set slot { g with running := some id, accepted := none } ∧
        t.replays = s.replays.set id { block := b, status := st, paths := if st = 0#16 then pathsTo s.now [g.root] else [] } ∧
        t.launches = s.launches.set id { l with stage := .running })
    ∃ refused, (∀ b, tenantRead s l.quarter l.cid g.pb g.pblen refused = .ok b → runs b 0#16) ∧
      (∀ w, tenantRead s l.quarter l.cid g.pb g.pblen refused = .error w → runs [] codeGraphRead)) ∧
  (∀ (w slot replay : Nat) (s : State) (p : Path) (g : Graph) (r : Replay), nextPath s w = some (slot, replay, p) → s.graphs.find slot = some g →
    s.replays.find replay = some r →
    let i := Instr.nodeEvaluation w
    let n := g.nodes.getD p.node ⟨0#64, 0#64⟩
    let rest := r.paths.erase p
    let becomes (x : Replay) := exec i s = .next { s with free := s.free + 1, walkerFree := s.walkerFree.set w (s.now + 4), replays := s.replays.set replay x }
    let pass := r.passes.get 0 p.node
    let arr := r.joins.get 0 p.node + 1
    (n.kind = 1 → r.status = 0#16 → Answers i s fun t => ∃ l : Launch, l.origin = .walker slot replay p.node ∧ l.quarter = g.quarter ∧ l.cid = g.cid ∧
      l.entry = n.arg ∧ l.args = nodeArgs r.block n.x ∧ l.stage = .submitted ∧
      t = { s with free := s.free + 1, walkerFree := s.walkerFree.set w (s.now + 4), nextId := s.nextId + 1, launches := s.launches.set s.nextId l,
                   replays := s.replays.set replay { r with paths := rest ++ [{ p with waits := some s.nextId }], tasks := r.tasks ++ [s.nextId] } }) ∧
    (n.kind = 1 → r.status ≠ 0#16 → becomes { r with paths := rest }) ∧
    (∀ v, n.kind = 2 → conditionWord s g n.arg = some v →
      becomes { r with paths := rest ++ pathsTo s.now [if v ≠ 0 then n.succ0 else n.succ1] }) ∧
    (∀ v, n.kind = 3 → conditionWord s g n.arg = some v → v ≠ 0 → pass ≠ n.x →
      becomes { r with paths := rest ++ pathsTo s.now [n.succ0], passes := r.passes.set p.node (pass + 1) }) ∧
    (n.kind = 3 → conditionWord s g n.arg = some 0 →
      becomes { r with paths := rest ++ pathsTo s.now [n.succ1], passes := r.passes.set p.node 0 }) ∧
    (n.kind = 4 → arr ≠ n.arg → becomes { r with paths := rest, joins := r.joins.set p.node arr }) ∧
    (n.kind = 4 → arr = n.arg → becomes { r with paths := rest ++ pathsTo s.now [n.succ0], joins := r.joins.set p.node 0 })) ∧
  (∀ (id slot : Nat) (s : State) (g : Graph) (r : Replay) (l : Launch), endedReplay s id = some (slot, g, r) → g.accepted = none →
    s.graphs.find slot = some g → s.launches.find id = some l →
    (∃ v a tag live, l.origin = .imageQueue v a tag live) → Answers (.replayEnd id) s fun t =>
      t.graphs = s.graphs.set slot { g with running := none } ∧ t.replays = s.replays.erase id ∧ t.launches = s.launches.erase id)

/-- SLICE_START (R349): a partition without a running tenant starts the slice of the tenant of the highest priority that has work, of those of one
priority the one in the lowest slot; where no tenant has work nothing happens. -/
def Clause.SliceStarts : Prop :=
  ∀ (q : Nat) (s : State), lowest s.pkg q = q → (s.quarter q).running = none →
    let x := s.quarter q
    (∀ k p cid, k < 16 → slotTenant x k = some (p, cid) → hasWork s q cid = true →
      (∀ j r d, j < 16 → slotTenant x j = some (r, d) → hasWork s q d = true → r ≤ p ∧ (r = p → k ≤ j)) →
      exec (.sliceStart q) s = .next { s with served := sliceMark q :: s.served, quarters := s.quarters.set q { x with running := some cid } }) ∧
    ((∀ k p cid, k < 16 → slotTenant x k = some (p, cid) → hasWork s q cid = false) → exec (.sliceStart q) s = .next s)

/-- GANG_SWITCH_TICK (R273, R349): on a tick of its period on which no slice has begun, a partition without a switch in progress keeps its tenant where no other tenant with work is due;
with a save area for both, the switch begins: every live die's save takes at least the cycles of its program-area bytes, every running context of the
outgoing tenant is STOPPING for a save and a parked one is SAVED, no register and no byte of memory changes, and no other context is touched. -/
def Clause.GangSwitchTicks : Prop :=
  ∀ (q out : Nat) (s : State), lowest s.pkg q = q → s.now % (s.quarter q).period = 0 → (s.quarter q).switch = none → tickMark q ∉ s.served →
    sliceMark q ∉ s.served → (s.quarter q).running = some out →
    let i := Instr.gangSwitchTick q
    ((∀ d, dueTenant s q out = some d → d = out) → exec i s = .next { s with served := tickMark q :: s.served }) ∧
    (∀ d, dueTenant s q out = some d → d ≠ out → hasSaveArea s q out = true → hasSaveArea s q d = true → Answers i s fun t =>
      (t.quarter q).switch = some s.now ∧ (t.quarter q).switchDue = some d ∧ (t.quarter q).switchTo = none ∧ (t.quarter q).savedDies = [] ∧
      (t.quarter q).running = some out ∧ t.mem = s.mem ∧
      (∀ e, e ∈ liveDies s q → s.now + 1 + savedBytes s q out e / 1280 ≤ (t.quarter q).saveAt.get 0 e) ∧
      (∀ k, k ∉ heldBy s q out → t.ctx k = s.ctx k) ∧
      (s.ctxs.wf = true → ∀ k, k ∈ heldBy s q out → (t.ctx k).s = (s.ctx k).s ∧ (t.ctx k).v = (s.ctx k).v ∧ (t.ctx k).pc = (s.ctx k).pc ∧
        (((s.ctx k).mode = .run ∨ (s.ctx k).mode = .service ∨ (s.ctx k).mode = .halted) → (s.ctx k).stop = none →
          (t.ctx k).mode = .stopping ∧ ∃ st : Stop, (t.ctx k).stop = some st ∧ st.kind = .save ∧ st.wasHalted = decide ((s.ctx k).mode = .halted)) ∧
        ((s.ctx k).mode = .parked → (t.ctx k).mode = .saved ∧ (t.ctx k).savedAs = .parked)))

/-- SAVE_COMPLETE (R273, R275, R349): a die whose save may be over is marked saved, and the slots of its cores in the save area hold what the save wrote, of
which the model lays out the first word alone (log entry 59); with the last die the incoming tenant is chosen: the one due at the tick, or one of a
higher priority that has work and a save area by then (log entry 76). -/
def Clause.SavesCompleted : Prop :=
  ∀ (q d : Nat) (s : State), saveDue s q d = true →
    let x := s.quarter q
    let i := Instr.saveComplete q d
    let cores := savedCores s q (x.running.getD 0) d
    let slots (t : State) := Memory.wf s.mem = true → (∀ y, y ∈ s.blocks → y.2.snap.todo = []) →
      (cores = [] → t.mem = s.mem ∧ (t.quarter q).saveTok = x.saveTok) ∧
      ∀ g sp, cores = [g] → slotSpot s q (x.running.getD 0) g = some sp → ∃ n, (t.quarter q).saveTok = x.saveTok.set g n ∧
        let place := hbmPlace sp.die sp.loc
        Memory.read t.mem place 32 = leBytes n 32 ∧ ∀ a, (a < place ∨ place + 32 ≤ a) → Memory.get t.mem a = Memory.get s.mem a
    let saved (t : State) (y : Quarter) := slots t ∧ t.quarter q = { y with savedDies := x.savedDies ++ [d], saveTok := (t.quarter q).saveTok } ∧
      t = { s with free := s.free + 1, mem := t.mem, dies := t.dies, blocks := t.blocks, quarters := t.quarters }
    (∀ e, e ∈ liveDies s q → e ≠ d → e ∉ x.savedDies → Answers i s fun t => saved t x) ∧
    (∀ due k p, (∀ e, e ∈ liveDies s q → e = d ∨ e ∈ x.savedDies) → x.switchDue = some due → slotOf x due = some k → slotTenant x k = some (p, due) →
      Answers i s fun t => ∃ n, saved t { x with switchTo := some n, running := some n } ∧
        ((∀ j r c, j < 16 → slotTenant x j = some (r, c) → hasWork s q c = true → hasSaveArea s q c = true → r ≤ p) → n = due) ∧
        (∀ j r c, j < 16 → slotTenant x j = some (r, c) → hasWork s q c = true → hasSaveArea s q c = true → p < r →
          ∃ y u, y < 16 ∧ slotTenant x y = some (u, n) ∧ hasWork s q n = true ∧ hasSaveArea s q n = true ∧ r ≤ u))

/-- SAVE_DEADLINE (R276): 40,000 cycles after the tick the saves end. Where every live die has saved, each one's count of missed saves is 0. Where one has not, its
count goes up, and without a third miss the switch is given up and the saved contexts return to what they were; a die that misses its third save
is fenced, and the outgoing tenant's contexts on it are unbound. -/
def Clause.SaveDeadlines : Prop :=
  ∀ (q : Nat) (s : State), deadlineFalls s q = true →
    let x := s.quarter q
    let i := Instr.saveDeadline q
    let late (d : Nat) := d ∈ liveDies s q ∧ d ∉ x.savedDies
    ((∀ d, ¬ late d) → Answers i s fun t => t = { s with served := deadlineMark q :: s.served, dies := t.dies } ∧
      ∀ d, d ∈ liveDies s q → (t.die d).missed = 0) ∧
    (∀ e, late e → (∀ d, late d → (s.die d).missed ≠ 2) → s.ctxs.wf = true →
      (∀ k, k ∈ standingSaved s q → (s.ctx k).savedStop = none ∧ gangHasCause s k = false ∧ (s.ctx k).vtcount = 0#9) → Answers i s fun t =>
      (t.quarter q).switch = none ∧ (t.quarter q).switchDue = none ∧ (t.quarter q).running = x.running ∧
      (∀ d, late d → (t.die d).missed = (s.die d).missed + 1 ∧ (t.die d).fenced = (s.die d).fenced) ∧
      ∀ k, k ∈ standingSaved s q → (t.ctx k).mode = (s.ctx k).savedAs ∧ (t.ctx k).s = (s.ctx k).s ∧ (t.ctx k).pc = (s.ctx k).pc) ∧
    (∀ d out, late d → (s.die d).missed = 2 → x.running = some out → Answers i s fun t => (t.die d).fenced = true ∧
      ∀ k, k ∈ heldBy s q out → dieOf (coreOf k) = d → t.ctx k = {})

/-- RESTORE (R274, R275): from 80,000 cycles after the tick the incoming tenant's contexts return to the states they were saved in, with their registers, to issue
no earlier than the next cycle. What stands of the tenant that leaves is kept aside whole, and its contexts are unbound; what was kept aside of the
one that comes in stands again, with the bytes of its ranges; the return predictor is not saved (R114). What a save writes into the slots of its area is
read back (R349, R326): a poisoned slot parks the contexts of its core with UNCORRECTABLE, and one with other bytes leaves their registers free. That what
is saved stands in the state, and one word of a slot for it, is the model's choice (log entry 59). -/
def Clause.Restores : Prop :=
  ∀ (q cid : Nat) (s : State), restoreDue s q = some cid → s.ctxs.wf = true →
    let i := Instr.restore q
    let ks := standingSaved s q
    let back (t : State) (k : Nat) (c : Ctx) := (t.ctx k).mode = c.savedAs ∧ (t.ctx k).s = c.s ∧ (t.ctx k).v = c.v ∧ (t.ctx k).pc = c.pc ∧
      s.now + 1 ≤ (t.ctx k).notBefore
    let returns (u : State) := ∀ g n sp, (u.quarter q).saveTok.find g = some n → slotSpot u q cid g = some sp →
      spotPoisoned u sp 32 = false ∧ Memory.read u.mem (hbmPlace sp.die sp.loc) 32 = leBytes n 32
    let kept := (∀ k, k ∈ ks → (s.ctx k).cid.toNat = cid ∧ (s.ctx k).savedStop = none ∧ gangHasCause s k = false ∧ (s.ctx k).vtcount = 0#9) ∧
      s.saves.find (q * 256 + cid) = none
    let settled (t : State) := (t.quarter q).switch = none ∧ (t.quarter q).switchDue = none ∧ (t.quarter q).switchTo = none
    (kept → returns s → Answers i s fun t => settled t ∧ t.mem = s.mem ∧ ∀ k, k ∈ ks → back t k (s.ctx k)) ∧
    (∀ g n sp, kept → (∀ k, k ∈ ks → coreOf k = g ∧ (s.ctx k).stop = none) → (s.quarter q).saveTok.find g = some n → slotSpot s q cid g = some sp →
      (spotPoisoned s sp 32 = true → Answers i s fun t => settled t ∧ ∀ k, k ∈ ks → (t.ctx k).mode = .parked ∧ (t.ctx k).pc = (s.ctx k).pc ∧
        (t.ctx k).trapcause.extractLsb' 0 16 = codeUncorrectable ∧ (t.ctx k).trapinfo = trapInfo { code := codeUncorrectable, why := 0x4A#8 }) ∧
      (spotPoisoned s sp 32 = false → Memory.read s.mem (hbmPlace sp.die sp.loc) 32 ≠ leBytes n 32 → Answers i s fun t => settled t ∧
        ∀ k, k ∈ ks → (t.ctx k).mode = (s.ctx k).savedAs ∧ (t.ctx k).pc = (s.ctx k).pc)) ∧
    (∀ (out : BitVec 8) (v : Saved), out.toNat ≠ cid → ks ≠ [] → (∀ k, k ∈ ks → (s.ctx k).cid = out) → s.saves.wf = true → Memory.wf s.mem = true →
      s.saves.find (q * 256 + cid) = some v → (v.ctxs.map (·.1)).Nodup →
      (∀ x, x ∈ v.ctxs → isService (coreOf x.1) = false ∧ partOf s.pkg (coreOf x.1) = q ∧ x.2.mode = .saved ∧ x.2.savedStop = none ∧ x.2.vtcount = 0#9) →
      (∀ x y, x ∈ v.ctxs → y ∈ s.ctxs → y.2.task = x.2.task → y.2.savedStop = none) →
      returns (applyAll (Act.seq (swapOut q ks) (swapIn q cid) s) s) →
      Answers i s fun t => settled t ∧ t.saves.find (q * 256 + cid) = none ∧
        (∃ w : Saved, t.saves.find (q * 256 + out.toNat) = some w ∧ w.quarter = q ∧ w.cid = out ∧ w.ctxs = ks.map fun k => (k, { s.ctx k with predictor := [] })) ∧
        (∀ x, x ∈ v.ctxs → back t x.1 x.2) ∧ (∀ k, k ∈ ks → (∀ x, x ∈ v.ctxs → x.1 ≠ k) → t.ctx k = {}) ∧
        ((v.ranges.map (·.1)).Nodup → ∀ m, m ∈ v.ranges → Memory.get t.mem m.1 = m.2))

/-- CHECKPOINT_TIMER_TRIGGER, SNAP_TICK and a trigger (R304, R306, R307): a timer that is due triggers a snapshot of a tenant with EN, in the mode of MODE, or while
one is in flight defers it. At the tick the generation counts up, the snapshot drains, its cut is the frames of the tenant with USE data or table in
the partition, those that are dirty where it is incremental, and every frame of the tenant there is clean. -/
def Clause.SnapshotStarts : Prop :=
  (∀ (q cid : Nat) (s : State), timerDue s q cid = true →
    let i := Instr.checkpointTimerTrigger q cid
    let b := s.block q cid
    let marked (x : Block) : State := { s with served := timerMark q cid :: s.served, blocks := s.blocks.set (q * 256 + cid) x }
    (b.hbctl.getLsbD 0 = false → exec i s = .next { s with served := timerMark q cid :: s.served }) ∧
    (b.hbctl.getLsbD 0 = true → b.state = 0#2 → exec i s = .next
      (marked { b with state := 1#2, snap := { tick := s.now + 4096, inc := b.hbctl.getLsbD 2, gen := b.gen } })) ∧
    (b.hbctl.getLsbD 0 = true → b.state ≠ 0#2 → exec i s = .next (marked { b with defer_ := true }))) ∧
  (∀ (q cid : Nat) (s : State), (s.block q cid).state = 1#2 → (s.block q cid).snap.tick ≤ s.now → Answers (.snapTick q cid) s fun t =>
    let b := t.block q cid
    t = { s with free := s.free + 1, dies := t.dies, blocks := s.blocks.set (q * 256 + cid) b } ∧
    b.gen = (s.block q cid).gen + 1#16 ∧ b.state = 2#2 ∧ b.snap.gen = (s.block q cid).snap.gen ∧
    (∀ d f u, (d, f, u) ∈ b.snap.cut ↔ d ∈ diesOf s.pkg q ∧ ∃ x : FrameInfo, (f, x) ∈ (s.die d).frames ∧ x.use = u ∧ x.own.toNat = cid ∧
      (u = useData ∨ u = useTable) ∧ ((s.block q cid).snap.inc = true → x.dirty = true)) ∧
    (∀ d, d ∈ diesOf s.pkg q → ∀ f (x : FrameInfo), (f, x) ∈ (t.die d).frames → x.own.toNat = cid → x.dirty = false))

/-- DRAIN_FRAME_DONE and DRAIN_HEADER_DONE (R310, R311): a drain engine reads a frame of the cut and writes its 65,536 bytes to the frame's blocks of the image; the
end of a write returns a snapshot frame to its reserve. When all frames are written the index and the header stand in the image, and the
snapshot is over; no other byte changes (where the tenant's error queue takes no record). A frame with a poisoned word aborts the snapshot (log
entry 67). -/
def Clause.SnapshotDrains : Prop :=
  (∀ (q cid d k : Nat) (s : State), drainDue s q cid d = true → Memory.wf s.mem = true →
    let b := s.block q cid
    let sn := b.snap
    let i := Instr.drainFrameDone q cid d
    let f := (cutAt sn k).2.1
    (nextWrite sn d = none → nextRead sn d = some k → spotPoisoned s ⟨d, f * 65536⟩ 65536 = true → b.defer_ = false → Answers i s fun t =>
      (t.block q cid).state = 0#2 ∧ (t.block q cid).abrt = true ∧ (t.block q cid).snap = {}) ∧
    (nextWrite sn d = none → nextRead sn d = some k → spotPoisoned s ⟨d, f * 65536⟩ 65536 = false → Answers i s fun t =>
      let place := drainPlace b (1 + (16 * sn.cut.length + 4095) / 4096 + 16 * k)
      let image := Memory.read s.mem (hbmPlace d (f * 65536)) 65536
      Memory.read t.mem place 65536 = image ∧ (∀ a, (a < place ∨ place + 65536 ≤ a) → Memory.get t.mem a = Memory.get s.mem a) ∧
      t = { s with free := s.free + 1, mem := t.mem, blocks := t.blocks } ∧ (t.block q cid).snap.images = sn.images ++ [(k, crc32c image)] ∧
      (t.block q cid).snap.writes = sn.writes ++ [k] ∧ (t.block q cid).snap.todo = sn.todo.erase (d, f)) ∧
    (nextWrite sn d = some k → Answers i s fun t => t.mem = s.mem ∧ (t.block q cid).snap.writes = sn.writes.erase k ∧
      (t.block q cid).snap.images = sn.images ∧
      ((d, f) ∈ sn.moved → ((t.die d).frames.get {} f).use = useFree ∧ f ∈ (t.die d).reserve.get [] cid) ∧
      ((d, f) ∉ sn.moved → t.dies = s.dies))) ∧
  (∀ (q cid : Nat) (s : State), drained (s.block q cid) = true → (s.block q cid).eq.base.getLsbD 4 = false → (s.block q cid).defer_ = false →
    Memory.wf s.mem = true → Answers (.drainHeaderDone q cid) s fun t =>
      let b := s.block q cid
      let n := 4096 * ((16 * b.snap.cut.length + 4095) / 4096)
      Memory.read t.mem (drainPlace b 0) 4096 = headerBytes s.pkg q cid b.snap ∧ Memory.read t.mem (drainPlace b 1) n = indexBytes b.snap ∧
      (∀ a, (a < drainPlace b 0 ∨ drainPlace b 0 + 4096 + n ≤ a) → Memory.get t.mem a = Memory.get s.mem a) ∧
      (t.block q cid).state = 0#2 ∧ (t.block q cid).snap = {} ∧ (t.block q cid).gen = b.gen ∧
      (t.block q cid).hbctl = if b.clearEn then setBit b.hbctl 0 false else b.hbctl)

/-- RESERVE_HOLD_EXPIRY and DRAIN_WRITE_ERROR (R312): a snapshot whose drain fails, or without NOABORT one that has held a write for 400,000 cycles, aborts: ABRT is
set, its snapshot frames return to their reserves, it is over, and no byte of memory changes (where the tenant's error queue takes no record). -/
def Clause.SnapshotAborts : Prop :=
  ∀ (i : Instr) (q cid : Nat) (s : State),
    (i = .drainWriteError q cid ∧ (s.block q cid).state = 2#2) ∨
      (i = .reserveHoldExpiry q cid ∧ holdExpired s q cid = true ∧ (s.block q cid).hbctl.getLsbD 1 = false) →
    (s.block q cid).eq.base.getLsbD 4 = false → (s.block q cid).defer_ = false → (s.block q cid).clearEn = false → Answers i s fun t =>
      (t.block q cid).state = 0#2 ∧ (t.block q cid).snap = {} ∧ (t.block q cid).abrt = true ∧ (t.block q cid).gen = (s.block q cid).gen ∧
      (t.block q cid).hbctl = (s.block q cid).hbctl ∧ t.mem = s.mem ∧ t.ctxs = s.ctxs ∧
      ∀ d f, (d, f) ∈ (s.block q cid).snap.moved → ((t.die d).frames.get {} f).use = useFree ∧ f ∈ (t.die d).reserve.get [] cid

/-- HBCTL_WRITE (R303): setting EN either takes RESERVE free frames on every controller of the partition, or sets RSVERR and leaves EN at 0; a write that keeps EN is
taken; one that clears it gives the reserve up, but during a snapshot waits for its end. -/
def Clause.HerbariumControl : Prop :=
  ∀ (quarter cid : Nat) (v : Word) (s : State),
    let q := lowest s.pkg quarter
    let b := s.block q cid
    let i := Instr.hbctlWrite quarter cid v
    let w := v &&& 0xFFFFFFFFFFFFFF06#64
    let sets (x : Block) : State := { s with blocks := s.blocks.set (q * 256 + cid) x }
    (b.hbctl.getLsbD 0 = true → v.getLsbD 0 = true → exec i s = .next (sets { b with hbctl := setBit w 0 true, clearEn := false })) ∧
    (b.hbctl.getLsbD 0 = true → v.getLsbD 0 = false → b.state ≠ 0#2 → exec i s = .next (sets { b with hbctl := setBit w 0 true, clearEn := true })) ∧
    (v.getLsbD 0 = false → (b.hbctl.getLsbD 0 = false ∨ b.state = 0#2) → Answers i s fun t =>
      t = { sets { b with hbctl := setBit w 0 false } with dies := t.dies } ∧ ∀ d, d ∈ diesOf s.pkg q →
        t.die d = { s.die d with reserve := (s.die d).reserve.erase cid }) ∧
    (b.hbctl.getLsbD 0 = false → v.getLsbD 0 = true → Answers i s fun t =>
      t = { s with free := s.free + 1, blocks := s.blocks.set (q * 256 + cid) (t.block q cid), dies := t.dies } ∧
      ((t.block q cid = { b with hbctl := setBit w 0 false, rsverr := true } ∧ t.dies = s.dies) ∨
       (t.block q cid = { b with hbctl := setBit w 0 true } ∧ ∀ d, d ∈ diesOf s.pkg q →
          let r := (t.die d).reserve.get [] cid
          t.die d = { s.die d with reserve := (s.die d).reserve.set cid r } ∧ r.length = (v.extractLsb' 8 16).toNat ∧ r.Nodup ∧
          ∀ f, f ∈ r → f ∈ freeFrames (s.die d))))

/-- BUDGET_INTERVAL_START and GOVERNOR_WRITE (R319, R320, R350): REM is refilled by the budget, at most to the budget; the deferred launches of the partition are QUEUED
again and no other launch changes; every service context's reserve is 100,000. A share or a limit is taken exactly where the shares of the
partitions keep within the limit; REM stands. -/
def Clause.Budgets : Prop :=
  (∀ (q : Nat) (s : State), intervalDue s q = true → s.launches.wf = true → s.ctxs.wf = true → Answers (.budgetIntervalStart q) s fun t =>
    let x := s.quarter q
    t = { s with served := budgetMark q :: s.served, quarters := s.quarters.set q { x with rem := some (min x.budget (x.remaining + x.budget)) },
                 launches := t.launches, ctxs := t.ctxs } ∧
    (∀ id l, s.launches.find id = some l → t.launches.find id = some (if l.quarter = q ∧ l.stage = .deferred then { l with stage := .queued } else l)) ∧
    (∀ id, s.launches.find id = none → t.launches.find id = none) ∧
    (∀ k, k ∈ serviceContexts s q → t.ctx k = { s.ctx k with reserve := 100000 }) ∧ ∀ k, k ∉ serviceContexts s q → t.ctx k = s.ctx k) ∧
  (∀ (q : Nat) (v : Word) (s : State),
    let x := v.extractLsb' 0 16
    let i := Instr.governorWrite (some q) v
    let new (p : Nat) : Nat := if p = q then x.toNat else (s.quarter p).share.toNat
    let here (p : Nat) : Nat := if lowest s.pkg p = p then new p else 0
    let sum := here 0 + here 1 + here 2 + here 3
    (lowest s.pkg q = q → sum ≤ s.pkg.govlim.toNat →
      exec i s = .next { s with quarters := s.quarters.set q { s.quarter q with share := x, rem := some (s.quarter q).remaining } }) ∧
    (lowest s.pkg q ≠ q ∨ s.pkg.govlim.toNat < sum → exec i s = .next s)) ∧
  (∀ (v : Word) (s : State),
    let x := v.extractLsb' 0 16
    let here (p : Nat) : Nat := if lowest s.pkg p = p then (s.quarter p).share.toNat else 0
    let sum := here 0 + here 1 + here 2 + here 3
    (sum ≤ x.toNat → exec (.governorWrite none v) s = .next { s with pkg := { s.pkg with govlim := x } }) ∧
    (x.toNat < sum → exec (.governorWrite none v) s = .next s))

/-- THERMAL_GATE_ON and THERMAL_GATE_OFF (R322): the GATE bit of a die is set by a hot reading, and clears at the end of a budget interval throughout which it was cool;
otherwise nothing happens. No context changes. -/
def Clause.ThermalGates : Prop :=
  ∀ (die : Nat) (s : State),
    (die < 24 → s.pkg.gate.getLsbD die = false → Answers (.thermalGateOn die) s fun t =>
      t.pkg = { s.pkg with gate := s.pkg.gate ||| (1#24 <<< die) } ∧ (t.die die).gatedAt = s.now ∧ t.ctxs = s.ctxs) ∧
    (24 ≤ die ∨ s.pkg.gate.getLsbD die = true → exec (.thermalGateOn die) s = .next s) ∧
    (s.pkg.gate.getLsbD die = true → s.now % 2000000 = 0 → (s.die die).gatedAt + 2000000 ≤ s.now → Answers (.thermalGateOff die) s fun t =>
      t.pkg = { s.pkg with gate := s.pkg.gate &&& ~~~(1#24 <<< die) } ∧ t.ctxs = s.ctxs) ∧
    ((s.pkg.gate.getLsbD die = false ∨ s.now % 2000000 ≠ 0 ∨ s.now < (s.die die).gatedAt + 2000000) → exec (.thermalGateOff die) s = .next s)

/-- POWER_ON, PIN_RESET, HV_RESET, THERMAL_TRIP and RAIL_FAULT (R322, R365, R366, R368, R375): the device is as after reset with the code of the cause in its cause
register, but for the flash, memory outside the device, and what is still to come from outside; before a reset other than POWER_ON a reset
record is appended to the step log. That the record holds RETRY in METHOD, and the code of the cause above the fields that R375 gives DETAIL, is the
model's choice (log entry 33). A reading below 115 degrees does nothing. -/
def Clause.DeviceResets : Prop :=
  let clears (s t : State) (cause : BitVec 8) :=
    t = { free := t.free, nextId := t.nextId, inputs := t.inputs, pkg := t.pkg, mem := t.mem } ∧ t.pkg.cause = cause ∧ t.pkg.start = s.pkg.start ∧
    (∀ i : Instr, ((t.inputs.map (·.2)).count i) = (s.inputs.map (·.2)).count i) ∧
    ∀ a, a < 2 ^ 45 → Memory.get t.mem a = 0#8
  let resets (i : Instr) (s : State) (cause : BitVec 8) (retry : Bool) (detail : BitVec 56) := Memory.wf s.mem = true → Answers i s fun t =>
    clears s t cause ∧ t.pkg = { cause := cause, logAt := s.pkg.logAt + 1, start := s.pkg.start } ∧
      (∀ a, 2 ^ 45 ≤ a → (a < logPlace s.pkg.logAt ∨ logPlace s.pkg.logAt + 16 ≤ a) → Memory.get t.mem a = Memory.get s.mem a) ∧
      Memory.read t.mem (logPlace s.pkg.logAt) 8 = wordBytes (s.pkg.start ++ 0xFF#8 ++ 3#8 ++ BitVec.ofNat 8 retry.toNat ++ 0xFF#8) 8 ∧
      Memory.read t.mem (logPlace s.pkg.logAt + 8) 8 = wordBytes (cause ++ detail) 8
  (∀ s : State, Memory.wf s.mem = true → Answers .powerOn s fun t => clears s t 1#8 ∧
    t.pkg = { cause := 1#8, logAt := s.pkg.logAt, start := s.pkg.start } ∧
    ∀ a, 2 ^ 45 ≤ a → Memory.get t.mem a = Memory.get s.mem a) ∧
  (∀ s : State, resets .pinReset s 2#8 s.pkg.retry 0#56) ∧
  (∀ (retry : Bool) (s : State), resets (.hvReset retry) s 3#8 retry 0#56) ∧
  (∀ (die : Nat) (reading : BitVec 8) (s : State), 115 ≤ reading.toNat →
    resets (.thermalTrip die reading) s 4#8 s.pkg.retry (0#40 ++ reading ++ BitVec.ofNat 8 die)) ∧
  (∀ (die : Nat) (reading : BitVec 8) (s : State), reading.toNat < 115 → exec (.thermalTrip die reading) s = .next s) ∧
  (∀ (die rail : BitVec 8) (s : State), resets (.railFault die rail) s 5#8 s.pkg.retry (0#40 ++ rail ++ die))

/-- BOOT_START (R365 to R368): the start that a reset began runs once and is counted, with the cause and RETRY that the log ends with: it ends done, or halted with no host port up, or in a reset with the cause BOOT_HALT.
Where no start is pending nothing happens. -/
def Clause.Starts : Prop :=
  ∀ s : State,
    (s.boot = .pending → Answers .bootStart s fun t => t.pkg.start = s.pkg.start + 1#32 ∧ s.pkg.logAt < t.pkg.logAt ∧
      (t.boot ≠ .pending → t.pkg.cause = (logReset s).1 ∧ t.pkg.retryStart = (logReset s).2) ∧
      (t.boot = .done ∨ (t.boot = .halted ∧ t.pkg.hostUp = []) ∨ (t.boot = .pending ∧ t.pkg.cause = 6#8 ∧ t.ctxs = [] ∧ t.cores = []))) ∧
    (s.boot ≠ .pending → exec .bootStart s = .next s)

/-- Field bits [lo, lo + n) of a counter register has gone up by k, at most to its largest value, and its other bits stand. -/
def Clause.counted (lo n k : Nat) (old new : Word) : Prop :=
  new.toNat / 2 ^ lo % 2 ^ n = min (old.toNat / 2 ^ lo % 2 ^ n + k) (2 ^ n - 1) ∧
  new.toNat % 2 ^ lo = old.toNat % 2 ^ lo ∧ new.toNat / 2 ^ (lo + n) = old.toNat / 2 ^ (lo + n)

/-- Access id has met an uncorrectable error in one of its parts that are on their way: all of it, or, where elements fault independently, the element of
the part is not performed, and its message is at its context, of a fetch FETCH_FAULT with WHY 0x23, and of any other UNCORRECTABLE with WHY 0x48, with the
home of the part (R369); no byte of memory changes. -/
def Clause.struck (s t : State) (id : Nat) : Prop :=
  ∀ a : Access, s.accs.find id = some a → a.faulted = none → openParts a ≠ [] → ∃ (m : FaultMsg) (b : Access) (p : Part), p ∈ openParts a ∧
    t.accs = s.accs.set id b ∧ b.faulted = some m ∧ b.performed = a.performed ∧
    b.parts = a.parts.map (fun q => if !q.done && (!elementwise a.op || decide (q.elem = p.elem)) then { q with done := true } else q) ∧
    t.faults = s.faults ++ [(s.now, { m with found := s.now })] ∧
    (let fetch := a.what = .fetch ∨ a.what = .metaFetch
     m.code = (if fetch then codeFetchFault else codeUncorrectable) ∧ m.why = if fetch then 0x23#8 else 0x48#8) ∧
    m.elem = (if elementwise a.op then BitVec.ofNat 6 p.elem else 0#6) ∧ m.home = partHome s a p ∧
    m.key = a.key ∧ m.bseq = a.op.bseq ∧ m.slot = a.op.slot ∧ m.access = id ∧ t.mem = s.mem ∧ t.ctxs = s.ctxs

/-- CARRIED_CHECK_MISMATCH (R324, R327, R328): a link counts its flits in SHCNT; a mismatch of a transfer is counted in CHK of the tenant and retried, and nothing else
happens; a second one of the beat is an uncorrectable error of the access, or ends the copy. A boundary passes on exactly the beats whose code is theirs (R323). The block of a partition's lowest
quarter counts (log entry 93). -/
def Clause.CarriedChecks : Prop :=
  ∀ (e : CheckEvent) (s : State),
    let q := lowest s.pkg e.quarter
    let i := Instr.carriedCheckMismatch e
    let cid (key : Nat) : Nat := (if e.cid = 0#8 then (s.ctx key).cid else e.cid).toNat
    let counts (key : Nat) (t : State) := Clause.counted 8 16 1 (s.block q (cid key)).ecnt (t.block q (cid key)).ecnt
    (∀ n, e.transfer = .flit n → Answers i s fun t => Clause.counted 24 16 n (s.quarter q).shcnt (t.quarter q).shcnt ∧
      t = { s with quarters := s.quarters.set q { s.quarter q with shcnt := (t.quarter q).shcnt } }) ∧
    (∀ key, e.second = false → (e.transfer = .matrixRead key ∨ e.transfer = .fetch key ∨
        (∃ id a, (e.transfer = .read id ∨ e.transfer = .write id) ∧ s.accs.find id = some a ∧ a.key = key) ∨
        ∃ id c, e.transfer = .copy id ∧ s.copies.find id = some c ∧ c.key = key) → Answers i s fun t => counts key t ∧
      t = { s with blocks := s.blocks.set (q * 256 + cid key) { s.block q (cid key) with ecnt := (t.block q (cid key)).ecnt } }) ∧
    (∀ id a, (e.transfer = .read id ∨ e.transfer = .write id) → s.accs.find id = some a → e.second = true → Answers i s fun t =>
      counts a.key t ∧ Clause.struck s t id) ∧
    (∀ id c, e.transfer = .copy id → s.copies.find id = some c → s.copies.wf = true → e.second = true → (s.ctx c.key).rollsBack = false →
      (s.ctx c.key).phase.stage = 0 → Answers i s fun t => t.copies.find id = none ∧ t.mem = s.mem) ∧
    (∀ key id, e.second = true → (e.transfer = .fetch key ∧ fetchAccess s key = some id ∨ e.transfer = .matrixRead key ∧ matrixAccess s key = some id) →
      Answers i s fun t =>
      counts key t ∧ Clause.struck s t id) ∧
    (∀ b : Carried, b.received = if crc32c b.data = b.code then some (protectBeat b.data) else none)

/-- ECC_ERROR_CONSUMED and ECC_SCRUB (R325 to R328): a corrected error is counted, for a structure that holds no tenant's data in SHCNT, and nothing else happens; a
parity error drops one line of a core's cache; one of a Vitrine, cover map or save area stops its context with WHY 0x4A; one of an HBM stack or of a
last-level slice strikes its access; any other stops its context with WHY 0x48 where no held phase rolls back. A scrub counts what it corrects, and poisons the 32 bytes that it cannot. -/
def Clause.StoredBits : Prop :=
  (∀ (e : EccEvent) (s : State),
    let q := lowest s.pkg e.quarter
    let i := Instr.eccErrorConsumed e
    let c := s.ctx e.key
    (∀ d, e.corrected = true → e.cid = some d →
      let n := (if d = 0#8 then c.cid else d).toNat
      Answers i s fun t => Clause.counted 40 24 1 (s.block q n).ecnt (t.block q n).ecnt ∧
        t = { s with blocks := s.blocks.set (q * 256 + n) { s.block q n with ecnt := (t.block q n).ecnt } }) ∧
    (e.corrected = true → e.cid = none → Answers i s fun t => Clause.counted 40 24 1 (s.quarter q).shcnt (t.quarter q).shcnt ∧
      t = { s with quarters := s.quarters.set q { s.quarter q with shcnt := (t.quarter q).shcnt } }) ∧
    (e.corrected = false → e.struct = .instructionCache → Answers i s fun t => ∃ l : List CacheLine, l.Sublist (s.core (coreOf e.key)).icache ∧
      l.length = (s.core (coreOf e.key)).icache.length - 1 ∧
      t = { s with free := s.free + 1, cores := s.cores.set (coreOf e.key) { s.core (coreOf e.key) with icache := l } }) ∧
    (e.corrected = false → e.struct = .vectorCache → Answers i s fun t => ∃ l : List CacheLine, l.Sublist (s.core (coreOf e.key)).vcache ∧
      l.length = (s.core (coreOf e.key)).vcache.length - 1 ∧
      t = { s with free := s.free + 1, cores := s.cores.set (coreOf e.key) { s.core (coreOf e.key) with vcache := l } }) ∧
    (e.corrected = false → (e.struct = .vitrine ∨ e.struct = .coverMap ∨ e.struct = .saveArea) → c.stop = none → c.mode = .run → Answers i s fun t =>
      Clause.counted 24 16 1 (s.block q c.cid.toNat).ecnt (t.block q c.cid.toNat).ecnt ∧ t.mem = s.mem ∧ (t.ctx e.key).mode = .stopping ∧
      (t.ctx e.key).trapcause = trapCause false true true codeUncorrectable ∧ (t.ctx e.key).s = c.s ∧ (t.ctx e.key).pc = c.pc ∧
      ∃ (st : Stop) (m : FaultMsg), (t.ctx e.key).stop = some st ∧ st.kind = .deferred ∧ st.faults = [m] ∧ m.why = 0x4A#8) ∧
    (e.corrected = false → (e.struct = .scratchpad ∨ e.struct = .weightBuffer ∨ e.struct = .permissionTable ∨ e.struct = .registerFile ∨
        e.struct = .accumulator ∨ e.struct = .queue) → c.stop = none → c.mode = .run → c.phase.held = false → c.phase.stage = 0 → Answers i s fun t =>
      let p := partOf s.pkg (coreOf e.key)
      Clause.counted 24 16 1 (s.block p c.cid.toNat).ecnt (t.block p c.cid.toNat).ecnt ∧ t.mem = s.mem ∧ (t.ctx e.key).mode = .stopping ∧
      (t.ctx e.key).trapcause = trapCause false true true codeUncorrectable ∧ (t.ctx e.key).s = c.s ∧ (t.ctx e.key).pc = c.pc ∧
      ∃ (st : Stop) (m : FaultMsg), (t.ctx e.key).stop = some st ∧ st.kind = .deferred ∧ st.faults = [m] ∧ m.why = 0x48#8 ∧ m.va = e.va) ∧
    (∀ id, e.corrected = false → (e.struct = .hbm ∨ e.struct = .lastLevel) → consumerAccess s e = some id → Answers i s fun t => Clause.struck s t id)) ∧
  (∀ (die frame word : Nat) (bad : Bool) (s : State),
    let q := lowest s.pkg (quarterOf die)
    let lo := if bad then 24 else 40
    let n := if bad then 16 else 24
    Answers (.eccScrub die frame word bad) s fun t => t.mem = s.mem ∧ t.ctxs = s.ctxs ∧
      (∀ c, ((s.die die).frames.get {} frame).tenant = some c → Clause.counted lo n 1 (s.block q c.toNat).ecnt (t.block q c.toNat).ecnt) ∧
      (∀ w, w ∈ (t.die die).poisoned ↔ w ∈ (s.die die).poisoned ∨ (bad = true ∧ w = frame * 65536 + 32 * word)))

/-- A lane of a link of the package: of a Lorig-X link, or of a port of a compute die. -/
def Clause.linkLane (k : Nat) : Prop := (∃ link, link < 8 ∧ k ∈ xLanes link) ∨ ∃ port, port < 120 ∧ k ∈ dLanes port

/-- Every lane of the package's links has been low for fewer than four windows. -/
def Clause.calm (s : State) : Prop := ∀ k, Clause.linkLane k → (s.lane k).lowrun.toNat < 4

/-- LANE_WINDOW_END (R337, R338, R361, R362): at the end of a window, and only then, each lane in service takes its margin, and its LOWRUN counts the windows
below its threshold and is 0 above it. When a lane of a Lorig-X link has its fourth low window the link steps its rate down and every LOWRUN in service is
0, or at the lowest rate the lane goes out; the traffic of such a Lorig-D lane moves to a free spare, and without one the port narrows to 16 lanes or is
lost. So no lane of a link is ever left with a LOWRUN of 4. Which partition's hypervisor is told (log
entry 27), and that lanes with no margin given stand and a lane taken out sends no LINK_DOWNSHIFT (log entry 74), are the model's choices. -/
def Clause.LaneWindows : Prop :=
  (∀ k, Clause.linkLane k → (State.reset.lane k).lowrun.toNat < 4) ∧
  ∀ (l : List (Nat × BitVec 8)) (s : State),
    let i := Instr.laneWindowEnd l
    let reaches (k : Nat) : Bool := (s.lane k).rate ≠ 3#2 && (s.lane k).lowrun = 3#8 && l.any fun x => x.1 = k && decide (x.2.toNat < (s.lane k).thresh.toNat)
    let after (k : Nat) : Lane := if (s.lane k).rate = 3#2 then s.lane k else match l.find? fun x => x.1 = k with
      | some x => { s.lane k with margin := x.2, lowrun := if x.2.toNat < (s.lane k).thresh.toNat then BitVec.ofNat 8 (min 255 ((s.lane k).lowrun.toNat + 1)) else 0#8 }
      | none => s.lane k
    let ends := s.now % 2 ^ 21 = 0 ∧ (l.map (·.1)).Nodup ∧ Clause.calm s
    (s.now % 2 ^ 21 ≠ 0 → exec i s = .next s) ∧
    (s.now % 2 ^ 21 = 0 → Clause.calm s → Answers i s Clause.calm) ∧
    (ends → (∀ k, Clause.linkLane k → reaches k = false) → Answers i s fun t => t = { s with lanes := t.lanes } ∧ ∀ k, t.lane k = after k) ∧
    (∀ link k r, ends → link < 8 → k ∈ xLanes link → reaches k = true → (∀ j, Clause.linkLane j → j ∉ xLanes link → reaches j = false) →
      (s.lane k).rate = r → (∀ j, j ∈ xLanes link → (s.lane j).rate = r ∨ (s.lane j).rate = 3#2) →
      (r.toNat < 2 → Answers i s fun t =>
        (∀ j, j ∈ xLanes link → t.lane j = if (s.lane j).rate = 3#2 then s.lane j else { after j with rate := r + 1#2, lowrun := 0#8 }) ∧
        (∀ j, j ∉ xLanes link → t.lane j = after j) ∧ t.pkg = s.pkg ∧
        Clause.counted 8 16 1 (s.quarter (iodPartition s (link / 2))).shcnt (t.quarter (iodPartition s (link / 2))).shcnt) ∧
      (r = 2#2 → Answers i s fun t =>
        (∀ j, j ∈ xLanes link → t.lane j = if reaches j then { after j with rate := 3#2, lowrun := 0#8, spare := false } else after j) ∧
        (∀ j, j ∉ xLanes link → t.lane j = after j) ∧
        t.pkg.xlinks.get 0 link = s.pkg.xlinks.get 0 link + ((xLanes link).filter reaches).length)) ∧
    (∀ port n, ends → port < 120 → n < 32 →
      let lane (n : Nat) : Nat := dLane (port / 5) (port % 5) n
      let out (j : Nat) : Bool := (s.lane (lane j)).rate = 3#2 || (s.lane (lane j)).spare
      let gone : Lane := { after (lane n) with rate := 3#2, lowrun := 0#8, spare := false }
      reaches (lane n) = true → (∀ j, Clause.linkLane j → j ≠ lane n → reaches j = false) →
      (∀ j, (j = 32 ∨ j = 33 ∧ out 32 = true) → out j = false → Answers i s fun t => t.lane (lane n) = gone ∧
        t.lane (lane j) = { after (lane j) with spare := true } ∧ t.pkg = s.pkg ∧ ∀ m, m ≠ lane n → m ≠ lane j → t.lane m = after m) ∧
      (out 32 = true → out 33 = true → s.pkg.ports.get 0 port ≤ 2 → Answers i s fun t => t.lane (lane n) = gone ∧ (∀ m, m ≠ lane n → t.lane m = after m) ∧
        t.pkg.ports.get 0 port = if s.pkg.ports.get 0 port = 2 ∨ inService t port < 16 then 2 else 1))

/-- QUIESCE_REQUEST, QUIESCE_CANCEL, QUIESCED, QUIESCE_TIMEOUT and NBOND_WRITE (R341, R343): a request makes its partition QUIESCING and a cancel returns it to RUN; it is
QUIESCED on a cycle on which nothing is placed, replayed, trapped, unread, in a snapshot or copied in it; a request that is late returns to RUN. NBOUND is taken only while the partition is QUIESCED. Writes at a quarter that is not its partition's lowest do nothing. -/
def Clause.Quiescing : Prop :=
  ∀ (q : Nat) (s : State),
    let x := s.quarter q
    let sets (y : Quarter) : State := { s with quarters := s.quarters.set q y }
    (lowest s.pkg q = q → x.qreq = false → exec (.quiesceRequest q) s = .next (sets { x with qreq := true, qreqAt := s.now, pstate := 1#3 })) ∧
    (lowest s.pkg q ≠ q ∨ x.qreq = true → exec (.quiesceRequest q) s = .next s) ∧
    (lowest s.pkg q = q → exec (.quiesceCancel q) s = .next (sets { x with qreq := false, pstate := 0#3 })) ∧
    (lowest s.pkg q ≠ q → exec (.quiesceCancel q) s = .next s) ∧
    (x.pstate = 1#3 → busyMask s q = 0 → exec (.quiesced q) s = .next (sets { x with pstate := 2#3 })) ∧
    (x.pstate ≠ 1#3 ∨ busyMask s q ≠ 0 → exec (.quiesced q) s = .next s) ∧
    (busyMask s q = 0 ↔ (∀ y, y ∈ s.launches → y.2.quarter = q → y.2.stage ≠ .bound ∧ y.2.stage ≠ .running ∧ y.2.stage ≠ .completing) ∧
      (∀ y, y ∈ s.graphs → y.2.quarter = q → y.2.accepted = none ∧ y.2.running = none) ∧
      (∀ y, y ∈ s.ctxs → coreOf y.1 < 2304 → partOf s.pkg (coreOf y.1) = q → y.2.mode ≠ .service ∧ y.2.mode ≠ .parked) ∧
      (∀ c, c ∈ boundCids x → (s.block q c.toNat).fq.head = (s.block q c.toNat).fq.tail ∧ (s.block q c.toNat).fq.waiting = [] ∧ (s.block q c.toNat).state = 0#2) ∧
      ∀ y, y ∈ s.copies → partOf s.pkg (coreOf y.2.key) ≠ q) ∧
    (x.pstate = 1#3 → x.qtmo ≠ 0#16 → x.qreqAt + x.qtmo.toNat * 4096 ≤ s.now → busyMask s q ≠ 0 → Answers (.quiesceTimeout q) s fun t =>
      t.quarters = s.quarters.set q { x with qreq := false, pstate := 0#3 } ∧ t.ctxs = s.ctxs ∧ t.pkg = s.pkg) ∧
    (∀ v : Word, lowest s.pkg q = q → x.pstate = 2#3 → exec (.nbondWrite q v) s = .next (sets { x with open_ := some (v.extractLsb' 0 4) })) ∧
    (∀ v : Word, lowest s.pkg q ≠ q ∨ x.pstate ≠ 2#3 → exec (.nbondWrite q v) s = .next s)

/-- PCFG_WRITE (R342): a write that asks for what is no partition, or for a change of a partition that is not QUIESCED, changes no register. A merge of
quarters 0 and 1 adds their shares and, field by field up to the largest value, the counters of each tenant; quarter 1 is at reset, and the
partition has no running tenant; the launches of quarter 1 are quarter 0's, and their queues follow (what a merge and a split do with launches,
blocks and REM is the model's choice, log entry 72). A split leaves the upper part at reset but QUIESCED, with the share of its
dies (R319). -/
def Clause.PartitionWrites : Prop :=
  ∀ (v : Word) (s : State),
    let i := Instr.pcfgWrite v
    (takesPcfg s v = false → Answers i s fun t => t.pkg = s.pkg ∧ t.quarters = s.quarters ∧ t.ctxs = s.ctxs) ∧
    (s.pkg.pcfg = 0#3 → v.extractLsb' 0 3 = 1#3 → (takesPcfg s v = true ↔ (s.quarter 0).pstate = 2#3 ∧ (s.quarter 1).pstate = 2#3 ∧
      (∀ q, q < 4 → (boundCids (s.quarter q)).length ≤ 16) ∧ (boundCids (s.quarter 0)).length + (boundCids (s.quarter 1)).length ≤ 16)) ∧
    (takesPcfg s v = true → s.pkg.pcfg = 0#3 → v.extractLsb' 0 3 = 1#3 → s.blocks.wf = true → Answers i s fun t =>
      t.pkg = { s.pkg with pcfg := 1#3 } ∧ t.ctxs = s.ctxs ∧ t.mem = s.mem ∧ t.quarter 1 = {} ∧ t.quarter 2 = s.quarter 2 ∧ t.quarter 3 = s.quarter 3 ∧
      (t.quarter 0).share = (s.quarter 0).share + (s.quarter 1).share ∧ (t.quarter 0).running = none ∧ (t.quarter 0).pstate = 2#3 ∧
      (boundCids (t.quarter 0)) = boundCids (s.quarter 0) ++ boundCids (s.quarter 1) ∧
      (s.launches.wf = true → ∀ id l, s.launches.find id = some l →
        t.launches.find id = some (if l.quarter = 1 then { l with quarter := 0 } else l)) ∧
      ∀ c, c < 256 → t.block 1 c = {} ∧ (t.block 0 c).queue = (s.block 0 c).queue ++ (s.block 1 c).queue ∧
        (t.block 0 c).pidle.toNat = min (2 ^ 48 - 1) ((s.block 0 c).pidle.toNat + (s.block 1 c).pidle.toNat) ∧
        ∀ lo n, (lo, n) ∈ [(40, 24), (24, 16), (8, 16), (0, 8)] → (t.block 0 c).ecnt.toNat / 2 ^ lo % 2 ^ n =
          min (2 ^ n - 1) ((s.block 0 c).ecnt.toNat / 2 ^ lo % 2 ^ n + (s.block 1 c).ecnt.toNat / 2 ^ lo % 2 ^ n)) ∧
    (takesPcfg s v = true → s.pkg.pcfg = 1#3 → v.extractLsb' 0 3 = 0#3 → s.blocks.wf = true → Answers i s fun t =>
      t.pkg = { s.pkg with pcfg := 0#3 } ∧ t.quarter 1 = { qreq := true, pstate := 2#3, rem := some 3500000000000 } ∧ (t.quarter 0).share = (s.quarter 0).share ∧
      (t.quarter 0).running = none ∧ ∀ c, c < 256 → t.block 1 c = {} ∧ t.block 0 c = s.block 0 c) ∧
    (takesPcfg s v = true → s.pkg.pcfg = 7#3 → v.extractLsb' 0 3 = 3#3 → Answers i s fun t => (t.quarter 2).share = 7000#16 ∧
      (t.quarter 2).remaining = (t.quarter 2).budget ∧ (t.quarter 2).pstate = 2#3 ∧ (t.quarter 2).qreq = true ∧ (t.quarter 0).share = (s.quarter 0).share)

/-- TSLOT_WRITE (R233, R316, R327, R348, R349, R355): a slot takes its register's bits, unless more than 64 tenants would be valid. A tenant that this binds starts with its
counters at 0; one that it unbinds leaves the walkers and the priority queues of the partition; a running tenant whose slot is cleared no longer
runs. No context and no byte of memory changes. -/
def Clause.TenantSlots : Prop :=
  ∀ (q k : Nat) (v : Word) (s : State),
    let i := Instr.tslotWrite q k v
    let x := s.quarter q
    let w := v &&& 0xF8000000000000FF#64
    let y := { x with tslot := x.tslot.set k w }
    (lowest s.pkg q ≠ q ∨ 16 ≤ k ∨ 64 < (packageCids s q k w).length → exec i s = .next s) ∧
    (lowest s.pkg q = q → k < 16 → (packageCids s q k w).length ≤ 64 → s.graphs.wf = true → Answers i s fun t =>
      t.mem = s.mem ∧ t.ctxs = s.ctxs ∧ t.pkg = s.pkg ∧ (t.quarter q).tslot = x.tslot.set k w ∧ (∀ p, p ≠ q → t.quarter p = s.quarter p) ∧
      (∀ c, c ∈ boundCids y → c ∉ boundCids x → (t.block q c.toNat).ecnt = 0#64 ∧ (t.block q c.toNat).pidle = 0#48) ∧
      (∀ c, c ∈ boundCids x → c ∉ boundCids y → (∀ g, g ∈ t.graphs → g.2.quarter = q → g.2.cid ≠ c) ∧
        ∀ d e, d ∈ diesOf s.pkg q → e ∈ (t.die d).pq → e.cid ≠ c) ∧
      ((x.tslot.get 0#64 k).getLsbD 63 = true → w.getLsbD 63 = false → x.running = some ((x.tslot.get 0#64 k).extractLsb' 0 8).toNat →
        (t.quarter q).running = none))

/-- TCSD_WRITE and SHOOT_DOWN_DONE (R252): with GO a shoot-down of a die starts, or is held while one is under way; when it is over the matching translations
and the lines of the pages concerned, all of the identifier or the page named, and no others, have left the die, a change of the interleave registers is
in effect, and what was written to the PTROOT of the identifier (log entry 89), and a held one starts. Reads that the home has translated are translated
afresh, and a shoot-down is not over while a write that it has translated is not applied. -/
def Clause.ShootDowns : Prop :=
  ∀ (die : Nat) (s : State),
    let d := s.die die
    let q := lowest s.pkg (quarterOf die)
    (∀ v : Word,
      (v.getLsbD 63 = false → exec (.tcsdWrite die v) s = .next s) ∧
      (v.getLsbD 63 = true → d.shoot = none → Answers (.tcsdWrite die v) s fun t => ∃ until_, s.now < until_ ∧
        t = { s with free := s.free + 1, accs := t.accs, dies := s.dies.set die { d with shoot := some ⟨v, until_⟩ } } ∧
        (s.accs.wf = true → ∀ id a, s.accs.find id = some a → t.accs.find id =
          some (if a.what.writes then a else { a with bound := a.bound.filter fun b => decide (b.die ≠ die) }))) ∧
      (v.getLsbD 63 = true → d.shoot ≠ none → exec (.tcsdWrite die v) s = .next { s with dies := s.dies.set die { d with shootQ := d.shootQ ++ [(v, 0)] } })) ∧
    (∀ x : ShootDown, d.shoot = some x →
      (s.now < x.done ∨ homeBusy s die = true → exec (.shootDownDone die) s = .next s) ∧
      (x.done ≤ s.now → homeBusy s die = false → Answers (.shootDownDone die) s fun t =>
        let cid := x.value.extractLsb' 52 8
        let all := x.value.getLsbD 62 = true
        let page (big : Bool) := pageOf big ((x.value.extractLsb' 16 36).toNat * 65536)
        (∀ e : TlbEntry, e ∈ (t.die die).tlb ↔ e ∈ d.tlb ∧ ¬ (e.cid = cid ∧ (all ∨ e.page = page e.big))) ∧
        (∀ l : CacheLine, l ∈ (t.die die).slice ↔ l ∈ d.slice ∧ ¬ (l.cid = cid ∧ (all ∨
          ∀ r, rangeOf (s.quarter q) (l.va * 128) = some r → pageOf r.1 (l.va * 128) = page r.1))) ∧
        (∀ n, (s.quarter q).ilNew = some n → (t.quarter q).ilbase = n.base ∧ (t.quarter q).illim = n.lim ∧ (t.quarter q).ilNew = none) ∧
        (∀ w, d.rootNew.find cid.toNat = some w → (t.die die).ptroot.get 0#64 cid.toNat = w) ∧
        (d.rootNew.find cid.toNat = none → (t.die die).ptroot = d.ptroot) ∧
        (d.shootQ = [] → (t.die die).shoot = none ∧ t.accs = s.accs) ∧
        ∀ v id r, d.shootQ = (v, id) :: r → s.accs.find id = none → (t.die die).shootQ = r ∧ ∃ until_, (t.die die).shoot = some ⟨v, until_⟩ ∧ s.now < until_))

/-- SVC_BIND and SVC_UNBIND (R350, R351, R354, R355): a binding fails with the code of the first check that its image does not pass, and its context stays unbound; otherwise
the context runs at the entry of the image, with its arguments, its first metadata word, the tenant's identifier and SYSOK, and the two entries of its
control window. To unbind clears V and stops
the context, which is unbound when it has stopped. That the binding ends on a free cycle, and shows a failure in the block's registers, is the model's choice
(log entry 78). -/
def Clause.ServiceBindings : Prop :=
  ∀ (die j : Nat) (s : State),
    let k := svcKey die j
    let b := (s.die die).svcBlock j
    let cid := b.cfg.extractLsb' 48 8
    let q := lowest s.pkg (quarterOf die)
    let image := readImage (virtualSource s q cid b.img.toNat)
    let cfgOf (t : State) := ((t.die die).svcBlock j).cfg
    let fails (code : BitVec 16) := Answers (.svcBind die j) s fun t => t.ctxs = s.ctxs ∧ cfgOf t = svcCfg false true cid code
    (bindDue s die j = true → image = none → fails codeImgFetch) ∧
    (∀ y, bindDue s die j = true → image = some y → signatureOk y (tenantKeys s q cid.toNat) = false → fails codeImgSig) ∧
    (∀ y w, bindDue s die j = true → image = some y → signatureOk y (tenantKeys s q cid.toNat) = true → (parseImage y).fault b.lb.toNat 0 true = some w →
      fails codeImgClaim) ∧
    (∀ y, bindDue s die j = true → image = some y → signatureOk y (tenantKeys s q cid.toNat) = true → (parseImage y).fault b.lb.toNat 0 true = none →
      pieceHold s q cid (.svc die j) ((parseImage y).pieceList b.lb.toNat) = .out → fails codeImgFetch) ∧
    (∀ y, bindDue s die j = true → image = some y → signatureOk y (tenantKeys s q cid.toNat) = true → (parseImage y).fault b.lb.toNat 0 true = none →
      pieceHold s q cid (.svc die j) ((parseImage y).pieceList b.lb.toNat) = .none → pieceFault s q cid ((parseImage y).pieceList b.lb.toNat) = none →
      Answers (.svcBind die j) s fun t => cfgOf t = svcCfg true false cid 0#16 ∧ (∀ n, n ≠ k → t.ctx n = s.ctx n) ∧
        (t.ctx k).mode = .run ∧ (t.ctx k).cid = cid ∧ (t.ctx k).v = [] ∧ (t.ctx k).mpc = (parseImage y).metaStart b.lb.toNat ∧
        (t.ctx k).sysok = tenantSysok s q cid ∧ (∀ n, n < 63 → (t.ctx k).sreg (n + 1) =
          ((((parseImage y).entries[0]?).bind fun e => e.ctxs.head?).elim [] (·.args)).getD n 0#64) ∧
        (t.ctx k).pc = BitVec.ofNat 64 (b.lb.toNat + (parseImage y).text) +
          (((parseImage y).entries[0]?).bind fun e => e.ctxs.head?).elim 0#64 (·.entry)) ∧
    (Answers (.svcUnbind die j) s fun t => (cfgOf t).getLsbD 63 = false ∧ ((t.die die).svcBlock j).pending = none ∧ t.mem = s.mem ∧
      ((s.ctx k).mode = .unbound → t.ctxs = s.ctxs) ∧
      ((s.ctx k).mode = .run → (s.ctx k).stop = none → (t.ctx k).mode = .stopping ∧ (t.ctx k).s = (s.ctx k).s ∧
        ∃ st : Stop, (t.ctx k).stop = some st ∧ st.kind = .unbind))

/-- HOT_RESET_SELF_HOSTED and HOST_LINK_RETRAINED (R356): while HOSTMGD is 0, a reset of a host port brings its link down, leaves the queue registers of its functions at 0,
turns the completions of their launches to the tenant's error queue, and gives the accesses in flight over a path to that host NOT_PRESENT with WHY
0x36, but for what their far side has begun to perform; no context and no other function changes. The port is up again once it has retrained. -/
def Clause.UpstreamResets : Prop :=
  ∀ (port : Nat) (s : State),
    let i := Instr.hotResetSelfHosted port
    (s.pkg.hostmgd = true ∨ 2 ≤ port → exec i s = .next s) ∧
    (s.pkg.hostmgd = false → port < 2 → s.launches.wf = true → (∀ x ∈ s.accs, x.2.begun = false) → Answers i s fun t => t.ctxs = s.ctxs ∧ t.quarters = s.quarters ∧
      (∀ p, p ∈ t.pkg.hostUp ↔ p ∈ s.pkg.hostUp ∧ p ≠ port) ∧
      (∀ v, v < 64 → portOf (s.vf v) = port → t.vf v = { s.vf v with base := 0#64, size := 0#4, head := 0#16, tail := 0#16 }) ∧
      (∀ v, (64 ≤ v ∨ portOf (s.vf v) ≠ port) → t.vf v = s.vf v) ∧
      (∀ id l v a tag live, s.launches.find id = some l → l.origin = .imageQueue v a tag live → v < 64 → (s.vf v).map.getLsbD 8 = true →
        portOf (s.vf v) = port → t.launches.find id = some { l with origin := .imageQueue v a tag false }) ∧
      (∀ id l slot r n, s.launches.find id = some l → l.origin = .walker slot r n → t.launches.find id = some l) ∧
      ∀ id a, (id, a) ∈ s.accs → hostParts s a port ≠ [] → a.faulted = none → a.what ≠ .fetch → a.what ≠ .metaFetch →
        ∃ y, y ∈ t.faults ∧ y.2.access = id ∧ y.2.key = a.key ∧ y.2.code = codeNotPresent ∧ y.2.why = 0x36#8) ∧
    (s.boot = .done → port < 2 → port ∉ s.pkg.hostUp → exec (.hostLinkRetrained port) s = .next { s with pkg := { s.pkg with hostUp := port :: s.pkg.hostUp } }) ∧
    ((s.boot ≠ .done ∨ 2 ≤ port ∨ port ∈ s.pkg.hostUp) → exec (.hostLinkRetrained port) s = .next s)

/-- FUNCTION_LEVEL_RESET and HOT_RESET_HOST_MANAGED (R357): a function's queue registers are 0, and in each partition that holds its tenant the bound launches are gone, the running
tasks end with HOST_LINK_RESET, the waiting launches and the accepted replays are discarded, and its entries leave the priority queues; the launches of other tenants stand. A
hot reset of a host-managed port resets its functions. -/
def Clause.FunctionResets : Prop :=
  (∀ (v : Nat) (s : State), (s.vf v).map.getLsbD 8 = false → exec (.functionLevelReset v) s =
    .next { s with vfs := s.vfs.set v { s.vf v with base := 0#64, size := 0#4, head := 0#16, tail := 0#16 } }) ∧
  (∀ (v : Nat) (s : State), (s.vf v).map.getLsbD 8 = true → s.launches.wf = true →
    let cid := (s.vf v).map.extractLsb' 0 8
    Answers (.functionLevelReset v) s fun t =>
      t.vf v = { s.vf v with base := 0#64, size := 0#4, head := 0#16, tail := 0#16 } ∧ (∀ n, n ≠ v → t.vf n = s.vf n) ∧ t.pkg = s.pkg ∧
      (∀ id l, s.launches.find id = some l → l.cid ≠ cid → t.launches.find id = some l) ∧
      ∀ q, q < 4 → lowest s.pkg q = q → cid ∈ boundCids (s.quarter q) →
        (∀ d e, d ∈ diesOf s.pkg q → e ∈ (t.die d).pq → e.cid ≠ cid) ∧
        ∀ id l, s.launches.find id = some l → l.cid = cid → l.quarter = q →
          ((l.stage = .submitted ∨ l.stage = .queued ∨ l.stage = .deferred ∨ l.stage = .waiting ∨ l.stage = .bound) → t.launches.find id = none) ∧
          (l.graph ≠ none → l.stage = .running → t.launches.find id = none) ∧
          (l.graph = none → (l.stage = .running ∨ l.stage = .completing) → ∃ m, t.launches.find id = some m ∧ m.stage = .completing ∧ m.ended = true ∧
            (l.ended = false → m.status = codeHostLinkReset))) ∧
  (∀ (port : Nat) (s : State),
    (s.pkg.hostmgd = false ∨ 2 ≤ port → exec (.hotResetHostManaged port) s = .next s) ∧
    (s.pkg.hostmgd = true → port < 2 → Answers (.hotResetHostManaged port) s fun t => t.pkg = s.pkg ∧
      (∀ v, v < 64 → (s.vf v).map.getLsbD 8 = true → portOf (s.vf v) = port → t.vf v = { s.vf v with base := 0#64, size := 0#4, head := 0#16, tail := 0#16 }) ∧
      ∀ v, (64 ≤ v ∨ (s.vf v).map.getLsbD 8 = false ∨ portOf (s.vf v) ≠ port) → t.vf v = s.vf v))

/-- CONNECTION_ENABLE, CONNECTION_WORD5_WRITE, NVMEOF_CONNECTED and CONNECTION_FAILURE (R364): a connection that is enabled is connecting where its KIND is 0 or 1; the first write of
word 5 brings an RDMA path up, and the connection of its queues an NVMe-oF one; a failure of one that is connecting or up leaves it failed with
the code. Nothing else of the state changes. -/
def Clause.Connections : Prop :=
  ∀ (n : Nat) (s : State),
    let c := s.conn n
    let v := c.w0.getLsbD 63
    let state (x : Conn) : BitVec 3 := x.w0.extractLsb' 60 3
    let kind := c.w0.extractLsb' 58 2
    let up (x : Conn) : Word := x.w0.extractLsb' 63 1 ++ 2#3 ++ x.w0.extractLsb' 0 60
    let sets (x : Conn) : State := { s with conns := s.conns.set n x }
    (v = true → exec (.connectionEnable n) s = .next s) ∧
    (v = false → Answers (.connectionEnable n) s fun t => ∃ d : Conn, t = { sets d with free := s.free + 1 } ∧ d.w0.getLsbD 63 = true ∧
      state d = (if kind.toNat < 2 then 1#3 else 0#3) ∧ d.w0.extractLsb' 24 36 = c.w0.extractLsb' 24 36 ∧ d.w1 = c.w1 ∧ d.w2 = c.w2 ∧ d.w3 = c.w3 ∧
      d.w4 = c.w4 ∧ d.errc = c.errc ∧ (kind ≠ 0#2 → d.w5 = c.w5) ∧ d.w5.extractLsb' 0 24 = c.w5.extractLsb' 0 24) ∧
    (∀ w : Word, Answers (.connectionWord5Write n w) s fun t => ∃ d : Conn, t = sets d ∧ d.w5 = c.w5.extractLsb' 24 40 ++ w.extractLsb' 0 24 ∧
      d.w0 = (if v = true ∧ kind = 0#2 ∧ state c = 1#3 then up c else c.w0) ∧ d.errc = c.errc) ∧
    (v = true → kind = 1#2 → state c = 1#3 → exec (.nvmeofConnected n) s = .next (sets { c with w0 := up c })) ∧
    (¬ (v = true ∧ kind = 1#2 ∧ state c = 1#3) → exec (.nvmeofConnected n) s = .next s) ∧
    (∀ e : W32, v = true → (state c = 1#3 ∨ state c = 2#3) → Answers (.connectionFailure n e) s fun t => ∃ d : Conn, t = sets d ∧ d.errc = e ∧ state d = 3#3 ∧
      d.w0.extractLsb' 0 60 = c.w0.extractLsb' 0 60 ∧ d.w0.getLsbD 63 = true ∧ d.w5 = c.w5) ∧
    (∀ e : W32, ¬ (v = true ∧ (state c = 1#3 ∨ state c = 2#3)) → exec (.connectionFailure n e) s = .next s)

/-- RING_HEAD_WRITE and the posting of a record (R329, R331, R345, R347): a write of HEAD is taken, and a record that waits is written at the next slot where the ring has space; a
record that is posted is written there, TAIL counts up, and COUNT holds the lost ones; while the ring is full one of SEV 0 or 1 is only
counted, and another waits. -/
def Clause.RecordRings : Prop :=
  let full (r : Ring) : Prop := r.base.getLsbD 4 = false ∨ (r.tail - r.head).toNat = 2 ^ ((r.base.extractLsb' 0 4).toNat + 6)
  (∀ (q cid : Nat) (eq : Bool) (head : W32) (s : State), lowest s.pkg q = q →
    let b := s.block q cid
    let ring := b.ring eq
    ring.waiting = [] → exec (.ringHeadWrite q cid eq head) s = .next { s with blocks := s.blocks.set (q * 256 + cid) (b.setRing eq { ring with head := head }) }) ∧
  (∀ (q cid : Nat) (eq : Bool) (head : W32) (s : State) (r : ErrRecord) (sp : Spot), lowest s.pkg q = q →
    let b := s.block q cid
    let ring := b.ring eq
    let c := effectiveCid (BitVec.ofNat 8 cid) ring.slotVa
    ring.waiting = [r] → ¬ full { ring with head := head } → locate s q c ring.slotVa useData c = .ok sp → inSnapshot s sp.die sp.loc = none →
    Memory.wf s.mem = true → Answers (.ringHeadWrite q cid eq head) s fun t =>
      Memory.read t.mem (hbmPlace sp.die sp.loc) 64 = r.bytes (ring.dropped.get 0 r.code.toNat) s.pkg.pkgid ∧
      (∀ a, (a < hbmPlace sp.die sp.loc ∨ hbmPlace sp.die sp.loc + 64 ≤ a) → Memory.get t.mem a = Memory.get s.mem a) ∧
      t.block q cid = b.setRing eq { ring with head := head, tail := ring.tail + 1#32, waiting := [], dropped := ring.dropped.erase r.code.toNat } ∧
      t.ctxs = s.ctxs) ∧
  (∀ (q cid : Nat) (eq : Bool) (s : State) (r : ErrRecord),
    let b := s.block q cid
    let ring := b.ring eq
    let r' := { r with time := some (r.time.getD s.now) }
    let t := applyAll (post q cid eq r s) s
    (full ring → r.sev.toNat < 2 → t = { s with blocks := s.blocks.set (q * 256 + cid) (b.setRing eq
      { ring with dropped := ring.dropped.set r.code.toNat (ring.dropped.get 0 r.code.toNat + 1) }) }) ∧
    (full ring → 2 ≤ r.sev.toNat → t = { s with blocks := s.blocks.set (q * 256 + cid) (b.setRing eq { ring with waiting := ring.waiting ++ [r'] }) }) ∧
    (∀ sp, ¬ full ring → ring.waiting = [] → inSnapshot s sp.die sp.loc = none → Memory.wf s.mem = true →
      locate s q (effectiveCid (BitVec.ofNat 8 cid) ring.slotVa) ring.slotVa useData (effectiveCid (BitVec.ofNat 8 cid) ring.slotVa) = .ok sp →
      Memory.read t.mem (hbmPlace sp.die sp.loc) 64 = r'.bytes (ring.dropped.get 0 r.code.toNat) s.pkg.pkgid ∧ t.ctxs = s.ctxs ∧
      t.block q cid = b.setRing eq { ring with tail := ring.tail + 1#32, dropped := ring.dropped.erase r.code.toNat }))

/-! The statements that conjoin several parts. -/

/-- ADD, SUB, MUL, MULH, AND, OR, XOR, the shifts, their immediate forms and MOVI. -/
def Obligations.IntegerArithmetic : Prop := Clause.IntegerOperations ∧ Clause.Shifts ∧ Clause.HighProduct ∧ Clause.Immediates

/-- MIN, MAX, CLZ, POPC, SEL, LEA, CMP and CMPI. -/
def Obligations.SelectionAndComparison : Prop := Clause.IntegerSelection ∧ Clause.Comparisons

/-- NaN, invalid operations, division by zero and FCVT on binary32 patterns. -/
def Obligations.FloatSpecialValues : Prop := Clause.FloatNan ∧ Clause.FloatInvalid ∧ Clause.FloatConversions

/-- The branches, CALL, RET and JR. A context has a predictor of its own, and a push on a full one drops the oldest of its 8 entries: the model's choice (log
entry 57). -/
def Obligations.BranchesAndCalls : Prop := Clause.Branches ∧ Clause.MaskBranches ∧ Clause.CallsAndReturns

/-- LD: what lands, what it starts, and its traps. -/
def Obligations.ScalarLoads : Prop := Clause.Loads ∧ Clause.LoadExtensions

/-- AMO and the operations of the atomics. -/
def Obligations.Atomics : Prop := Clause.ScalarAtomics ∧ Clause.AtomicOperations

/-- GRANT, REVOKE, PERMLD and CMPT. -/
def Obligations.HandleInstructions : Prop := Clause.Grant ∧ Clause.RevokeAndPermld ∧ Clause.CompareOfCopies

/-- FORK, JOIN, PQPUSH and PQPOP. A child's arguments are D, A, B and C in this order: the model's reading (log entry 23). -/
def Obligations.WorkCreation : Prop := Clause.ForkAndJoin ∧ Clause.PriorityQueue

/-- BARM, BARRIVE, BWAIT, the update of a barrier, GBARRIVE and GBWAIT. That a context of the task which is no member of the gang is listed as arrived is the
model's choice (log entry 110). -/
def Obligations.Barriers : Prop := Clause.NamedBarriers ∧ Clause.BarrierUpdate ∧ Clause.GangBarriers

/-- The integer vector operations and the treatment of overflow. -/
def Obligations.VectorIntegerOperations : Prop := Clause.OverflowTreatment ∧ Clause.VectorIntegers

/-- The floating-point vector operations, VRCP, VRSQ and VEXP. The greatest result of the estimates in FP32 is the number that R135 gives, of 13 significant bits:
the model's choice (log entry 105). -/
def Obligations.VectorFloatOperations : Prop := Clause.VectorFloats ∧ Clause.Estimates

/-- VCVT and VCMP. -/
def Obligations.VectorConversionAndCompare : Prop := Clause.VectorConversions ∧ Clause.VectorCompares

/-- VRED, VCLMUL and VCLMULH. -/
def Obligations.VectorReductionAndCarryless : Prop := Clause.VectorReductions ∧ Clause.CarrylessProducts

/-- MLDW and MLDW.S, and the shapes of the matrix units. -/
def Obligations.WeightsAndShapes : Prop := Clause.WeightLoads ∧ Clause.MatrixShapes

/-- MMA, MMAS, MZERO, MFUSE, MDRAIN and MDRAIN.V. -/
def Obligations.MatrixOperations : Prop := Clause.MatrixProducts ∧ Clause.MatrixDrains

/-- The copy instructions and their .AT forms: descriptors, traps and acceptance. The order of the traps (log entry 22), and that a copy of no bytes has its
descriptor, its alignment and its barrier judged (log entry 109), are the model's readings. -/
def Obligations.CopyInstructions : Prop := Clause.CopyDescriptors ∧ Clause.Copies

/-- SRMOV, QCFG, VTSEL, RDREC and WRREC. SRMOV reads SLOTW and SLOTN as they stood before the issue (log entry 41), and VTSEL of a service core is not limited to
a partition (log entry 20): both are the model's readings. -/
def Obligations.RegisterMovesAndRecords : Prop := Clause.RegisterMoves ∧ Clause.RecordAccess

/-- The system registers: what is read and what is written. -/
def Obligations.SystemRegisters : Prop := Clause.SystemRegisterReads ∧ Clause.SystemRegisterWrites

/-- DRAIN, WAITT, YIELD, CINV and CFLUSH. DRAIN of both sides acquires only when the drain is over (log entry 61), and the lines that .a drops at CLUSTER are
those of log entry 45: both are the model's choices. -/
def Obligations.DrainsAndWaits : Prop := Clause.Drains ∧ Clause.TimedWaits ∧ Clause.CacheMaintenance

/-- ENRD, ENCLR, SNAP and STEP. -/
def Obligations.EnergyAndSnapshotReads : Prop := Clause.EnergyReads ∧ Clause.SnapshotInstructions

/-- LOOPW, WDECL and the end test of an overwriting walk. -/
def Obligations.OverwritingWalks : Prop := Clause.OverwritingLoops ∧ Clause.Declarations ∧ Clause.WalkSteps

/-- HALT and the end of a task. HALTED stands in the state right after the issue, where R287 has it entered on the next cycle: the model's choice (log entry 92). -/
def Obligations.HaltsAndTaskEnds : Prop := Clause.Halts ∧ Clause.TaskEnd

/-- TRAP, taking a precise trap, TRAPCAUSE and TRAPINFO. A peer's TRAPCAUSE and TRAPINFO are 0 (log entry 24), a steal is abandoned at every stop (log entry 63;
R232 says so of a gang switch alone), and the bytes that this cycle's landings changed are restored (log entry 94): the model's choices. -/
def Obligations.Traps : Prop := Clause.SoftwareTraps ∧ Clause.PreciseTraps ∧ Clause.TrapRegisters

/-- The entry into SERVICE, the return from it, and RESUME. -/
def Obligations.ServiceAndResumption : Prop := Clause.ServiceEntryAndReturn ∧ Clause.Resumption

/-- The landing of results and the arrival of pending ones. The bits of a converted entry that D cannot hold (log entry 55), the sign of a converted zero (log
entry 106) and the cycle of an arrival of two registers (log entry 102) are the model's choices. -/
def Obligations.ResultsArrive : Prop := Clause.FixedLatencyLandings ∧ Clause.VariableLatencyArrivals

/-- Fetches, idle cycles, lockstep steps and illegal headers. -/
def Obligations.IssueCycles : Prop := Clause.InstructionFetches ∧ Clause.IdleCycles ∧ Clause.LockstepSteps ∧ Clause.IllegalHeaders

/-- The matrix sequencer: starts, rows and drains. -/
def Obligations.MatrixSequencer : Prop := Clause.SequencerStarts ∧ Clause.MatrixRowSteps ∧ Clause.MatrixDrainSteps

/-- Copies beat by beat, multicast landings and acknowledgements. The model's choices: an atomic that has read a landing stands over it (log entry 46), and a
source in the own scratchpad reads as at the issue (log entry 107). -/
def Obligations.CopyEngines : Prop := Clause.CopyLaunches ∧ Clause.CopyBeats ∧ Clause.MulticastLandings ∧ Clause.StoreAcknowledgements

/-- Accesses at a home, over a path, from a far package and to registers. The model's choices: an access over a path is answered as one (log entry 87), a far
access is judged in the lowest partition of its CID (log entry 37) and refused after a write held too long (log entry 67), into a window, or by the HDM
reading (log entry 97). -/
def Obligations.MemoryAccesses : Prop := Clause.HomeAccesses ∧ Clause.PathAccesses ∧ Clause.FarAccesses ∧ Clause.RegisterAccesses

/-- Deferred faults, and the end of a stop with its records. A fetch fault that comes during another stop or rollback is dropped (log entry 82; R50 does not say
it), and a steal is abandoned at every stop (log entry 63): the model's choices. -/
def Obligations.FaultsAndStops : Prop := Clause.DeferredFaults ∧ Clause.StopsCompleted

/-- Children taken and stolen, and the service of the priority queue. -/
def Obligations.ChildrenAndClaims : Prop := Clause.ChildrenTaken ∧ Clause.PriorityQueueService

/-- A launch from its image queue to its completion. A launch of a doorbell goes to the lowest partition of its CID, and a doorbell of a tenant bound nowhere
reads nothing (log entry 37); a queue's head is tested whether or not its slice runs (log entry 99): the model's choices. -/
def Obligations.Launches : Prop := Clause.ImageQueues ∧ Clause.AccessionChecks ∧ Clause.Placements ∧ Clause.StartTicks ∧ Clause.TaskCompletions

/-- The replays of a graph. -/
def Obligations.GraphReplays : Prop := Clause.GraphReplays

/-- Slices and gang switches: tick, saves, deadline and restore. A save takes bytes / 1,280 cycles or more (log entry 77), the incoming tenant is chosen at the
last save by a save area (log entry 76), and the save is kept in the state, one word of a slot for it (log entry 59): the model's choices. -/
def Obligations.GangSwitches : Prop := Clause.SliceStarts ∧ Clause.GangSwitchTicks ∧ Clause.SavesCompleted ∧ Clause.SaveDeadlines ∧ Clause.Restores

/-- Snapshots: trigger, cut, drain, abort and HBCTL. How a snapshot that finds a poisoned frame ends is the model's choice (log entry 67). -/
def Obligations.Snapshots : Prop := Clause.SnapshotStarts ∧ Clause.SnapshotDrains ∧ Clause.SnapshotAborts ∧ Clause.HerbariumControl

/-- Budgets, thermal gates, device resets and the start. REM stands at a write of GOVSHARE (log entry 73), METHOD and DETAIL of a reset record hold RETRY and the
cause (log entry 33), and the course of a start is that of log entry 34: the model's choices. -/
def Obligations.EnergyAndResets : Prop := Clause.Budgets ∧ Clause.ThermalGates ∧ Clause.DeviceResets ∧ Clause.Starts

/-- Carried checks, stored bits, scrubs and lane windows. Which partition's hypervisor is told (log entry 27), that lanes with no margin given stand and a lane
taken out sends no LINK_DOWNSHIFT (log entry 74), and that the block of a partition's lowest quarter counts (log entry 93) are the model's choices. -/
def Obligations.Reliability : Prop := Clause.CarriedChecks ∧ Clause.StoredBits ∧ Clause.LaneWindows

/-- Quiescing, PCFG, tenant slots, shoot-downs and service bindings. What a merge and a split do with launches, blocks and REM (log entry 72), when a service
binding ends and where its failure shows (log entry 78), and when a change of the interleave registers or of a root acts (log entry 89) are the model's
choices. -/
def Obligations.Partitions : Prop := Clause.Quiescing ∧ Clause.PartitionWrites ∧ Clause.TenantSlots ∧ Clause.ShootDowns ∧ Clause.ServiceBindings

/-- Host resets, connections and the rings of error records. The partition that takes a self-hosted reset's record (log entry 37), what a function reset clears of
registers, launches and replays (log entry 79), and the corners of links and connections (log entry 80) are the model's choices. -/
def Obligations.HostLinks : Prop := Clause.UpstreamResets ∧ Clause.FunctionResets ∧ Clause.Connections ∧ Clause.RecordRings

/-! The whole machine. -/

/-- DECODE AND ENCODE AGREE (R44, R47, R58 to R60, R71 to R75): every well-formed slot operation, with every field at every value its encoding admits, is what the decoder
reads from the bytes of its bundle, whatever bytes follow. No bit of an encoding is dropped. -/
def Obligations.EncodingRoundTrip : Prop :=
  ∀ (i : Instr) (rest : List Byte), wellFormed i = true → encode i ≠ [] → decodeBytes ((encode i).flatMap (fun w => wordBytes w 8) ++ rest) = some i

/-- Decoding and encoding agree the other way round (R58 to R60): a word that a slot class decodes is the encoding of the operation it decodes to, so two words of one class never
decode to one operation; and a slot word that decodes to an operation decodes to it alone. -/
def Obligations.DecodedWordIsItsEncoding : Prop :=
  (∀ (c : SlotClass) (w : Word) (i : Instr), decodeSlot c w = .ok i → encodeSlot i = some (c, w)) ∧
  ∀ (c d : SlotClass) (v w : Word) (i : Instr), decodeSlot c v = .ok i → decodeSlot d w = .ok i → c = d ∧ v = w

/-- The words that the spec's examples write out decode to the instructions they stand for: s: addi s5, s3, -2; b: brne s20, bimm, bad; a MOVI of 0 into s10, a LOOP on lp0 with count s1, and an SRMOV
of LP0 into s11 (R101, R115, R119, R120, R281); and the header of a bundle with S and B. -/
def Obligations.DecodeExampleWords : Prop :=
  decodeSlot .s 0x100503FFFE300000#64 = .ok (.addi ⟨0x05#8, 0x03#8, 0xFFFE#16, 3#4, 0#4, 0#3, 0#2, 0#3, 0#8⟩) ∧
  decodeSlot .b 0x0380145100000019#64 = .ok (.brne ⟨0x80#8, 0x14#8, 0x51#8, 0#2, 0#2, 25#28⟩) ∧
  decodeSlot .s 0x170A800000300000#64 = .ok (.movi ⟨0x0A#8, 0x80#8, 0#16, 3#4, 0#4, 0#3, 0#2, 0#3, 0#8⟩) ∧
  decodeSlot .b 0x1000018080000007#64 = .ok (.loop ⟨0#2, 0#4, 0#2, 0x01#8, 0x80#8, 0x80#8, 0#3, 0#3, 7#18⟩) ∧
  decodeSlot .s 0x550B808080000020#64 = .ok (.srmovRead ⟨0x0B#8, 0x80#8, 0x80#8, 0x80#8, 0#4, 0#4, 0#3, 0x20#13⟩) ∧
  decodeTableWord 128 0x100503FFFE300000_1000000000000000 = some (.addi ⟨0x05#8, 0x03#8, 0xFFFE#16, 3#4, 0#4, 0#3, 0#2, 0#3, 0#8⟩) ∧
  Header.ofWord 0x1040000000000000#64 = ⟨0#3, 0x41#7, 0#7, 0#6, 0#1, 0#6, 0#2, 0#32⟩

/-- A STEP RUNS THE DECODED INSTRUCTION (R29, R30, R52, R259; the order of the events of a cycle is the model's, log entry 1). An input that is due is executed first; then the next event of
the part of the cycle up to the issues of its cores, while that part lasts; then, in the rest of the cycle, an input that stands after the issues, and the next
event after them; where there is none, the cycle ends. Where the event is the
issue of a core whose chosen context has at its pc the two words of a bundle that the decoder reads as a slot operation i, and no other slot of it stands active, and i issues:
the step is exec of i at the state with that issue in progress, and after it what copies from the own scratchpad keep of the bytes that i stored over (log
entry 107) and the end of the issue (counts, BSEQ, the place of the next issue, the charge), of the yields and of the core's cycle; where i takes a trap of its own, the step takes that trap from the state before the issue, the context becomes the
core's holder, and the cycle of the core is still to be an idle one. -/
def Obligations.StepRunsDecodedInstruction : Prop :=
  (∀ (s : State) (x : Nat × Instr), nextInput s = some x → step s = exec x.2 { s with inputs := s.inputs.erase x }) ∧
  (∀ (s : State) (i : Instr), nextInput s = none → s.late = false → earlyEvent s = some i → step s = exec i s) ∧
  (∀ (s : State) (x : Nat × Instr), nextInput s = none → s.late = false → earlyEvent s = none → nextInput { s with late := true } = some x →
    step s = exec x.2 { s with late := true, inputs := s.inputs.erase x }) ∧
  (∀ (s : State) (i : Instr), nextInput s = none → (s.late = true ∨ earlyEvent s = none) → nextInput { s with late := true } = none →
    lateEvent { s with late := true } = some i → step s = exec i { s with late := true }) ∧
  (∀ s : State, nextInput s = none → (s.late = true ∨ earlyEvent s = none) → nextInput { s with late := true } = none →
    lateEvent { s with late := true } = none → step s = .next (tick { s with late := true })) ∧
  ∀ (s : State) (core x k : Nat) (hw w : Word) (i : Instr),
    let key := keyOf core x
    let c := s.ctx key
    let n : NextIssue := ⟨key, c.pc, [hw, w], 0, none⟩
    let s0 := applyAll (Act.seq (fun _ => [.ctx key { c.atIssue n with yielded := false }, .cur (startIssue c n)]) (endWait key) s) s
    let s1 : State := { s0 with cur := { s0.cur with slot := k, sw := w, step := 0#32 } }
    let l : List SlotIssue := [⟨k, w, 0#32, i⟩]
    let peers := topContexts s core (readyContexts s (accepts s core) core)
    nextInput s = none → s.late = false → earlyEvent s = some (.bundleIssue core) → hasIssued s core = false →
    issuer s (accepts s core) core = some x → c.repleft = 0 → (c.lock = false ∨ (c.pos ≠ 0#7 ∧ c.mode = .service)) →
    bundleWords s key c.pc = some [hw, w] → decodeBytes (wordBytes hw 8 ++ wordBytes w 8) = some i →
    encodeSlot i ≠ none → k < 7 → (Header.ofWord hw).p = slotBit k → (Header.ofWord hw).q = 0#7 → (∀ j, j < 7 → j ≠ k → (c.sticky j).idle = true) →
    (k = 0 ∨ k = 6 ∨ (c.mode ≠ .service ∧ isService core = false)) → Issues i s1 →
      (∀ e, slotOp i (issuedAt i s1) = .ok e → (applyAll e (issuedAt i s1)).cur.trapped = none → ∃ t, exec i s1 = .next t ∧
        step s = .next (applyAll (Act.seqs [modCur fun y => { y with slot := 7 },
          keepRead core (e ++ flushStores (applyAll e (issuedAt i s1))) s1, endIssue n l (issueCharge s0 (startIssue c n) l),
          modCore core fun y => holdAfter y x peers, endYields core (some x), softwareStop, serve core, endCycle core] t) t)) ∧
      (∀ tr, slotOp i (issuedAt i s1) = .error tr → exec i s1 = done (takePrecise key tr) s1 ∧
        step s = done (Act.seqs [takePrecise key tr, modCore core fun y => holdAfter y x peers, endYields core (some x),
          fun u => [.served (trapMark core :: u.served)]]) s)

/-- AN INVARIANT THAT EVERY STEP KEEPS: memory lists its bytes in rising order and lists no byte that an unlisted address reads as, and every table of the state is in its canonical
form. Whatever the instruction, from every such state a step leads to such a state, so that equal memories stay equal data. -/
def Obligations.WfKeptByStep : Prop := ∀ s t : State, s.Wf → step s = .next t → t.Wf

/-- The state after reset is in canonical form. -/
def Obligations.WfAtReset : Prop := State.reset.Wf

/-- What reset leaves (R14, R194, R315, R319, R337, R340, R346, R365): PTB 0, every context unbound with empty registers and all mask bits 1, barriers at 0, the registers of dies, quarters, package and lanes at the values
their rules give, and no byte listed. -/
def Obligations.StateAfterReset : Prop :=
  let s := State.reset
  s.now = 0 ∧ s.mem = [] ∧
  (∀ k, (s.ctx k).mode = .unbound ∧ (s.ctx k).emptyS = 0#64 ∧ (s.ctx k).emptyV = 0#64 ∧ ∀ m, (s.ctx k).mreg m = ~~~0#128) ∧
  (∀ c b, (s.core c).bars.get {} b = ⟨0#32, 0#32, false, false, false, 0⟩) ∧
  (∀ d, (s.die d).wstat = 700#16 ∧ (s.die d).weight 0 = 20 ∧ (s.die d).weight 1 = 30 ∧ (s.die d).weight 2 = 150 ∧ (s.die d).weight 3 = 300 ∧
    (s.die d).weight 4 = 250 ∧ (s.die d).weight 5 = 60 ∧ (s.die d).weight 6 = 1100 ∧ (s.die d).weight 7 = 600 ∧ (s.die d).weight 8 = 4400 ∧
    (s.die d).weight 9 = 2000 ∧ (s.die d).weight 10 = 200 ∧ (s.die d).weight 11 = 100 ∧ (s.die d).weight 12 = 400 ∧ (s.die d).weight 13 = 40 ∧
    (s.die d).weight 14 = 400) ∧
  (∀ q, (s.quarter q).qtmo = 0x0100#16 ∧ (s.quarter q).slice = 0x0100#16 ∧ (s.quarter q).pqw = 15#6 ∧ (s.quarter q).pstate = 0#3 ∧
    (s.quarter q).share = 3500#16) ∧
  s.pkg.govlim = 14000#16 ∧ s.pkg.gate = 0#24 ∧ s.pkg.pcfg = 0#3 ∧ s.pkg.cause = 1#8 ∧ (∀ n, (s.lane n).thresh = 0x20#8 ∧ (s.lane n).lowrun = 0#8)

/-- The model's free values and identifiers are never used twice: no step makes the counters that they are drawn with smaller (the counters are the model's own, log entry 2). -/
def Obligations.FreeValuesNeverReused : Prop := ∀ s t : State, step s = .next t → s.free ≤ t.free ∧ s.nextId ≤ t.nextId

/-- The memory frame of the slot operations (R107, R201, R211, R271, R290): an operation issued alone, but for a store, a scatter, an atomic, a LOOPW (which clears cover bits) and a RESUME (which performs
again what had begun), leaves every byte of memory as it was, whether it issues, waits or takes a trap; a trap takes back what had landed on its cycle (R265). -/
def Obligations.MemoryFrame : Prop :=
  ∀ (i : Instr) (s t : State), encodeSlot i ≠ none → s.cur.stores = [] → s.cur.near = [] → (∀ k, beforeNow s k = none) → exec i s = .next t →
    (∀ f, i ≠ .st f) → (∀ f, i ≠ .amo f) → (∀ f, i ≠ .vst f) → (∀ f, i ≠ .vscat f) → (∀ f, i ≠ .vamo f) → (∀ f, i ≠ .loopw f) →
    (∀ f, i ≠ .resume f) → (∀ f, i ≠ .resumeServiceCore f) → (∀ f, i ≠ .resumeEnd f) → t.mem = s.mem
end

