-- ==== Sys2Proof/Laws/Tables.lean ====
section
/-!
SUPPORT. Tables and memory: reading after a write, and the canonical forms that every operation keeps.
-/
namespace Sys2Proof

/-- A key that was just set reads as its value. -/
@[simp] theorem Sparse.get_set_self {α : Type} (d : α) (t : Sparse α) (i : Nat) (v : α) : (t.set i v).get d i = v := by
  induction t with
  | nil => simp [Sparse.set, Sparse.get]
  | cons x r ih =>
    obtain ⟨k, w⟩ := x
    simp only [Sparse.set]
    split
    · simp [Sparse.get]
    · split
      · simp [Sparse.get]
      · simp [Sparse.get, *]

/-- Setting a key leaves the value of every other key. -/
theorem Sparse.get_set_ne {α : Type} (d : α) (t : Sparse α) {i j : Nat} (v : α) (h : i ≠ j) : (t.set i v).get d j = t.get d j := by
  induction t with
  | nil => simp [Sparse.set, Sparse.get, h]
  | cons x r ih =>
    obtain ⟨k, w⟩ := x
    simp only [Sparse.set]
    split
    · simp only [Sparse.get, if_neg h]
      split
      · split
        · omega
        · simp only [if_pos (show j < k by omega)]
      · rfl
    · split
      · subst k
        simp only [Sparse.get, if_neg h]
      · simp only [Sparse.get, ih]

/-- Reading any key of a table with a key set. -/
theorem Sparse.get_set {α : Type} (d : α) (t : Sparse α) (i j : Nat) (v : α) :
    (t.set i v).get d j = if i = j then v else t.get d j := by
  split
  · subst j; simp
  · exact Sparse.get_set_ne d t v ‹_›

/-- Rising keys bound from below by less are still so. -/
theorem Sparse.risingFrom_mono {α : Type} {t : Sparse α} {a b : Nat} (h : a ≤ b) (w : Sparse.risingFrom b t = true) :
    Sparse.risingFrom a t = true := by
  cases t with
  | nil => rfl
  | cons x r =>
    obtain ⟨k, v⟩ := x
    simp only [Sparse.risingFrom, Bool.and_eq_true, decide_eq_true_eq] at w ⊢
    exact ⟨by omega, w.2⟩

/-- Setting a key keeps the keys rising. -/
theorem Sparse.risingFrom_set {α : Type} {t : Sparse α} {a i : Nat} {v : α} (w : Sparse.risingFrom a t = true) (h : a ≤ i) :
    Sparse.risingFrom a (t.set i v) = true := by
  induction t generalizing a with
  | nil => simp [Sparse.set, Sparse.risingFrom, h]
  | cons x r ih =>
    obtain ⟨k, u⟩ := x
    simp only [Sparse.risingFrom, Bool.and_eq_true, decide_eq_true_eq] at w
    simp only [Sparse.set]
    split
    · simp only [Sparse.risingFrom, Bool.and_eq_true, decide_eq_true_eq]
      exact ⟨h, by omega, w.2⟩
    · split
      · subst k; simp only [Sparse.risingFrom, Bool.and_eq_true, decide_eq_true_eq]; exact w
      · simp only [Sparse.risingFrom, Bool.and_eq_true, decide_eq_true_eq]
        exact ⟨w.1, ih w.2 (by omega)⟩

/-- Erasing a key keeps the keys rising. -/
theorem Sparse.risingFrom_erase {α : Type} {t : Sparse α} {a i : Nat} (w : Sparse.risingFrom a t = true) :
    Sparse.risingFrom a (t.erase i) = true := by
  induction t generalizing a with
  | nil => rfl
  | cons x r ih =>
    obtain ⟨k, u⟩ := x
    simp only [Sparse.risingFrom, Bool.and_eq_true, decide_eq_true_eq] at w
    simp only [Sparse.erase]
    split
    · exact Sparse.risingFrom_mono (by omega) w.2
    · split
      · simp only [Sparse.risingFrom, Bool.and_eq_true, decide_eq_true_eq]; exact w
      · simp only [Sparse.risingFrom, Bool.and_eq_true, decide_eq_true_eq]; exact ⟨w.1, ih w.2⟩

/-- A table with a key set has its form. -/
@[simp] theorem Sparse.wf_set {α : Type} {t : Sparse α} {i : Nat} {v : α} (w : t.wf = true) : (t.set i v).wf = true :=
  Sparse.risingFrom_set w (Nat.zero_le i)

/-- A table with a key set or erased has its form. -/
@[simp] theorem Sparse.wf_put {α : Type} {t : Sparse α} {i : Nat} {v : Option α} (w : t.wf = true) : (t.put i v).wf = true := by
  cases v with
  | none => exact Sparse.risingFrom_erase w
  | some v => exact Sparse.wf_set w

namespace Machine

/-- A byte that was just written reads as written. -/
@[simp] theorem Memory.get_set_self (m : List Host.Cell) (i : Nat) (v : Byte) (w : Memory.wf m = true) :
    Memory.get (Memory.set m i v) i = v := by
  suffices h : ∀ a, Memory.wfFrom a m = true → Memory.get (Memory.set m i v) i = v from h 0 w
  clear w
  induction m with
  | nil =>
    intro a _
    simp only [Memory.set]
    split
    · simp [Memory.get, *]
    · simp [Memory.get]
  | cons x r ih =>
    intro a w
    obtain ⟨k, u⟩ := x
    simp only [Memory.wfFrom, Bool.and_eq_true, decide_eq_true_eq] at w
    have hr : ∀ b, b ≤ k + 1 → Memory.wfFrom b r = true → i < b → Memory.get r i = unlistedByte := by
      intro b _ hw hb
      cases r with
      | nil => rfl
      | cons y q =>
        obtain ⟨j, z⟩ := y
        simp only [Memory.wfFrom, Bool.and_eq_true, decide_eq_true_eq] at hw
        simp only [Memory.get]
        rw [if_neg (by omega), if_pos (by omega)]
    simp only [Memory.set]
    split
    · split
      · simp only [Memory.get]
        rw [if_neg (by omega), if_pos (by assumption)]
        simp [*]
      · simp [Memory.get]
    · split
      · split
        · rw [hr (k + 1) (by omega) w.2 (by omega)]; simp [*]
        · simp [Memory.get]
      · simp only [Memory.get]
        rw [if_neg (by omega), if_neg (by omega)]
        exact ih (k + 1) w.2

/-- Writing a byte leaves every other byte. -/
theorem Memory.get_set_ne (m : List Host.Cell) {i j : Nat} (v : Byte) (h : i ≠ j) (w : Memory.wf m = true) :
    Memory.get (Memory.set m i v) j = Memory.get m j := by
  suffices g : ∀ a, Memory.wfFrom a m = true → Memory.get (Memory.set m i v) j = Memory.get m j from g 0 w
  clear w
  induction m with
  | nil =>
    intro a _
    simp only [Memory.set]
    split
    · rfl
    · simp [Memory.get, h]
  | cons x r ih =>
    intro a w
    obtain ⟨k, u⟩ := x
    simp only [Memory.wfFrom, Bool.and_eq_true, decide_eq_true_eq] at w
    simp only [Memory.set]
    split
    · split
      · rfl
      · simp only [Memory.get, if_neg h]
        split
        · split
          · omega
          · simp only [if_pos (show j < k by omega)]
        · rfl
    · split
      · subst k
        split
        · simp only [Memory.get, if_neg h]
          split
          · cases r with
            | nil => rfl
            | cons y q =>
              obtain ⟨l, z⟩ := y
              simp only [Memory.wfFrom, Bool.and_eq_true, decide_eq_true_eq] at w
              simp only [Memory.get]
              rw [if_neg (by omega), if_pos (by omega)]
          · rfl
        · simp only [Memory.get, if_neg h]
      · simp only [Memory.get, ih (k + 1) w.2]

/-- Less is still a lower bound. -/
theorem Memory.wfFrom_mono {m : List Host.Cell} {a b : Nat} (h : a ≤ b) (w : Memory.wfFrom b m = true) : Memory.wfFrom a m = true := by
  cases m with
  | nil => rfl
  | cons x r =>
    obtain ⟨k, v⟩ := x
    simp only [Memory.wfFrom, Bool.and_eq_true, decide_eq_true_eq] at w ⊢
    exact ⟨⟨by omega, w.1.2⟩, w.2⟩

/-- Writing a byte keeps the canonical form, from any bound below it. -/
theorem Memory.wfFrom_set {m : List Host.Cell} {a i : Nat} {v : Byte} (w : Memory.wfFrom a m = true) (h : a ≤ i) :
    Memory.wfFrom a (Memory.set m i v) = true := by
  induction m generalizing a with
  | nil =>
    simp only [Memory.set]
    split
    · rfl
    · simp [Memory.wfFrom, *]
  | cons x r ih =>
    obtain ⟨k, u⟩ := x
    simp only [Memory.wfFrom, Bool.and_eq_true, decide_eq_true_eq] at w
    simp only [Memory.set]
    split
    · split
      · simp only [Memory.wfFrom, Bool.and_eq_true, decide_eq_true_eq]; exact w
      · simp only [Memory.wfFrom, Bool.and_eq_true, decide_eq_true_eq]
        exact ⟨⟨h, by assumption⟩, ⟨by omega, w.1.2⟩, w.2⟩
    · split
      · subst k
        split
        · exact Memory.wfFrom_mono (by omega) w.2
        · simp only [Memory.wfFrom, Bool.and_eq_true, decide_eq_true_eq]
          exact ⟨⟨h, by assumption⟩, w.2⟩
      · simp only [Memory.wfFrom, Bool.and_eq_true, decide_eq_true_eq]
        exact ⟨w.1, ih w.2 (by omega)⟩

/-- Writing a byte keeps the canonical form. -/
theorem Memory.wf_set {m : List Host.Cell} {i : Nat} {v : Byte} (w : Memory.wf m = true) : Memory.wf (Memory.set m i v) = true :=
  Memory.wfFrom_set w (Nat.zero_le i)

/-- Writing bytes keeps the canonical form. -/
theorem Memory.wf_write {m : List Host.Cell} {a : Nat} {l : List Byte} (w : Memory.wf m = true) : Memory.wf (Memory.write m a l) = true := by
  induction l generalizing m a with
  | nil => exact w
  | cons b r ih => exact ih (Memory.wf_set w)

/-- Writing bytes leaves every byte outside them. -/
theorem Memory.get_write_of_outside {m : List Host.Cell} {a j : Nat} {l : List Byte} (w : Memory.wf m = true)
    (h : j < a ∨ a + l.length ≤ j) : Memory.get (Memory.write m a l) j = Memory.get m j := by
  induction l generalizing m a with
  | nil => rfl
  | cons b r ih =>
    simp only [List.length_cons] at h
    simp only [Memory.write]
    rw [ih (Memory.wf_set w) (by omega), Memory.get_set_ne m b (by omega) w]

/-- Bytes that were just written read as written. -/
theorem Memory.get_write_of_inside {m : List Host.Cell} {a i : Nat} {l : List Byte} (w : Memory.wf m = true) (h : i < l.length) :
    Memory.get (Memory.write m a l) (a + i) = l[i] := by
  induction l generalizing m a i with
  | nil => simp at h
  | cons b r ih =>
    simp only [Memory.write]
    cases i with
    | zero =>
      rw [Memory.get_write_of_outside (Memory.wf_set w) (by omega)]
      simpa using Memory.get_set_self m a b w
    | succ i =>
      have := ih (m := Memory.set m a b) (a := a + 1) (i := i) (Memory.wf_set w) (by simpa using h)
      rw [show a + (i + 1) = a + 1 + i by omega]
      simpa using this

/-- Leaving out cells keeps the canonical form. -/
theorem Memory.wfFrom_filter {m : List Host.Cell} {a : Nat} (p : Host.Cell → Bool) (w : Memory.wfFrom a m = true) :
    Memory.wfFrom a (m.filter p) = true := by
  induction m generalizing a with
  | nil => rfl
  | cons x r ih =>
    obtain ⟨k, v⟩ := x
    simp only [Memory.wfFrom, Bool.and_eq_true, decide_eq_true_eq] at w
    simp only [List.filter]
    split
    · simp only [Memory.wfFrom, Bool.and_eq_true, decide_eq_true_eq]; exact ⟨w.1, ih w.2⟩
    · exact Memory.wfFrom_mono (by omega) (ih w.2)

end Machine
end Sys2Proof
end

