-- ==== Sys2Proof/Laws/State.lean ====
section
/-!
SUPPORT. What each change does to the state, field by field: one equation per change, from which simp reads any field; and the tables'
accessors after a change of their own table.
-/
namespace Sys2Proof.Machine

@[simp] theorem applyEffect_ctx (s : State) (k : Nat) (c : Ctx) : applyEffect (.ctx k c) s = { s with ctxs := s.ctxs.set k c } := rfl
@[simp] theorem applyEffect_before (s : State) (k : Nat) (b : Before) : applyEffect (.before k b) s = { s with before := s.before.set k b } := rfl
@[simp] theorem applyEffect_core (s : State) (k : Nat) (c : Core) : applyEffect (.core k c) s = { s with cores := s.cores.set k c } := rfl
@[simp] theorem applyEffect_engine (s : State) (k : Nat) (x : Engine) : applyEffect (.engine k x) s = { s with engines := s.engines.set k x } := rfl
@[simp] theorem applyEffect_acc (s : State) (k : Nat) (a : Option Access) : applyEffect (.acc k a) s = { s with accs := s.accs.put k a } := rfl
@[simp] theorem applyEffect_copy (s : State) (k : Nat) (c : Option Copy) : applyEffect (.copy k c) s = { s with copies := s.copies.put k c } := rfl
@[simp] theorem applyEffect_mcast (s : State) (k : Nat) (m : Option Mcast) : applyEffect (.mcast k m) s = { s with mcasts := s.mcasts.put k m } := rfl
@[simp] theorem applyEffect_launch (s : State) (k : Nat) (l : Option Launch) : applyEffect (.launch k l) s = { s with launches := s.launches.put k l } := rfl
@[simp] theorem applyEffect_gang (s : State) (k : Nat) (g : Option Gang) : applyEffect (.gang k g) s = { s with gangs := s.gangs.put k g } := rfl
@[simp] theorem applyEffect_graph (s : State) (k : Nat) (g : Option Graph) : applyEffect (.graph k g) s = { s with graphs := s.graphs.put k g } := rfl
@[simp] theorem applyEffect_replay (s : State) (k : Nat) (r : Option Replay) : applyEffect (.replay k r) s = { s with replays := s.replays.put k r } := rfl
@[simp] theorem applyEffect_die (s : State) (k : Nat) (d : Die) : applyEffect (.die k d) s = { s with dies := s.dies.set k d } := rfl
@[simp] theorem applyEffect_quarter (s : State) (k : Nat) (q : Quarter) : applyEffect (.quarter k q) s = { s with quarters := s.quarters.set k q } := rfl
@[simp] theorem applyEffect_block (s : State) (k : Nat) (b : Block) : applyEffect (.block k b) s = { s with blocks := s.blocks.set k b } := rfl
@[simp] theorem applyEffect_vf (s : State) (k : Nat) (v : Vf) : applyEffect (.vf k v) s = { s with vfs := s.vfs.set k v } := rfl
@[simp] theorem applyEffect_lane (s : State) (k : Nat) (l : Lane) : applyEffect (.lane k l) s = { s with lanes := s.lanes.set k l } := rfl
@[simp] theorem applyEffect_conn (s : State) (k : Nat) (c : Conn) : applyEffect (.conn k c) s = { s with conns := s.conns.set k c } := rfl
@[simp] theorem applyEffect_save (s : State) (k : Nat) (v : Option Saved) : applyEffect (.save k v) s = { s with saves := s.saves.put k v } := rfl
@[simp] theorem applyEffect_walker (s : State) (k n : Nat) : applyEffect (.walker k n) s = { s with walkerFree := s.walkerFree.set k n } := rfl
@[simp] theorem applyEffect_faults (s : State) (l : List (Nat × FaultMsg)) : applyEffect (.faults l) s = { s with faults := l } := rfl
@[simp] theorem applyEffect_answer (s : State) (a : FarAccess) (r : Option (List Byte)) : applyEffect (.answer a r) s = { s with answers := s.answers ++ [(a, r)] } := rfl
@[simp] theorem applyEffect_pkg (s : State) (p : Package) : applyEffect (.pkg p) s = { s with pkg := p } := rfl
@[simp] theorem applyEffect_mem (s : State) (a : Nat) (bs : List Byte) : applyEffect (.mem a bs) s = { s with mem := Memory.write s.mem a bs } := rfl
@[simp] theorem applyEffect_cur (s : State) (i : Issue) : applyEffect (.cur i) s = { s with cur := i } := rfl
@[simp] theorem applyEffect_free (s : State) : applyEffect (.free) s = { s with free := s.free + 1 } := rfl
@[simp] theorem applyEffect_newId (s : State) : applyEffect (.newId) s = { s with nextId := s.nextId + 1 } := rfl
@[simp] theorem applyEffect_inputs (s : State) (l : List (Nat × Instr)) : applyEffect (.inputs l) s = { s with inputs := l } := rfl
@[simp] theorem applyEffect_served (s : State) (l : List Nat) : applyEffect (.served l) s = { s with served := l } := rfl
@[simp] theorem applyEffect_held (s : State) (l : List Held) : applyEffect (.held l) s = { s with held := l } := rfl
@[simp] theorem applyEffect_boot (s : State) (b : BootPhase) : applyEffect (.boot b) s = { s with boot := b } := rfl
@[simp] theorem applyEffect_clear (s : State) (p : Package) : applyEffect (.clear p) s = cleared p s := rfl

@[simp] theorem State.ctx_set (s : State) (k : Nat) (x : Ctx) : State.ctx { s with ctxs := s.ctxs.set k x } k = x := by simp only [State.ctx, Sparse.get_set_self]
theorem State.ctx_set_ne (s : State) {k j : Nat} (x : Ctx) (h : k ≠ j) : State.ctx { s with ctxs := s.ctxs.set k x } j = s.ctx j := by simp only [State.ctx, Sparse.get_set_ne _ _ _ h]
@[simp] theorem State.core_set (s : State) (k : Nat) (x : Core) : State.core { s with cores := s.cores.set k x } k = x := by simp only [State.core, Sparse.get_set_self]
theorem State.core_set_ne (s : State) {k j : Nat} (x : Core) (h : k ≠ j) : State.core { s with cores := s.cores.set k x } j = s.core j := by simp only [State.core, Sparse.get_set_ne _ _ _ h]
@[simp] theorem State.engine_set (s : State) (k : Nat) (x : Engine) : State.engine { s with engines := s.engines.set k x } k = x := by simp only [State.engine, Sparse.get_set_self]
theorem State.engine_set_ne (s : State) {k j : Nat} (x : Engine) (h : k ≠ j) : State.engine { s with engines := s.engines.set k x } j = s.engine j := by simp only [State.engine, Sparse.get_set_ne _ _ _ h]
@[simp] theorem State.die_set (s : State) (k : Nat) (x : Die) : State.die { s with dies := s.dies.set k x } k = x := by simp only [State.die, Sparse.get_set_self]
theorem State.die_set_ne (s : State) {k j : Nat} (x : Die) (h : k ≠ j) : State.die { s with dies := s.dies.set k x } j = s.die j := by simp only [State.die, Sparse.get_set_ne _ _ _ h]
@[simp] theorem State.quarter_set (s : State) (k : Nat) (x : Quarter) : State.quarter { s with quarters := s.quarters.set k x } k = x := by simp only [State.quarter, Sparse.get_set_self]
theorem State.quarter_set_ne (s : State) {k j : Nat} (x : Quarter) (h : k ≠ j) : State.quarter { s with quarters := s.quarters.set k x } j = s.quarter j := by simp only [State.quarter, Sparse.get_set_ne _ _ _ h]
@[simp] theorem State.vf_set (s : State) (k : Nat) (x : Vf) : State.vf { s with vfs := s.vfs.set k x } k = x := by simp only [State.vf, Sparse.get_set_self]
theorem State.vf_set_ne (s : State) {k j : Nat} (x : Vf) (h : k ≠ j) : State.vf { s with vfs := s.vfs.set k x } j = s.vf j := by simp only [State.vf, Sparse.get_set_ne _ _ _ h]
@[simp] theorem State.lane_set (s : State) (k : Nat) (x : Lane) : State.lane { s with lanes := s.lanes.set k x } k = x := by simp only [State.lane, Sparse.get_set_self]
theorem State.lane_set_ne (s : State) {k j : Nat} (x : Lane) (h : k ≠ j) : State.lane { s with lanes := s.lanes.set k x } j = s.lane j := by simp only [State.lane, Sparse.get_set_ne _ _ _ h]
@[simp] theorem State.conn_set (s : State) (k : Nat) (x : Conn) : State.conn { s with conns := s.conns.set k x } k = x := by simp only [State.conn, Sparse.get_set_self]
theorem State.conn_set_ne (s : State) {k j : Nat} (x : Conn) (h : k ≠ j) : State.conn { s with conns := s.conns.set k x } j = s.conn j := by simp only [State.conn, Sparse.get_set_ne _ _ _ h]

end Sys2Proof.Machine
end

