-- ==== Sys2Proof/Laws/Effects.lean ====
section
/-!
SUPPORT. Lists of changes: they compose, they keep the canonical forms, and the identifiers and free values that they draw are never drawn
again.
-/
namespace Sys2Proof.Machine

@[simp] theorem applyAll_nil (s : State) : applyAll [] s = s := rfl
@[simp] theorem applyAll_cons (e : Effect) (r : List Effect) (s : State) : applyAll (e :: r) s = applyAll r (applyEffect e s) := rfl

/-- Changes made one list after another. -/
theorem applyAll_append (l r : List Effect) (s : State) : applyAll (l ++ r) s = applyAll r (applyAll l s) := by
  induction l generalizing s with
  | nil => rfl
  | cons e l ih => exact ih (applyEffect e s)

/-- A part after another. -/
theorem applyAll_seq (f g : Act) (s : State) : applyAll (Act.seq f g s) s = applyAll (g (applyAll (f s) s)) (applyAll (f s) s) :=
  applyAll_append _ _ _

/-- The machine right after reset has its canonical form. -/
theorem State.reset_tables_empty : State.reset.mem = [] ∧ State.reset.ctxs = [] ∧ State.reset.accs = [] := ⟨rfl, rfl, rfl⟩

/-- One change keeps the canonical forms. -/
theorem State.Wf.applyEffect {s : State} (w : s.Wf) (e : Effect) : (applyEffect e s).Wf := by
  cases w
  cases e <;> constructor <;>
    first
    | assumption
    | exact Sparse.wf_set ‹_›
    | exact Sparse.wf_put ‹_›
    | exact Memory.wf_write ‹_›
    | exact Memory.wfFrom_filter _ ‹_›
    | rfl

/-- Changes keep the canonical forms. -/
theorem State.Wf.applyAll {s : State} (w : s.Wf) (l : List Effect) : (applyAll l s).Wf := by
  induction l generalizing s with
  | nil => exact w
  | cons e r ih => exact ih (w.applyEffect e)

/-- One change draws no identifier that was drawn before. -/
theorem nextId_le_applyEffect (e : Effect) (s : State) : s.nextId ≤ (applyEffect e s).nextId := by
  cases e <;> simp [cleared]

/-- Changes draw no identifier that was drawn before. -/
theorem nextId_le_applyAll (l : List Effect) (s : State) : s.nextId ≤ (applyAll l s).nextId := by
  induction l generalizing s with
  | nil => exact Nat.le_refl _
  | cons e r ih => exact Nat.le_trans (nextId_le_applyEffect e s) (ih _)

/-- One change draws no free value that was drawn before. -/
theorem free_le_applyEffect (e : Effect) (s : State) : s.free ≤ (applyEffect e s).free := by
  cases e <;> simp [cleared]

/-- Changes draw no free value that was drawn before. -/
theorem free_le_applyAll (l : List Effect) (s : State) : s.free ≤ (applyAll l s).free := by
  induction l generalizing s with
  | nil => exact Nat.le_refl _
  | cons e r ih => exact Nat.le_trans (free_le_applyEffect e s) (ih _)

/-- What a part leaves is a next state made by its changes. -/
theorem done_eq (f : Act) (s : State) : done f s = .next (applyAll (f s) s) := rfl


end Sys2Proof.Machine
end

