-- ==== Sys2Proof/Laws/Encode.lean ====
section
/-!
SUPPORT. Each format's fields and word agree: the fields of the word made from fields are those fields, its opcode is the one given, and the word
made from a word's fields and opcode is that word.
-/
namespace Sys2Proof

/-- The fields of a format R word (R58-R60). -/
@[simp] theorem FmtR.ofWord_toWord (op : BitVec 8) (f : FmtR) : FmtR.ofWord (f.toWord op) = f := by
  cases f
  simp only [FmtR.ofWord, FmtR.toWord, FmtR.mk.injEq]
  refine ⟨?_, ?_, ?_, ?_, ?_, ?_, ?_, ?_, ?_, ?_⟩ <;>
  · repeat rw [BitVec.extractLsb'_append_eq_of_le (by decide)]
    first
    | exact BitVec.extractLsb'_eq_self
    | rw [BitVec.extractLsb'_append_eq_of_add_le (by decide)]; exact BitVec.extractLsb'_eq_self

/-- The opcode of a format R word (R54). -/
@[simp] theorem FmtR.opcode_toWord (op : BitVec 8) (f : FmtR) : (f.toWord op).extractLsb' 56 8 = op := by
  simp only [FmtR.toWord]
  repeat rw [BitVec.extractLsb'_append_eq_of_le (by decide)]
  exact BitVec.extractLsb'_eq_self

/-- A word is that of its format R fields and its opcode. -/
theorem FmtR.toWord_ofWord (w : Word) : (FmtR.ofWord w).toWord (w.extractLsb' 56 8) = w := by
  simp only [FmtR.ofWord, FmtR.toWord]
  repeat rw [BitVec.extractLsb'_append_extractLsb'_eq_extractLsb' (by decide)]
  exact BitVec.extractLsb'_eq_self

/-- The fields of a format I word (R58-R60). -/
@[simp] theorem FmtI.ofWord_toWord (op : BitVec 8) (f : FmtI) : FmtI.ofWord (f.toWord op) = f := by
  cases f
  simp only [FmtI.ofWord, FmtI.toWord, FmtI.mk.injEq]
  refine ⟨?_, ?_, ?_, ?_, ?_, ?_, ?_, ?_, ?_⟩ <;>
  · repeat rw [BitVec.extractLsb'_append_eq_of_le (by decide)]
    first
    | exact BitVec.extractLsb'_eq_self
    | rw [BitVec.extractLsb'_append_eq_of_add_le (by decide)]; exact BitVec.extractLsb'_eq_self

/-- The opcode of a format I word (R54). -/
@[simp] theorem FmtI.opcode_toWord (op : BitVec 8) (f : FmtI) : (f.toWord op).extractLsb' 56 8 = op := by
  simp only [FmtI.toWord]
  repeat rw [BitVec.extractLsb'_append_eq_of_le (by decide)]
  exact BitVec.extractLsb'_eq_self

/-- A word is that of its format I fields and its opcode. -/
theorem FmtI.toWord_ofWord (w : Word) : (FmtI.ofWord w).toWord (w.extractLsb' 56 8) = w := by
  simp only [FmtI.ofWord, FmtI.toWord]
  repeat rw [BitVec.extractLsb'_append_extractLsb'_eq_extractLsb' (by decide)]
  exact BitVec.extractLsb'_eq_self

/-- The fields of a format X word (R58-R60). -/
@[simp] theorem FmtX.ofWord_toWord (op : BitVec 8) (f : FmtX) : FmtX.ofWord (f.toWord op) = f := by
  cases f
  simp only [FmtX.ofWord, FmtX.toWord, FmtX.mk.injEq]
  refine ⟨?_, ?_, ?_, ?_, ?_, ?_, ?_, ?_, ?_, ?_, ?_, ?_⟩ <;>
  · repeat rw [BitVec.extractLsb'_append_eq_of_le (by decide)]
    first
    | exact BitVec.extractLsb'_eq_self
    | rw [BitVec.extractLsb'_append_eq_of_add_le (by decide)]; exact BitVec.extractLsb'_eq_self

/-- The opcode of a format X word (R54). -/
@[simp] theorem FmtX.opcode_toWord (op : BitVec 8) (f : FmtX) : (f.toWord op).extractLsb' 56 8 = op := by
  simp only [FmtX.toWord]
  repeat rw [BitVec.extractLsb'_append_eq_of_le (by decide)]
  exact BitVec.extractLsb'_eq_self

/-- A word is that of its format X fields and its opcode. -/
theorem FmtX.toWord_ofWord (w : Word) : (FmtX.ofWord w).toWord (w.extractLsb' 56 8) = w := by
  simp only [FmtX.ofWord, FmtX.toWord]
  repeat rw [BitVec.extractLsb'_append_extractLsb'_eq_extractLsb' (by decide)]
  exact BitVec.extractLsb'_eq_self

/-- The fields of a format A word (R58-R60). -/
@[simp] theorem FmtA.ofWord_toWord (op : BitVec 8) (f : FmtA) : FmtA.ofWord (f.toWord op) = f := by
  cases f
  simp only [FmtA.ofWord, FmtA.toWord, FmtA.mk.injEq]
  refine ⟨?_, ?_, ?_, ?_, ?_, ?_, ?_, ?_, ?_, ?_, ?_, ?_⟩ <;>
  · repeat rw [BitVec.extractLsb'_append_eq_of_le (by decide)]
    first
    | exact BitVec.extractLsb'_eq_self
    | rw [BitVec.extractLsb'_append_eq_of_add_le (by decide)]; exact BitVec.extractLsb'_eq_self

/-- The opcode of a format A word (R54). -/
@[simp] theorem FmtA.opcode_toWord (op : BitVec 8) (f : FmtA) : (f.toWord op).extractLsb' 56 8 = op := by
  simp only [FmtA.toWord]
  repeat rw [BitVec.extractLsb'_append_eq_of_le (by decide)]
  exact BitVec.extractLsb'_eq_self

/-- A word is that of its format A fields and its opcode. -/
theorem FmtA.toWord_ofWord (w : Word) : (FmtA.ofWord w).toWord (w.extractLsb' 56 8) = w := by
  simp only [FmtA.ofWord, FmtA.toWord]
  repeat rw [BitVec.extractLsb'_append_extractLsb'_eq_extractLsb' (by decide)]
  exact BitVec.extractLsb'_eq_self

/-- The fields of a format M word (R58-R60). -/
@[simp] theorem FmtM.ofWord_toWord (op : BitVec 8) (f : FmtM) : FmtM.ofWord (f.toWord op) = f := by
  cases f
  simp only [FmtM.ofWord, FmtM.toWord, FmtM.mk.injEq]
  refine ⟨?_, ?_, ?_, ?_, ?_, ?_, ?_, ?_, ?_, ?_, ?_, ?_⟩ <;>
  · repeat rw [BitVec.extractLsb'_append_eq_of_le (by decide)]
    first
    | exact BitVec.extractLsb'_eq_self
    | rw [BitVec.extractLsb'_append_eq_of_add_le (by decide)]; exact BitVec.extractLsb'_eq_self

/-- The opcode of a format M word (R54). -/
@[simp] theorem FmtM.opcode_toWord (op : BitVec 8) (f : FmtM) : (f.toWord op).extractLsb' 56 8 = op := by
  simp only [FmtM.toWord]
  repeat rw [BitVec.extractLsb'_append_eq_of_le (by decide)]
  exact BitVec.extractLsb'_eq_self

/-- A word is that of its format M fields and its opcode. -/
theorem FmtM.toWord_ofWord (w : Word) : (FmtM.ofWord w).toWord (w.extractLsb' 56 8) = w := by
  simp only [FmtM.ofWord, FmtM.toWord]
  repeat rw [BitVec.extractLsb'_append_extractLsb'_eq_extractLsb' (by decide)]
  exact BitVec.extractLsb'_eq_self

/-- The fields of a format C word (R58-R60). -/
@[simp] theorem FmtC.ofWord_toWord (op : BitVec 8) (f : FmtC) : FmtC.ofWord (f.toWord op) = f := by
  cases f
  simp only [FmtC.ofWord, FmtC.toWord, FmtC.mk.injEq]
  refine ⟨?_, ?_, ?_, ?_, ?_, ?_, ?_, ?_, ?_, ?_⟩ <;>
  · repeat rw [BitVec.extractLsb'_append_eq_of_le (by decide)]
    first
    | exact BitVec.extractLsb'_eq_self
    | rw [BitVec.extractLsb'_append_eq_of_add_le (by decide)]; exact BitVec.extractLsb'_eq_self

/-- The opcode of a format C word (R54). -/
@[simp] theorem FmtC.opcode_toWord (op : BitVec 8) (f : FmtC) : (f.toWord op).extractLsb' 56 8 = op := by
  simp only [FmtC.toWord]
  repeat rw [BitVec.extractLsb'_append_eq_of_le (by decide)]
  exact BitVec.extractLsb'_eq_self

/-- A word is that of its format C fields and its opcode. -/
theorem FmtC.toWord_ofWord (w : Word) : (FmtC.ofWord w).toWord (w.extractLsb' 56 8) = w := by
  simp only [FmtC.ofWord, FmtC.toWord]
  repeat rw [BitVec.extractLsb'_append_extractLsb'_eq_extractLsb' (by decide)]
  exact BitVec.extractLsb'_eq_self

/-- The fields of a format Y word (R58-R60). -/
@[simp] theorem FmtY.ofWord_toWord (op : BitVec 8) (f : FmtY) : FmtY.ofWord (f.toWord op) = f := by
  cases f
  simp only [FmtY.ofWord, FmtY.toWord, FmtY.mk.injEq]
  refine ⟨?_, ?_, ?_, ?_, ?_, ?_, ?_, ?_⟩ <;>
  · repeat rw [BitVec.extractLsb'_append_eq_of_le (by decide)]
    first
    | exact BitVec.extractLsb'_eq_self
    | rw [BitVec.extractLsb'_append_eq_of_add_le (by decide)]; exact BitVec.extractLsb'_eq_self

/-- The opcode of a format Y word (R54). -/
@[simp] theorem FmtY.opcode_toWord (op : BitVec 8) (f : FmtY) : (f.toWord op).extractLsb' 56 8 = op := by
  simp only [FmtY.toWord]
  repeat rw [BitVec.extractLsb'_append_eq_of_le (by decide)]
  exact BitVec.extractLsb'_eq_self

/-- A word is that of its format Y fields and its opcode. -/
theorem FmtY.toWord_ofWord (w : Word) : (FmtY.ofWord w).toWord (w.extractLsb' 56 8) = w := by
  simp only [FmtY.ofWord, FmtY.toWord]
  repeat rw [BitVec.extractLsb'_append_extractLsb'_eq_extractLsb' (by decide)]
  exact BitVec.extractLsb'_eq_self

/-- The fields of a format J word (R58-R60). -/
@[simp] theorem FmtJ.ofWord_toWord (op : BitVec 8) (f : FmtJ) : FmtJ.ofWord (f.toWord op) = f := by
  cases f
  simp only [FmtJ.ofWord, FmtJ.toWord, FmtJ.mk.injEq]
  refine ⟨?_, ?_, ?_, ?_, ?_, ?_⟩ <;>
  · repeat rw [BitVec.extractLsb'_append_eq_of_le (by decide)]
    first
    | exact BitVec.extractLsb'_eq_self
    | rw [BitVec.extractLsb'_append_eq_of_add_le (by decide)]; exact BitVec.extractLsb'_eq_self

/-- The opcode of a format J word (R54). -/
@[simp] theorem FmtJ.opcode_toWord (op : BitVec 8) (f : FmtJ) : (f.toWord op).extractLsb' 56 8 = op := by
  simp only [FmtJ.toWord]
  repeat rw [BitVec.extractLsb'_append_eq_of_le (by decide)]
  exact BitVec.extractLsb'_eq_self

/-- A word is that of its format J fields and its opcode. -/
theorem FmtJ.toWord_ofWord (w : Word) : (FmtJ.ofWord w).toWord (w.extractLsb' 56 8) = w := by
  simp only [FmtJ.ofWord, FmtJ.toWord]
  repeat rw [BitVec.extractLsb'_append_extractLsb'_eq_extractLsb' (by decide)]
  exact BitVec.extractLsb'_eq_self

/-- The fields of a format L word (R58-R60). -/
@[simp] theorem FmtL.ofWord_toWord (op : BitVec 8) (f : FmtL) : FmtL.ofWord (f.toWord op) = f := by
  cases f
  simp only [FmtL.ofWord, FmtL.toWord, FmtL.mk.injEq]
  refine ⟨?_, ?_, ?_, ?_, ?_, ?_, ?_, ?_, ?_⟩ <;>
  · repeat rw [BitVec.extractLsb'_append_eq_of_le (by decide)]
    first
    | exact BitVec.extractLsb'_eq_self
    | rw [BitVec.extractLsb'_append_eq_of_add_le (by decide)]; exact BitVec.extractLsb'_eq_self

/-- The opcode of a format L word (R54). -/
@[simp] theorem FmtL.opcode_toWord (op : BitVec 8) (f : FmtL) : (f.toWord op).extractLsb' 56 8 = op := by
  simp only [FmtL.toWord]
  repeat rw [BitVec.extractLsb'_append_eq_of_le (by decide)]
  exact BitVec.extractLsb'_eq_self

/-- A word is that of its format L fields and its opcode. -/
theorem FmtL.toWord_ofWord (w : Word) : (FmtL.ofWord w).toWord (w.extractLsb' 56 8) = w := by
  simp only [FmtL.ofWord, FmtL.toWord]
  repeat rw [BitVec.extractLsb'_append_extractLsb'_eq_extractLsb' (by decide)]
  exact BitVec.extractLsb'_eq_self

end Sys2Proof
end

