-- ==== Sys2Proof/Laws/Issue.lean ====
section
/-!
SUPPORT. What an operation issued alone does: where it issues and takes no trap of its own, the next state is the one that its changes make.
-/
namespace Sys2Proof.Machine

/-- An operation that issues runs: the verdict is that of the operation alone. -/
theorem judge_of_issues {i : Instr} {s : State} (h : Issues i s) (op : SlotOp) :
    judge (freeEngines s) (slotBit (slotFor s i)) 0#7 (besides s (slotFor s i) i) [(⟨slotFor s i, s.cur.sw, s.cur.step, i⟩, op)] s =
      match op (issuedAt i s) with
      | .error t => .traps t
      | .ok e => .commits (.cur (withPartner s (opsAlone i s)).cur :: ([Effect.cur (issuedAt i s).cur] ++ e ++ []) ++
          flushStores (applyAll (.cur (withPartner s (opsAlone i s)).cur :: ([Effect.cur (issuedAt i s).cur] ++ e ++ [])) s)) := by
  have hl := h.legal
  have hs := h.sources
  have ha := h.accepted
  have hd := h.declared
  have he := h.full
  simp only [opsAlone] at hl hs hd he
  simp only [judge, opsOf, List.map_cons, List.map_nil, List.cons_append, List.nil_append, hl, hs, ha, hd, he, Bool.or_self, Bool.false_eq_true,
    if_false, runSlots]
  have : applyAll [Effect.cur { (withPartner s ((slotFor s i, i) :: besides s (slotFor s i) i)).cur with
      slot := slotFor s i, sw := s.cur.sw, step := s.cur.step }] (withPartner s ((slotFor s i, i) :: besides s (slotFor s i) i)) = issuedAt i s := rfl
  rw [this]
  cases op (issuedAt i s) with
  | error t => rfl
  | ok e => rfl

/-- The state at the end of an issue: the own-scratchpad stores of the issue are in memory (R107). -/
def flushed (t : State) : State := applyAll (flushStores t) t

/-- Stores of single bytes, one after another. -/
theorem applyAll_stores (l : List (Nat × Byte)) (t : State) : applyAll (l.map fun x => Effect.mem x.1 [x.2]) t =
    { t with mem := l.foldl (fun m x => Memory.set m x.1 x.2) t.mem } := by
  induction l generalizing t with
  | nil => rfl
  | cons x r ih => exact ih _

/-- An issue that has made no store ends as it is. -/
theorem flushed_of_empty {t : State} (h : t.cur.stores = []) : flushed t = t := by
  simp [flushed, flushStores, h]

/-- The end of an issue whose accesses do not reach the own scratchpad: memory takes the stores, and of the rest only what the issue has
done changes. -/
theorem flushed_eq {t : State} (h : t.cur.near = []) :
    flushed t = { t with mem := t.cur.stores.foldl (fun m x => Memory.set m x.1 x.2) t.mem, cur := (flushed t).cur } ∧
      (flushed t).cur.key = t.cur.key ∧ (flushed t).cur.trapped = t.cur.trapped := by
  by_cases e : t.cur.stores = []
  · simp [flushed_of_empty e, e]
  · have hn : readNear t.cur.key (t.cur.stores.map (·.1)) t = [] := by simp [readNear, nearParts, h, Act.each, Act.seqs, Act.skip]
    rw [flushed, flushStores, if_neg e, Act.seqs, applyAll_seq, hn, applyAll_nil, Act.seqs, applyAll_seq, applyAll_stores]
    exact ⟨rfl, rfl, rfl⟩

/-- The changes of an operation issued alone lead from the state it reads to the next state, where it leaves no TRAP to take. -/
theorem runOne_of_ok {i : Instr} {s : State} (h : Issues i s) {op : SlotOp} {e : List Effect} (ho : op (issuedAt i s) = .ok e)
    (ht : (flushed (applyAll e (issuedAt i s))).cur.trapped = none) :
    runOne i op s = .next (flushed (applyAll e (issuedAt i s))) := by
  have hm : (s.ctx s.cur.key).mode = .run ∨ (s.ctx s.cur.key).mode = .service := h.mode
  have hc : applyAll (.cur (withPartner s (opsAlone i s)).cur :: ([Effect.cur (issuedAt i s).cur] ++ e ++ [])) s =
      applyAll e (issuedAt i s) := by
    simp only [List.append_nil, List.cons_append, List.nil_append, applyAll_cons]
    rfl
  unfold runOne
  rw [if_pos hm]
  dsimp only
  rw [judge_of_issues h op, ho]
  simp only [done, hc]
  rw [applyAll_seq]
  rw [applyAll_append, hc]
  have hf : applyAll (flushStores (applyAll e (issuedAt i s))) (applyAll e (issuedAt i s)) = flushed (applyAll e (issuedAt i s)) := rfl
  rw [hf]
  simp only [softwareStop, ht, applyAll_nil]

/-- The changes of an operation issued alone lead from the state it reads to the next state, where it leaves no store to perform and no TRAP
to take. -/
theorem runOne_of_issues {i : Instr} {s : State} (h : Issues i s) {op : SlotOp} {e : List Effect} (ho : op (issuedAt i s) = .ok e)
    (hs : (applyAll e (issuedAt i s)).cur.stores = []) (ht : (applyAll e (issuedAt i s)).cur.trapped = none) :
    runOne i op s = .next (applyAll e (issuedAt i s)) := by
  rw [runOne_of_ok h ho (by rw [flushed_of_empty hs]; exact ht), flushed_of_empty hs]

/-- A precise trap of the operation itself is taken. -/
theorem runOne_of_error {i : Instr} {s : State} (h : Issues i s) {op : SlotOp} {t : Trap} (ho : op (issuedAt i s) = .error t) :
    runOne i op s = done (takePrecise s.cur.key t) s := by
  have hm : (s.ctx s.cur.key).mode = .run ∨ (s.ctx s.cur.key).mode = .service := h.mode
  unfold runOne
  rw [if_pos hm]
  dsimp only
  rw [judge_of_issues h op, ho]

/-- An operation issued alone answers the state that its changes make, where it leaves no store to perform and no TRAP to take. -/
theorem answers_of_ok {i : Instr} {s : State} (h : Issues i s) {op : SlotOp} {e : List Effect} (hx : exec i s = runOne i op s)
    (ho : op (issuedAt i s) = .ok e) (hs : (applyAll e (issuedAt i s)).cur.stores = []) (ht : (applyAll e (issuedAt i s)).cur.trapped = none)
    {P : State → Prop} (hp : P (applyAll e (issuedAt i s))) : Answers i s P :=
  ⟨_, hx.trans (runOne_of_issues h ho hs ht), hp⟩

/-- An operation issued alone whose own check fails takes its trap. -/
theorem traps_of_error {i : Instr} {s : State} (h : Issues i s) {op : SlotOp} {tr : Trap} (hx : exec i s = runOne i op s)
    (ho : op (issuedAt i s) = .error tr) : Traps i s tr :=
  hx.trans (runOne_of_error h ho)

@[simp] theorem issueOf_key (i : Instr) (s : State) : (issueOf i s).key = s.cur.key := rfl
@[simp] theorem issueOf_slot (i : Instr) (s : State) : (issueOf i s).slot = slotFor s i := rfl
@[simp] theorem issueOf_sw (i : Instr) (s : State) : (issueOf i s).sw = s.cur.sw := rfl
@[simp] theorem issueOf_step (i : Instr) (s : State) : (issueOf i s).step = s.cur.step := rfl
@[simp] theorem issueOf_pc (i : Instr) (s : State) : (issueOf i s).pc = s.cur.pc := rfl
@[simp] theorem issueOf_len (i : Instr) (s : State) : (issueOf i s).len = s.cur.len := rfl
@[simp] theorem issueOf_bimm (i : Instr) (s : State) : (issueOf i s).bimm = s.cur.bimm := rfl
@[simp] theorem issueOf_stores (i : Instr) (s : State) : (issueOf i s).stores = s.cur.stores := rfl
@[simp] theorem issueOf_near (i : Instr) (s : State) : (issueOf i s).near = s.cur.near := rfl
@[simp] theorem issueOf_target (i : Instr) (s : State) : (issueOf i s).target = s.cur.target := rfl
@[simp] theorem issueOf_trapped (i : Instr) (s : State) : (issueOf i s).trapped = s.cur.trapped := rfl
@[simp] theorem issuedAt_ctxs (i : Instr) (s : State) : (issuedAt i s).ctxs = s.ctxs := rfl
@[simp] theorem issuedAt_ctx (i : Instr) (s : State) (k : Nat) : (issuedAt i s).ctx k = s.ctx k := rfl
@[simp] theorem issuedAt_now (i : Instr) (s : State) : (issuedAt i s).now = s.now := rfl
@[simp] theorem issuedAt_mem (i : Instr) (s : State) : (issuedAt i s).mem = s.mem := rfl
@[simp] theorem issuedAt_key (i : Instr) (s : State) : (issuedAt i s).cur.key = s.cur.key := rfl
@[simp] theorem issuedAt_stores (i : Instr) (s : State) : (issuedAt i s).cur.stores = s.cur.stores := rfl
@[simp] theorem issuedAt_near (i : Instr) (s : State) : (issuedAt i s).cur.near = s.cur.near := rfl
@[simp] theorem issuedAt_trapped (i : Instr) (s : State) : (issuedAt i s).cur.trapped = s.cur.trapped := rfl
@[simp] theorem issuedAt_readS (i : Instr) (s : State) (c : Ctx) (n : OpName) : readS c (issuedAt i s).cur n = readS c s.cur n := rfl
@[simp] theorem issuedAt_readV (i : Instr) (s : State) (c : Ctx) (ty : BitVec 4) (n : OpName) :
    readV c (issuedAt i s).cur ty n = readV c s.cur ty n := rfl

/-- The record that an operation issued alone makes is of its issue. -/
theorem opRec_isOf (i : Instr) (s : State) : (opRec (issuedAt i s)).isOf i s := ⟨rfl, rfl, rfl, rfl⟩

/-- A change of the issuing context alone, and of nothing else but the issue in progress. -/
theorem onlyCur_of_ctx (i : Instr) (s : State) (c : Ctx) : OnlyCur (s.withIssuer c) (applyAll [.ctx s.cur.key c] (issuedAt i s)) := ⟨rfl, rfl⟩

/-- The issuing context of a state that it was written in. -/
@[simp] theorem State.withIssuer_issuer (s : State) (c : Ctx) : (s.withIssuer c).issuer = c := State.ctx_set s s.cur.key c

/-- The issuing context of a state that is another but for the issue in progress. -/
theorem OnlyCur.issuer {s t : State} (h : OnlyCur s t) : t.issuer = s.issuer := by
  obtain ⟨h, k⟩ := h
  rw [State.issuer, k, h]
  rfl

/-- A result put on its way by an operation issued alone lands as it says. -/
theorem lands_of_land {i : Instr} {s : State} (h : Issues i s) {op : SlotOp} {r : OpRec} {n : Nat} {d : Dest} {v : Result}
    (hr : r.isOf i s) (ho : op (issuedAt i s) = .ok (land r n d v (issuedAt i s))) :
    ∃ t, runOne i op s = .next t ∧ Lands i s t n d v :=
  ⟨_, runOne_of_issues h ho h.stores h.trapped, r, hr, rfl, rfl⟩

/-- A variable-latency operation issued alone is under way as it says. -/
theorem pends_of_pend {i : Instr} {s : State} (h : Issues i s) {op : SlotOp} {r : OpRec} {ds : List Dest} {src : Source}
    (hr : r.isOf i s) (ho : op (issuedAt i s) = .ok (pend r ds src (issuedAt i s))) :
    ∃ t, runOne i op s = .next t ∧ Pends i s t ds src :=
  ⟨_, runOne_of_issues h ho h.stores h.trapped, r, hr, rfl, rfl⟩

/-- A fixed-latency operation of the S slot lands its result (R86, R94). -/
theorem lands_of_scalarOp {i : Instr} {s : State} (h : Issues i s) {d : OpName} {f : Word → Word → Word → Word} {n : Nat}
    (hl : latency i = .fixed n) : ∃ t, runOne i (scalarOp i d f) s = .next t ∧
      Lands i s t n (.s d.toNat) (.word (f ((scalarSources s i).getD 0 0#64) ((scalarSources s i).getD 1 0#64) ((scalarSources s i).getD 2 0#64))) := by
  apply lands_of_land h (r := { opRec (issuedAt i s) with
    ca := (scalarSources s i).getD 0 0#64, cb := (scalarSources s i).getD 1 0#64, cc := (scalarSources s i).getD 2 0#64 }) (opRec_isOf i s)
  simp only [scalarOp, act, hl]
  rfl

/-- A fixed-latency operation of a V slot lands its result (R86, R122). -/
theorem lands_of_vectorOp {i : Instr} {s : State} (h : Issues i s) {d : Dest} {ty msk : BitVec 4}
    {f : Vec → Vec → Vec → MaskVal → Result} {n : Nat} (hl : latency i = .fixed n) :
    ∃ t, runOne i (vectorOp i d ty msk f) s = .next t ∧
      Lands i s t n d (f ((vectorSources s ty i).getD 0 0#1024) ((vectorSources s ty i).getD 1 0#1024) ((vectorSources s ty i).getD 2 0#1024)
        (maskOf s.issuer msk)) := by
  apply lands_of_land h (r := vectorRec (issuedAt i s) (maskOf s.issuer msk) (vectorSources s ty i)) (opRec_isOf i s)
  simp only [vectorOp, act, hl]
  rfl

/-- An action on issue + 1 is on its way. -/
theorem lands_of_scalarAct {i : Instr} {s : State} (h : Issues i s) {op : SlotOp} {a : Action}
    (ho : op (issuedAt i s) = .ok (scalarAct i a (issuedAt i s))) : ∃ t, runOne i op s = .next t ∧ Lands i s t 1 .none (.act a) :=
  lands_of_land h (r := { opRec (issuedAt i s) with
    ca := (scalarSources s i).getD 0 0#64, cb := (scalarSources s i).getD 1 0#64, cc := (scalarSources s i).getD 2 0#64 }) (opRec_isOf i s) ho

end Sys2Proof.Machine
end

