-- ==== Sys2Proof/Laws/PerInstr.lean ====
section
/-!
SUPPORT. One lemma per operation: its slot word decodes to it. An event has no slot word.
-/
namespace Sys2Proof.Laws.RoundTrip

/-- The slot word of an operation whose constructor its selecting fields name decodes to the operation. -/
def Statement (i : Instr) : Prop := selected i = true → ∀ cw, encodeSlot i = some cw → decodeSlot cw.1 cw.2 = .ok i

theorem bundleIssue (core : Nat) : Statement (.bundleIssue core) := by
  intro _ cw h; cases h

theorem idleCycle (core : Nat) : Statement (.idleCycle core) := by
  intro _ cw h; cases h

theorem instructionFetch (key : Nat) : Statement (.instructionFetch key) := by
  intro _ cw h; cases h

theorem fixedLatencyLanding (key : Nat) : Statement (.fixedLatencyLanding key) := by
  intro _ cw h; cases h

theorem variableLatencyArrival (key : Nat) : Statement (.variableLatencyArrival key) := by
  intro _ cw h; cases h

theorem lockstepStep (task : Nat) : Statement (.lockstepStep task) := by
  intro _ cw h; cases h

theorem add (f : FmtR) : Statement (.add f) := by
  rintro _ _ ⟨rfl⟩
  rw [decodeSlot, decodeS, FmtR.opcode_toWord, FmtR.ofWord_toWord]
  rfl

theorem sub (f : FmtR) : Statement (.sub f) := by
  rintro _ _ ⟨rfl⟩
  rw [decodeSlot, decodeS, FmtR.opcode_toWord, FmtR.ofWord_toWord]
  rfl

theorem mul (f : FmtR) : Statement (.mul f) := by
  rintro _ _ ⟨rfl⟩
  rw [decodeSlot, decodeS, FmtR.opcode_toWord, FmtR.ofWord_toWord]
  rfl

theorem mulh (f : FmtR) : Statement (.mulh f) := by
  rintro _ _ ⟨rfl⟩
  rw [decodeSlot, decodeS, FmtR.opcode_toWord, FmtR.ofWord_toWord]
  rfl

theorem div (f : FmtR) : Statement (.div f) := by
  rintro _ _ ⟨rfl⟩
  rw [decodeSlot, decodeS, FmtR.opcode_toWord, FmtR.ofWord_toWord]
  rfl

theorem rem (f : FmtR) : Statement (.rem f) := by
  rintro _ _ ⟨rfl⟩
  rw [decodeSlot, decodeS, FmtR.opcode_toWord, FmtR.ofWord_toWord]
  rfl

theorem and (f : FmtR) : Statement (.and f) := by
  rintro _ _ ⟨rfl⟩
  rw [decodeSlot, decodeS, FmtR.opcode_toWord, FmtR.ofWord_toWord]
  rfl

theorem or (f : FmtR) : Statement (.or f) := by
  rintro _ _ ⟨rfl⟩
  rw [decodeSlot, decodeS, FmtR.opcode_toWord, FmtR.ofWord_toWord]
  rfl

theorem xor (f : FmtR) : Statement (.xor f) := by
  rintro _ _ ⟨rfl⟩
  rw [decodeSlot, decodeS, FmtR.opcode_toWord, FmtR.ofWord_toWord]
  rfl

theorem shl (f : FmtR) : Statement (.shl f) := by
  rintro _ _ ⟨rfl⟩
  rw [decodeSlot, decodeS, FmtR.opcode_toWord, FmtR.ofWord_toWord]
  rfl

theorem shr (f : FmtR) : Statement (.shr f) := by
  rintro _ _ ⟨rfl⟩
  rw [decodeSlot, decodeS, FmtR.opcode_toWord, FmtR.ofWord_toWord]
  rfl

theorem sar (f : FmtR) : Statement (.sar f) := by
  rintro _ _ ⟨rfl⟩
  rw [decodeSlot, decodeS, FmtR.opcode_toWord, FmtR.ofWord_toWord]
  rfl

theorem min (f : FmtR) : Statement (.min f) := by
  rintro _ _ ⟨rfl⟩
  rw [decodeSlot, decodeS, FmtR.opcode_toWord, FmtR.ofWord_toWord]
  rfl

theorem max (f : FmtR) : Statement (.max f) := by
  rintro _ _ ⟨rfl⟩
  rw [decodeSlot, decodeS, FmtR.opcode_toWord, FmtR.ofWord_toWord]
  rfl

theorem clz (f : FmtR) : Statement (.clz f) := by
  rintro _ _ ⟨rfl⟩
  rw [decodeSlot, decodeS, FmtR.opcode_toWord, FmtR.ofWord_toWord]
  rfl

theorem addi (f : FmtI) : Statement (.addi f) := by
  rintro _ _ ⟨rfl⟩
  rw [decodeSlot, decodeS, FmtI.opcode_toWord, FmtI.ofWord_toWord]
  rfl

theorem andi (f : FmtI) : Statement (.andi f) := by
  rintro _ _ ⟨rfl⟩
  rw [decodeSlot, decodeS, FmtI.opcode_toWord, FmtI.ofWord_toWord]
  rfl

theorem ori (f : FmtI) : Statement (.ori f) := by
  rintro _ _ ⟨rfl⟩
  rw [decodeSlot, decodeS, FmtI.opcode_toWord, FmtI.ofWord_toWord]
  rfl

theorem xori (f : FmtI) : Statement (.xori f) := by
  rintro _ _ ⟨rfl⟩
  rw [decodeSlot, decodeS, FmtI.opcode_toWord, FmtI.ofWord_toWord]
  rfl

theorem shli (f : FmtI) : Statement (.shli f) := by
  rintro _ _ ⟨rfl⟩
  rw [decodeSlot, decodeS, FmtI.opcode_toWord, FmtI.ofWord_toWord]
  rfl

theorem shri (f : FmtI) : Statement (.shri f) := by
  rintro _ _ ⟨rfl⟩
  rw [decodeSlot, decodeS, FmtI.opcode_toWord, FmtI.ofWord_toWord]
  rfl

theorem sari (f : FmtI) : Statement (.sari f) := by
  rintro _ _ ⟨rfl⟩
  rw [decodeSlot, decodeS, FmtI.opcode_toWord, FmtI.ofWord_toWord]
  rfl

theorem movi (f : FmtI) : Statement (.movi f) := by
  rintro hs _ ⟨rfl⟩
  have h := of_decide_eq_true hs
  rw [decodeSlot, decodeS, FmtI.opcode_toWord, FmtI.ofWord_toWord]
  exact if_pos h

theorem moviIns (f : FmtI) : Statement (.moviIns f) := by
  rintro hs _ ⟨rfl⟩
  have h := of_decide_eq_true hs
  rw [decodeSlot, decodeS, FmtI.opcode_toWord, FmtI.ofWord_toWord]
  exact if_neg fun x => absurd (h.symm.trans x) (by decide)

theorem cmp (f : FmtR) : Statement (.cmp f) := by
  rintro _ _ ⟨rfl⟩
  rw [decodeSlot, decodeS, FmtR.opcode_toWord, FmtR.ofWord_toWord]
  rfl

theorem cmpi (f : FmtI) : Statement (.cmpi f) := by
  rintro _ _ ⟨rfl⟩
  rw [decodeSlot, decodeS, FmtI.opcode_toWord, FmtI.ofWord_toWord]
  rfl

theorem sel (f : FmtR) : Statement (.sel f) := by
  rintro _ _ ⟨rfl⟩
  rw [decodeSlot, decodeS, FmtR.opcode_toWord, FmtR.ofWord_toWord]
  rfl

theorem popc (f : FmtR) : Statement (.popc f) := by
  rintro _ _ ⟨rfl⟩
  rw [decodeSlot, decodeS, FmtR.opcode_toWord, FmtR.ofWord_toWord]
  rfl

theorem lea (f : FmtR) : Statement (.lea f) := by
  rintro _ _ ⟨rfl⟩
  rw [decodeSlot, decodeS, FmtR.opcode_toWord, FmtR.ofWord_toWord]
  rfl

theorem fadd (f : FmtR) : Statement (.fadd f) := by
  rintro _ _ ⟨rfl⟩
  rw [decodeSlot, decodeS, FmtR.opcode_toWord, FmtR.ofWord_toWord]
  rfl

theorem fsub (f : FmtR) : Statement (.fsub f) := by
  rintro _ _ ⟨rfl⟩
  rw [decodeSlot, decodeS, FmtR.opcode_toWord, FmtR.ofWord_toWord]
  rfl

theorem fmul (f : FmtR) : Statement (.fmul f) := by
  rintro _ _ ⟨rfl⟩
  rw [decodeSlot, decodeS, FmtR.opcode_toWord, FmtR.ofWord_toWord]
  rfl

theorem fma (f : FmtR) : Statement (.fma f) := by
  rintro _ _ ⟨rfl⟩
  rw [decodeSlot, decodeS, FmtR.opcode_toWord, FmtR.ofWord_toWord]
  rfl

theorem fdiv (f : FmtR) : Statement (.fdiv f) := by
  rintro _ _ ⟨rfl⟩
  rw [decodeSlot, decodeS, FmtR.opcode_toWord, FmtR.ofWord_toWord]
  rfl

theorem fsqrt (f : FmtR) : Statement (.fsqrt f) := by
  rintro _ _ ⟨rfl⟩
  rw [decodeSlot, decodeS, FmtR.opcode_toWord, FmtR.ofWord_toWord]
  rfl

theorem fmin (f : FmtR) : Statement (.fmin f) := by
  rintro _ _ ⟨rfl⟩
  rw [decodeSlot, decodeS, FmtR.opcode_toWord, FmtR.ofWord_toWord]
  rfl

theorem fmax (f : FmtR) : Statement (.fmax f) := by
  rintro _ _ ⟨rfl⟩
  rw [decodeSlot, decodeS, FmtR.opcode_toWord, FmtR.ofWord_toWord]
  rfl

theorem fcmp (f : FmtR) : Statement (.fcmp f) := by
  rintro _ _ ⟨rfl⟩
  rw [decodeSlot, decodeS, FmtR.opcode_toWord, FmtR.ofWord_toWord]
  rfl

theorem fcvt (f : FmtR) : Statement (.fcvt f) := by
  rintro _ _ ⟨rfl⟩
  rw [decodeSlot, decodeS, FmtR.opcode_toWord, FmtR.ofWord_toWord]
  rfl

theorem fsgn (f : FmtR) : Statement (.fsgn f) := by
  rintro _ _ ⟨rfl⟩
  rw [decodeSlot, decodeS, FmtR.opcode_toWord, FmtR.ofWord_toWord]
  rfl

theorem ld (f : FmtX) : Statement (.ld f) := by
  rintro _ _ ⟨rfl⟩
  rw [decodeSlot, decodeS, FmtX.opcode_toWord, FmtX.ofWord_toWord]
  rfl

theorem st (f : FmtX) : Statement (.st f) := by
  rintro _ _ ⟨rfl⟩
  rw [decodeSlot, decodeS, FmtX.opcode_toWord, FmtX.ofWord_toWord]
  rfl

theorem amo (f : FmtA) : Statement (.amo f) := by
  rintro _ _ ⟨rfl⟩
  rw [decodeSlot, decodeS, FmtA.opcode_toWord, FmtA.ofWord_toWord]
  rfl

theorem grant (f : FmtY) : Statement (.grant f) := by
  rintro _ _ ⟨rfl⟩
  rw [decodeSlot, decodeS, FmtY.opcode_toWord, FmtY.ofWord_toWord]
  rfl

theorem revoke (f : FmtY) : Statement (.revoke f) := by
  rintro _ _ ⟨rfl⟩
  rw [decodeSlot, decodeS, FmtY.opcode_toWord, FmtY.ofWord_toWord]
  rfl

theorem permld (f : FmtY) : Statement (.permld f) := by
  rintro _ _ ⟨rfl⟩
  rw [decodeSlot, decodeS, FmtY.opcode_toWord, FmtY.ofWord_toWord]
  rfl

theorem cmpt (f : FmtY) : Statement (.cmpt f) := by
  rintro hs _ ⟨rfl⟩
  have h := of_decide_eq_true hs
  rw [decodeSlot, decodeS, FmtY.opcode_toWord, FmtY.ofWord_toWord]
  exact if_pos h

theorem cmptV (f : FmtY) : Statement (.cmptV f) := by
  rintro hs _ ⟨rfl⟩
  have h := of_decide_eq_true hs
  rw [decodeSlot, decodeS, FmtY.opcode_toWord, FmtY.ofWord_toWord]
  exact if_neg fun x => absurd (h.symm.trans x) (by decide)

theorem fork (f : FmtY) : Statement (.fork f) := by
  rintro _ _ ⟨rfl⟩
  rw [decodeSlot, decodeS, FmtY.opcode_toWord, FmtY.ofWord_toWord]
  rfl

theorem join (f : FmtY) : Statement (.join f) := by
  rintro _ _ ⟨rfl⟩
  rw [decodeSlot, decodeS, FmtY.opcode_toWord, FmtY.ofWord_toWord]
  rfl

theorem pqpush (f : FmtY) : Statement (.pqpush f) := by
  rintro _ _ ⟨rfl⟩
  rw [decodeSlot, decodeS, FmtY.opcode_toWord, FmtY.ofWord_toWord]
  rfl

theorem pqpop (f : FmtY) : Statement (.pqpop f) := by
  rintro _ _ ⟨rfl⟩
  rw [decodeSlot, decodeS, FmtY.opcode_toWord, FmtY.ofWord_toWord]
  rfl

theorem barm (f : FmtY) : Statement (.barm f) := by
  rintro _ _ ⟨rfl⟩
  rw [decodeSlot, decodeS, FmtY.opcode_toWord, FmtY.ofWord_toWord]
  rfl

theorem barrive (f : FmtY) : Statement (.barrive f) := by
  rintro _ _ ⟨rfl⟩
  rw [decodeSlot, decodeS, FmtY.opcode_toWord, FmtY.ofWord_toWord]
  rfl

theorem bwait (f : FmtY) : Statement (.bwait f) := by
  rintro _ _ ⟨rfl⟩
  rw [decodeSlot, decodeS, FmtY.opcode_toWord, FmtY.ofWord_toWord]
  rfl

theorem gbarrive (f : FmtY) : Statement (.gbarrive f) := by
  rintro _ _ ⟨rfl⟩
  rw [decodeSlot, decodeS, FmtY.opcode_toWord, FmtY.ofWord_toWord]
  rfl

theorem gbwait (f : FmtY) : Statement (.gbwait f) := by
  rintro _ _ ⟨rfl⟩
  rw [decodeSlot, decodeS, FmtY.opcode_toWord, FmtY.ofWord_toWord]
  rfl

theorem gangBarrierRelease (task : Nat) (bar : Nat) : Statement (.gangBarrierRelease task bar) := by
  intro _ cw h; cases h

theorem qcfg (f : FmtY) : Statement (.qcfg f) := by
  rintro _ _ ⟨rfl⟩
  rw [decodeSlot, decodeS, FmtY.opcode_toWord, FmtY.ofWord_toWord]
  rfl

theorem drainR (f : FmtY) : Statement (.drainR f) := by
  rintro hs _ ⟨rfl⟩
  have h := of_decide_eq_true hs
  rw [decodeSlot, decodeS, FmtY.opcode_toWord, FmtY.ofWord_toWord]
  exact if_pos h

theorem drainA (f : FmtY) : Statement (.drainA f) := by
  rintro hs _ ⟨rfl⟩
  have h := of_decide_eq_true hs
  rw [decodeSlot, decodeS, FmtY.opcode_toWord, FmtY.ofWord_toWord]
  exact (if_neg fun x => absurd (h.symm.trans x) (by decide)).trans (if_pos h)

theorem drainBoth (f : FmtY) : Statement (.drainBoth f) := by
  rintro hs _ ⟨rfl⟩
  have h := of_decide_eq_true hs
  rw [decodeSlot, decodeS, FmtY.opcode_toWord, FmtY.ofWord_toWord]
  exact (if_neg fun x => absurd (h.symm.trans x) (by decide)).trans ((if_neg fun x => absurd (h.symm.trans x) (by decide)).trans (if_pos h))

theorem trap (f : FmtY) : Statement (.trap f) := by
  rintro _ _ ⟨rfl⟩
  rw [decodeSlot, decodeS, FmtY.opcode_toWord, FmtY.ofWord_toWord]
  rfl

theorem resume (f : FmtY) : Statement (.resume f) := by
  rintro hs _ ⟨rfl⟩
  have h := of_decide_eq_true hs
  rw [decodeSlot, decodeS, FmtY.opcode_toWord, FmtY.ofWord_toWord]
  exact if_pos h

theorem resumeServiceCore (f : FmtY) : Statement (.resumeServiceCore f) := by
  rintro hs _ ⟨rfl⟩
  have h := of_decide_eq_true hs
  rw [decodeSlot, decodeS, FmtY.opcode_toWord, FmtY.ofWord_toWord]
  exact (if_neg fun x => h.2 x.2).trans (if_pos h)

theorem resumeEnd (f : FmtY) : Statement (.resumeEnd f) := by
  rintro hs _ ⟨rfl⟩
  have h := of_decide_eq_true hs
  rw [decodeSlot, decodeS, FmtY.opcode_toWord, FmtY.ofWord_toWord]
  exact (if_neg fun x => absurd (h.symm.trans x.1) (by decide)).trans (if_neg fun x => absurd (h.symm.trans x.1) (by decide))

theorem rdrec (f : FmtY) : Statement (.rdrec f) := by
  rintro _ _ ⟨rfl⟩
  rw [decodeSlot, decodeS, FmtY.opcode_toWord, FmtY.ofWord_toWord]
  rfl

theorem wrrec (f : FmtY) : Statement (.wrrec f) := by
  rintro _ _ ⟨rfl⟩
  rw [decodeSlot, decodeS, FmtY.opcode_toWord, FmtY.ofWord_toWord]
  rfl

theorem vtsel (f : FmtY) : Statement (.vtsel f) := by
  rintro _ _ ⟨rfl⟩
  rw [decodeSlot, decodeS, FmtY.opcode_toWord, FmtY.ofWord_toWord]
  rfl

theorem srmovRead (f : FmtY) : Statement (.srmovRead f) := by
  rintro hs _ ⟨rfl⟩
  have h := of_decide_eq_true hs
  rw [decodeSlot, decodeS, FmtY.opcode_toWord, FmtY.ofWord_toWord]
  exact if_pos h

theorem srmovWrite (f : FmtY) : Statement (.srmovWrite f) := by
  rintro hs _ ⟨rfl⟩
  have h := of_decide_eq_true hs
  rw [decodeSlot, decodeS, FmtY.opcode_toWord, FmtY.ofWord_toWord]
  exact if_neg fun x => absurd (h.symm.trans x) (by decide)

theorem cinv (f : FmtY) : Statement (.cinv f) := by
  rintro _ _ ⟨rfl⟩
  rw [decodeSlot, decodeS, FmtY.opcode_toWord, FmtY.ofWord_toWord]
  rfl

theorem cflush (f : FmtY) : Statement (.cflush f) := by
  rintro _ _ ⟨rfl⟩
  rw [decodeSlot, decodeS, FmtY.opcode_toWord, FmtY.ofWord_toWord]
  rfl

theorem waitt (f : FmtY) : Statement (.waitt f) := by
  rintro _ _ ⟨rfl⟩
  rw [decodeSlot, decodeS, FmtY.opcode_toWord, FmtY.ofWord_toWord]
  rfl

theorem waittRelease (key : Nat) : Statement (.waittRelease key) := by
  intro _ cw h; cases h

theorem snap (f : FmtY) : Statement (.snap f) := by
  rintro _ _ ⟨rfl⟩
  rw [decodeSlot, decodeS, FmtY.opcode_toWord, FmtY.ofWord_toWord]
  rfl

theorem step (f : FmtY) : Statement (.step f) := by
  rintro _ _ ⟨rfl⟩
  rw [decodeSlot, decodeS, FmtY.opcode_toWord, FmtY.ofWord_toWord]
  rfl

theorem phase (f : FmtY) : Statement (.phase f) := by
  rintro hs _ ⟨rfl⟩
  have h := of_decide_eq_true hs
  rw [decodeSlot, decodeS, FmtY.opcode_toWord, FmtY.ofWord_toWord]
  exact if_pos h

theorem phaseOff (f : FmtY) : Statement (.phaseOff f) := by
  rintro hs _ ⟨rfl⟩
  have h := of_decide_eq_true hs
  rw [decodeSlot, decodeS, FmtY.opcode_toWord, FmtY.ofWord_toWord]
  exact if_neg fun x => absurd (h.symm.trans x) (by decide)

theorem wdecl (f : FmtY) : Statement (.wdecl f) := by
  rintro _ _ ⟨rfl⟩
  rw [decodeSlot, decodeS, FmtY.opcode_toWord, FmtY.ofWord_toWord]
  rfl

theorem enrd (f : FmtY) : Statement (.enrd f) := by
  rintro hs _ ⟨rfl⟩
  have h := of_decide_eq_true hs
  rw [decodeSlot, decodeS, FmtY.opcode_toWord, FmtY.ofWord_toWord]
  exact if_pos h

theorem enrdIdle (f : FmtY) : Statement (.enrdIdle f) := by
  rintro hs _ ⟨rfl⟩
  have h := of_decide_eq_true hs
  rw [decodeSlot, decodeS, FmtY.opcode_toWord, FmtY.ofWord_toWord]
  exact if_neg fun x => x h

theorem enclr (f : FmtY) : Statement (.enclr f) := by
  rintro _ _ ⟨rfl⟩
  rw [decodeSlot, decodeS, FmtY.opcode_toWord, FmtY.ofWord_toWord]
  rfl

theorem yield (f : FmtY) : Statement (.yield f) := by
  rintro _ _ ⟨rfl⟩
  rw [decodeSlot, decodeS, FmtY.opcode_toWord, FmtY.ofWord_toWord]
  rfl

theorem halt (f : FmtY) : Statement (.halt f) := by
  rintro _ _ ⟨rfl⟩
  rw [decodeSlot, decodeS, FmtY.opcode_toWord, FmtY.ofWord_toWord]
  rfl

theorem br (f : FmtJ) : Statement (.br f) := by
  rintro _ _ ⟨rfl⟩
  rw [decodeSlot, decodeB, FmtJ.opcode_toWord, FmtJ.ofWord_toWord]
  rfl

theorem breq (f : FmtJ) : Statement (.breq f) := by
  rintro _ _ ⟨rfl⟩
  rw [decodeSlot, decodeB, FmtJ.opcode_toWord, FmtJ.ofWord_toWord]
  rfl

theorem brne (f : FmtJ) : Statement (.brne f) := by
  rintro _ _ ⟨rfl⟩
  rw [decodeSlot, decodeB, FmtJ.opcode_toWord, FmtJ.ofWord_toWord]
  rfl

theorem brlt (f : FmtJ) : Statement (.brlt f) := by
  rintro _ _ ⟨rfl⟩
  rw [decodeSlot, decodeB, FmtJ.opcode_toWord, FmtJ.ofWord_toWord]
  rfl

theorem brge (f : FmtJ) : Statement (.brge f) := by
  rintro _ _ ⟨rfl⟩
  rw [decodeSlot, decodeB, FmtJ.opcode_toWord, FmtJ.ofWord_toWord]
  rfl

theorem brltu (f : FmtJ) : Statement (.brltu f) := by
  rintro _ _ ⟨rfl⟩
  rw [decodeSlot, decodeB, FmtJ.opcode_toWord, FmtJ.ofWord_toWord]
  rfl

theorem brgeu (f : FmtJ) : Statement (.brgeu f) := by
  rintro _ _ ⟨rfl⟩
  rw [decodeSlot, decodeB, FmtJ.opcode_toWord, FmtJ.ofWord_toWord]
  rfl

theorem brall (f : FmtJ) : Statement (.brall f) := by
  rintro _ _ ⟨rfl⟩
  rw [decodeSlot, decodeB, FmtJ.opcode_toWord, FmtJ.ofWord_toWord]
  rfl

theorem brnone (f : FmtJ) : Statement (.brnone f) := by
  rintro _ _ ⟨rfl⟩
  rw [decodeSlot, decodeB, FmtJ.opcode_toWord, FmtJ.ofWord_toWord]
  rfl

theorem call (f : FmtJ) : Statement (.call f) := by
  rintro hs _ ⟨rfl⟩
  have h := of_decide_eq_true hs
  rw [decodeSlot, decodeB, FmtJ.opcode_toWord, FmtJ.ofWord_toWord]
  exact if_pos h

theorem callRegister (f : FmtJ) : Statement (.callRegister f) := by
  rintro hs _ ⟨rfl⟩
  have h := of_decide_eq_true hs
  rw [decodeSlot, decodeB, FmtJ.opcode_toWord, FmtJ.ofWord_toWord]
  exact if_neg h

theorem ret (f : FmtJ) : Statement (.ret f) := by
  rintro _ _ ⟨rfl⟩
  rw [decodeSlot, decodeB, FmtJ.opcode_toWord, FmtJ.ofWord_toWord]
  rfl

theorem jr (f : FmtJ) : Statement (.jr f) := by
  rintro _ _ ⟨rfl⟩
  rw [decodeSlot, decodeB, FmtJ.opcode_toWord, FmtJ.ofWord_toWord]
  rfl

theorem loop (f : FmtL) : Statement (.loop f) := by
  rintro _ _ ⟨rfl⟩
  rw [decodeSlot, decodeB, FmtL.opcode_toWord, FmtL.ofWord_toWord]
  rfl

theorem loopw (f : FmtL) : Statement (.loopw f) := by
  rintro _ _ ⟨rfl⟩
  rw [decodeSlot, decodeB, FmtL.opcode_toWord, FmtL.ofWord_toWord]
  rfl

theorem vadd (f : FmtR) : Statement (.vadd f) := by
  rintro _ _ ⟨rfl⟩
  rw [decodeSlot, decodeV, FmtR.opcode_toWord, FmtR.ofWord_toWord]
  rfl

theorem vsub (f : FmtR) : Statement (.vsub f) := by
  rintro _ _ ⟨rfl⟩
  rw [decodeSlot, decodeV, FmtR.opcode_toWord, FmtR.ofWord_toWord]
  rfl

theorem vmul (f : FmtR) : Statement (.vmul f) := by
  rintro _ _ ⟨rfl⟩
  rw [decodeSlot, decodeV, FmtR.opcode_toWord, FmtR.ofWord_toWord]
  rfl

theorem vfma (f : FmtR) : Statement (.vfma f) := by
  rintro _ _ ⟨rfl⟩
  rw [decodeSlot, decodeV, FmtR.opcode_toWord, FmtR.ofWord_toWord]
  rfl

theorem vmin (f : FmtR) : Statement (.vmin f) := by
  rintro _ _ ⟨rfl⟩
  rw [decodeSlot, decodeV, FmtR.opcode_toWord, FmtR.ofWord_toWord]
  rfl

theorem vmax (f : FmtR) : Statement (.vmax f) := by
  rintro _ _ ⟨rfl⟩
  rw [decodeSlot, decodeV, FmtR.opcode_toWord, FmtR.ofWord_toWord]
  rfl

theorem vabs (f : FmtR) : Statement (.vabs f) := by
  rintro _ _ ⟨rfl⟩
  rw [decodeSlot, decodeV, FmtR.opcode_toWord, FmtR.ofWord_toWord]
  rfl

theorem vneg (f : FmtR) : Statement (.vneg f) := by
  rintro _ _ ⟨rfl⟩
  rw [decodeSlot, decodeV, FmtR.opcode_toWord, FmtR.ofWord_toWord]
  rfl

theorem vmulh (f : FmtR) : Statement (.vmulh f) := by
  rintro _ _ ⟨rfl⟩
  rw [decodeSlot, decodeV, FmtR.opcode_toWord, FmtR.ofWord_toWord]
  rfl

theorem vavg (f : FmtR) : Statement (.vavg f) := by
  rintro _ _ ⟨rfl⟩
  rw [decodeSlot, decodeV, FmtR.opcode_toWord, FmtR.ofWord_toWord]
  rfl

theorem vshl (f : FmtR) : Statement (.vshl f) := by
  rintro _ _ ⟨rfl⟩
  rw [decodeSlot, decodeV, FmtR.opcode_toWord, FmtR.ofWord_toWord]
  rfl

theorem vshr (f : FmtR) : Statement (.vshr f) := by
  rintro _ _ ⟨rfl⟩
  rw [decodeSlot, decodeV, FmtR.opcode_toWord, FmtR.ofWord_toWord]
  rfl

theorem vsar (f : FmtR) : Statement (.vsar f) := by
  rintro _ _ ⟨rfl⟩
  rw [decodeSlot, decodeV, FmtR.opcode_toWord, FmtR.ofWord_toWord]
  rfl

theorem vand (f : FmtR) : Statement (.vand f) := by
  rintro _ _ ⟨rfl⟩
  rw [decodeSlot, decodeV, FmtR.opcode_toWord, FmtR.ofWord_toWord]
  rfl

theorem vor (f : FmtR) : Statement (.vor f) := by
  rintro _ _ ⟨rfl⟩
  rw [decodeSlot, decodeV, FmtR.opcode_toWord, FmtR.ofWord_toWord]
  rfl

theorem vxor (f : FmtR) : Statement (.vxor f) := by
  rintro _ _ ⟨rfl⟩
  rw [decodeSlot, decodeV, FmtR.opcode_toWord, FmtR.ofWord_toWord]
  rfl

theorem vcvt (f : FmtR) : Statement (.vcvt f) := by
  rintro _ _ ⟨rfl⟩
  rw [decodeSlot, decodeV, FmtR.opcode_toWord, FmtR.ofWord_toWord]
  rfl

theorem vcmp (f : FmtR) : Statement (.vcmp f) := by
  rintro _ _ ⟨rfl⟩
  rw [decodeSlot, decodeV, FmtR.opcode_toWord, FmtR.ofWord_toWord]
  rfl

theorem vsel (f : FmtR) : Statement (.vsel f) := by
  rintro _ _ ⟨rfl⟩
  rw [decodeSlot, decodeV, FmtR.opcode_toWord, FmtR.ofWord_toWord]
  rfl

theorem vshuf (f : FmtR) : Statement (.vshuf f) := by
  rintro _ _ ⟨rfl⟩
  rw [decodeSlot, decodeV, FmtR.opcode_toWord, FmtR.ofWord_toWord]
  rfl

theorem vperm (f : FmtR) : Statement (.vperm f) := by
  rintro _ _ ⟨rfl⟩
  rw [decodeSlot, decodeV, FmtR.opcode_toWord, FmtR.ofWord_toWord]
  rfl

theorem vred (f : FmtR) : Statement (.vred f) := by
  rintro _ _ ⟨rfl⟩
  rw [decodeSlot, decodeV, FmtR.opcode_toWord, FmtR.ofWord_toWord]
  rfl

theorem vclmul (f : FmtR) : Statement (.vclmul f) := by
  rintro _ _ ⟨rfl⟩
  rw [decodeSlot, decodeV, FmtR.opcode_toWord, FmtR.ofWord_toWord]
  rfl

theorem vclmulh (f : FmtR) : Statement (.vclmulh f) := by
  rintro _ _ ⟨rfl⟩
  rw [decodeSlot, decodeV, FmtR.opcode_toWord, FmtR.ofWord_toWord]
  rfl

theorem vrcp (f : FmtR) : Statement (.vrcp f) := by
  rintro _ _ ⟨rfl⟩
  rw [decodeSlot, decodeV, FmtR.opcode_toWord, FmtR.ofWord_toWord]
  rfl

theorem vrsq (f : FmtR) : Statement (.vrsq f) := by
  rintro _ _ ⟨rfl⟩
  rw [decodeSlot, decodeV, FmtR.opcode_toWord, FmtR.ofWord_toWord]
  rfl

theorem vexp (f : FmtR) : Statement (.vexp f) := by
  rintro _ _ ⟨rfl⟩
  rw [decodeSlot, decodeV, FmtR.opcode_toWord, FmtR.ofWord_toWord]
  rfl

theorem vmov (f : FmtR) : Statement (.vmov f) := by
  rintro _ _ ⟨rfl⟩
  rw [decodeSlot, decodeV, FmtR.opcode_toWord, FmtR.ofWord_toWord]
  rfl

theorem vmovi (f : FmtI) : Statement (.vmovi f) := by
  rintro _ _ ⟨rfl⟩
  rw [decodeSlot, decodeV, FmtI.opcode_toWord, FmtI.ofWord_toWord]
  rfl

theorem vld (f : FmtX) : Statement (.vld f) := by
  rintro _ _ ⟨rfl⟩
  rw [decodeSlot, decodeV, FmtX.opcode_toWord, FmtX.ofWord_toWord]
  rfl

theorem vst (f : FmtX) : Statement (.vst f) := by
  rintro _ _ ⟨rfl⟩
  rw [decodeSlot, decodeV, FmtX.opcode_toWord, FmtX.ofWord_toWord]
  rfl

theorem vgath (f : FmtX) : Statement (.vgath f) := by
  rintro _ _ ⟨rfl⟩
  rw [decodeSlot, decodeV, FmtX.opcode_toWord, FmtX.ofWord_toWord]
  rfl

theorem vscat (f : FmtX) : Statement (.vscat f) := by
  rintro _ _ ⟨rfl⟩
  rw [decodeSlot, decodeV, FmtX.opcode_toWord, FmtX.ofWord_toWord]
  rfl

theorem vamo (f : FmtA) : Statement (.vamo f) := by
  rintro _ _ ⟨rfl⟩
  rw [decodeSlot, decodeV, FmtA.opcode_toWord, FmtA.ofWord_toWord]
  rfl

theorem qpush (f : FmtR) : Statement (.qpush f) := by
  rintro _ _ ⟨rfl⟩
  rw [decodeSlot, decodeV, FmtR.opcode_toWord, FmtR.ofWord_toWord]
  rfl

theorem qpop (f : FmtR) : Statement (.qpop f) := by
  rintro _ _ ⟨rfl⟩
  rw [decodeSlot, decodeV, FmtR.opcode_toWord, FmtR.ofWord_toWord]
  rfl

theorem vdup (f : FmtR) : Statement (.vdup f) := by
  rintro _ _ ⟨rfl⟩
  rw [decodeSlot, decodeV, FmtR.opcode_toWord, FmtR.ofWord_toWord]
  rfl

theorem mldw (f : FmtM) : Statement (.mldw f) := by
  rintro hs _ ⟨rfl⟩
  have h := of_decide_eq_true hs
  rw [decodeSlot, decodeM, FmtM.opcode_toWord, FmtM.ofWord_toWord]
  exact if_pos h

theorem mldwS (f : FmtM) : Statement (.mldwS f) := by
  rintro hs _ ⟨rfl⟩
  have h := of_decide_eq_true hs
  rw [decodeSlot, decodeM, FmtM.opcode_toWord, FmtM.ofWord_toWord]
  exact if_neg fun x => absurd (h.symm.trans x) (by decide)

theorem mma (f : FmtM) : Statement (.mma f) := by
  rintro _ _ ⟨rfl⟩
  rw [decodeSlot, decodeM, FmtM.opcode_toWord, FmtM.ofWord_toWord]
  rfl

theorem mmas (f : FmtM) : Statement (.mmas f) := by
  rintro _ _ ⟨rfl⟩
  rw [decodeSlot, decodeM, FmtM.opcode_toWord, FmtM.ofWord_toWord]
  rfl

theorem mzero (f : FmtM) : Statement (.mzero f) := by
  rintro _ _ ⟨rfl⟩
  rw [decodeSlot, decodeM, FmtM.opcode_toWord, FmtM.ofWord_toWord]
  rfl

theorem mfuse (f : FmtM) : Statement (.mfuse f) := by
  rintro _ _ ⟨rfl⟩
  rw [decodeSlot, decodeM, FmtM.opcode_toWord, FmtM.ofWord_toWord]
  rfl

theorem mdrain (f : FmtM) : Statement (.mdrain f) := by
  rintro hs _ ⟨rfl⟩
  have h := of_decide_eq_true hs
  rw [decodeSlot, decodeM, FmtM.opcode_toWord, FmtM.ofWord_toWord]
  exact if_pos h

theorem mdrainV (f : FmtM) : Statement (.mdrainV f) := by
  rintro hs _ ⟨rfl⟩
  have h := of_decide_eq_true hs
  rw [decodeSlot, decodeM, FmtM.opcode_toWord, FmtM.ofWord_toWord]
  exact if_neg fun x => absurd (h.symm.trans x) (by decide)

theorem sequencerOpStart (key : Nat) : Statement (.sequencerOpStart key) := by
  intro _ cw h; cases h

theorem mmaRowStep (key : Nat) : Statement (.mmaRowStep key) := by
  intro _ cw h; cases h

theorem mdrainEntryStep (key : Nat) : Statement (.mdrainEntryStep key) := by
  intro _ cw h; cases h

theorem queueClaimArrival (key : Nat) : Statement (.queueClaimArrival key) := by
  intro _ cw h; cases h

theorem cpy (f : FmtC) : Statement (.cpy f) := by
  rintro _ _ ⟨rfl⟩
  rw [decodeSlot, decodeC, FmtC.opcode_toWord, FmtC.ofWord_toWord]
  rfl

theorem cpy2 (f : FmtC) : Statement (.cpy2 f) := by
  rintro _ _ ⟨rfl⟩
  rw [decodeSlot, decodeC, FmtC.opcode_toWord, FmtC.ofWord_toWord]
  rfl

theorem cpy3 (f : FmtC) : Statement (.cpy3 f) := by
  rintro _ _ ⟨rfl⟩
  rw [decodeSlot, decodeC, FmtC.opcode_toWord, FmtC.ofWord_toWord]
  rfl

theorem cgath (f : FmtC) : Statement (.cgath f) := by
  rintro _ _ ⟨rfl⟩
  rw [decodeSlot, decodeC, FmtC.opcode_toWord, FmtC.ofWord_toWord]
  rfl

theorem cscat (f : FmtC) : Statement (.cscat f) := by
  rintro _ _ ⟨rfl⟩
  rw [decodeSlot, decodeC, FmtC.opcode_toWord, FmtC.ofWord_toWord]
  rfl

theorem cmcast (f : FmtC) : Statement (.cmcast f) := by
  rintro _ _ ⟨rfl⟩
  rw [decodeSlot, decodeC, FmtC.opcode_toWord, FmtC.ofWord_toWord]
  rfl

theorem cfill (f : FmtC) : Statement (.cfill f) := by
  rintro _ _ ⟨rfl⟩
  rw [decodeSlot, decodeC, FmtC.opcode_toWord, FmtC.ofWord_toWord]
  rfl

theorem credI32 (f : FmtC) : Statement (.credI32 f) := by
  rintro _ _ ⟨rfl⟩
  rw [decodeSlot, decodeC, FmtC.opcode_toWord, FmtC.ofWord_toWord]
  rfl

theorem credFp32 (f : FmtC) : Statement (.credFp32 f) := by
  rintro _ _ ⟨rfl⟩
  rw [decodeSlot, decodeC, FmtC.opcode_toWord, FmtC.ofWord_toWord]
  rfl

theorem credBf16 (f : FmtC) : Statement (.credBf16 f) := by
  rintro _ _ ⟨rfl⟩
  rw [decodeSlot, decodeC, FmtC.opcode_toWord, FmtC.ofWord_toWord]
  rfl

theorem cpyAt (f : FmtC) : Statement (.cpyAt f) := by
  rintro _ _ ⟨rfl⟩
  rw [decodeSlot, decodeC, FmtC.opcode_toWord, FmtC.ofWord_toWord]
  rfl

theorem cpy2At (f : FmtC) : Statement (.cpy2At f) := by
  rintro _ _ ⟨rfl⟩
  rw [decodeSlot, decodeC, FmtC.opcode_toWord, FmtC.ofWord_toWord]
  rfl

theorem cpy3At (f : FmtC) : Statement (.cpy3At f) := by
  rintro _ _ ⟨rfl⟩
  rw [decodeSlot, decodeC, FmtC.opcode_toWord, FmtC.ofWord_toWord]
  rfl

theorem cgathAt (f : FmtC) : Statement (.cgathAt f) := by
  rintro _ _ ⟨rfl⟩
  rw [decodeSlot, decodeC, FmtC.opcode_toWord, FmtC.ofWord_toWord]
  rfl

theorem cscatAt (f : FmtC) : Statement (.cscatAt f) := by
  rintro _ _ ⟨rfl⟩
  rw [decodeSlot, decodeC, FmtC.opcode_toWord, FmtC.ofWord_toWord]
  rfl

theorem cmcastAt (f : FmtC) : Statement (.cmcastAt f) := by
  rintro _ _ ⟨rfl⟩
  rw [decodeSlot, decodeC, FmtC.opcode_toWord, FmtC.ofWord_toWord]
  rfl

theorem cfillAt (f : FmtC) : Statement (.cfillAt f) := by
  rintro _ _ ⟨rfl⟩
  rw [decodeSlot, decodeC, FmtC.opcode_toWord, FmtC.ofWord_toWord]
  rfl

theorem credI32At (f : FmtC) : Statement (.credI32At f) := by
  rintro _ _ ⟨rfl⟩
  rw [decodeSlot, decodeC, FmtC.opcode_toWord, FmtC.ofWord_toWord]
  rfl

theorem credFp32At (f : FmtC) : Statement (.credFp32At f) := by
  rintro _ _ ⟨rfl⟩
  rw [decodeSlot, decodeC, FmtC.opcode_toWord, FmtC.ofWord_toWord]
  rfl

theorem credBf16At (f : FmtC) : Statement (.credBf16At f) := by
  rintro _ _ ⟨rfl⟩
  rw [decodeSlot, decodeC, FmtC.opcode_toWord, FmtC.ofWord_toWord]
  rfl

theorem atCopyLaunch (id : Nat) : Statement (.atCopyLaunch id) := by
  intro _ cw h; cases h

theorem copyCompletion (id : Nat) : Statement (.copyCompletion id) := by
  intro _ cw h; cases h

theorem mcastLanding (id : Nat) : Statement (.mcastLanding id) := by
  intro _ cw h; cases h

theorem storeAcknowledge (id : Nat) : Statement (.storeAcknowledge id) := by
  intro _ cw h; cases h

theorem homeAccess (id : Nat) : Statement (.homeAccess id) := by
  intro _ cw h; cases h

theorem pathAccess (id : Nat) : Statement (.pathAccess id) := by
  intro _ cw h; cases h

theorem farAccessArrival (a : FarAccess) : Statement (.farAccessArrival a) := by
  intro _ cw h; cases h

theorem pathResponseTimeout (id : Nat) : Statement (.pathResponseTimeout id) := by
  intro _ cw h; cases h

theorem deferredFault (d : FaultMsg) : Statement (.deferredFault d) := by
  intro _ cw h; cases h

theorem stoppingComplete (key : Nat) : Statement (.stoppingComplete key) := by
  intro _ cw h; cases h

theorem childTake (key : Nat) : Statement (.childTake key) := by
  intro _ cw h; cases h

theorem stealComplete (key : Nat) : Statement (.stealComplete key) := by
  intro _ cw h; cases h

theorem pqArrival (die : Nat) : Statement (.pqArrival die) := by
  intro _ cw h; cases h

theorem pqClaimServe (die : Nat) : Statement (.pqClaimServe die) := by
  intro _ cw h; cases h

theorem doorbell (vf : Nat) (tail : BitVec 16) : Statement (.doorbell vf tail) := by
  intro _ cw h; cases h

theorem iqbaseWrite (vf : Nat) (value : Word) : Statement (.iqbaseWrite vf value) := by
  intro _ cw h; cases h

theorem accessionCheck (launch : Nat) : Statement (.accessionCheck launch) := by
  intro _ cw h; cases h

theorem budgetIntervalStart (quarter : Nat) : Statement (.budgetIntervalStart quarter) := by
  intro _ cw h; cases h

theorem placement (quarter : Nat) (cid : Nat) : Statement (.placement quarter cid) := by
  intro _ cw h; cases h

theorem startTick (task : Nat) : Statement (.startTick task) := by
  intro _ cw h; cases h

theorem taskCompletion (task : Nat) : Statement (.taskCompletion task) := by
  intro _ cw h; cases h

theorem replayAccept (launch : Nat) : Statement (.replayAccept launch) := by
  intro _ cw h; cases h

theorem nodeEvaluation (walker : Nat) : Statement (.nodeEvaluation walker) := by
  intro _ cw h; cases h

theorem replayEnd (launch : Nat) : Statement (.replayEnd launch) := by
  intro _ cw h; cases h

theorem gangSwitchTick (quarter : Nat) : Statement (.gangSwitchTick quarter) := by
  intro _ cw h; cases h

theorem saveComplete (quarter : Nat) (die : Nat) : Statement (.saveComplete quarter die) := by
  intro _ cw h; cases h

theorem saveDeadline (quarter : Nat) : Statement (.saveDeadline quarter) := by
  intro _ cw h; cases h

theorem restore (quarter : Nat) : Statement (.restore quarter) := by
  intro _ cw h; cases h

theorem sliceStart (quarter : Nat) : Statement (.sliceStart quarter) := by
  intro _ cw h; cases h

theorem checkpointTimerTrigger (quarter : Nat) (cid : Nat) : Statement (.checkpointTimerTrigger quarter cid) := by
  intro _ cw h; cases h

theorem snapTick (quarter : Nat) (cid : Nat) : Statement (.snapTick quarter cid) := by
  intro _ cw h; cases h

theorem drainFrameDone (quarter : Nat) (cid : Nat) (die : Nat) : Statement (.drainFrameDone quarter cid die) := by
  intro _ cw h; cases h

theorem drainHeaderDone (quarter : Nat) (cid : Nat) : Statement (.drainHeaderDone quarter cid) := by
  intro _ cw h; cases h

theorem reserveHoldExpiry (quarter : Nat) (cid : Nat) : Statement (.reserveHoldExpiry quarter cid) := by
  intro _ cw h; cases h

theorem drainWriteError (quarter : Nat) (cid : Nat) : Statement (.drainWriteError quarter cid) := by
  intro _ cw h; cases h

theorem hbctlWrite (quarter : Nat) (cid : Nat) (value : Word) : Statement (.hbctlWrite quarter cid value) := by
  intro _ cw h; cases h

theorem governorWrite (share : Option Nat) (value : Word) : Statement (.governorWrite share value) := by
  intro _ cw h; cases h

theorem thermalGateOn (die : Nat) : Statement (.thermalGateOn die) := by
  intro _ cw h; cases h

theorem thermalGateOff (die : Nat) : Statement (.thermalGateOff die) := by
  intro _ cw h; cases h

theorem thermalTrip (die : Nat) (reading : BitVec 8) : Statement (.thermalTrip die reading) := by
  intro _ cw h; cases h

theorem railFault (die : BitVec 8) (rail : BitVec 8) : Statement (.railFault die rail) := by
  intro _ cw h; cases h

theorem carriedCheckMismatch (e : CheckEvent) : Statement (.carriedCheckMismatch e) := by
  intro _ cw h; cases h

theorem eccErrorConsumed (e : EccEvent) : Statement (.eccErrorConsumed e) := by
  intro _ cw h; cases h

theorem eccScrub (die : Nat) (frame : Nat) (word : Nat) (uncorrectable : Bool) : Statement (.eccScrub die frame word uncorrectable) := by
  intro _ cw h; cases h

theorem laneWindowEnd (margins : List (Nat × BitVec 8)) : Statement (.laneWindowEnd margins) := by
  intro _ cw h; cases h

theorem quiesceRequest (quarter : Nat) : Statement (.quiesceRequest quarter) := by
  intro _ cw h; cases h

theorem quiesceCancel (quarter : Nat) : Statement (.quiesceCancel quarter) := by
  intro _ cw h; cases h

theorem quiesced (quarter : Nat) : Statement (.quiesced quarter) := by
  intro _ cw h; cases h

theorem quiesceTimeout (quarter : Nat) : Statement (.quiesceTimeout quarter) := by
  intro _ cw h; cases h

theorem pcfgWrite (value : Word) : Statement (.pcfgWrite value) := by
  intro _ cw h; cases h

theorem nbondWrite (quarter : Nat) (value : Word) : Statement (.nbondWrite quarter value) := by
  intro _ cw h; cases h

theorem tslotWrite (quarter : Nat) (k : Nat) (value : Word) : Statement (.tslotWrite quarter k value) := by
  intro _ cw h; cases h

theorem controlWindowAccess (id : Nat) : Statement (.controlWindowAccess id) := by
  intro _ cw h; cases h

theorem tcsdWrite (die : Nat) (value : Word) : Statement (.tcsdWrite die value) := by
  intro _ cw h; cases h

theorem shootDownDone (die : Nat) : Statement (.shootDownDone die) := by
  intro _ cw h; cases h

theorem svcBind (die : Nat) (j : Nat) : Statement (.svcBind die j) := by
  intro _ cw h; cases h

theorem svcUnbind (die : Nat) (j : Nat) : Statement (.svcUnbind die j) := by
  intro _ cw h; cases h

theorem hotResetSelfHosted (port : Nat) : Statement (.hotResetSelfHosted port) := by
  intro _ cw h; cases h

theorem hotResetHostManaged (port : Nat) : Statement (.hotResetHostManaged port) := by
  intro _ cw h; cases h

theorem functionLevelReset (vf : Nat) : Statement (.functionLevelReset vf) := by
  intro _ cw h; cases h

theorem connectionEnable (conn : Nat) : Statement (.connectionEnable conn) := by
  intro _ cw h; cases h

theorem connectionWord5Write (conn : Nat) (value : Word) : Statement (.connectionWord5Write conn value) := by
  intro _ cw h; cases h

theorem nvmeofConnected (conn : Nat) : Statement (.nvmeofConnected conn) := by
  intro _ cw h; cases h

theorem connectionFailure (conn : Nat) (errc : BitVec 32) : Statement (.connectionFailure conn errc) := by
  intro _ cw h; cases h

theorem powerOn : Statement (.powerOn) := by
  intro _ cw h; cases h

theorem pinReset : Statement (.pinReset) := by
  intro _ cw h; cases h

theorem hvReset (retry : Bool) : Statement (.hvReset retry) := by
  intro _ cw h; cases h

theorem bootStart : Statement (.bootStart) := by
  intro _ cw h; cases h

theorem registerWrite (unit : BitVec 8) (off : BitVec 24) (value : Word) : Statement (.registerWrite unit off value) := by
  intro _ cw h; cases h

theorem ringHeadWrite (quarter : Nat) (cid : Nat) (eq : Bool) (head : BitVec 32) : Statement (.ringHeadWrite quarter cid eq head) := by
  intro _ cw h; cases h

theorem hostLinkRetrained (port : Nat) : Statement (.hostLinkRetrained port) := by
  intro _ cw h; cases h

end Sys2Proof.Laws.RoundTrip
end

