-- ==== Sys2Proof/Tests/Slice0.lean ====
section
/-!
SUPPORT. Tests: that ill-formed words are refused, that words written out from the spec's encodings decode to the instructions they stand for, and,
for the hypotheses of the statements, small states and operands that meet them.
-/
namespace Sys2Proof.Tests
set_option Elab.async false
open Sys2Proof Sys2Proof.Machine

/-! Operand forms from which the tests build theirs: format R, I, X and Y with D 1, A 2, B 3. -/

abbrev fr : FmtR := ⟨1#8, 2#8, 3#8, 0x80#8, 3#4, 0#4, 0#3, 0#2, 0#3, 0#8⟩
abbrev fi : FmtI := ⟨1#8, 2#8, 9#16, 3#4, 0#4, 0#3, 0#2, 0#3, 0#8⟩
abbrev fx : FmtX := ⟨1#8, 0#4, 1#4, 2#8, 0x80#8, 3#4, 0#4, 0#3, 0#8, 0#2, 0#2, 0#1⟩
abbrev fy : FmtY := ⟨1#8, 2#8, 3#8, 0x80#8, 0#4, 0#4, 0#3, 0#13⟩
abbrev fz : FmtY := ⟨0x80#8, 0x80#8, 0x80#8, 0x80#8, 0#4, 0#4, 0#3, 0#13⟩

/-! Words that the spec's encodings give. -/

/-- Words of the S slot in format R, from the map of R71 and the layout of R58: D 1, A 2, B 3, C 0x80, TY I64. -/
theorem test_decode_scalar_R : ([
    (0x0101020380300000#64, .add fr),
    (0x0201020380300000#64, .sub fr),
    (0x0301020380300000#64, .mul fr),
    (0x0401020380300000#64, .mulh fr),
    (0x0501020380300000#64, .div fr),
    (0x0601020380300000#64, .rem fr),
    (0x0701020380300000#64, .and fr),
    (0x0801020380300000#64, .or fr),
    (0x0901020380300000#64, .xor fr),
    (0x0A01020380300000#64, .shl fr),
    (0x0B01020380300000#64, .shr fr),
    (0x0C01020380300000#64, .sar fr),
    (0x0D01020380300000#64, .min fr),
    (0x0E01020380300000#64, .max fr),
    (0x0F01020380300000#64, .clz fr),
    (0x1801020380300000#64, .cmp fr),
    (0x1A01020380300000#64, .sel fr),
    (0x1B01020380300000#64, .popc fr),
    (0x1C01020380300000#64, .lea fr),
    (0x2001020380300000#64, .fadd fr),
    (0x2101020380300000#64, .fsub fr),
    (0x2201020380300000#64, .fmul fr),
    (0x2301020380300000#64, .fma fr),
    (0x2401020380300000#64, .fdiv fr),
    (0x2501020380300000#64, .fsqrt fr),
    (0x2601020380300000#64, .fmin fr),
    (0x2701020380300000#64, .fmax fr),
    (0x2801020380300000#64, .fcmp fr),
    (0x2901020380300000#64, .fcvt fr),
    (0x2A01020380300000#64, .fsgn fr)] : List (Word × Instr)).all (fun x => decodeSlot .s x.1 = .ok x.2) = true := by decide +kernel

/-- Words of the S slot in format I (R71, R58, R101): D 1, A 2, IMM16 9, TY I64. -/
theorem test_decode_scalar_I : ([
    (0x1001020009300000#64, .addi fi),
    (0x1101020009300000#64, .andi fi),
    (0x1201020009300000#64, .ori fi),
    (0x1301020009300000#64, .xori fi),
    (0x1401020009300000#64, .shli fi),
    (0x1501020009300000#64, .shri fi),
    (0x1601020009300000#64, .sari fi),
    (0x1901020009300000#64, .cmpi fi),
    (0x1701800009300000#64, .movi { fi with a := 0x80#8 }),
    (0x1701020009300005#64, .moviIns { fi with var := 5#8 })] : List (Word × Instr)).all (fun x => decodeSlot .s x.1 = .ok x.2) = true := by decide +kernel

/-- LD, ST and AMO (R58, R59, R71); the first AMO is amo.add.o.part s7, h3+s2, s9, the word of chapter 13. -/
theorem test_decode_scalar_X : ([
    (0x3001010280301002#64, .ld { fx with stride := 0x80#8, dstep := 1#2 }),
    (0x3101010280300018#64, .st { fx with sunit := 3#2 }),
    (0x3207030209300C01#64, .amo ⟨7#8, 0#4, 3#4, 2#8, 9#8, 3#4, 0#4, 0#3, 3#3, 0#4, 0#5, 1#1⟩),
    (0x3201010209304242#64, .amo ⟨1#8, 0#4, 1#4, 2#8, 9#8, 3#4, 0#4, 2#3, 0#3, 9#4, 1#5, 0#1⟩)] : List (Word × Instr)).all (fun x => decodeSlot .s x.1 = .ok x.2) = true := by decide +kernel

/-- Words of the S slot in format Y (R71, R58): D 1, A 2, B 3, C 0x80, SF 0. -/
theorem test_decode_scalar_Y : ([
    (0x3301020380000000#64, .grant fy),
    (0x3401020380000000#64, .revoke fy),
    (0x3501020380000000#64, .permld fy),
    (0x4001020380000000#64, .fork fy),
    (0x4101020380000000#64, .join fy),
    (0x4201020380000000#64, .pqpush fy),
    (0x4301020380000000#64, .pqpop fy),
    (0x4401020380000000#64, .barm fy),
    (0x4501020380000000#64, .barrive fy),
    (0x4601020380000000#64, .bwait fy),
    (0x4701020380000000#64, .gbarrive fy),
    (0x4801020380000000#64, .gbwait fy),
    (0x4901020380000000#64, .qcfg fy),
    (0x5001020380000000#64, .trap fy),
    (0x5201020380000000#64, .rdrec fy),
    (0x5301020380000000#64, .wrrec fy),
    (0x5401020380000000#64, .vtsel fy),
    (0x5601020380000000#64, .cinv fy),
    (0x5701020380000000#64, .cflush fy),
    (0x5801020380000000#64, .waitt fy),
    (0x5901020380000000#64, .snap fy),
    (0x5A01020380000000#64, .step fy),
    (0x5C01020380000000#64, .wdecl fy),
    (0x5E01020380000000#64, .enclr fy),
    (0x5F01020380000000#64, .yield fy),
    (0x6001020380000000#64, .halt fy)] : List (Word × Instr)).all (fun x => decodeSlot .s x.1 = .ok x.2) = true := by decide +kernel

/-- The forms of format Y that SF, D or A selects (R61, R198, R280, R318, R332, R333), with the words that the chapters write out. -/
theorem test_decode_scalar_forms : ([
    (0x3680050680000000#64, .cmpt ⟨0x80#8, 5#8, 6#8, 0x80#8, 0#4, 0#4, 0#3, 0#13⟩),
    (0x3680042480000001#64, .cmptV ⟨0x80#8, 4#8, 0x24#8, 0x80#8, 0#4, 0#4, 0#3, 1#13⟩),
    (0x4A8080808000000C#64, .drainR { fz with sf := 0xC#13 }),
    (0x4A80808080000010#64, .drainA { fz with sf := 0x10#13 }),
    (0x4A8080808000001B#64, .drainBoth { fz with sf := 0x1B#13 }),
    (0x5180808080000000#64, .resume fz),
    (0x5107808080000000#64, .resumeServiceCore { fz with d := 7#8 }),
    (0x5107028080000001#64, .resumeEnd { fz with d := 7#8, a := 2#8, sf := 1#13 }),
    (0x550B808080000020#64, .srmovRead { fz with d := 0xB#8, sf := 0x20#13 }),
    (0x5580028080001020#64, .srmovWrite { fz with a := 2#8, sf := 0x1020#13 }),
    (0x5B80808080000000#64, .phase fz),
    (0x5B80808080000001#64, .phaseOff { fz with sf := 1#13 }),
    (0x5C80055180000001#64, .wdecl { fz with a := 5#8, b := 0x51#8, sf := 1#13 }),
    (0x5907008080000000#64, .snap { fz with d := 7#8, a := 0#8 }),
    (0x5D07808080000000#64, .enrd { fz with d := 7#8 }),
    (0x5D07818080000000#64, .enrdIdle { fz with d := 7#8, a := 0x81#8 }),
    (0x4900808080640000#64, .qcfg { fz with d := 0#8, ty := 6#4, msk := 4#4 }),
    (0x5680050680000003#64, .cinv { fz with a := 5#8, b := 6#8, sf := 3#13 }),
    (0x4480518080000000#64, .barm { fz with a := 0x51#8 }),
    (0x5080818080000000#64, .trap { fz with a := 0x81#8 })] : List (Word × Instr)).all (fun x => decodeSlot .s x.1 = .ok x.2) = true := by decide +kernel

/-- Words of the B slot (R60, R72); BR, LOOP and LOOPW are the words of chapters 20, 28 and 21. -/
theorem test_decode_branch : ([
    (0x0280020360000005#64, .breq ⟨0x80#8, 2#8, 3#8, 1#2, 2#2, 5#28⟩),
    (0x0380020360000005#64, .brne ⟨0x80#8, 2#8, 3#8, 1#2, 2#2, 5#28⟩),
    (0x0480020360000005#64, .brlt ⟨0x80#8, 2#8, 3#8, 1#2, 2#2, 5#28⟩),
    (0x0580020360000005#64, .brge ⟨0x80#8, 2#8, 3#8, 1#2, 2#2, 5#28⟩),
    (0x0680020360000005#64, .brltu ⟨0x80#8, 2#8, 3#8, 1#2, 2#2, 5#28⟩),
    (0x0780020360000005#64, .brgeu ⟨0x80#8, 2#8, 3#8, 1#2, 2#2, 5#28⟩),
    (0x018080800FFFFFF6#64, .br ⟨0x80#8, 0x80#8, 0x80#8, 0#2, 0#2, 0xFFFFFF6#28⟩),
    (0x0880038280000005#64, .brall ⟨0x80#8, 3#8, 0x82#8, 2#2, 0#2, 5#28⟩),
    (0x0980038280000005#64, .brnone ⟨0x80#8, 3#8, 0x82#8, 2#2, 0#2, 5#28⟩),
    (0x0A01808000000005#64, .call ⟨1#8, 0x80#8, 0x80#8, 0#2, 0#2, 5#28⟩),
    (0x0A01028000000000#64, .callRegister ⟨1#8, 2#8, 0x80#8, 0#2, 0#2, 0#28⟩),
    (0x0B80028000000000#64, .ret ⟨0x80#8, 2#8, 0x80#8, 0#2, 0#2, 0#28⟩),
    (0x0C80028000000000#64, .jr ⟨0x80#8, 2#8, 0x80#8, 0#2, 0#2, 0#28⟩),
    (0x1001158080000009#64, .loop ⟨0#2, 0#4, 1#2, 0x15#8, 0x80#8, 0x80#8, 0#3, 0#3, 9#18⟩),
    (0x110D010204C00009#64, .loopw ⟨0#2, 3#4, 1#2, 1#8, 2#8, 4#8, 6#3, 0#3, 9#18⟩)] : List (Word × Instr)).all (fun x => decodeSlot .b x.1 = .ok x.2) = true := by decide +kernel

/-- Words of the V slots in format R, from the map of R73: D 1, A 2, B 3, C 0x80, TY I64. -/
theorem test_decode_vector_R : ([
    (0x0101020380300000#64, .vadd fr),
    (0x0201020380300000#64, .vsub fr),
    (0x0301020380300000#64, .vmul fr),
    (0x0401020380300000#64, .vfma fr),
    (0x0501020380300000#64, .vmin fr),
    (0x0601020380300000#64, .vmax fr),
    (0x0701020380300000#64, .vabs fr),
    (0x0801020380300000#64, .vneg fr),
    (0x0901020380300000#64, .vmulh fr),
    (0x0A01020380300000#64, .vavg fr),
    (0x0B01020380300000#64, .vshl fr),
    (0x0C01020380300000#64, .vshr fr),
    (0x0D01020380300000#64, .vsar fr),
    (0x0E01020380300000#64, .vand fr),
    (0x0F01020380300000#64, .vor fr),
    (0x1001020380300000#64, .vxor fr),
    (0x1101020380300000#64, .vcvt fr),
    (0x1201020380300000#64, .vcmp fr),
    (0x1301020380300000#64, .vsel fr),
    (0x1401020380300000#64, .vshuf fr),
    (0x1501020380300000#64, .vperm fr),
    (0x1601020380300000#64, .vred fr),
    (0x1701020380300000#64, .vclmul fr),
    (0x1801020380300000#64, .vclmulh fr),
    (0x1901020380300000#64, .vrcp fr),
    (0x1A01020380300000#64, .vrsq fr),
    (0x1B01020380300000#64, .vexp fr),
    (0x1C01020380300000#64, .vmov fr),
    (0x2801020380300000#64, .qpush fr),
    (0x2901020380300000#64, .qpop fr),
    (0x3001020380300000#64, .vdup fr)] : List (Word × Instr)).all (fun x => decodeSlot .v x.1 = .ok x.2) = true := by decide +kernel

/-- VMOVI and the V forms of format X (R58, R59, R73), with the words of chapters 04, 08 and 09. -/
theorem test_decode_vector_forms : ([
    (0x1D01800009300000#64, .vmovi { fi with a := 0x80#8 }),
    (0x200A018E80101FC2#64, .vld ⟨0xA#8, 0#4, 1#4, 0x8E#8, 0x80#8, 1#4, 0#4, 0#3, 0xFE#8, 0#2, 1#2, 0#1⟩),
    (0x2102045180000000#64, .vst ⟨2#8, 0#4, 4#4, 0x51#8, 0x80#8, 0#4, 0#4, 0#3, 0#8, 0#2, 0#2, 0#1⟩),
    (0x2201020384280000#64, .vgath ⟨1#8, 0#4, 2#4, 3#8, 0x84#8, 2#4, 8#4, 0#3, 0#8, 0#2, 0#2, 0#1⟩),
    (0x2301020384280000#64, .vscat ⟨1#8, 0#4, 2#4, 3#8, 0x84#8, 2#4, 8#4, 0#3, 0#8, 0#2, 0#2, 0#1⟩),
    (0x2401020384280C00#64, .vamo ⟨1#8, 0#4, 2#4, 3#8, 0x84#8, 2#4, 8#4, 0#3, 3#3, 0#4, 0#5, 0#1⟩),
    (0x0104050680290001#64, .vadd ⟨4#8, 5#8, 6#8, 0x80#8, 2#4, 9#4, 0#3, 0#2, 0#3, 1#8⟩),
    (0x0101010980401000#64, .vadd ⟨1#8, 1#8, 9#8, 0x80#8, 4#4, 0#4, 0#3, 2#2, 0#3, 0#8⟩),
    (0x2901808080000800#64, .qpop ⟨1#8, 0x80#8, 0x80#8, 0x80#8, 0#4, 0#4, 0#3, 1#2, 0#3, 0#8⟩)] : List (Word × Instr)).all (fun x => decodeSlot .v x.1 = .ok x.2) = true := by decide +kernel

/-- Words of the M slot (R58, R62, R74); all but the plain MLDW and MMAS are the words of chapter 11. -/
theorem test_decode_matrix : ([
    (0x0100050180900020#64, .mldwS ⟨0#5, 0#3, 5#8, 1#8, 0x80#8, 9#4, 0#4, 0#3, 0#4, 0#3, 1#1, 0#5⟩),
    (0x0101020180010000#64, .mldw ⟨0#5, 1#3, 2#8, 1#8, 0x80#8, 0#4, 1#4, 0#3, 0#4, 0#3, 0#1, 0#5⟩),
    (0x0200058084900200#64, .mma ⟨0#5, 0#3, 5#8, 0x80#8, 0x84#8, 9#4, 0#4, 0#3, 1#4, 0#3, 0#1, 0#5⟩),
    (0x030005808490021F#64, .mmas ⟨0#5, 0#3, 5#8, 0x80#8, 0x84#8, 9#4, 0#4, 0#3, 1#4, 0#3, 0#1, 31#5⟩),
    (0x0400008080600000#64, .mzero ⟨0#5, 0#3, 0#8, 0x80#8, 0x80#8, 6#4, 0#4, 0#3, 0#4, 0#3, 0#1, 0#5⟩),
    (0x0500008084000000#64, .mdrain ⟨0#5, 0#3, 0#8, 0x80#8, 0x84#8, 0#4, 0#4, 0#3, 0#4, 0#3, 0#1, 0#5⟩),
    (0x0502018083000012#64, .mdrainV ⟨0#5, 2#3, 1#8, 0x80#8, 0x83#8, 0#4, 0#4, 0#3, 0#4, 0#3, 0#1, 0x12#5⟩),
    (0x0602008080000000#64, .mfuse ⟨0#5, 2#3, 0#8, 0x80#8, 0x80#8, 0#4, 0#4, 0#3, 0#4, 0#3, 0#1, 0#5⟩)] : List (Word × Instr)).all (fun x => decodeSlot .m x.1 = .ok x.2) = true := by decide +kernel

/-- Words of the C slots (R58, R75); the last is the word of chapter 15. -/
theorem test_decode_copy : ([
    (0x0114528084511008#64, .cpy ⟨0x14#8, 5#4, 2#4, 0x80#8, 0x84#8, 0x51#8, 0#3, 1#1, 4#11, 0#1⟩),
    (0x1114528084511008#64, .cpyAt ⟨0x14#8, 5#4, 2#4, 0x80#8, 0x84#8, 0x51#8, 0#3, 1#1, 4#11, 0#1⟩),
    (0x0214528084511008#64, .cpy2 ⟨0x14#8, 5#4, 2#4, 0x80#8, 0x84#8, 0x51#8, 0#3, 1#1, 4#11, 0#1⟩),
    (0x1214528084511008#64, .cpy2At ⟨0x14#8, 5#4, 2#4, 0x80#8, 0x84#8, 0x51#8, 0#3, 1#1, 4#11, 0#1⟩),
    (0x0314528084511008#64, .cpy3 ⟨0x14#8, 5#4, 2#4, 0x80#8, 0x84#8, 0x51#8, 0#3, 1#1, 4#11, 0#1⟩),
    (0x1314528084511008#64, .cpy3At ⟨0x14#8, 5#4, 2#4, 0x80#8, 0x84#8, 0x51#8, 0#3, 1#1, 4#11, 0#1⟩),
    (0x0414528084511008#64, .cgath ⟨0x14#8, 5#4, 2#4, 0x80#8, 0x84#8, 0x51#8, 0#3, 1#1, 4#11, 0#1⟩),
    (0x1414528084511008#64, .cgathAt ⟨0x14#8, 5#4, 2#4, 0x80#8, 0x84#8, 0x51#8, 0#3, 1#1, 4#11, 0#1⟩),
    (0x0514528084511008#64, .cscat ⟨0x14#8, 5#4, 2#4, 0x80#8, 0x84#8, 0x51#8, 0#3, 1#1, 4#11, 0#1⟩),
    (0x1514528084511008#64, .cscatAt ⟨0x14#8, 5#4, 2#4, 0x80#8, 0x84#8, 0x51#8, 0#3, 1#1, 4#11, 0#1⟩),
    (0x0614528084511008#64, .cmcast ⟨0x14#8, 5#4, 2#4, 0x80#8, 0x84#8, 0x51#8, 0#3, 1#1, 4#11, 0#1⟩),
    (0x1614528084511008#64, .cmcastAt ⟨0x14#8, 5#4, 2#4, 0x80#8, 0x84#8, 0x51#8, 0#3, 1#1, 4#11, 0#1⟩),
    (0x0714528084511008#64, .cfill ⟨0x14#8, 5#4, 2#4, 0x80#8, 0x84#8, 0x51#8, 0#3, 1#1, 4#11, 0#1⟩),
    (0x1714528084511008#64, .cfillAt ⟨0x14#8, 5#4, 2#4, 0x80#8, 0x84#8, 0x51#8, 0#3, 1#1, 4#11, 0#1⟩),
    (0x0814528084511008#64, .credI32 ⟨0x14#8, 5#4, 2#4, 0x80#8, 0x84#8, 0x51#8, 0#3, 1#1, 4#11, 0#1⟩),
    (0x1814528084511008#64, .credI32At ⟨0x14#8, 5#4, 2#4, 0x80#8, 0x84#8, 0x51#8, 0#3, 1#1, 4#11, 0#1⟩),
    (0x0914528084511008#64, .credFp32 ⟨0x14#8, 5#4, 2#4, 0x80#8, 0x84#8, 0x51#8, 0#3, 1#1, 4#11, 0#1⟩),
    (0x1914528084511008#64, .credFp32At ⟨0x14#8, 5#4, 2#4, 0x80#8, 0x84#8, 0x51#8, 0#3, 1#1, 4#11, 0#1⟩),
    (0x0A14528084511008#64, .credBf16 ⟨0x14#8, 5#4, 2#4, 0x80#8, 0x84#8, 0x51#8, 0#3, 1#1, 4#11, 0#1⟩),
    (0x1A14528084511008#64, .credBf16At ⟨0x14#8, 5#4, 2#4, 0x80#8, 0x84#8, 0x51#8, 0#3, 1#1, 4#11, 0#1⟩),
    (0x020C625180071012#64, .cpy2 ⟨0xC#8, 6#4, 2#4, 0x51#8, 0x80#8, 7#8, 0#3, 1#1, 9#11, 0#1⟩)] : List (Word × Instr)).all (fun x => decodeSlot .c x.1 = .ok x.2) = true := by decide +kernel

/-- A word of zeros is no operation in any slot class, and neither is a reserved cell of the maps (R71 to R75). -/
theorem test_decode_reserved : ([(.s, 0#64), (.v, 0#64), (.m, 0#64), (.c, 0#64), (.b, 0#64), (.s, 0x1D00000000000000#64), (.s, 0x6100000000000000#64),
    (.v, 0x1E00000000000000#64), (.v, 0x3100000000000000#64), (.m, 0x0700000000000000#64), (.c, 0x0B00000000000000#64), (.c, 0x1000000000000000#64),
    (.b, 0x0D00000000000000#64), (.b, 0x1200000000000000#64)] : List (SlotClass × Word)).all
    (fun x => match decodeSlot x.1 x.2 with | .ok _ => false | .error _ => true) = true := by decide +kernel

/-! Well-formedness: every check refuses an ill-formed term, with the WHY code of R69. -/

abbrev fm : FmtM := ⟨0#5, 1#3, 2#8, 1#8, 0x84#8, 0#4, 1#4, 0#3, 3#4, 0#3, 0#1, 0#5⟩
abbrev fc : FmtC := ⟨20#8, 5#4, 2#4, 0x80#8, 0x84#8, 7#8, 0#3, 1#1, 4#11, 0#1⟩
abbrev fj : FmtJ := ⟨0x80#8, 2#8, 3#8, 1#2, 0#2, 5#28⟩
abbrev fl : FmtL := ⟨0#2, 0#4, 1#2, 1#8, 0x80#8, 0x80#8, 0#3, 0#3, 9#18⟩
abbrev fa : FmtA := ⟨1#8, 0#4, 2#4, 3#8, 4#8, 2#4, 0#4, 0#3, 3#3, 0#4, 0#5, 0#1⟩

/-- Whether a term is ill-formed with a code among its faults. -/
def refusedWith (x : Instr × BitVec 8) : Bool := !wellFormed x.1 && (faults x.1).contains x.2

/-- Formats R and I (R56, R57, R63, R64, R95 to R104). -/
theorem test_wf_scalar : ([(.add { fr with ty := 1#4 }, 3#8), (.add { fr with c := 3#8 }, 2#8), (.add { fr with a := 0x40#8 }, 4#8),
    (.add { fr with d := 0x80#8 }, 4#8), (.add { fr with a := 0x81#8, ep := 4#3 }, 2#8), (.add { fr with ep := 1#3 }, 2#8),
    (.add { fr with msk := 8#4 }, 2#8), (.add { fr with rnd := 1#3 }, 2#8), (.add { fr with var := 1#8 }, 2#8),
    (.add { fr with a := 0x81#8, dstep := 2#2 }, 5#8), (.mulh { fr with var := 3#8 }, 2#8), (.cmp { fr with var := 6#8 }, 2#8),
    (.sel { fr with c := 0x40#8 }, 4#8), (.lea { fr with ty := 2#4 }, 3#8), (.fadd { fr with ty := 6#4, rnd := 4#3 }, 2#8), (.fcvt { fr with ty := 6#4 }, 2#8),
    (.addi { fi with ep := 1#3 }, 2#8), (.addi { fi with dstep := 3#2 }, 2#8), (.addi { fi with rnd := 1#3 }, 2#8), (.movi fi, 2#8),
    (.shli { fi with imm := 64#16 }, 2#8), (.shli { fi with ty := 2#4, imm := 32#16 }, 2#8), (.moviIns fi, 2#8),
    (.cmpi { fi with var := 7#8 }, 2#8)] : List (Instr × BitVec 8)).all refusedWith = true := by decide +kernel

/-- Formats X and A (R59, R105, R136, R137, R199, R202). -/
theorem test_wf_memory : ([(.ld { fx with ty := 8#4 }, 3#8), (.ld { fx with ep := 4#3 }, 2#8), (.ld { fx with hres := 1#4 }, 2#8),
    (.ld { fx with ord := 1#1 }, 2#8), (.ld { fx with dstep := 2#2 }, 2#8), (.st { fx with b := 0x50#8 }, 4#8), (.ld { fx with d := 0x40#8 }, 4#8),
    (.vld { fx with c := 2#8 }, 2#8), (.vst { fx with msk := 1#4 }, 2#8), (.vgath { fx with ty := 0#4, c := 4#8 }, 3#8),
    (.vld { fx with d := 0x80#8 }, 4#8), (.amo { fa with aop := 11#4 }, 2#8), (.amo { fa with scope := 5#3 }, 2#8),
    (.amo { fa with ares := 1#5 }, 2#8), (.amo { fa with ty := 1#4 }, 3#8), (.amo { fa with aop := 10#4 }, 3#8), (.amo { fa with ep := 4#3 }, 2#8),
    (.vamo { fa with aop := 9#4 }, 2#8)] : List (Instr × BitVec 8)).all refusedWith = true := by decide +kernel

/-- Format Y (R61, R62, R78, R183, R198, R206, R280, R318, R332). -/
theorem test_wf_system : ([(.grant { fy with d := 16#8 }, 2#8), (.revoke { fz with d := 1#8, a := 2#8 }, 2#8), (.pqpop { fz with d := 63#8 }, 4#8),
    (.pqpop { fz with d := 0#8 }, 4#8), (.fork { fy with d := 0x50#8 }, 4#8), (.barm { fz with a := 2#8, sf := 0x800#13 }, 2#8), (.halt { fz with sf := 1#13 }, 2#8),
    (.qcfg { fz with d := 1#8, ty := 3#4 }, 3#8), (.qcfg { fz with d := 8#8 }, 2#8), (.qcfg { fz with d := 1#8, sf := 5#13 }, 2#8),
    (.drainR { fz with sf := 0xD#13 }, 2#8), (.srmovRead { fz with d := 1#8, sf := 7#13 }, 2#8), (.srmovWrite { fz with a := 1#8, sf := 0x1019#13 }, 2#8),
    (.cinv { fy with d := 0x80#8, c := 0x80#8, sf := 5#13 }, 2#8), (.resumeEnd { fz with a := 2#8, sf := 1#13 }, 2#8), (.enrdIdle { fz with d := 1#8, a := 0x82#8 }, 2#8),
    (.cmptV { fz with a := 0x40#8, b := 2#8, sf := 1#13 }, 4#8), (.cmpt { fz with a := 1#8, b := 2#8, sf := 2#13 }, 2#8), (.join { fz with d := 1#8, ty := 2#4 }, 2#8),
    (.join { fz with d := 1#8, msk := 8#4 }, 2#8), (.trap { fz with a := 1#8, ep := 2#3 }, 2#8)] : List (Instr × BitVec 8)).all refusedWith = true := by
  decide +kernel

/-- Formats J and L (R57, R60, R115 to R117, R119, R290). -/
theorem test_wf_branch : ([(.breq { fj with hint := 3#2 }, 2#8), (.breq { fj with d := 1#8 }, 2#8), (.breq { fj with a := 0x50#8 }, 4#8),
    (.br { fj with hint := 0#2 }, 2#8), (.brall { fj with a := 8#8, b := 0x80#8 }, 2#8), (.brall { fj with b := 0x84#8 }, 2#8),
    (.call { fj with d := 1#8, a := 0x80#8, b := 0x80#8 }, 2#8), (.call { fj with d := 0x80#8, a := 0x80#8, b := 0x80#8, hint := 0#2 }, 4#8),
    (.ret { fj with b := 0x80#8, hint := 0#2 }, 2#8), (.jr { fj with a := 0x81#8, b := 0x80#8, hint := 0#2, disp := 0#28 }, 4#8),
    (.loop { fl with wh := 1#4 }, 2#8), (.loop { fl with lres := 1#2 }, 2#8), (.loop { fl with c := 1#8 }, 2#8), (.loop { fl with a := 0x42#8 }, 4#8),
    (.loopw { fl with b := 2#8, c := 3#8, cell := 1#3 }, 2#8)] : List (Instr × BitVec 8)).all refusedWith = true := by decide +kernel

/-- The V slots (R56, R63, R124 to R140). -/
theorem test_wf_vector : ([(.vadd fr, 3#8), (.vadd { fr with ty := 2#4, msk := 1#4 }, 2#8), (.vadd { fr with ty := 2#4, var := 3#8 }, 2#8),
    (.vadd { fr with ty := 6#4, rnd := 4#3 }, 2#8), (.vadd { fr with ty := 2#4, d := 0x40#8, dstep := 1#2 }, 5#8), (.vfma { fr with c := 4#8 }, 3#8),
    (.vmin { fr with ty := 6#4, var := 8#8 }, 2#8), (.vmulh { fr with ty := 1#4, var := 1#8 }, 2#8), (.vavg { fr with ty := 6#4 }, 3#8),
    (.vshl { fr with var := 1#8 }, 2#8), (.vshl { fr with ty := 2#4, var := 3#8 }, 2#8), (.vshr { fr with var := 1#8 }, 2#8), (.vcvt { fr with b := 0x80#8, var := 3#8 }, 3#8),
    (.vcvt { fr with b := 0x80#8, ty := 2#4, var := 0x40#8 }, 2#8), (.vcmp { fr with dstep := 1#2 }, 5#8), (.vcmp { fr with d := 8#8 }, 2#8),
    (.vcmp { fr with ty := 6#4, var := 4#8 }, 2#8), (.vsel fr, 2#8), (.vperm { fr with var := 7#8 }, 2#8), (.vred { fr with b := 0x80#8, ty := 0#4, var := 3#8 }, 2#8),
    (.vclmul { fr with msk := 8#4 }, 2#8), (.vrcp { fr with b := 0x80#8 }, 3#8), (.qpush { fr with b := 0x80#8 }, 2#8), (.qpop { fr with a := 0x80#8, b := 0x80#8, ty := 0#4, var := 8#8 }, 2#8),
    (.vdup { fr with a := 0x80#8, b := 0x80#8 }, 2#8), (.vmovi fi, 2#8)] : List (Instr × BitVec 8)).all refusedWith = true := by decide +kernel

/-- The M slot and the C slots (R57, R59, R62, R171, R185). -/
theorem test_wf_matrix_copy : ([(.mma { fm with tgt := 4#3 }, 2#8), (.mma { fm with a := 16#8 }, 2#8), (.mma { fm with np := 4#4 }, 2#8), (.mma { fm with sp := 1#1 }, 2#8),
    (.mma { fm with ty := 1#4 }, 3#8), (.mma { fm with tres := 1#5 }, 2#8), (.mma { fm with ep := 4#3 }, 2#8), (.mma { fm with rnd := 1#3 }, 2#8),
    (.mma { fm with b := 0x40#8 }, 4#8), (.mldw { fm with np := 0#4 }, 2#8), (.mzero { fm with a := 0#8, b := 0x80#8, c := 0x80#8, np := 0#4 }, 3#8),
    (.mfuse { fm with tgt := 3#3, a := 0#8, b := 0x80#8, c := 0x80#8, np := 0#4, qsel := 0#4 }, 2#8), (.mdrain { fm with a := 4#8, np := 0#4 }, 2#8), (.cpy { fc with tok := 0x80#8 }, 4#8),
    (.cfill fc, 2#8), (.cpy { fc with ben := 0#1 }, 2#8), (.cpy { fc with len := 0x50#8 }, 4#8), (.cpy { fc with doff := 0x80#8, ep := 4#3 }, 2#8)] :
    List (Instr × BitVec 8)).all refusedWith = true := by decide +kernel

/-! The hypotheses of the statements about slot operations. `issuesB` is the check that `Issues` holds; `base` is a context of a task, in RUN on core 0, with
a handle of each kind, values in s1 to s12, and every quadrant and profile. -/

/-- Whether an operation issues in a state. -/
def issuesB (i : Instr) (s : State) : Bool :=
  (s.issuer.mode = .run || s.issuer.mode = .service) && decide (legalityTrap s.view (opsAlone i s) (slotBit (slotFor s i)) 0#7 = none) &&
  !waitsForSource s.view (opsAlone i s) && !refused s s.cur.key (freeEngines s) [⟨slotFor s i, s.cur.sw, s.cur.step, i⟩] &&
  decide (declarationTrap s.view (opsAlone i s) = none) && decide (emptyReadTrap s.view (opsAlone i s) = none) &&
  decide (s.cur.stores = []) && decide (s.cur.near = []) && decide (s.cur.trapped = none)

/-- The check is right. -/
theorem issues_of_check {i : Instr} {s : State} (h : issuesB i s = true) : Issues i s := by
  simp only [issuesB, Bool.and_eq_true, Bool.or_eq_true, Bool.not_eq_true', decide_eq_true_eq] at h
  exact ⟨h.1.1.1.1.1.1.1.1, h.1.1.1.1.1.1.1.2, h.1.1.1.1.1.1.2, h.1.1.1.1.1.2, h.1.1.1.1.2, h.1.1.1.2, h.1.1.2, h.1.2, h.2⟩

/-- A context of a task. -/
def testCtx : Ctx :=
  { mode := .run, cid := 1#8, task := some 1, quads := 15#4, profiles := 15#4, barFirst := 4, barCount := 2,
    s := [(1, 5#64), (2, 16#64), (3, 2#64), (4, 32#64), (5, 0x8000000000000000#64), (7, 8#64), (8, 0x200#64), (9, 0x100000005#64)],
    h := [(1, ⟨true, .spad, 7#3, 0x1000#64, 0x10000#64, 0#96, 0⟩), (2, ⟨true, .global, 7#3, 0x10000#64, 0x10000#64, 0#96, 1⟩),
          (3, ⟨true, .mcast, 7#3, 0x1000#64, 0x1000#64, 1#96, 2⟩), (4, ⟨true, .cluster, 7#3, 0x1000#64, 0x1000#64, 0#96, 3⟩),
          (5, ⟨true, .spad, 1#3, 0x2000#64, 0x100#64, 0#96, 4⟩)],
    perm := [(5, ⟨true, .spad, 7#3, 0x1000#52, 0x100#53, 0#96⟩)] }
/-- A state with that context as ctx0 of core 0. -/
def base : State := { now := 100, boot := .done, cur := { pc := 0x10000#64 }, ctxs := [(0, testCtx)], launches := [(1, { origin := .imageQueue 0 0 0#32 true, quarter := 0, cid := 1#8, cores := [0], members := [[0]] })] }
/-- The state with its context changed. -/
def withC (s : State) (f : Ctx → Ctx) : State := { s with ctxs := s.ctxs.map fun x => if x.1 = s.cur.key then (x.1, f x.2) else x }

/-- The operations of the S slot in formats R and I (R94 to R104). -/
theorem test_issue_scalar : ([.add fr, .sub fr, .mul fr, .mulh fr, .mulh { fr with var := 1#8 }, .mulh { fr with var := 2#8 }, .div fr, .rem fr, .and fr,
    .or fr, .xor fr, .shl fr, .shr fr, .sar fr, .min fr, .min { fr with var := 1#8 }, .max fr, .max { fr with var := 1#8 }, .clz { fr with b := 0x80#8 },
    .popc { fr with b := 0x80#8 }, .cmp { fr with var := 5#8 }, .sel { fr with c := 4#8 }, .lea { fr with var := 7#8 }, .addi fi, .andi fi, .ori fi, .xori fi,
    .shli fi, .shri fi, .sari fi, .movi { fi with a := 0x80#8 }, .moviIns { fi with var := 7#8 }, .cmpi fi, .fadd { fr with ty := 6#4 }, .fsub { fr with ty := 6#4 },
    .fmul { fr with ty := 6#4 }, .fma { fr with ty := 6#4, c := 4#8, rnd := 3#3 }, .fdiv { fr with ty := 6#4 }, .fsqrt { fr with ty := 6#4, b := 0x80#8 },
    .fmin { fr with ty := 6#4 }, .fmax { fr with ty := 6#4 }, .fcmp { fr with ty := 6#4, var := 3#8 }, .fcvt { fr with ty := 6#4, b := 0x80#8, var := 3#8 },
    .fsgn { fr with ty := 6#4, var := 2#8 }, .add { fr with d := 0#8 }] : List Instr).all (issuesB · base) = true := by decide +kernel

/-- The reserved conditions of CMP and CMPI (R100). -/
theorem test_hyp_Comparisons : 6 ≤ ({ fr with var := 6#8 } : FmtR).var.toNat ∧ 6 ≤ ({ fi with var := 7#8 } : FmtI).var.toNat := by decide

/-- Binary32 patterns: NaNs and others, and the bounds of the conversions (R102 to R104). -/
theorem test_hyp_FloatNan : isNan32 0x7FC00000 ∧ isNan32 0x7F800001 ∧ ¬ isNan32 0x7F800000 ∧ ¬ isNan32 0 ∧ low32 0x7F800000#64 = 0x7F800000 ∧
    low32 0xFF800000#64 = 0xFF800000 ∧ low32 0x4F000000#64 = 0x4F000000 ∧ isNan32 (low32 0xFFC00000#64) := by
  unfold isNan32; decide

/-- The B slot (R115 to R119): every conditional branch, taken and not; the masks of BRALL and BRNONE all ones, all zeros and mixed; and the calls. -/
theorem test_issue_branch : ([.br { fj with a := 0x80#8, b := 0x80#8, hint := 0#2 }, .breq fj, .brne { fj with hint := 2#2 }, .brlt fj, .brge fj, .brltu fj, .brgeu fj,
    .call { fj with d := 1#8, a := 0x80#8, b := 0x80#8, hint := 0#2 }, .callRegister { fj with d := 1#8, b := 0x80#8, hint := 0#2, disp := 0#28 },
    .ret { fj with b := 0x80#8, hint := 0#2, disp := 0#28 }, .jr { fj with b := 0x80#8, hint := 0#2, disp := 0#28 }] : List Instr).all (issuesB · base) = true := by
  decide +kernel

theorem test_hyp_MaskBranches :
    let f : FmtJ := ⟨0x80#8, 3#8, 0x80#8, 0#2, 0#2, 5#28⟩
    let s (m : MaskVal) : State := withC base fun c => { c with m := [(3, m)] }
    let n := maskCount f.b
    n = 128 ∧ (issuesB (.brall f) (s (~~~0#128)) ∧ issuesB (.brnone f) (s (~~~0#128)) ∧ ∀ k, k < n → ((s (~~~0#128)).issuer.mreg 3).getLsbD k = true) ∧
    (issuesB (.brall f) (s 0#128) ∧ issuesB (.brnone f) (s 0#128) ∧ ∀ k, k < n → ((s 0#128).issuer.mreg 3).getLsbD k = false) ∧
    issuesB (.brall f) (s 1#128) ∧ issuesB (.brnone f) (s 1#128) ∧ ((s 1#128).issuer.mreg 3).getLsbD 0 = true ∧ ((s 1#128).issuer.mreg 3).getLsbD 127 = false := by
  decide +kernel

/-- LOOP (R119, R301): a count of 2^32 and more, the lp register of a walk, and counts of 0 and 2^32 - 1. -/
theorem test_hyp_Loops :
    let i (a : OpName) : Instr := .loop { fl with a := a }
    let last : NextIssue := ⟨0, 0x10000#64, [], 0, none⟩
    let fr (a ow : Bool) (e : Word) : Frame := { act := a, beg := 0x9000#64, fin := e, ow := ow }
    let e (inner : Word) (ow : Bool) : Ctx :=
      { testCtx with order := [1, 0, 2], frames := [(0, fr true false 0x10010#64), (1, fr true ow 0x10010#64), (2, fr true false 0x20000#64)], lp := [(0, 3#64), (1, inner), (2, 5#64)] }
    let b (c : Ctx) : State := { base with ctxs := [(0, c)], cur := { pc := 0x10000#64, len := 16 } }
    (b (e 1#64 false)).cur.target = none ∧ last.remaining = 0 ∧ (b (e 1#64 false)).cur.loopIssued = false ∧ pcMask ((b (e 1#64 false)).cur.pc + 16#64) = 0x10010#64 ∧
    ((e 1#64 false).lpreg 1).toNat ≤ 1 ∧ 1 < ((e 1#64 false).lpreg 0).toNat ∧ 0 ∉ [1] ∧ ((e 2#64 true).frame 1).ow = true ∧ (e 2#64 true).lpreg 1 ≠ 0#64 ∧
    let w : State := withC base fun c => { c with walk := { act := true, lp := 1#2 } }
    issuesB (i 9#8) base ∧ 2 ^ 32 ≤ (base.src 9#8).toNat ∧ issuesB (i 1#8) w ∧ w.issuer.walk.act = true ∧ w.issuer.walk.lp = fl.lp ∧
    issuesB (i 0x80#8) base ∧ base.src 0x80#8 = 0#64 ∧ issuesB (i 1#8) base ∧ (base.src 1#8).toNat < 2 ^ 32 ∧
    ¬ (base.issuer.walk.act = true ∧ base.issuer.walk.lp = fl.lp) := by decide +kernel

/-! Walks: the context's own window is the first 4 cells of 8 bytes of handle 1; cells 1 and 2 are declared and cell 2 is covered. -/

abbrev walkOn : Walk := { act := true, wh := 1#4, cell := 3#3, lp := 1#2, ncell := 4#21, iter := 3#32, trip := 4#32, decl := [(1, 3)], ndecl := 1#3 }
/-- `base` in an overwriting walk. -/
def walking : State := { withC base fun c => { c with walk := walkOn } with mem := [(coverPlace 0 2, 4#8)] }

/-- check_handle (R93): each outcome, with offsets at the ends of the bound, and targets at the end of the program area. -/
theorem test_hyp_HandleChecks :
    let h : Handle := ⟨true, .spad, 1#3, 0x2EFF00#64, 0x200#64, 0#96, 0⟩
    let inside (off : Word) (n : Nat) : Bool := decide (0 ≤ off.toInt) && decide (off.toInt + n ≤ h.bound.toNat)
    checkHandle { h with v := false } 0#64 8 0 = some codeHandleInvalid ∧ inside 0xF8#64 8 = true ∧ checkHandle h 0xF8#64 8 0 = none ∧
    inside 0xF9#64 8 = true ∧ checkHandle h 0xF9#64 8 0 = some codeHandleBound ∧ inside (-1#64) 8 = false ∧ checkHandle h (-1#64) 8 0 = some codeHandleBound ∧
    inside 0x1F9#64 8 = false ∧ checkHandle h 0#64 8 1 = some codeHandlePerm ∧ checkHandle { h with kind := .mcast, perm := 7#3 } 0#64 8 0 = some codeHandlePerm ∧
    checkHandle { h with kind := .mcast, perm := 7#3 } 0#64 8 1 = none := by decide +kernel

/-- LD (R105, R106): the trap of its handle, the trap of a walk, a load of the own scratchpad, and loads of every other kind that may be read. -/
theorem test_hyp_Loads :
    let i (h : BitVec 4) (b : OpName) : Instr := .ld { fx with h := h, b := b }
    let trap (s : State) (b : OpName) := readTrap s.issuer (issueOf (i 1#4 b) s) (s.issuer.handle 1) ⟨0, s.src b, 8⟩
    issuesB (i 1#4 5#8) base ∧ checkHandle (base.issuer.handle 1) (base.src 5#8) 8 0 = some codeHandleBound ∧ issuesB (i 6#4 2#8) base ∧
    checkHandle (base.issuer.handle 6) (base.src 2#8) 8 0 = some codeHandleInvalid ∧
    issuesB (i 1#4 2#8) walking ∧ checkHandle (walking.issuer.handle 1) (walking.src 2#8) 8 0 = none ∧ (trap walking 2#8).isSome = true ∧
    issuesB (i 1#4 4#8) walking ∧ trap walking 4#8 = none ∧ (walking.issuer.handle 1).kind = .spad ∧ issuesB (i 2#4 2#8) base ∧ issuesB (i 4#4 2#8) base ∧
    checkHandle (base.issuer.handle 2) (base.src 2#8) 8 0 = none ∧ checkHandle (base.issuer.handle 4) (base.src 2#8) 8 0 = none := by decide +kernel

/-- ST (R105, R106): the same, and stores through an MCAST handle, to a covered cell and to a declared one. -/
theorem test_hyp_StoresOfScalars :
    let i (h : BitVec 4) (b : OpName) : Instr := .st { fx with h := h, b := b }
    let e (b : OpName) (s : State) : List Elem := [⟨0, s.src b, 8⟩]
    let trap (s : State) (b : OpName) := writeTrap s.issuer (issueOf (i 1#4 b) s) (s.issuer.handle 1) ⟨0, s.src b, 8⟩
    issuesB (i 5#4 2#8) base ∧ checkHandle (base.issuer.handle 5) (base.src 2#8) 8 1 = some codeHandlePerm ∧
    issuesB (i 1#4 0x80#8) walking ∧ (trap walking 0x80#8).isSome = true ∧ issuesB (i 1#4 2#8) walking ∧ trap walking 2#8 = none ∧
    unsuppressed walking.mem walking.issuer 0 (walking.issuer.handle 1) (e 2#8 walking) = [] ∧ issuesB (i 1#4 7#8) walking ∧ trap walking 7#8 = none ∧
    unsuppressed walking.mem walking.issuer 0 (walking.issuer.handle 1) (e 7#8 walking) ≠ [] ∧ issuesB (i 3#4 2#8) base ∧ issuesB (i 2#4 2#8) base ∧
    checkHandle (base.issuer.handle 3) (base.src 2#8) 8 1 = none ∧ checkHandle (base.issuer.handle 2) (base.src 2#8) 8 1 = none ∧
    Memory.wf walking.mem = true := by decide +kernel

/-- A store to a covered cell of a walk whose window lies in global memory, which starts no access. -/
theorem test_hyp_StoresOfScalars_covered :
    let s : State := { withC base fun c => { c with walk := { walkOn with wh := 2#4 } } with mem := [(coverPlace 0 2, 4#8)] }
    let i : Instr := .st { fx with h := 2#4 }
    issuesB i s ∧ writeTrap s.issuer (issueOf i s) (s.issuer.handle 2) ⟨0, 16#64, 8⟩ = none ∧ s.src 2#8 = 16#64 ∧
    checkHandle (s.issuer.handle 2) 16#64 8 1 = none ∧ unsuppressed s.mem s.issuer 0 (s.issuer.handle 2) [⟨0, 16#64, 8⟩] = [] := by decide +kernel

/-- AMO (R199 to R201): the trap of its handle, a word that is not aligned, and words of the own scratchpad and of other places. -/
theorem test_hyp_ScalarAtomics :
    let f : FmtA := ⟨6#8, 0#4, 1#4, 2#8, 3#8, 3#4, 0#4, 0#3, 4#3, 0#4, 0#5, 1#1⟩
    let i (h : BitVec 4) (b : OpName) : Instr := .amo { f with h := h, b := b }
    let e (b : OpName) : Elem := ⟨0, base.src b, 8⟩
    let trap (h : BitVec 4) (b : OpName) := alignTrap (issueOf (i h b) base) (base.issuer.handle h.toNat) (e b)
    issuesB (i 5#4 2#8) base ∧ checkHandle (base.issuer.handle 5) (base.src 2#8) 8 2 = some codeHandlePerm ∧
    issuesB (i 1#4 1#8) base ∧ checkHandle (base.issuer.handle 1) (base.src 1#8) 8 2 = none ∧ ((base.issuer.handle 1).base + base.src 1#8).toNat % 8 = 5 ∧
    issuesB (i 1#4 2#8) base ∧ trap 1#4 2#8 = none ∧ issuesB (i 2#4 2#8) base ∧ trap 2#4 2#8 = none ∧ issuesB (i 4#4 2#8) base ∧ trap 4#4 2#8 = none ∧
    readTrap base.issuer (issueOf (i 1#4 2#8) base) (base.issuer.handle 1) (e 2#8) = none ∧
    ([0#4, 1#4, 2#4, 3#4, 4#4, 5#4, 6#4, 7#4, 8#4, 9#4] : List (BitVec 4)).all fun a => issuesB (.amo { f with aop := a, scope := 3#3 }) base := by decide +kernel

/-- GRANT (R108): an entry that is not valid, a number above 255, a range that leaves the entry, the handle of a walk, and a grant to the end of its entry. -/
theorem test_hyp_Grant :
    let i (a b c : OpName) : Instr := .grant ⟨1#8, a, b, c, 0#4, 0#4, 0#3, 0#13⟩
    let p := base.issuer.permEntry 5
    issuesB (i 2#8 0x80#8 0x80#8) base ∧ (base.issuer.permEntry (base.src 2#8).toNat).v = false ∧ issuesB (i 8#8 0x80#8 0x80#8) base ∧ 255 < (base.src 8#8).toNat ∧
    issuesB (i 1#8 0x80#8 8#8) base ∧ p.bound.toNat < (base.src 8#8).toNat ∧ issuesB (i 1#8 2#8 0xF0#8) base ∧
    issuesB (i 1#8 2#8 0x80#8) walking ∧ walkChecks walking.issuer = true ∧ walking.issuer.walk.wh = (1#8).setWidth 4 ∧
    issuesB (i 1#8 2#8 4#8) base ∧ p.v = true ∧ (base.src 1#8).toNat = 5 ∧ (base.src 2#8).toNat + (base.src 4#8).toNat ≤ p.bound.toNat ∧
    walkChecks base.issuer = false := by decide +kernel

/-- REVOKE, PERMLD in SERVICE, and CMPT of copies that agree and that differ (R110, R283, R332). -/
theorem test_hyp_HandleInstructions :
    let svc : State := withC base fun c => { c with mode := .service }
    let v : State := withC base fun c => { c with v := [(2, 1#1024), (3, 1#1024), (4, 0x10000000000000001#1024)] }
    let a (r : OpName) : Instr := .cmpt { fz with a := 1#8, b := r }
    let b (r : OpName) : Instr := .cmptV { fz with a := 2#8, b := r, sf := 1#13 }
    issuesB (.revoke { fz with d := 1#8 }) walking ∧ walkChecks walking.issuer = true ∧ walking.issuer.walk.wh = (1#8).setWidth 4 ∧
    issuesB (.revoke { fz with d := 1#8 }) base ∧ issuesB (.permld { fy with b := 2#8 }) svc ∧ issuesB (a 1#8) base ∧ base.src 1#8 = 5#64 ∧
    issuesB (a 2#8) base ∧ base.src 2#8 = 16#64 ∧ issuesB (b 3#8) v ∧ v.vsrc 3#4 2#8 = v.vsrc 3#4 3#8 ∧ issuesB (b 4#8) v ∧
    elem 64 (v.vsrc 3#4 2#8) 1 ≠ elem 64 (v.vsrc 3#4 4#8) 1 ∧ elem 64 (v.vsrc 3#4 2#8) 0 = elem 64 (v.vsrc 3#4 4#8) 0 := by decide +kernel

/-! The V slots. -/

abbrev fv : FmtR := { fr with ty := 2#4 }
abbrev ff : FmtR := { fr with ty := 6#4 }

/-- The element-wise operations (R126 to R135): the integer forms under each OVF, the floating-point forms, and the forms of VCVT, VCMP, VRED and VPERM. -/
theorem test_issue_vector : ([.vadd fv, .vsub { fv with var := 1#8 }, .vmul { fv with var := 2#8 }, .vabs { fv with b := 0x80#8, var := 1#8 }, .vneg { fv with b := 0x80#8 },
    .vmin { fv with var := 8#8 }, .vmax fv, .vmulh { fv with var := 4#8 }, .vavg { fv with var := 0xC#8 }, .vshl { fv with var := 2#8 }, .vshr { fv with var := 4#8 }, .vsar fv,
    .vadd ff, .vsub ff, .vmul { ff with rnd := 3#3 }, .vfma { ff with c := 4#8, var := 3#8 }, .vmin ff, .vmax ff, .vabs { ff with b := 0x80#8 }, .vneg { ff with b := 0x80#8 },
    .vand fr, .vor fr, .vxor fr, .vmov { fr with b := 0x80#8 }, .vmovi { fi with a := 0x80#8 }, .vsel { fr with msk := 8#4 }, .vshuf { fr with c := 4#8 }, .vperm fr,
    .vperm { fr with var := 1#8 }, .vperm { fr with var := 2#8 }, .vperm { fr with var := 3#8 }, .vperm { fr with var := 4#8 }, .vperm { fr with b := 0x80#8, var := 5#8 },
    .vperm { fr with var := 6#8 }, .vcvt { fv with b := 0x80#8, var := 0#8 }, .vcvt { fv with b := 0x80#8, var := 6#8 }, .vcvt { fv with b := 0x80#8, ty := 0#4, var := 0x22#8 },
    .vcmp { fr with var := 5#8 }, .vcmp { ff with var := 3#8 }, .vred { fv with b := 0x80#8 }, .vred { fv with b := 0x80#8, var := 9#8 }, .vred { fv with b := 0x80#8, var := 2#8 },
    .vred { ff with b := 0x80#8 }, .vred { ff with b := 0x80#8, var := 2#8 }, .vclmul fr, .vclmulh fr, .vrcp { ff with b := 0x80#8 }, .vrsq { ff with b := 0x80#8 },
    .vexp { ff with b := 0x80#8 }, .vadd { fv with d := 0x40#8, msk := 9#4 }] : List Instr).all (issuesB · base) = true := by decide +kernel

/-- The types of the vector statements: integer and floating-point ones, and sources of VCVT of lesser, equal and greater width. -/
theorem test_hyp_VectorTypes : isFpTy fv.ty = false ∧ isFpTy ff.ty = true ∧ fv.ty.toNat < 3 ∧ tyWidth (({ fv with var := 0#8 } : FmtR).var.extractLsb' 0 4) < tyWidth fv.ty ∧
    tyWidth (({ fv with var := 6#8 } : FmtR).var.extractLsb' 0 4) = tyWidth fv.ty ∧ tyWidth 0#4 < tyWidth (({ fv with var := 0x22#8 } : FmtR).var.extractLsb' 0 4) ∧ isNan32 0x7FC00000 := by
  unfold isNan32; decide

/-- VDUP beside a VADD, and beside a VCMP (R70, R140). -/
theorem test_hyp_Duplication :
    let f : FmtR := ⟨7#8, 0x80#8, 0x80#8, 0x80#8, 0#4, 0#4, 0#3, 0#2, 0#3, 0#8⟩
    let s (p : Instr) : State := { base with cur := { base.cur with slot := 2, partner := some p } }
    issuesB (.vdup f) (s (.vadd fv)) ∧ (issueOf (.vdup f) (s (.vadd fv))).partner = some (.vadd fv) ∧ isPartner (.vadd fv) = true ∧
    issuesB (.vdup f) (s (.vcmp fv)) ∧ (issueOf (.vdup f) (s (.vcmp fv))).partner = some (.vcmp fv) ∧ isPartner (.vcmp fv) = true := by decide +kernel

/-- The active elements of a form of X as the tests' statements count them: of a masked operation, those of m1, whose bits 0 and 31 are 1. -/
def masked (s : State) : State := withC s fun c => { c with m := [(1, 0x80000001#128), (2, 0#128)], v := [(4, 8#1024)] }

/-- VLD and VGATH (R136, R137): no active element through both kinds of handle, the trap of the span or of an element, the trap of a walk, and loads. -/
theorem test_hyp_VectorLoads :
    let f : FmtX := ⟨6#8, 0#4, 1#4, 2#8, 0x80#8, 2#4, 9#4, 0#3, 0#8, 0#2, 0#2, 0#1⟩
    let i (g : Bool) (h m : BitVec 4) (b : OpName) : Instr := if g then .vgath { f with h := h, b := b, c := 4#8, msk := m } else .vld { f with h := h, b := b, msk := m }
    let s := masked base
    let w := masked walking
    let es (b : OpName) : List Elem := [⟨0, s.src b, 4⟩, ⟨31, s.src b + 124#64, 4⟩]
    ([false, true].all fun g => ([1#4, 2#4] : List (BitVec 4)).all fun h => issuesB (i g h 0xA#4 2#8) s && issuesB (i g h 9#4 2#8) s) = true ∧
    issuesB (i false 5#4 9#4 8#8) s ∧ (spanTrap (issueOf (i false 5#4 9#4 8#8) s) (s.issuer.handle 5) 0 (es 8#8)).isSome = true ∧
    issuesB (i true 5#4 9#4 8#8) s ∧ (elemsTrap (issueOf (i true 5#4 9#4 8#8) s) (s.issuer.handle 5) 0 (fun _ => none) (es 8#8)).isSome = true ∧
    spanTrap (issueOf (i false 1#4 9#4 2#8) s) (s.issuer.handle 1) 0 (es 2#8) = none ∧ (es 2#8).findSome? (readTrap s.issuer (issueOf (i false 1#4 9#4 2#8) s) (s.issuer.handle 1)) = none ∧
    issuesB (i false 1#4 9#4 2#8) w ∧ ((es 2#8).findSome? (readTrap w.issuer (issueOf (i false 1#4 9#4 2#8) w) (w.issuer.handle 1))).isSome = true := by decide +kernel

/-- VST and VSCAT (R136 to R138): the same; with every element suppressed by the cover map of a walk; and through every kind of handle. -/
theorem test_hyp_VectorStores :
    let f : FmtX := ⟨4#8, 0#4, 1#4, 2#8, 0x80#8, 2#4, 9#4, 0#3, 0#8, 0#2, 0#2, 0#1⟩
    let i (g : Bool) (h m : BitVec 4) (b : OpName) : Instr := if g then .vscat { f with h := h, b := b, c := 4#8, msk := m } else .vst { f with h := h, b := b, msk := m }
    let s := masked base
    let w : State := withC (masked walking) fun c => { c with m := [(1, 1#128)] }
    let one : List Elem := [⟨0, 16#64, 4⟩]
    ([false, true].all fun g => ([1#4, 2#4, 3#4, 4#4] : List (BitVec 4)).all fun h => issuesB (i g h 9#4 2#8) s && issuesB (i g h 0xA#4 2#8) s) = true ∧
    issuesB (i false 5#4 9#4 2#8) s ∧ (spanTrap (issueOf (i false 5#4 9#4 2#8) s) (s.issuer.handle 5) 1 one).isSome = true ∧
    issuesB (i true 5#4 9#4 2#8) s ∧ (elemsTrap (issueOf (i true 5#4 9#4 2#8) s) (s.issuer.handle 5) 1 (fun _ => none) one).isSome = true ∧
    issuesB (i false 1#4 9#4 0x80#8) w ∧ (writeTrap w.issuer (issueOf (i false 1#4 9#4 0x80#8) w) (w.issuer.handle 1) ⟨0, 0#64, 4⟩).isSome = true ∧
    issuesB (i false 1#4 9#4 2#8) w ∧ one.findSome? (writeTrap w.issuer (issueOf (i false 1#4 9#4 2#8) w) (w.issuer.handle 1)) = none ∧
    unsuppressed w.mem w.issuer 0 (w.issuer.handle 1) one = [] ∧ spanTrap (issueOf (i false 3#4 9#4 2#8) s) (s.issuer.handle 3) 1 one = none ∧
    unsuppressed s.mem s.issuer 0 (s.issuer.handle 3) one ≠ [] := by decide +kernel

/-- VAMO (R202): no active element, an element that is not aligned, the trap of a walk, and atomics of the own scratchpad and of another place. -/
theorem test_hyp_VectorAtomics :
    let f : FmtA := ⟨6#8, 0#4, 1#4, 2#8, 4#8, 2#4, 9#4, 0#3, 4#3, 0#4, 0#5, 1#1⟩
    let i (h m : BitVec 4) (b : OpName) : Instr := .vamo { f with h := h, b := b, msk := m }
    let s := masked base
    let w := masked walking
    let es (b : OpName) : List Elem := [⟨0, s.src b + 8#64, 4⟩, ⟨31, s.src b, 4⟩]
    issuesB (i 1#4 0xA#4 2#8) s ∧ issuesB (i 2#4 0xA#4 2#8) s ∧ issuesB (i 1#4 9#4 1#8) s ∧ (elemsTrap (issueOf (i 1#4 9#4 1#8) s) (s.issuer.handle 1) 2 (alignTrap (issueOf (i 1#4 9#4 1#8) s) (s.issuer.handle 1)) (es 1#8)).isSome = true ∧
    issuesB (i 1#4 9#4 2#8) s ∧ elemsTrap (issueOf (i 1#4 9#4 2#8) s) (s.issuer.handle 1) 2 (alignTrap (issueOf (i 1#4 9#4 2#8) s) (s.issuer.handle 1)) (es 2#8) = none ∧ issuesB (i 2#4 9#4 2#8) s ∧
    elemsTrap (issueOf (i 2#4 9#4 2#8) s) (s.issuer.handle 2) 2 (alignTrap (issueOf (i 2#4 9#4 2#8) s) (s.issuer.handle 2)) (es 2#8) = none ∧ (reached 0 (s.issuer.handle 1) (es 2#8)).Nodup ∧
    issuesB (i 1#4 9#4 2#8) w ∧ ((es 2#8).findSome? (readTrap w.issuer (issueOf (i 1#4 9#4 2#8) w) (w.issuer.handle 1))).isSome = true ∧ Memory.wf s.mem = true := by
  decide +kernel

/-- QPUSH and QPOP (R139, R161, R182). -/
theorem test_hyp_Queues :
    let s : State := withC base fun c => { c with qb := [(0, 0#64), (7, 0x460#64)] }
    issuesB (.qpush { fr with d := 0x80#8, b := 0x80#8, ty := 0#4, var := 7#8 }) s ∧ issuesB (.qpop { fr with a := 0x80#8, b := 0x80#8, ty := 0#4 }) s := by decide +kernel

/-! The M slot and the C slots. -/

/-- The metadata word of 16 groups of the positions 0, 1, 2 and 3 (R173). -/
def goodWord : BitVec 256 := BitVec.ofNat 256 ((List.range 16).foldl (fun a g => a + 0x688 * 2 ^ (12 * g)) 0)
/-- `base` with a metadata word in the line at MPC of the instruction cache (R174). -/
def withMeta (s : State) (w : BitVec 256) : State :=
  let l : CacheLine := { cid := 1#8, va := 0, window := false, data := (List.range 64).map fun k => (w >>> (8 * k)).setWidth 8 }
  { s with cores := [(0, { icache := [l] })] }

/-- MLDW and MLDW.S (R172 to R175): the traps of the handle and of a walk, a group that does not rise, reserved bits, and tiles of the own scratchpad and of
another place. -/
theorem test_hyp_WeightLoads :
    let i (sparse : Bool) (h : OpName) : Instr := if sparse then .mldwS { fm with a := h, c := 0x80#8, np := 0#4, sp := 1#1 } else .mldw { fm with a := h, c := 0x80#8, np := 0#4 }
    let q := selectedQuads base.issuer 1#4
    let n := tileBytes (unitShape 0#2 q) 0#4
    let s := withMeta base goodWord
    let low : BitVec 256 := goodWord - 0x600#256 <<< 180
    let high : BitVec 256 := goodWord ||| 1#256 <<< 255
    let rises (w : BitVec 256) (g : Nat) : Bool := let p (t : Nat) := w.toNat / 2 ^ (12 * g + 3 * t) % 8
      decide (p 0 < p 1) && decide (p 1 < p 2) && decide (p 2 < p 3)
    n = 1024 ∧ issuesB (i false 5#8) base ∧ checkHandle (base.issuer.handle 5) 5#64 n 0 = some codeHandleBound ∧
    issuesB (i false 1#8) walking ∧ (readTrap walking.issuer (issueOf (i false 1#8) walking) (walking.issuer.handle 1) ⟨0, 5#64, n⟩).isSome = true ∧
    issuesB (i false 1#8) base ∧ issuesB (i false 2#8) base ∧ checkHandle (base.issuer.handle 1) 5#64 n 0 = none ∧ checkHandle (base.issuer.handle 2) 5#64 n 0 = none ∧
    issuesB (i true 1#8) s ∧ fetchedMeta s 0 = some goodWord ∧ (List.range 16).all (rises goodWord) = true ∧ goodWord.extractLsb' 192 64 = 0#64 ∧
    issuesB (i true 1#8) (withMeta base low) ∧ fetchedMeta (withMeta base low) 0 = some low ∧ rises low 15 = false ∧ (List.range 15).all (rises low) = true ∧
    issuesB (i true 1#8) (withMeta base high) ∧ fetchedMeta (withMeta base high) 0 = some high ∧ (List.range 16).all (rises high) = true ∧
    high.extractLsb' 192 64 ≠ 0#64 := by
  decide +kernel

/-- MMA, MMAS, MZERO and MFUSE (R171, R177 to R179): row counts 0 and 33 beside 1 and 32, the traps of the handle and of a walk, and rows of both kinds. -/
theorem test_hyp_MatrixProducts :
    let i (set : Bool) (h c : OpName) : Instr := if set then .mmas { fm with a := h, c := c } else .mma { fm with a := h, c := c }
    let rows (c : OpName) := (base.src c).toInt
    (unitShape 0#2 1#4).rows = 32 ∧ rowBytes (unitShape 0#2 1#4) 0#4 false = 32 ∧ (base.issuer.latch (latchKey 1#4 1)).sparse = false ∧
    ([false, true].all fun k => issuesB (i k 1#8 0x80#8) base && issuesB (i k 1#8 0xA1#8) base && issuesB (i k 1#8 0x81#8) base && issuesB (i k 2#8 0xA0#8) base &&
      issuesB (i k 5#8 0xA0#8) base && issuesB (i k 1#8 0x84#8) walking) = true ∧ rows 0x80#8 = 0 ∧ rows 0xA1#8 = 33 ∧ rows 0x81#8 = 1 ∧ rows 0xA0#8 = 32 ∧
    checkHandle (base.issuer.handle 5) 5#64 1024 0 = some codeHandleBound ∧ checkHandle (base.issuer.handle 2) 5#64 1024 0 = none ∧
    (readTrap walking.issuer (issueOf (i false 1#8 0x84#8) walking) (walking.issuer.handle 1) ⟨0, 5#64, 128⟩).isSome = true ∧
    issuesB (.mzero ⟨0#5, 3#3, 0#8, 0x80#8, 0x80#8, 6#4, 0#4, 0#3, 0#4, 0#3, 0#1, 0#5⟩) base ∧
    issuesB (.mfuse ⟨0#5, 2#3, 0#8, 0x80#8, 0x80#8, 0#4, 0#4, 0#3, 0#4, 0#3, 0#1, 0#5⟩) base := by decide +kernel

/-- MDRAIN and MDRAIN.V (R171, R181): ranges of 0 rows, beyond the unit, and of more than 16 entries, and the largest that are taken. -/
theorem test_hyp_MatrixDrains :
    let i (vec : Bool) (b c : OpName) : Instr := if vec then .mdrainV ⟨0#5, 2#3, 1#8, b, c, 0#4, 1#4, 0#3, 0#4, 0#3, 0#1, 0x12#5⟩
      else .mdrain ⟨0#5, 2#3, 1#8, b, c, 0#4, 1#4, 0#3, 0#4, 0#3, 0#1, 0#5⟩
    let s : State := withC base fun c => { c with qb := [(2, 0x660#64)] }
    let k (n : Nat) := (n * 32 + capacity (qbSink (s.issuer.qbind 2)) - 1) / capacity (qbSink (s.issuer.qbind 2))
    ([false, true].all fun v => issuesB (i v 0x80#8 0x80#8) s && issuesB (i v 0x81#8 0xA0#8) s && issuesB (i v 0x80#8 0xA0#8) s && issuesB (i v 0xA0#8 0x81#8) s &&
      issuesB (i v 0x90#8 0x90#8) s) = true ∧ k 32 = 32 ∧ k 16 = 16 ∧ (s.src 0xA0#8).toInt + 1 = 33 ∧ (s.src 0x90#8).toInt + (s.src 0x90#8).toInt = 32 := by decide +kernel

/-- A copy descriptor whose words in turn break their rules, and sound ones (R187, R188). -/
theorem test_hyp_CopyDescriptors :
    descFault .cpy2 false 0x0001000000000080#64 0#64 0#64 0#64 = some 1 ∧ descFault .cpy2 false 0x0002000400000080#64 0#64 0#64 0#64 = some 1 ∧
    descFault .cpy3 false 0xFFFFFFFFFFFFFFFF#64 0#64 0#64 0#64 = some 1 ∧ descFault .credI32 true 0x0001000100000082#64 0#64 0#64 0#64 = some 1 ∧
    descFault .cpy true 0x0001000100000080#64 1#64 0#64 0#64 = some 2 ∧ descFault .cpy2 false 0x0001000400000080#64 0x40000000080#64 1#64 0#64 = some 3 ∧
    descFault .cgath false 0x0001000400000080#64 0x1000#64 0x100000000#64 0#64 = some 3 ∧ descFault .cpy2 false 0x0001000400000080#64 0#64 0#64 1#64 = some 4 ∧
    descFault .cscat true 0x0001000400000080#64 0x2EFFF1#64 0#64 9#64 = some 5 ∧ descFault .cscat true 0x0001000400000080#64 0x2EFFF0#64 0#64 9#64 = none ∧
    descFault .cpy2 false 0x0001000400000080#64 0x40000000080#64 0#64 0#64 = none := by decide +kernel

/-- The copies and their .AT forms (R185 to R192): bad offsets, lengths and descriptors, the traps of handles, barrier and walk, and copies that are accepted. -/
theorem test_hyp_Copies :
    let f : FmtC := ⟨0#8, 2#4, 1#4, 0x80#8, 0x80#8, 4#8, 0#3, 1#1, 5#11, 0#1⟩
    let d : State := { base with mem := Memory.write [] 32 ((leBytes 0x0001000400000010 8) ++ leBytes 0x0000004000000010 8) }
    let forms : List CopyForm := [.cpy, .cpy2, .cpy3, .cgath, .cscat, .cmcast, .cfill, .credI32, .credFp32, .credBf16]
    let g (form : CopyForm) : FmtC := { f with sh := if form = .cfill then 0#4 else 1#4, dh := if form = .cmcast then 3#4 else 2#4, len := if isLinear form false then 4#8 else 4#8 }
    (forms.all fun x => issuesB (copyInstr x false (g x)) d && issuesB (copyInstr x true (g x)) d) = true ∧
    descFault .cpy2 false 0x0001000400000010#64 0x0000004000000010#64 0#64 0#64 = none ∧ issuesB (.cpy { f with len := 5#8 }) base ∧ 2 ^ 32 ≤ (base.src 5#8).toNat ∧
    issuesB (.credI32 { f with doff := 0x82#8 }) base ∧ (base.src 0x82#8).toNat % 4 = 2 ∧ issuesB (.cpy2 { f with len := 1#8 }) base ∧ (base.src 1#8).toNat % 8 = 5 ∧
    issuesB (.cpy2 f) base ∧ descFault .cpy2 false 0#64 0#64 0#64 0#64 = some 1 ∧
    (copyHandleTrap (issueOf (.cpy f) base) .cpy { len0 := 32 } (base.issuer.handle 6) (base.issuer.handle 1) 0 0).isSome = true ∧ issuesB (.cpy { f with dh := 6#4 }) base ∧
    copyHandleTrap (issueOf (.cpy f) base) .cpy { len0 := 32 } (base.issuer.handle 2) (base.issuer.handle 1) 0 0 = none ∧
    copyWalkTrap base.issuer (issueOf (.cpy f) base) .cpy { len0 := 32 } [] (base.issuer.handle 2) (base.issuer.handle 1) 0 0 = none ∧
    issuesB (.cpy { f with bar := 6#11 }) base ∧ issuesB (.cpy { f with ben := 0#1, bar := 0#11 }) base ∧ issuesB (.cpy f) walking ∧
    (copyWalkTrap walking.issuer (issueOf (.cpy f) walking) .cpy { len0 := 32 } [] (walking.issuer.handle 2) (walking.issuer.handle 1) 0 0).isSome = true := by decide +kernel

/-! Children, barriers, registers, drains, walks, traps and the end of tasks. -/

/-- `base` in SERVICE, with its state set aside. -/
def serving : State := withC base fun c => { c with mode := .service, svcent := 0x40000#64, trapcause := 0x12#64, aside := some ⟨0x10000#64, 0#48, 0, {}, {}, [], 0#8⟩ }
/-- ctx0 of service core svc0 of die 0, which runs for the tenant of a parked context of core 0. -/
def serviceCore : State :=
  { base with cur := { base.cur with key := 18432 }, ctxs := [(0, { testCtx with mode := .parked }), (18432, { testCtx with task := none, cid := 1#8, s := [(1, 0#64), (2, 1#64), (3, ~~~0#64)] })] }
/-- A service core that has selected that context. -/
def selected : State := withC serviceCore fun c => { c with vtsel := some 0 }

/-- FORK, JOIN, PQPUSH, PQPOP, GBARRIVE, GBWAIT, SRMOV, QCFG, the drains, the waits, the cache maintenance, the energy reads, STEP and PHASE (R111, R183, R197, R198, R203 to
R207, R284 to R286, R305, R318, R333). -/
theorem test_issue_system : ([.fork { fy with c := 4#8 }, .join { fz with d := 1#8 }, .pqpush { fy with d := 0x80#8 }, .pqpop { fz with d := 62#8 }, .gbarrive { fz with sf := 5#13 },
    .gbwait { fz with sf := 4#13 }, .gbarrive { fz with sf := 6#13 }, .gbwait { fz with sf := 3#13 }, .srmovRead { fz with d := 1#8, sf := 0x20#13 }, .srmovWrite { fz with a := 1#8, sf := 0x1020#13 },
    .qcfg { fz with d := 7#8, a := 1#8, ty := 6#4, msk := 4#4, sf := 4#13 }, .qcfg { fz with d := 7#8 }, .drainR { fz with sf := 8#13 }, .drainR { fz with sf := 0xC#13 }, .drainA { fz with sf := 0x14#13 },
    .drainBoth { fz with sf := 0x1B#13 }, .waitt { fz with a := 1#8 }, .yield fz, .cinv { fz with a := 1#8, b := 2#8, sf := 4#13 }, .cinv { fz with a := 1#8, sf := 3#13 },
    .cflush { fz with a := 1#8, b := 2#8, sf := 3#13 }, .cflush { fz with a := 1#8 }, .enrd { fz with d := 1#8 }, .enrdIdle { fz with d := 1#8, a := 0x81#8 }, .enclr { fz with d := 1#8 }, .step fz,
    .phase fz, .phaseOff { fz with sf := 1#13 }, .halt fz, .trap { fz with a := 9#8 }] : List Instr).all (issuesB · base) = true ∧
    base.issuer.phase.done = [] ∧ base.copies = [] ∧ base.issuer.stop = none ∧ base.issuer.child = none ∧ base.issuer.aside = none := by decide +kernel

/-- BARM, BARRIVE and BWAIT (R194, R195): the claimed barriers are b4 and b5; b3 and b6 are not; a count of 2^32 and more. -/
theorem test_hyp_NamedBarriers :
    ([3#13, 4#13, 5#13, 6#13].all fun k => issuesB (.barm { fz with a := 1#8, sf := k }) base && issuesB (.barrive { fz with a := 1#8, sf := k }) base && issuesB (.bwait { fz with sf := k }) base) = true ∧
    base.issuer.barFirst = 4 ∧ base.issuer.barCount = 2 ∧ issuesB (.barm { fz with a := 9#8, sf := 4#13 }) base ∧ 2 ^ 32 ≤ (base.src 9#8).toNat := by decide +kernel

/-- A barrier that has its count exactly, and one that lacks one arrival (R196); a gang barrier whose release has come (R197). -/
theorem test_hyp_Barriers :
    let b : Barrier := { cnt := 4#32, arr := 3#32, armd := true }
    let s : State := { base with gangs := [(1, { bars := [(4, { arrived := [0], release := some 100 })] })] }
    b.cnt.toNat ≤ min (b.arr.toNat + 1) (2 ^ 32 - 1) ∧ ¬ b.cnt.toNat ≤ min (b.arr.toNat + 0) (2 ^ 32 - 1) ∧ ((s.gang 1).bars.get {} 4).release = some 100 ∧ s.now = 100 ∧
    0 ∈ ((s.gang 1).bars.get {} 4).arrived ∧ base.issuer.task = some 1 ∧ gangMembers base 1 = [0] := by decide +kernel

/-- VTSEL, RDREC and WRREC (R281, R282): a service core that selects itself, a parked context of its tenant and one that is not parked. -/
theorem test_hyp_RecordAccess :
    let i (a : OpName) : Instr := .vtsel { fz with a := a }
    issuesB (i 3#8) serviceCore ∧ serviceCore.src 3#8 = ~~~0#64 ∧ issuesB (i 1#8) serviceCore ∧ serviceCore.src 1#8 = 0#64 ∧ (serviceCore.ctx 0).mode = .parked ∧
    (serviceCore.ctx 0).cid = serviceCore.issuer.cid ∧ issuesB (i 2#8) serviceCore ∧ (serviceCore.ctx 1).mode = .unbound ∧ issuesB (i 0xFF#8) base ∧ base.src 0xFF#8 = ~~~0#64 ∧
    issuesB (.rdrec { fz with d := 1#8, a := 2#8 }) serving ∧ issuesB (.rdrec { fz with d := 1#8, a := 2#8 }) selected ∧
    issuesB (.wrrec { fz with a := 1#8, b := 2#8 }) serving ∧ issuesB (.wrrec { fz with a := 1#8, b := 2#8 }) selected ∧ 18431 < 18432 ∧ Memory.wf serving.mem = true := by decide +kernel

/-- WAITT_RELEASE before and on its target (R285), and a context whose state is set aside and one whose is not (R261). -/
theorem test_hyp_TimedWaits :
    let s (t : Nat) : State := withC base fun c => { c with wait := some (.until t (some {})) }
    ((s 100).ctx 0).wait = some (.until 100 (some {})) ∧ 100 ≤ (s 100).now ∧ ((s 101).ctx 0).wait = some (.until 101 (some {})) ∧ (s 101).now < 101 := by decide +kernel

/-- SNAP (R304): checkpoints off, a snapshot in flight, and none; STEP at positions 0 and 1 (R305). -/
theorem test_hyp_SnapshotInstructions :
    let i : Instr := .snap { fz with d := 7#8, a := 0#8 }
    let s (st : BitVec 2) : State := { base with blocks := [(1, { hbctl := 1#64, state := st })] }
    let p : State := withC base fun c => { c with pos := 1#7 }
    issuesB i base ∧ (base.block 0 1).hbctl.getLsbD 0 = false ∧ issuesB i (s 1#2) ∧ ((s 1#2).block 0 1).hbctl.getLsbD 0 = true ∧ ((s 1#2).block 0 1).state ≠ 0#2 ∧
    issuesB i (s 0#2) ∧ ((s 0#2).block 0 1).state = 0#2 ∧ partOf base.pkg (coreOf 0) = 0 ∧ issuesB (.step fz) p ∧ p.issuer.pos ≠ 0#7 ∧ base.issuer.pos = 0#7 := by decide +kernel

/-- LOOPW (R290, R292, R301): a count of 2^32 and more; an active walk, that the operation does not end and that it ends; a window that is not shaped; the traps of
its handle; a count of 0; and a walk that starts. The window is 4 cells of 8 bytes. -/
theorem test_hyp_OverwritingLoops :
    let i (wh : BitVec 4) (a b c : OpName) : Instr := .loopw ⟨0#2, wh, 1#2, a, b, c, 3#3, 0#3, 9#18⟩
    issuesB (i 1#4 9#8 2#8 4#8) base ∧ 2 ^ 32 ≤ (base.src 9#8).toNat ∧ issuesB (i 1#4 1#8 2#8 4#8) walking ∧ issuesB (i 1#4 0x80#8 2#8 4#8) walking ∧ walking.issuer.walk.lp = 1#2 ∧
    walking.issuer.walk.act = true ∧ base.src 0x80#8 = 0#64 ∧ base.issuer.walk.act = false ∧ issuesB (i 1#4 1#8 1#8 4#8) base ∧ (base.src 1#8).toNat % 2 ^ 3 = 5 ∧
    issuesB (i 1#4 1#8 2#8 0x80#8) base ∧ issuesB (i 5#4 1#8 2#8 4#8) base ∧ checkHandle (base.issuer.handle 5) 16#64 32 1 = some codeHandlePerm ∧
    issuesB (i 3#4 1#8 2#8 4#8) base ∧ checkHandle (base.issuer.handle 3) 16#64 32 1 = none ∧ (base.issuer.handle 3).kind = .mcast ∧
    issuesB (i 1#4 0x80#8 2#8 4#8) base ∧ issuesB (i 1#4 1#8 2#8 4#8) base ∧ issuesB (i 2#4 1#8 2#8 4#8) base ∧ checkHandle (base.issuer.handle 1) 16#64 32 1 = none ∧
    base.src 2#8 = 16#64 ∧ base.src 4#8 = 32#64 := by decide +kernel

/-- WDECL (R293 to R295): outside a declaration phase, a fifth declaration, and in turn a bad start, length and end; a declaration that joins, the last one, and a last one of
cells that are covered. -/
theorem test_hyp_Declarations :
    let i (a b : OpName) (last : BitVec 13) : Instr := .wdecl { fz with a := a, b := b, sf := last }
    let d (n : BitVec 3) : State := withC walking fun c => { c with walk := { c.walk with dph := true, ndecl := n, decl := [] } }
    issuesB (i 2#8 7#8 0#13) walking ∧ walking.issuer.walk.dph = false ∧ issuesB (i 1#8 7#8 0#13) (d 0#3) ∧ issuesB (i 2#8 1#8 0#13) (d 0#3) ∧ issuesB (i 2#8 0x80#8 0#13) (d 0#3) ∧
    issuesB (i 2#8 4#8 0#13) (d 0#3) ∧ issuesB (i 7#8 7#8 0#13) (d 3#3) ∧ issuesB (i 7#8 7#8 1#13) (d 0#3) ∧ covered walking.mem 0 1 = false ∧
    issuesB (i 2#8 7#8 1#13) (d 0#3) ∧ covered walking.mem 0 2 = true ∧ (d 0#3).issuer.walk.ncell = 4#21 ∧
    let x : Instr := i 2#8 7#8 0#13
    (d 4#3).issuer.mode = .run ∧ legalityTrap (d 4#3).view (opsAlone x (d 4#3)) (slotBit (slotFor (d 4#3) x)) 0#7 = none ∧ waitsForSource (d 4#3).view (opsAlone x (d 4#3)) = false ∧
    refused (d 4#3) (d 4#3).cur.key (freeEngines (d 4#3)) [⟨slotFor (d 4#3) x, (d 4#3).cur.sw, (d 4#3).cur.step, x⟩] = false ∧ (d 4#3).issuer.walk.act = true ∧
    (d 4#3).issuer.walk.dph = true ∧ (d 4#3).issuer.walk.ndecl = 4#3 := by decide +kernel

/-- SRMOV (R78, R111, R301): a context outside SERVICE, and one in it; an active walk on the register that is written, and none. -/
theorem test_hyp_SystemRegisters :
    testCtx.aside = none ∧ (enterService testCtx 0#52).aside.isSome = true ∧ walking.issuer.walk.act = true ∧ walking.issuer.walk.lp.toNat = 1 ∧ testCtx.walk.act = false := by decide +kernel

/-- The end test at the last iteration and before it (R295). -/
theorem test_hyp_WalkSteps :
    let c (n : Word) : Ctx := { walk := walkOn, lp := [(1, n)] }
    Memory.wf walking.mem = true ∧ (c 0#64).lpreg 1 = 0#64 ∧ (c 1#64).lpreg 1 ≠ 0#64 ∧ (c 1#64).walk.lp.toNat = 1 := by decide +kernel

/-- HALT of a child, whose parent has one child left, and HALT in SERVICE (R204, R287); the end of the task of `base` (R231). -/
theorem test_hyp_Halts :
    let s : State := { base with cur := { base.cur with key := 1 }, ctxs := [(0, { testCtx with jcnt := 1#16 }), (1, { testCtx with child := some 0 })] }
    issuesB (.halt fz) s ∧ s.issuer.mode = .run ∧ s.issuer.child = some 0 ∧ s.issuer.phase.done = [] ∧ (s.ctx 0).jcnt = 1#16 ∧ issuesB (.halt fz) serving ∧
    serving.issuer.mode = .service ∧ serving.issuer.task = some 1 ∧ base.ctxs.wf = true ∧ base.launches.wf = true ∧ (base.launches.find 1).isSome = true ∧
    (base.ctx 0).task = some 1 ∧ (base.ctx 0).mode ≠ .unbound := by decide +kernel

/-- A precise trap of a context with no stop in progress, alone and in a lockstep gang (R43, R259). -/
theorem test_hyp_PreciseTraps :
    let g : State := { base with ctxs := [(0, { testCtx with lock := true }), (8, { testCtx with lock := true, pos := 1#7 })] }
    (settleWait base 0 (ctxBefore base 0)).stop = none ∧ lockPeers base 0 = [] ∧ (settleWait g 0 (ctxBefore g 0)).stop = none ∧ lockPeers g 0 = [8] ∧ (g.ctx 8).stop = none ∧
    testCtx.aside = none ∧ base.before = [] := by decide +kernel

/-- RESUME (R270, R280): a queue that is too long, an empty one alone and of a lockstep member; and the forms of a service core on a context that is parked, with an empty
queue and with one that fails, and on one that is not. -/
theorem test_hyp_Resumption :
    let s (n : BitVec 9) (l : Bool) : State := withC serving fun c => { c with vtcount := n, lock := l }
    let p (n : BitVec 9) : State := { selected with ctxs := selected.ctxs.map fun x => if x.1 = 0 then (0, { x.2 with vtcount := n }) else x }
    let r : State := { selected with ctxs := selected.ctxs.map fun x => if x.1 = 0 then (0, { x.2 with mode := .run }) else x }
    let i : Instr := .resumeServiceCore { fz with d := 1#8 }
    let e : Instr := .resumeEnd { fz with d := 1#8, a := 2#8, sf := 1#13 }
    issuesB (.resume fz) (s 257#9 false) ∧ validate (s 257#9 false) 0 = some (0, 0x60#8) ∧ issuesB (.resume fz) (s 0#9 false) ∧ issuesB (.resume fz) (s 0#9 true) ∧
    validate (s 0#9 false) 0 = none ∧ issuesB i r ∧ issuesB e r ∧ (r.ctx 0).mode ≠ .parked ∧ issuesB i (p 257#9) ∧ ((p 257#9).ctx 0).mode = .parked ∧
    validate (p 257#9) 0 = some (0, 0x60#8) ∧ issuesB i (p 0#9) ∧ ((p 0#9).ctx 0).lock = false ∧ issuesB e (p 0#9) ∧ ((p 0#9).ctx 0).task = some 1 ∧
    (p 0#9).issuer.task = none ∧ (p 0#9).ctxs.wf = true ∧ (p 0#9).issuer.vtsel = some 0 := by decide +kernel

/-! Events: landings, arrivals, fetches, idle cycles and lockstep. -/

/-- An operation's record at an issue order. -/
abbrev opAt (n : Nat) : OpRec := { ino := n }
/-- `base` with results of ctx0 on their way. -/
def landing (l : List Landing) (w : Sparse Nat) : State := withC base fun c => { c with landings := l, writerS := w }

/-- FIXED_LATENCY_LANDING (R84, R86): two results due and one that is not; the pending writer of a register older than, and newer than, its result; and each action. -/
theorem test_hyp_FixedLatencyLandings :
    let w (n : Nat) (r : Nat) (at_ : Nat) : Landing := ⟨opAt n, at_, .s r, .word 7#64⟩
    let s := landing [w 1 3 99, w 2 4 100, ⟨opAt 2, 100, .v 5, .vec 1#1024 1#1024⟩, ⟨opAt 2, 100, .m 5, .mask 1#128⟩, w 3 5 101] [(6, (opAt 2).order)]
    let due (s : State) := (s.ctx 0).landings.filter fun l => decide (l.due ≤ s.now)
    (s.ctx 0).flows = true ∧ (due s).length = 4 ∧ (s.ctx 0).writerS.wf = true ∧ (s.ctx 0).writerV.wf = true ∧ (s.ctx 0).writer (.s 3) = none ∧
    (let t := landing [w 2 3 100] [(3, (opAt 2).order)]; (t.ctx 0).writer (.s 3) = some (opAt 2).order ∧ due t = [w 2 3 100]) ∧
    (let t := landing [w 2 3 100] [(3, (opAt 4).order)]; (t.ctx 0).writer (.s 3) = some (opAt 4).order ∧ (opAt 2).order < (opAt 4).order) ∧
    ([.srWrite 0 0x20 1#64, .revoke 1, .fuse 1#2, .vtsel none, .qcfg 1 6#64, .permld 0 5 {}] : List Action).all fun a =>
      let l : Landing := ⟨opAt 1, 100, .none, .act a⟩
      decide (due (landing [l] []) = [l]) := by decide +kernel

/-- VARIABLE_LATENCY_ARRIVAL and QUEUE_CLAIM_ARRIVAL (R87, R162, R205): a value whose operation is still, and no longer, the pending writer, a claim of an entry that was appended
3 cycles before, and a JOIN of no children. -/
theorem test_hyp_VariableLatencyArrivals :
    let p (d : Dest) (x : Source) : Pending := ⟨opAt 1, [d], x⟩
    let s (d : Dest) (x : Source) (n : Nat) (e : Nat) : State := withC base fun c =>
      { c with pending := [p d x], writerS := [(3, (opAt n).order)], writerV := [(3, (opAt n).order)], queues := [(2, { entries := [⟨[1#8, 2#8, 3#8, 4#8], 1, 2#4, e, false⟩] })] }
    let x : Source := .value 100 [.word 9#64]
    let v : Source := .value 100 [.vec 1#1024 1#1024]
    let q : Source := .claim 2 0 0#40 0#64 97
    let j : Source := .join 98 (some 100)
    let a (d : Dest) (x : Source) (n e : Nat) : Bool := nextArrival (s d x n e) 0 = some (p d x) && ((s d x n e).ctx 0).writerS.wf && ((s d x n e).ctx 0).writerV.wf
    a (.s 3) x 1 97 ∧ ((s (.s 3) x 1 97).ctx 0).writer (.s 3) = some (opAt 1).order ∧ a (.s 3) x 2 97 ∧ ((s (.s 3) x 2 97).ctx 0).writer (.s 3) ≠ some (opAt 1).order ∧
    a (.v 3) v 1 97 ∧ a (.v 3) v 2 97 ∧ a (.v 3) q 1 97 ∧ nextArrival (s (.v 3) q 1 98) 0 = none ∧ a (.s 3) j 1 97 := by decide +kernel

/-- INSTRUCTION_FETCH (R48): a context without the line of its pc, and a fetch whose bytes have come. -/
theorem test_hyp_InstructionFetches :
    let p : Part := ⟨0, 0, 0x10000, 64, 90, true⟩
    let x : Access := { key := 0, cid := 1#8, op := {}, kind := .global, what := .fetch, parts := [p], data := List.replicate 64 1#8, performed := some 95 }
    let s : State := { base with accs := [(7, x)] }
    testCtx.mode = .run ∧ testCtx.lock = false ∧ base.accs = [] ∧ testCtx.repleft = 0 ∧ codeWord base 0 testCtx.pc = none ∧ fetchedLine base 0 0 = none ∧
    s.accs.find? (fun y => y.2.key = 0 && y.2.what = .fetch) = some (7, x) ∧ x.performed.isSome = true ∧ x.parts.head? = some p := by decide +kernel

/-- IDLE_CYCLE (R286, R316): a core whose bound context has nothing to issue, where a tenant runs. -/
theorem test_hyp_IdleCycles :
    let s : State := { base with quarters := [(0, { running := some 1 })] }
    0 ∉ s.served ∧ issuesNow s 0 = false ∧ ((List.range (contextsOf 0)).all fun x => (s.ctx (keyOf 0 x)).lock = false && (s.ctx (keyOf 0 x)).phase.stage = 0) = true ∧
    (s.quarter 0).running = some 1 ∧ (s.ctx (keyOf 0 0)).mode ≠ .unbound ∧ (State.reset.quarter 0).running = none ∧ issuesNow State.reset 0 = false := by decide +kernel

/-- A lockstep gang of two, of which the lead has a bundle of one word at its pc. -/
def gang (h w : Word) : State :=
  let line : CacheLine := { cid := 0#8, va := 0, window := false, data := wordBytes h 8 ++ wordBytes w 8 ++ List.replicate 48 0#8 }
  { base with ctxs := [(0, { testCtx with lock := true, cid := 0#8 }), (8, { testCtx with lock := true, pos := 1#7, cid := 0#8 })], cores := [(0, { icache := [line] })],
              launches := [(1, { origin := .imageQueue 0 0 0#32 true, quarter := 0, cid := 0#8, stage := .running, cores := [0, 1], members := [[0], [8]] })], gangs := [(1, {})] }

/-- LOCKSTEP_STEP (R40 to R43): a step whose only issue is the lead's, and one that the lead's trap withholds. -/
theorem test_hyp_LockstepSteps :
    let alone (s : State) : Bool := stepDue s 1 && (match dueIssues s 1 with
      | [(0, .issue _), (8, .nothing)] => true
      | _ => false)
    let commits (s : State) : Bool := match ownIssue s 0 with
      | some n => (match tryIssue (fun _ => true) n { s with served := lockMark 1 :: s.served } with
        | .commits e => let v := applyAll e { s with served := lockMark 1 :: s.served }; decide (v.cur.trapped = none) && decide (v.gangs = s.gangs)
        | _ => false)
      | none => false
    let g := gang 0x3000000000000000#64 0x0103010280300000#64
    let b := gang 0x3020000000000000#64 0x0103010280300000#64
    alone g = true ∧ commits g = true ∧ stepTraps g (dueIssues g 1) = [] ∧ alone b = true ∧ (stepTraps b (dueIssues b 1)).map (·.1) = [0] ∧ (b.ctx 0).stop = none ∧
    (ctxBefore b 0).stop = none := by decide +kernel

/-! Events: the matrix sequencer, illegal headers, copies, multicast stores and acknowledgements. -/

/-- M operations of each kind, of quadrant 0: MLDW, MLDW.S, MMA, MMAS, MZERO, MDRAIN, MDRAIN.V and MFUSE. -/
def mOps : List Instr := [.mldw { fm with c := 0x80#8, np := 0#4 }, .mldwS { fm with c := 0x80#8, np := 0#4, sp := 1#1 }, .mma { fm with c := 0x80#8 }, .mmas { fm with c := 0x80#8 },
  .mzero ⟨0#5, 3#3, 0#8, 0x80#8, 0x80#8, 6#4, 0#4, 0#3, 0#4, 0#3, 0#1, 0#5⟩, .mdrain ⟨0#5, 2#3, 1#8, 0x80#8, 0x84#8, 0#4, 1#4, 0#3, 0#4, 0#3, 0#1, 0#5⟩,
  .mdrainV ⟨0#5, 2#3, 1#8, 0x80#8, 0x83#8, 0#4, 1#4, 0#3, 0#4, 0#3, 0#1, 0x12#5⟩, .mfuse ⟨0#5, 2#3, 0#8, 0x80#8, 0x80#8, 0#4, 0#4, 0#3, 0#4, 0#3, 0#1, 0#5⟩]
/-- The sequencer entry of one. -/
def mop (i : Instr) (begun : Bool) : MOp :=
  { op := { slot := 3, sw := ((encodeSlot i).map (·.2)).getD 0#64 }, quads := 1#4, fuse := 0#2, rows := 8, begun := begun, ready := 90, data := List.replicate 64 1#8 }
/-- `base` with the sequencer of ctx0 holding entries. -/
def withM (l : List MOp) : State := withC base fun c => { c with mops := l }

/-- SEQUENCER_OP_START, MMA_ROW_STEP and MDRAIN_ENTRY_STEP (R168, R181): each kind ready to start, with its data; MMA and MMAS before each of their rows; the drains before each of
their entries, with room in their queue; a completed operation, alone and before one that is not ready. -/
theorem test_hyp_SequencerStarts_MatrixRowSteps_MatrixDrainSteps :
    let quiet (m : MOp) (r : List MOp) : Bool := m.begun && decide (m.steps ≤ m.prog) && decide (m.ready ≤ 100) && (r.head?.all fun x => x.begun = false && decide (100 < x.ready)) &&
      decide (m.access = none) && decide (m.metaAccess = none)
    let steps (i : Instr) : List MOp := [{ mop i true with prog := 0 }, { mop i true with prog := 7 }]
    let e := mop (.mzero ⟨0#5, 3#3, 0#8, 0x80#8, 0x80#8, 6#4, 0#4, 0#3, 0#4, 0#3, 0#1, 0#5⟩) true
    testCtx.flows = true ∧ testCtx.acc.wf = true ∧ (mOps.all fun i => (mop i false).instr = some i && decide ((mop i false).ready ≤ base.now)) = true ∧
    ((mOps.take 2).all fun i => (mop i false).present base 0 (tileBytes (mop i false).unit 0#4)) = true ∧
    (((mOps.drop 2).take 2).all fun i => (steps i).all fun m => m.begun && decide (m.prog < m.rows) && decide (m.rows ≤ m.unit.rows) && m.present base (m.prog * m.rowBytes) m.rowBytes) = true ∧
    (((mOps.drop 5).take 2).all fun i => decide (0 < (mop i true).steps) && (mop i true).begun) = true ∧ (base.issuer.queue 2).entries.length < 16 ∧
    quiet e [] ∧ quiet e [{ e with begun := false, ready := 101 }] := by decide +kernel

/-- An illegal header (R46): a slot in both P and Q. -/
theorem test_hyp_IllegalHeaders :
    let n (h : Word) : NextIssue := ⟨0, 0#64, [h], 0, none⟩
    (n 0#64).follows = none ∧ headerTrap testCtx (n 0x1020000000000000#64) ≠ none ∧ headerTrap testCtx (n 0x1000000000000000#64) = none ∧
    headerTrap { testCtx with lock := true } (n 0x3000000000000000#64) = none ∧ headerTrap { testCtx with lock := true, pos := 1#7 } (n 0x3000000000000000#64) ≠ none ∧
    base.ctx (n 0#64).key = testCtx := by decide +kernel

/-- A launched copy of 256 bytes within the program area of core 0. -/
def copy : Copy :=
  { key := 0, cid := 1#8, op := { slot := 4 }, engine := 0, form := .cpy, dk := .spad, sk := .spad, dst := 0x1000, src := 0x2000, dbound := 0x1000, sbound := 0x1000, dbase := 0x1000,
    sbase := 0x2000, tgt := 0#96, fill := 0#64, len0 := 256, n1 := 1, n2 := 1, d1 := 0, s1 := 0, d2 := 0, s2 := 0, idx := [], desc := [], tok := 20, bar := none, launch := none, launched := true }

/-- AT_COPY_LAUNCH and COPY_COMPLETION (R189, R191 to R193): an .AT copy at its launch cycle; a copy that is over, one whose row fails, a CFILL and a copy of the own scratchpad to
be read, and a beat to be written. -/
theorem test_hyp_CopyLaunches_CopyBeats :
    let s (c : Copy) : State := { base with copies := [(3, c)] }
    let due (c : Copy) : Bool := dueCopy (s c) 3 = some c
    let over_ : Copy := { copy with prog := 256 }
    let bad : Copy := { copy with form := .cgath, idx := [0x2000], s2 := 1 }
    let fill : Copy := { copy with form := .cfill }
    let held : Copy := { copy with buf := List.replicate 128 1#8 }
    let at_ : Copy := { copy with launch := some 100, launched := false }
    (s at_).copies.find 3 = some at_ ∧ at_.launched = false ∧ due over_ ∧ over_.prog = over_.total ∧ over_.status = 0 ∧ due bad ∧ bad.prog ≠ bad.total ∧ bad.rowFails = true ∧ due fill ∧
    fill.rowFails = false ∧ due copy ∧ copy.prog ≠ copy.total ∧ copy.buf = [] ∧ copy.rowFails = false ∧ due held ∧ held.prog ≠ held.total ∧ Memory.wf base.mem = true ∧
    (s copy).copies.wf = true ∧ testCtx.rollsBack = false ∧ copy.silent = false ∧ testCtx.phase.stage = 0 ∧ copy.phase = none ∧ copy.tok ≠ 0 ∧ copy.bar = none ∧ held.skip = 0 ∧ held.ahead = [] := by decide +kernel

/-- MCAST_LANDING (R91): a landing that is due in two scratchpads. -/
theorem test_hyp_MulticastLandings :
    let m : Mcast := { due := 100, pos := 0, key := 0, cores := [0, 1], bytes := [(0x1000, 7#8), (0x1001, 8#8)] }
    let s : State := { base with mcasts := [(4, m)] }
    s.mcasts.find 4 = some m ∧ m.landed = false ∧ m.waits s 4 = false ∧ Memory.wf s.mem = true ∧
    (m.cores.flatMap fun c => m.bytes.map fun b => spadPlace c b.1).Nodup := by decide +kernel

/-- STORE_ACKNOWLEDGE (R255): the acknowledgement of an atomic that is awaited, and of a faulted store. -/
theorem test_hyp_StoreAcknowledgements :
    let a : Access := { key := 0, cid := 1#8, op := {}, kind := .global, what := .store, parts := [⟨0, 0, 0x10010, 8, 90, true⟩], data := leBytes 5 8, buffered := true, checked := true, performed := some 95, ack := 100 }
    let b : Access := { a with faulted := some ⟨0, 0#48, 1, codeNotPresent, 1#8, 0#52, 0#6, 0xFF#8, 9, 95⟩, performed := none }
    let s (x : Access) : State := { withC base fun c => { c with pending := [⟨{}, [.s 3], .access 9⟩] } with accs := [(9, x)] }
    (s a).accs.find 9 = some a ∧ (s b).accs.find 9 = some b ∧ a.buffered = true ∧ (a.parts.all fun p => p.done) = true ∧ a.ack ≤ (s a).now ∧ a.faulted = none ∧
    b.faulted ≠ none := by decide +kernel

/-! Events: accesses at their homes, over paths, of other packages and of the control window; faults, stops, children and priority queues. -/

/-- `base` where the tenant has one page of global memory at address 0, in the controller of die 0, a path to host port 0, and one to package 5. -/
def mapped : State :=
  { base with
    mem := [(0x40000, 1#8), (0x40002, 8#8), (0x80000, 3#8), (0x80003, 2#8)],
    quarters := [(0, { ilbase := [(0, 3#64)], illim := [(0, 0xFFFFFFE000001#64)], tslot := [(0, 0x8000000000000001#64)], running := some 1,
                       patha := [(0, 0x8001000000000000#64), (1, 0xC001000000000005#64)], pathb := [(1, 0x0100000000000000#64)] })],
    dies := [(0, { ptroot := [(1, 0x40001#64)], frames := [(4, { own := 1#8, use := useTable }), (8, { own := 1#8, use := useTable }), (0x201, { own := 1#8, use := useData })] })],
    vfs := [(0, { map := 0x101#64 })], pkg := { base.pkg with hostUp := [0] } }
/-- An access of ctx0 of 8 bytes at an address. -/
def access (what : AccessOp) (va : Nat) (checked : Bool) : Access :=
  { key := 0, cid := 1#8, op := {}, kind := .global, what := what, parts := [⟨0, 0, va, 8, 90, false⟩], data := leBytes 5 8, cmp := leBytes 0 8, scope := 4#3, checked := checked }
/-- `mapped` with the access in flight. -/
def flying (a : Access) : State := { mapped with accs := [(9, a)] }

/-- HOME_ACCESS (R107, R247 to R256): a store, an atomic and a load of a page that is there, before and after their check, and a store to a page that is not. -/
theorem test_hyp_HomeAccesses :
    let kinds : List AccessOp := [.store, .load, .atomic 0#4 false]
    let both : List Bool := [true, false]
    let clear (s : State) (a : Access) : Bool := a.parts.all fun q => (both.all fun d => decide (partFault s 9 a q d = none)) && decide (routeOf a q ≠ .path)
    let good (w : AccessOp) (ch : Bool) : Bool := let a := access w 0x10010 ch
      decide (routedPart (flying a) 9 .home = some (a, ⟨0, 0, 0x10010, 8, 90, false⟩)) && clear (flying a) a &&
      match homeSpot (flying a) a ⟨0, 0, 0x10010, 8, 90, false⟩ with
        | .ok sp => decide (sp = ⟨0, 0x2010010⟩)
        | .error _ => false
    let bad := access .store 0x2000000 false
    let ld := access .load 0x10010 true
    (kinds.all fun w => good w false && good w true) = true ∧ inSnapshot mapped 0 0x2010010 = none ∧ Memory.wf mapped.mem = true ∧
    (routedPart (flying bad) 9 .home).isSome = true ∧ (both.all fun d => (partFault (flying bad) 9 bad ⟨0, 0, 0x2000000, 8, 90, false⟩ d).isSome) = true ∧
    elementwise bad.op = false ∧ bad.faulted = none ∧ mapped.blocks = [] ∧ sliceLine (flying ld) 0 1#8 0x10010 true = none ∧
    cachedLine (flying ld) ld ⟨0, 0, 0x10010, 8, 90, false⟩ true = none ∧ forwarded (flying ld) 9 ld 0x10010 = none ∧ (flying bad).accs.wf = true := by decide +kernel

/-- PATH_ACCESS and PATH_RESPONSE_TIMEOUT (R249): accesses over the path to the host, before and after their check, one whose port is down, and one that was not answered. -/
theorem test_hyp_PathAccesses :
    let va := 0xD * 2 ^ 48 + 0x1000
    let p : Part := ⟨0, 0, va, 8, 90, false⟩
    let isPath (a : Access) : Bool := decide (routedPart (flying a) 9 .path = some (a, p)) && decide (a.faulted = none)
    let st := access .store va true
    let ld := access .load va true
    let late : Access := { ld with sent := some 20 }
    let down : State := { flying ld with pkg := { mapped.pkg with hostUp := [] } }
    let q := (flying ld).quarter 0
    let then_ : State := { flying late with now := 2 ^ 30 + 20 }
    isPath (access .store va false) ∧ ([true, false].all fun d =>
      decide (partFault (flying (access .store va false)) 9 (access .store va false) p d = none)) = true ∧ isPath st ∧ elementwise st.op = false ∧ isPath ld ∧
    pathFault (flying ld) q ld p = none ∧ pathToHost q va = true ∧ routedPart down 9 .path = some (ld, p) ∧ (pathFault down (down.quarter 0) ld p).isSome = true ∧
    late.silent p = true ∧ pathToHost q va = true ∧ then_.accs.find 9 = some late ∧ late.parts.find? (fun q => !q.done && routeOf late q = .path) = some p ∧ Memory.wf mapped.mem = true := by decide +kernel

/-- FAR_ACCESS_ARRIVAL (R249, R312, R363): an access that no path entry names, one whose containment identifier has no partition, one of an address that is not mapped, and a read, a
write and an atomic that perform, and a write that a home holds, and one that it has held for too long; and accesses of a host through a function whose port is up, and through one
that is disabled. -/
theorem test_hyp_FarAccesses :
    let a (src : BitVec 22) (cid : BitVec 8) (va : BitVec 52) (op : FarOp) : FarAccess := ⟨src, cid, va, op, none⟩
    let w := a 5#22 1#8 0x10010#52 (.write (leBytes 5 8))
    let free : State := { mapped with quarters := mapped.quarters.map fun x => (x.1, { x.2 with tslot := [] }) }
    let shut : State := { mapped with dies := mapped.dies.map fun x => (x.1, { x.2 with shoot := some ⟨0#64, 200⟩ }) }
    let cut : State := { mapped with blocks := [(1, { hbctl := 3#64, state := 2#2, snap := { todo := [(0, 0x201)] } })] }
    let r (va n : Nat) : Bool := match deviceRead mapped 0 1#8 va n with
      | .ok l => decide (l = List.replicate n 0#8)
      | .error _ => false
    let ps (va : Nat) := pieces 9 va (leBytes 5 8)
    let spots (s : State) (va : Nat) : Option (List Spot) := match pieceSpots s 0 1#8 (ps va) with
      | .ok l => some (l.map (·.1))
      | .error _ => none
    farAccepted mapped (a 6#22 1#8 0#52 (.read 8)) = false ∧ farAccepted mapped (a 5#22 1#8 0x10010#52 (.read 8)) = true ∧ partOfCid free 1#8 = none ∧ partOfCid mapped 1#8 = some 0 ∧
    r 0x2000000 8 = false ∧ r 0x10010 8 = true ∧ piecesShot mapped 0 (ps 0x10010) = false ∧ piecesShot shut 0 (ps 0x10010) = true ∧
    spots mapped 0x10010 = some [⟨0, 0x2010010⟩] ∧ spots mapped 0x2000000 = none ∧ reserveShort mapped [⟨0, 0x2010010⟩] = false ∧
    deviceWaits mapped (.far w) [⟨0, 0x2010010⟩] = false ∧ deviceWaits cut (.far w) [⟨0, 0x2010010⟩] = true ∧ heldOut cut (.far w) = false ∧
    heldOut { cut with held := [⟨.far w, 100, 4, [(0, 1#8)], true⟩] } (.far w) = true ∧ (mapped.vf 0).map.getLsbD 8 = true ∧ (mapped.vf 1).map.getLsbD 8 = false ∧
    (mapped.vf 0).map.getLsbD 9 = false ∧ 0 ∈ mapped.pkg.hostUp ∧ mapped.pkg.pcieOnly = false ∧ partOfCid mapped ((mapped.vf 0).map.extractLsb' 0 8) = some 0 ∧
    deviceRead mapped 0 0#8 (0xF * 2 ^ 48 + 8) 8 = .error ((codeNotPresent, 0x31#8), 0x00#8) ∧ inPathWindow 0x10010 = false ∧ inControlWindow 0x10010 = false ∧ effectiveCid 1#8 0x10010 = 1#8 ∧ 0x10010 % 8 = 0 := by decide +kernel

/-- CONTROL_WINDOW_ACCESS and REGISTER_WRITE (R6, R346): a load and a store of PKGID by a service core, and the least and greatest offsets of the registers. -/
theorem test_hyp_RegisterAccesses :
    let va := 0xE * 2 ^ 48 + 0x20 * 2 ^ 24 + 0x20
    let p : Part := ⟨0, 0, va, 8, 90, false⟩
    let word (i : Instr) : Word := ((encodeSlot i).map (·.2)).getD 0#64
    let a (w : AccessOp) (ch : Bool) : Access := { access w va ch with key := 18432, cid := 0xFF#8, op := { slot := 0, sw := word (if w = .load then .ld fx else .st fx) } }
    let is (x : Access) : Bool := decide (routedPart (flying x) 9 .control = some (x, p)) && !heldByShootDown (flying x) 9
    is (a .load false) ∧ is (a .load true) ∧ is (a .store true) ∧ ([true, false].all fun d =>
      decide (partFault (flying (a .load false)) 9 (a .load false) p d = none)) = true ∧ routeOf (a .load false) p = .control ∧ va / 2 ^ 24 % 256 = 0x20 ∧ va % 2 ^ 24 = 0x20 ∧
    lowest base.pkg 3 = 3 ∧ (0x1000 + 8 * 255 < 2 ^ 24) ∧ (0x108 + 16 * 15 < 2 ^ 24) ∧ (0x10030 + 128 * 255 < 2 ^ 24) := by decide +kernel

/-- DEFERRED_FAULT (R256, R257, R336): a message that is due, of a running and of a halted context, and an uncorrectable error of one that has a held phase. -/
theorem test_hyp_DeferredFaults :
    let m (code : BitVec 16) (why : BitVec 8) : FaultMsg := ⟨0, 0#48, 1, code, why, 0x10010#52, 0#6, 0#8, 0, 90⟩
    let s (f : FaultMsg) (md : Mode) : State := { withC base fun c => { c with mode := md, phase := { held := true, rollbacks := 1 } } with faults := [(100, f)] }
    let fetch : FaultMsg := { m codeFetchFault 0x20#8 with slot := 7, va := 0x7777#52 }
    let is (f : FaultMsg) (md : Mode) : Bool := ((s f md).faults.find? fun x => x.2 = f && decide (x.1 ≤ 100)) = some (100, f) && faultStands (s f md) f && ((s f md).ctx 0).stop = none
    is (m codeOwnership 0x38#8) .run ∧ is (m codeOwnership 0x38#8) .halted ∧ codeOwnership ≠ codeUncorrectable ∧ codeOwnership ≠ codeFetchFault ∧ is (m codeUncorrectable 0x48#8) .run ∧
    ((s (m codeUncorrectable 0x48#8) .run).ctx 0).phase.held = true ∧ ((s (m codeUncorrectable 0x48#8) .run).ctx 0).phase.stage = 0 ∧
    is fetch .run ∧ neededFetch (s fetch .run) fetch = none ∧ fetch.code = codeFetchFault ∧ fetch.slot = 7 ∧
    is { fetch with va := 0x10#52 } .run ∧ (neededFetch (s { fetch with va := 0x10#52 } .run) { fetch with va := 0x10#52 }).isSome = true := by decide +kernel

/-- STOPPING_COMPLETE (R257 to R269): stops of each kind that await nothing, with no record and with one. -/
theorem test_hyp_StopsCompleted :
    let m : FaultMsg := ⟨0, 0#48, 1, codeOwnership, 0x38#8, 0x10010#52, 0#6, 0#8, 0, 90⟩
    let st (k : StopKind) : Stop := { kind := k, t := 99, faults := if k = .deferred then [m] else [] }
    let s (k : StopKind) (cause : Word) (p : List Pending) : State := withC base fun c => { c with mode := .stopping, stop := some (st k), trapcause := cause, pending := p }
    let claim : Pending := ⟨{ slot := 2 }, [.v 3], .claim 2 0 0#40 0#64 97⟩
    let ready (k : StopKind) (cause : Word) (p : List Pending) : Bool := stopReady (s k cause p) 0 && decide (((s k cause p).ctx 0).stop = some (st k))
    let u := unfinished (s .precise 0#64 [claim]) 0 ((s .precise 0#64 [claim]).ctx 0) (st .precise)
    ([.precise, .software, .deferred, .save, .peer, .unbind] : List StopKind).all (ready · 0x12#64 []) ∧ ready .precise 0x20012#64 [] ∧ ready .precise 0x12#64 [claim] ∧
    (0x12#64 : Word).getLsbD 17 = false ∧ (0x20012#64 : Word).getLsbD 17 = true ∧ u.length = 1 ∧ u.map (·.imgs) = [[]] ∧
    unfinished (s .precise 0#64 []) 0 ((s .precise 0#64 []).ctx 0) (st .precise) = [] ∧ testCtx.aside = none ∧ base.accs.wf = true ∧ base.copies.wf = true := by decide +kernel

/-- CHILD_TAKE and STEAL_COMPLETE (R204): a child in the own deque, one in another deque of the cluster, and steals that are over, of a deque that still holds a child of the task and of
one that does not. -/
theorem test_hyp_ChildrenTaken :
    let ch : Child := ⟨0x10000#64, [1#64, 2#64, 3#64, 4#64], 0, 1⟩
    let s (v : Nat) : State := { withC base fun c => { c with mode := .halted } with cores := [(v, { deque := [ch] })] }
    let t (l : List Child) : State := { withC base fun c => { c with mode := .halted, steal := some ⟨3, 100⟩ } with cores := [(3, { deque := l })] }
    takesChildren (s 0) 0 = true ∧ ((s 0).ctx 0).task = some 1 ∧ ((s 0).core 0).deque.find? (fun x => x.task = 1) = some ch ∧ takesChildren (s 3) 0 = true ∧
    ((s 3).core 0).deque = [] ∧ ((s 3).ctx 0).det = false ∧ (List.range 7).map (fun i => 0 / 8 * 8 + (0 + i + 1) % 8) = [1, 2] ++ 3 :: [4, 5, 6, 7] ∧
    ([1, 2].all fun w => ((s 3).core w).deque = []) = true ∧ ((s 3).core 3).deque = [ch] ∧ ((t [ch]).ctx 0).steal = some ⟨3, 100⟩ ∧ ((t [ch]).core 3).deque = [] ++ ch :: [] ∧
    ((t [{ ch with task := 2 }]).core 3).deque.all (fun y => y.task ≠ 1) = true := by decide +kernel

/-- PQ_ARRIVAL and PQ_CLAIM_SERVE (R206, R233): a push that is due and one that is not, a claim that is due, and one that waits with an entry of its tenant; and keys and tickets that
are equal and not. -/
theorem test_hyp_PriorityQueueService :
    let e (k : W32) (t : Option (Nat × Nat)) : PqEntry := ⟨1#8, k, 9#64, t, 3⟩
    let due (m : PqMove) : Bool := decide (m.due ≤ 100) && !m.here
    let push (n : Nat) : PqMove := { id := 5, due := n, ctx := 0, cid := 1#8, push := some (e 2#32 none) }
    let claim (here : Bool) : PqMove := { id := 6, due := 80, ctx := 0, cid := 1#8, push := none, here := here }
    let s (l : List PqMove) : State := { base with dies := [(0, { pq := [e 2#32 none], pqMoves := l })] }
    due (push 100) ∧ ¬ due (push 101) ∧ due (claim false) ∧ servable (s [claim true]) ((s [claim true]).die 0) = some (claim true) ∧
    (e 2#32 none).key.toNat < (e 3#32 none).key.toNat ∧ (e 2#32 (some (1, 1))).ticket = some (1, 1) ∧ ((1, 1) : Nat × Nat) ≠ (1, 2) ∧ (e 2#32 none).ticket = none := by decide +kernel

/-! Events: image queues, placement, start and completion, graph replays, and the slices and switches of tenants. -/

/-- DOORBELL and a write of IQBASE (R352, R353): a tail beyond the ring, a function that is not enabled, a tenant in no partition, and one entry, with OWN and without. -/
theorem test_hyp_ImageQueues :
    let s (map : Word) (own : Byte) : State :=
      { mapped with vfs := [(0, { map := map, base := 0x1000#64, size := 0#4 })], mem := [(hostPlace 0 0x1010, own)] }
    let v (map : Word) := (s map 0#8).vf 0
    let w (own : Byte) : Word := BitVec.ofNat 64 (leNat (Memory.read (s 0x101#64 own).mem (hostPlace (portOf (v 0x101#64)) ((v 0x101#64).base.toNat / 64 * 64 + 16)) 8))
    2 ^ ((v 0x101#64).size.toNat + 4) < (17#16 - (v 0x101#64).head).toNat ∧ (1#16 - (v 0x101#64).head).toNat = 1 ∧ (v 0x1#64).map.getLsbD 8 = false ∧ (v 0x101#64).map.getLsbD 8 = true ∧
    partOfCid (s 0x101#64 0#8) 1#8 = some 0 ∧ partOfCid (s 0x102#64 0#8) 2#8 = none ∧ (w 0#8).getLsbD 0 = false ∧ (w 1#8).getLsbD 0 = true ∧ (v 0x101#64).head = (v 0x101#64).tail ∧
    ({ tail := 1#16 } : Vf).head ≠ ({ tail := 1#16 } : Vf).tail := by decide +kernel

/-- A launch of the tenant in a stage, at the head of its queue. -/
def launching (l : Launch) : State :=
  { mapped with ctxs := [], launches := [(2, l)], blocks := [(1, { queue := [2] })] }
/-- A launch of one context of one core with 4,096 bytes of scratchpad. -/
def launch (st : Stage) : Launch :=
  { origin := .imageQueue 0 0x1000 0#32 true, quarter := 0, cid := 1#8, stage := st, ready := 100, text := 0x10000#64,
    claims := { ncores := 1, nctx := 1, spad := 4096, bfirst := 4, bcount := 2, energy := 1000, ctxs := [⟨0, 1#3, 1#4, false, 0#64, [7#64]⟩] },
    perms := [{ v := true, kind := .spad, perm := 7#3, base := 0#52, bound := 64#53 }] }

/-- A state with its quarters changed, and at another cycle. -/
def withQ (s : State) (f : Quarter → Quarter) : State := { s with quarters := s.quarters.map fun x => (x.1, f x.2) }
def atTime (n : Nat) (s : State) : State := { s with now := n }

/-- PLACEMENT (R226 to R230, R320): a head that is admitted, one that is not, and one that waits, with the next gang switch tick far off and near. -/
theorem test_hyp_Placements :
    let rem (n : Int) : State := withQ (launching (launch .queued)) fun x => { x with rem := some n }
    let is (s : State) (l : Launch) : Bool := sliceRuns s 0 1 && decide (queueHead s 0 1 = some (2, l)) && decide (l.graph = none)
    let w := launching (launch .waiting)
    let near := atTime 1048000 w
    let placed (s : State) : Bool := decide (placeOn s 0 (launch .waiting).claims = some (0, [(0, [0], 0)]))
    let far (s : State) : Bool := decide (s.now + 1280 + 4096 ≤ nextTick s 0)
    let admits (s : State) : Bool := decide (((launch .queued).claims.energy : Int) ≤ (s.quarter 0).remaining) || decide ((s.quarter 0).remaining = (s.quarter 0).budget)
    is (rem 5000) (launch .queued) ∧ admits (rem 5000) = true ∧ is (rem 10) (launch .queued) ∧ admits (rem 10) = false ∧ is w (launch .waiting) ∧ is near (launch .waiting) ∧
    w.late = false ∧ sliceRuns (withQ w fun x => { x with running := none }) 0 1 = false ∧ (launch .waiting).ready ≤ w.now ∧ placed w ∧ placed near ∧ far w ∧ far near = false := by decide +kernel

/-- START_TICK (R228, R230): a bound task at its start tick, whose image gives one of its two contexts a record; TASK_COMPLETION (R226, R231): tasks that have halted, ended and
performed. -/
theorem test_hyp_StartTicks_TaskCompletions :
    let b : Launch := { launch .bound with cores := [0], members := [[0, 1]], bases := [0x3000], start := 100 }
    let s (l : Launch) (c : List (Nat × Ctx)) : State := { launching l with ctxs := c, mem := [] }
    let r : Launch := { b with stage := .running }
    let c : Launch := { b with stage := .completing }
    let e : Launch := { c with ended := true, status := 3#16 }
    let halted : List (Nat × Ctx) := [(0, { mode := .halted, task := some 2 })]
    (s b []).launches.find 2 = some b ∧ b.start ≤ (s b []).now ∧ sliceRuns (s b []) 0 1 = true ∧ b.members.flatten.Nodup ∧ Memory.wf (s b []).mem = true ∧
    ((b.claims.ctxs.map (·.ctx)).contains 1) = false ∧ b.claims.ctxs.map (·.ctx) = [0] ∧
    taskHalted (s r halted) 2 r = true ∧ taskContexts (s e []) 2 = [] ∧ taskPerformed (s c halted) 2 = true ∧ taskContexts (s c halted) 2 = [0] := by decide +kernel

/-- A graph of the tenant with one node, in slot 0, and its replay. -/
def graph (n : Node) : Graph := { quarter := 0, cid := 1#8, image := 0, lbase := 0, number := 0, nodes := [n], root := 0, pb := 0x10000, pblen := 8, cw := 0x10020 }
/-- `launching` a replay of it, accepted or running; the condition word is `w`. -/
def replaying (n : Node) (accepted running : Option Nat) (r : Replay) (w : Byte) : State :=
  { launching { launch .queued with graph := some 0, entry := 0x8000 } with
    mem := mapped.mem ++ [(hbmPlace 0 0x2010020, w)], graphs := [(0, { graph n with accepted := accepted, running := running })], replays := [(2, r)] }

/-- REPLAY_ACCEPT, NODE_EVALUATION and REPLAY_END (R237 to R240): a replay that is acceptable, where another runs and where none does; a path at a node of each kind, with a condition
word of 0 and of 1, a replay that has failed, and a JOIN at its last arrival and before it; and a replay that is over. -/
theorem test_hyp_GraphReplays :
    let n (kind arg x : Nat) : Node := ⟨BitVec.ofNat 64 (kind * 2 ^ 60 + 1 * 2 ^ 32 + 2 * 2 ^ 16 + arg), BitVec.ofNat 64 x⟩
    let p : Path := ⟨0, 90, none⟩
    let r : Replay := { block := leBytes 7 8, paths := [p] }
    let run (x : Node) (y : Replay) (w : Byte) : State := replaying x none (some 2) y w
    let at_ (x : Node) (y : Replay) (w : Byte) : Bool := decide (nextPath (run x y w) 0 = some (0, 2, p)) && decide ((run x y w).replays.find 2 = some y)
    let cond (w : Byte) : Option Nat := conditionWord (run (n 2 0 0) r w) { graph (n 2 0 0) with running := some 2 } 0
    let read (s : State) : Bool := match deviceRead s 0 (effectiveCid 1#8 0x10000) 0x10000 8 with
      | .ok b => decide (b = List.replicate 8 0#8)
      | .error _ => false
    let idle := replaying (n 1 0 0) none none r 1#8
    let busy := replaying (n 1 0 0) none (some 5) r 1#8
    (acceptable idle 2).isSome = true ∧ (acceptable busy 2).isSome = true ∧ read idle ∧ read busy ∧ at_ (n 1 0 0) r 1#8 ∧ at_ (n 1 0 0) { r with status := 3#16 } 1#8 ∧ at_ (n 2 0 0) r 1#8 ∧
    at_ (n 3 0 4) r 1#8 ∧ at_ (n 3 0 4) r 0#8 ∧ cond 1#8 = some 1 ∧ cond 0#8 = some 0 ∧ (n 3 0 4).kind = 3 ∧ (n 3 0 4).x = 4 ∧ at_ (n 4 2 0) r 1#8 ∧ (n 4 2 0).kind = 4 ∧ (n 4 2 0).arg = 2 ∧
    at_ (n 4 1 0) r 1#8 ∧ (n 4 1 0).arg = 1 ∧ (n 2 0 0).kind = 2 ∧ (n 1 0 0).kind = 1 ∧ (endedReplay (run (n 1 0 0) { r with paths := [] } 1#8) 2).isSome = true := by decide +kernel

/-- Tenants 1 and 2 with save areas in slots 0 and 1 of quarter 0, of priorities 0 and p; tenant 1 runs; a context of each in a mode. -/
def tenants (p : Nat) (a b : Mode) : State :=
  { base with now := 1048576, ctxs := [(0, { testCtx with mode := a }), (1, { testCtx with mode := b, cid := 2#8, task := some 2 })],
              quarters := [(0, { tslot := [(0, 0x8000000000000001#64), (1, BitVec.ofNat 64 (2 ^ 63 + p * 2 ^ 60 + 2))], running := some 1 })],
              blocks := [(1, { savea := 1#64 }), (2, { savea := 1#64 })] }

/-- SLICE_START (R349): tenants of two priorities with work, and none with work. -/
theorem test_hyp_SliceStarts :
    let s (a b : Mode) : State := withQ (tenants 1 a b) fun x => { x with running := none }
    lowest (s .run .run).pkg 0 = 0 ∧ ((s .run .run).quarter 0).running = none ∧ slotTenant ((s .run .run).quarter 0) 1 = some (1, 2) ∧ hasWork (s .run .run) 0 2 = true ∧
    ((List.range 16).all fun j => match slotTenant ((s .run .run).quarter 0) j with
      | some (r, d) => !hasWork (s .run .run) 0 d || (decide (r ≤ 1) && (decide (r ≠ 1) || decide (1 ≤ j)))
      | none => true) = true ∧
    ((List.range 16).all fun j => match slotTenant ((s .halted .halted).quarter 0) j with
      | some (_, d) => !hasWork (s .halted .halted) 0 d
      | none => true) = true := by decide +kernel

/-- GANG_SWITCH_TICK (R273, R349): a tick where no other tenant is due, and one where tenant 2 is. -/
theorem test_hyp_GangSwitchTicks :
    let s (b : Mode) : State := tenants 1 .run b
    (s .run).now % ((s .run).quarter 0).period = 0 ∧ ((s .run).quarter 0).switch = none ∧ tickMark 0 ∉ (s .run).served ∧ sliceMark 0 ∉ (s .run).served ∧ ((s .run).quarter 0).running = some 1 ∧
    dueTenant (s .halted) 0 1 = some 1 ∧ dueTenant (s .run) 0 1 = some 2 ∧ hasSaveArea (s .run) 0 1 = true ∧ hasSaveArea (s .run) 0 2 = true ∧ heldBy (s .run) 0 1 = [0] ∧
    heldBy (tenants 1 .parked .run) 0 1 = [0] ∧ testCtx.stop = none ∧ (s .run).ctxs.wf = true := by decide +kernel

/-- A state where the frames of the slot of a core in a save area at address 0 are a tenant's, in the controller of die 0. -/
def withArea (s : State) (core : Nat) (cid : BitVec 8) : State :=
  { withQ s fun x => { x with ilbase := [(0, 3#64)], illim := [(0, 0xFFFFFFE000001#64)] } with
    mem := mapped.mem,
    dies := [(0, { ptroot := [(255, 0x40001#64)], frames := [(4, { own := 0xFF#8, use := useTable }), (8, { own := 0xFF#8, use := useTable })] ++
      (List.range 96).map fun i => (0x200 + 96 * core + i, { own := cid, use := useSave }) })] }

/-- SAVE_COMPLETE and SAVE_DEADLINE (R273, R275, R276): the save of a die that is not the last and of the last; the deadline with every die saved, with one late, and with one late for
the third time. -/
theorem test_hyp_SavesCompleted_SaveDeadlines :
    let live := liveDies base 0
    let s (n : Nat) (done : List Nat) : State :=
      { withQ (tenants 1 .saved .run) fun x => { x with switch := some 1000, switchDue := some 2, savedDies := done } with now := n }
    let third : State := { s 41000 (live.drop 1) with dies := [(0, { missed := 2 })] }
    let late (x : State) : List Nat := live.filter fun d => !(decide (d ∈ (x.quarter 0).savedDies))
    let a : State := withArea (s 2000 []) 0 1#8
    savedCores a 0 ((a.quarter 0).running.getD 0) 0 = [0] ∧ slotSpot a 0 1 0 = some ⟨0, 0x2000000⟩ ∧ (a.blocks.all fun y => y.2.snap.todo = []) = true ∧ Memory.wf a.mem = true ∧
    savedCores a 0 1 1 = [] ∧ saveDue a 0 1 = true ∧ saveDue a 0 0 = true ∧ 1 ∈ live ∧ saveDue (withArea (s 2000 (live.drop 1)) 0 1#8) 0 0 = true ∧ saveDue (s 2000 []) 0 0 = false ∧ (live.all fun e => e = 0 || decide (e ∈ live.drop 1)) = true ∧
    slotOf ((s 2000 []).quarter 0) 2 = some 1 ∧ slotTenant ((s 2000 []).quarter 0) 1 = some (1, 2) ∧ deadlineFalls (s 41000 live) 0 = true ∧ late (s 41000 live) = [] ∧
    deadlineFalls (s 41000 (live.drop 1)) 0 = true ∧ late (s 41000 (live.drop 1)) = [0] ∧ ((s 41000 []).die 0).missed = 0 ∧ standingSaved (s 41000 []) 0 = [0] ∧
    testCtx.savedStop = none ∧ gangHasCause (s 41000 []) 0 = false ∧ testCtx.vtcount = 0#9 ∧ (s 41000 []).ctxs.wf = true ∧ deadlineFalls third 0 = true ∧ late third = [0] ∧ (third.die 0).missed = 2 ∧
    (third.quarter 0).running = some 1 ∧ heldBy third 0 1 = [0] := by decide +kernel

/-- RESTORE (R274, R275, R349): the incoming tenant's contexts stand saved, with a slot of theirs that holds what the save wrote, one that holds another word and one that is poisoned; and
the outgoing one's stand saved and the incoming one's lie in its save area. -/
theorem test_hyp_Restores :
    let s (to_ : Nat) (sv : Sparse Saved) : State :=
      { withArea (withQ (tenants 1 .saved .unbound) fun x => { x with switch := some 1000, switchTo := some to_ }) (to_ - 1) (BitVec.ofNat 8 to_) with now := 81000, saves := sv }
    let slot (tok : Nat) (bad : Bool) : State :=
      { withQ (s 1 []) fun x => { x with saveTok := [(0, tok)] } with dies := (s 1 []).dies.map fun x => (x.1, { x.2 with poisoned := if bad then [0x2000000] else [] }) }
    let at_ (tok : Nat) (bad : Bool) : Bool := restoreDue (slot tok bad) 0 = some 1 && slotSpot (slot tok bad) 0 1 0 = some ⟨0, 0x2000000⟩ && ((slot tok bad).quarter 0).saveTok.find 0 = some tok
    let saved : Saved := ⟨0, 2#8, [(8, { testCtx with mode := .saved, cid := 2#8 })], [], [(spadPlace 1 0, 5#8)], []⟩
    let sv : Sparse Saved := [(2, saved)]
    restoreDue (s 1 []) 0 = some 1 ∧ standingSaved (s 1 []) 0 = [0] ∧ ((s 1 []).ctx 0).cid = 1#8 ∧ ((s 1 []).ctx 0).savedStop = none ∧ gangHasCause (s 1 []) 0 = false ∧ (s 1 []).saves.find 1 = none ∧
    restoreDue (s 2 sv) 0 = some 2 ∧ (s 2 sv).ctxs.wf = true ∧ standingSaved (s 2 sv) 0 = [0] ∧ (s 2 sv).saves.wf = true ∧ Memory.wf (s 2 sv).mem = true ∧ (s 2 sv).saves.find 2 = some saved ∧
    at_ 0 false = true ∧ at_ 7 false = true ∧ at_ 7 true = true ∧ spotPoisoned (slot 7 false) ⟨0, 0x2000000⟩ 32 = false ∧ spotPoisoned (slot 7 true) ⟨0, 0x2000000⟩ 32 = true ∧
    Memory.read (slot 0 false).mem (hbmPlace 0 0x2000000) 32 = leBytes 0 32 ∧ Memory.read (slot 7 false).mem (hbmPlace 0 0x2000000) 32 ≠ leBytes 7 32 ∧ testCtx.stop = none ∧ coreOf 0 = 0 ∧
    (saved.ctxs.map (·.1)).Nodup ∧ (saved.ranges.map (·.1)).Nodup ∧ isService (coreOf 8) = false ∧ partOf (s 2 sv).pkg (coreOf 8) = 0 := by decide +kernel

/-! Events: snapshots, energy, resets, reliability, partitions, tenants, host links and records. -/

/-- `mapped` with a block of the tenant. -/
def snapping (b : Block) : State := { mapped with blocks := [(1, b)] }

/-- CHECKPOINT_TIMER_TRIGGER and SNAP_TICK (R304 to R307): a timer that is due, of a tenant without EN, with it, and with a snapshot in flight; and a snapshot at its tick. -/
theorem test_hyp_SnapshotStarts :
    let s (v : Word) (st : BitVec 2) : State := { snapping { hbctl := v, state := st, snap := { tick := 4096 } } with now := 2 ^ 20 }
    timerDue (s 0x1000000#64 0#2) 0 1 = true ∧ timerDue (s 0x1000005#64 0#2) 0 1 = true ∧ timerDue (s 0x1000005#64 2#2) 0 1 = true ∧ (0x1000000#64 : Word).getLsbD 0 = false ∧
    (0x1000005#64 : Word).getLsbD 0 = true ∧ ((s 0x1000005#64 1#2).block 0 1).state = 1#2 ∧ ((s 0x1000005#64 1#2).block 0 1).snap.tick ≤ 2 ^ 20 ∧
    0x201 ∈ ((s 0#64 1#2).die 0).frames.map (·.1) := by decide +kernel

/-- DRAIN_FRAME_DONE and DRAIN_HEADER_DONE (R310): a frame to be read, a Write command to be ended, of a snapshot frame, and a cut whose frames are all written; RESERVE_HOLD_EXPIRY and
DRAIN_WRITE_ERROR (R312): a write that has been held for 400,000 cycles. -/
theorem test_hyp_SnapshotDrains_SnapshotAborts :
    let cut : Snap := { cut := [(0, 0x201, 1#3)], todo := [(0, 0x201)], moved := [(0, 0x300)] }
    let up : Conn := { w0 := 0xA400000000000000#64 }
    let s (sn : Snap) : State := { snapping { hbctl := 1#64, state := 2#2, snap := sn } with conns := [(0, up)] }
    let a : Access := { access .store 0x10010 true with heldSince := some 100, heldOn := [(0, 1#8)] }
    let bad : State := { s cut with dies := mapped.dies.map fun x => (x.1, { x.2 with poisoned := [0x2010020] }) }
    let held : State := { s cut with now := 400100, accs := [(9, a)] }
    let done_ : Snap := { cut with todo := [], images := [(0, 5#32)], writes := [] }
    drainDue (s cut) 0 1 0 = true ∧ nextWrite cut 0 = none ∧ nextRead cut 0 = some 0 ∧ drainDue (s { done_ with writes := [0] }) 0 1 0 = true ∧ nextWrite { done_ with writes := [0] } 0 = some 0 ∧
    drained ((s done_).block 0 1) = true ∧ ((s done_).block 0 1).eq.base.getLsbD 4 = false ∧ ((s done_).block 0 1).defer_ = false ∧ Memory.wf (s cut).mem = true ∧
    ((s cut).block 0 1).state = 2#2 ∧ ((s cut).block 0 1).clearEn = false ∧ holdExpired held 0 1 = true ∧ (held.block 0 1).hbctl.getLsbD 1 = false ∧
    (0, 0x300) ∈ (held.block 0 1).snap.moved ∧ drainDue bad 0 1 0 = true ∧ spotPoisoned bad ⟨0, 0x201 * 65536⟩ 65536 = true ∧
    spotPoisoned (s cut) ⟨0, 0x201 * 65536⟩ 65536 = false := by decide +kernel

/-- HBCTL_WRITE (R303): EN set and clear before the write, and during a snapshot; the dies of a partition that ends at quarter 3. -/
theorem test_hyp_HerbariumControl :
    let b (v : Word) (st : BitVec 2) := (snapping { hbctl := v, state := st }).block (lowest mapped.pkg 0) 1
    (b 1#64 0#2).hbctl.getLsbD 0 = true ∧ (b 1#64 2#2).state ≠ 0#2 ∧ (b 0#64 0#2).hbctl.getLsbD 0 = false ∧ (0x4001#64 : Word).getLsbD 0 = true ∧ (0x4000#64 : Word).getLsbD 0 = false ∧
    23 ∈ diesOf mapped.pkg 3 := by decide +kernel

/-- BUDGET_INTERVAL_START and GOVERNOR_WRITE (R319): an interval with a deferred launch; shares within the limit and beyond it; a quarter that is not its partition's lowest. -/
theorem test_hyp_Budgets :
    let s : State := { launching (launch .deferred) with now := 2000000, ctxs := [(18432, testCtx)] }
    let p : Package := { base.pkg with pcfg := 1#3 }
    intervalDue s 0 = true ∧ s.launches.wf = true ∧ s.ctxs.wf = true ∧ (s.launches.find 2).map (fun l => (l.quarter, l.stage)) = some (0, .deferred) ∧ serviceContexts s 0 = [18432] ∧
    lowest base.pkg 0 = 0 ∧ 3500 * 4 ≤ base.pkg.govlim.toNat ∧ base.pkg.govlim.toNat < 3501 + 3500 * 3 ∧ lowest p 1 ≠ 1 ∧ (List.range 4).all (fun q => (base.quarter q).share = 3500#16) = true := by
  decide +kernel

/-- THERMAL_GATE_ON and THERMAL_GATE_OFF (R322): the last die, gated and not; intervals that were cool throughout and that were not. -/
theorem test_hyp_ThermalGates :
    let s (g : BitVec 24) (n at_ : Nat) : State := { base with now := n, pkg := { base.pkg with gate := g }, dies := [(23, { gatedAt := at_ })] }
    (s 0#24 100 0).pkg.gate.getLsbD 23 = false ∧ (s 0x800000#24 100 0).pkg.gate.getLsbD 23 = true ∧ ((s 0x800000#24 4000000 2000000).die 23).gatedAt + 2000000 ≤ 4000000 ∧
    4000000 < ((s 0x800000#24 4000000 2000001).die 23).gatedAt + 2000000 ∧ 4000000 % 2000000 = 0 ∧ 4000001 % 2000000 ≠ 0 := by decide +kernel

/-- The resets and the start (R365 to R375): a canonical memory with bytes inside the device and outside; readings of 114 and 115 degrees; a start pending, and done. -/
theorem test_hyp_DeviceResets_Starts :
    let s : State := { base with mem := [(0x40000, 1#8), (spadPlace 0 5, 2#8), (flashPlace 7, 3#8)] }
    Memory.wf s.mem = true ∧ spadPlace 0 5 < 2 ^ 45 ∧ 2 ^ 45 ≤ flashPlace 7 ∧ (flashPlace 7 < logPlace s.pkg.logAt ∨ logPlace s.pkg.logAt + 16 ≤ flashPlace 7) ∧
    115 ≤ (115#8 : BitVec 8).toNat ∧ (114#8 : BitVec 8).toNat < 115 ∧ State.reset.boot = .pending ∧ base.boot ≠ .pending := by decide +kernel

/-- CARRIED_CHECK_MISMATCH (R324): an access of each transfer that is not performed; ECC_ERROR_CONSUMED (R325 to R328): the access of its consumer, and a running context. -/
theorem test_hyp_CarriedChecks_StoredBits :
    let a := access .load 0x10010 true
    let f : Access := { a with what := .fetch }
    let e : EccEvent := { struct := .hbm, corrected := false, quarter := 0, cid := some 1#8, key := 0, slot := 0, bseq := 0#48 }
    let fr : FrameInfo := { own := 1#8, use := useData }
    (flying a).accs.find 9 = some a ∧ a.performed = none ∧ a.faulted = none ∧ fetchAccess (flying f) 0 = some 9 ∧ consumerAccess (flying a) e = some 9 ∧ ((flying a).ctx 0).stop = none ∧
    ((flying a).ctx 0).mode = .run ∧ ((flying a).ctx 0).rollsBack = false ∧ ((flying a).ctx 0).phase.stage = 0 ∧ ((flying a).ctx 0).phase.held = false ∧ openParts a ≠ [] ∧ fr.tenant = some 1#8 ∧ ({ fr with use := useFree } : FrameInfo).tenant = none := by decide +kernel

/-- LANE_WINDOW_END (R337, R361, R362): the end of a window and not; lanes whose margin is at its threshold and below it, before their fourth low window; an X link with one lane that
has it, at its fastest and at its slowest rate; and a D lane that has it with both of its spares free, with one and with none. -/
theorem test_hyp_LaneWindows :
    let thresh (l : List (Nat × BitVec 8)) (t : State) (k : Nat) : Bool := (t.lane k).rate ≠ 3#2 && (t.lane k).lowrun = 3#8 && l.any fun x => x.1 = k && decide (x.2.toNat < (t.lane k).thresh.toNat)
    let calm (t : State) : Bool := (t.lanes.all fun y => decide (y.2.lowrun.toNat < 4)) && decide (({} : Lane).lowrun = 0#8)
    let s (n : Nat) (l : Sparse Lane) : State := { base with now := n, lanes := l }
    let x := xLanes 7
    let k := x.getD 7 0
    let bad (r : BitVec 2) : Lane := { rate := r, lowrun := 3#8 }
    let xs (r : BitVec 2) : State := s (2 ^ 21) ((x.take 7).map (fun j => (j, ({ rate := r } : Lane))) ++ [(k, bad r)])
    let out : Lane := { rate := 3#2 }
    let d (a b : Lane) : State := s (2 ^ 21) [(dLane 23 4 31, bad 0#2), (dLane 23 4 32, a), (dLane 23 4 33, b)]
    let near : State := s (2 ^ 21) [(5, { lowrun := 3#8 }), (6, { lowrun := 2#8 })]
    let one (t : State) (k : Nat) : Bool := calm t && thresh [(k, 0x1F#8)] t k && (t.lanes.all fun y => y.1 = k || !thresh [(k, 0x1F#8)] t y.1)
    (s 5 []).now % 2 ^ 21 ≠ 0 ∧ near.now % 2 ^ 21 = 0 ∧ ([5, 6] : List Nat).Nodup ∧ calm near = true ∧ (near.lane 5).lowrun.toNat = 3 ∧ (near.lane 5).thresh.toNat ≤ (0x20#8 : BitVec 8).toNat ∧
    thresh [(5, 0x20#8), (6, 0x1F#8)] near 5 = false ∧ thresh [(5, 0x20#8), (6, 0x1F#8)] near 6 = false ∧ x.length = 8 ∧ one (xs 0#2) k = true ∧ one (xs 2#2) k = true ∧
    ([0#2, 2#2].all fun r => x.all fun j => (xs r).lanes.any (fun y => y.1 = j) && decide (((xs r).lane j).rate = r)) = true ∧ one (d {} {}) (dLane 23 4 31) = true ∧
    ((d {} {}).lane (dLane 23 4 32)).rate ≠ 3#2 ∧ ((d {} {}).lane (dLane 23 4 32)).spare = false ∧ one (d out {}) (dLane 23 4 31) = true ∧ one (d out out) (dLane 23 4 31) = true ∧
    ((d out out).lane (dLane 23 4 33)).rate = 3#2 ∧ (d out out).pkg.ports.get 0 119 ≤ 2 ∧ dLane (119 / 5) (119 % 5) 31 = dLane 23 4 31 := by decide +kernel

/-- The quiescing of a partition, PCFG_WRITE and TSLOT_WRITE (R341 to R343, R348): requests and cancels at quarter 0 and at one that is not its partition's lowest; partitions that are busy
and that are not; a request that is late; a merge that is taken and one that is not, and a split; a slot that binds, unbinds, and would exceed 64 tenants. -/
theorem test_hyp_Quiescing_PartitionWrites_TenantSlots :
    let q (st : BitVec 3) : Quarter := { qreq := true, qreqAt := 10, qtmo := 1#16, pstate := st }
    let s (p : BitVec 3) (x : Quarter) (busy : Bool) : State :=
      { now := 5000, boot := .done, pkg := { pcfg := p }, quarters := [(0, x), (1, q 2#3)], launches := if busy then [(2, launch .running)] else [] }
    let many : State := { quarters := [(1, { tslot := (List.range 64).map fun k => (k, BitVec.ofNat 64 (2 ^ 63 + k + 1)) })] }
    lowest (s 0#3 {} false).pkg 0 = 0 ∧ (({} : Quarter).qreq = false) ∧ lowest (s 1#3 {} false).pkg 1 ≠ 1 ∧ (q 1#3).pstate = 1#3 ∧ busyMask (s 0#3 (q 1#3) false) 0 = 0 ∧
    busyMask (s 0#3 (q 1#3) true) 0 ≠ 0 ∧ (q 1#3).qtmo ≠ 0#16 ∧ (q 1#3).qreqAt + (q 1#3).qtmo.toNat * 4096 ≤ 5000 ∧ (q 2#3).pstate = 2#3 ∧
    takesPcfg (s 0#3 (q 2#3) false) 1#64 = true ∧ takesPcfg (s 0#3 (q 1#3) false) 1#64 = false ∧ takesPcfg (s 0#3 (q 2#3) false) 7#64 = false ∧ takesPcfg (s 1#3 (q 2#3) false) 0#64 = true ∧ takesPcfg (s 7#3 (q 2#3) false) 3#64 = true ∧
    (s 1#3 (q 2#3) false).blocks.wf = true ∧ (packageCids mapped 0 15 0x8000000000000002#64).length ≤ 64 ∧ (packageCids many 0 0 0x80000000000000FF#64).length = 65 ∧
    1#8 ∈ boundCids (mapped.quarter 0) ∧ ((mapped.quarter 0).tslot.get 0#64 0).getLsbD 63 = true ∧ (mapped.quarter 0).running = some 1 ∧ mapped.graphs.wf = true := by decide +kernel

/-- TCSD_WRITE and SHOOT_DOWN_DONE (R252): a write with GO and without, while none is under way and while one is; a shoot-down that is over, with another held. -/
theorem test_hyp_ShootDowns :
    let s (x : Option ShootDown) (l : List (Word × Nat)) : State := { base with dies := [(0, { shoot := x, shootQ := l })] }
    (0x8010000000000000#64 : Word).getLsbD 63 = true ∧ ((s none []).die 0).shoot = none ∧ ((s (some ⟨1#64, 100⟩) [(2#64, 0)]).die 0).shoot = some ⟨1#64, 100⟩ ∧
    ((s (some ⟨1#64, 100⟩) [(2#64, 0)]).die 0).shootQ = [(2#64, 0)] ∧ (s none []).accs.find 0 = none ∧ base.now < 101 ∧ base.accs = [] ∧ ((withQ mapped fun x => { x with ilNew := some { base := [], lim := [] } }).quarter 0).ilNew ≠ none ∧
    homeBusy (s (some ⟨1#64, 100⟩) []) 0 = false ∧ homeBusy { flying { access .store 0x10010 true with bound := [⟨0, 0, 0x2010010⟩] } with dies := [(0, { shoot := some ⟨1#64, 50⟩ })] } 0 = true ∧
    ({ rootNew := [(1, 5#64)] } : Die).rootNew.find 1 = some 5#64 ∧ ({} : Die).rootNew.find 1 = none ∧ ({} : Die).shootQ = [] := by decide +kernel

/-- The resets of host ports and functions (R356, R357): both ports, HOSTMGD both ways, functions of each port, a launch of one, of a walker and of another tenant, and an access in
flight to the host. -/
theorem test_hyp_UpstreamResets_FunctionResets :
    let a := access .store (0xD * 2 ^ 48 + 0x1000) false
    let s (m : Bool) : State := { flying a with pkg := { mapped.pkg with hostmgd := m }, vfs := [(0, { map := 0x101#64 }), (1, { map := 0x302#64 })],
                                                launches := [(2, launch .running), (3, { launch .queued with origin := .walker 0 2 0 }), (4, { launch .queued with cid := 2#8 }), (5, { launch .running with graph := some 0 })] }
    (s false).launches.wf = true ∧ portOf ((s false).vf 0) = 0 ∧ portOf ((s false).vf 1) = 1 ∧ ((s false).vf 0).map.getLsbD 8 = true ∧ ((s false).vf 5).map.getLsbD 8 = false ∧
    ((s false).launches.find 2).map (·.origin) = some (.imageQueue 0 0x1000 0#32 true) ∧ hostParts (s false) a 0 ≠ [] ∧ a.faulted = none ∧ a.begun = false ∧ a.what = .store ∧ 1 ∉ (s false).pkg.hostUp ∧
    (s true).pkg.hostmgd = true ∧ (s false).boot = .done ∧ ((s false).vf 0).map.extractLsb' 0 8 ∈ boundCids ((s false).quarter 0) ∧
    ((s false).launches.find 4).map (·.cid) = some 2#8 ∧ ((s false).launches.find 5).map (fun l => (l.cid, l.stage, l.graph)) = some (1#8, .running, some 0) ∧ (launch .running).graph = none := by decide +kernel

/-- Connections (R364): with V and without, of each kind, connecting, up and failed. -/
theorem test_hyp_Connections :
    let state (w : Word) : BitVec 3 := w.extractLsb' 60 3
    (0x9000000000000000#64 : Word).getLsbD 63 = true ∧ state 0x9000000000000000#64 = 1#3 ∧ (0x9000000000000000#64 : Word).extractLsb' 58 2 = 0#2 ∧
    (0x9400000000000000#64 : Word).extractLsb' 58 2 = 1#2 ∧ state 0xA000000000000000#64 = 2#3 ∧ state 0xB000000000000000#64 = 3#3 ∧ (0x0800000000000000#64 : Word).getLsbD 63 = false ∧
    ((0x0800000000000000#64 : Word).extractLsb' 58 2).toNat = 2 := by decide +kernel

/-- Records (R331, R345): a ring with space and a full one; a record that waits, and its slot in the hypervisor's space. -/
theorem test_hyp_RecordRings :
    let full (r : Ring) : Bool := r.base.getLsbD 4 = false || decide ((r.tail - r.head).toNat = 2 ^ ((r.base.extractLsb' 0 4).toNat + 6))
    let r : ErrRecord := { code := codeOwnership, sev := 2#3, etype := 1#8, die := 0#8, action := 0#16 }
    let b : Ring := { base := 0x10010#64, tail := 64#32, waiting := [r] }
    let cid := effectiveCid 1#8 b.slotVa
    let spot : Option Spot := match locate mapped 0 cid b.slotVa useData cid with
      | .ok sp => some sp
      | .error _ => none
    full b = true ∧ full { b with head := 1#32 } = false ∧ b.waiting = [r] ∧ spot = some ⟨0, 0x2010000⟩ ∧ inSnapshot mapped 0 0x2010000 = none ∧ lowest mapped.pkg 0 = 0 ∧
    Memory.wf mapped.mem = true ∧ full {} = true ∧ (r.sev.toNat < 3) ∧ ({ r with sev := 1#3 } : ErrRecord).sev.toNat < 2 := by decide +kernel

/-! The whole machine. -/

/-- The state after reset with a bundle of one S operation where it fetches, the state in which the operation is looked at, and whether a step of it runs that operation: it commits,
or takes a trap of its own. -/
def running (w : Word) : State := State.reset.withFetchWord 128 (w.toNat * 2 ^ 64 + 0x1000000000000000)
def looked (w : Word) : State :=
  let s := running w
  let n : NextIssue := ⟨0, (s.ctx 0).pc, [0x1000000000000000#64, w], 0, none⟩
  let s0 := applyAll (Act.seq (fun _ => [.ctx 0 { (s.ctx 0).atIssue n with yielded := false }, .cur (startIssue (s.ctx 0) n)]) (endWait 0) s) s
  { s0 with cur := { s0.cur with slot := 0, sw := w, step := 0#32 } }
def runsOne (w : Word) (commits : Bool) : Bool :=
  let s := running w
  let c := s.ctx 0
  let h := Header.ofWord 0x1000000000000000#64
  match decodeBytes (wordBytes 0x1000000000000000#64 8 ++ wordBytes w 8) with
  | none => false
  | some i =>
    decide (nextInput s = none) && !s.late && decide (earlyEvent s = some (.bundleIssue 0)) && !hasIssued s 0 && decide (issuer s (accepts s 0) 0 = some 0) && decide (c.repleft = 0) && !c.lock &&
    decide (bundleWords s 0 c.pc = some [0x1000000000000000#64, w]) && (encodeSlot i).isSome && decide (h.p = slotBit 0) && decide (h.q = 0#7) &&
    ((List.range 7).all fun j => (c.sticky j).idle) && issuesB i (looked w) &&
    match slotOp i (issuedAt i (looked w)) with
    | .ok e => commits && decide ((applyAll e (issuedAt i (looked w))).cur.trapped = none)
    | .error _ => !commits

/-- A step (R52, R259): an operation that commits and one that takes a trap; an input that is due, and one that stands after the issues; and a cycle with no event left. -/
theorem test_hyp_StepRunsDecodedInstruction :
    let quiet : State := { boot := .done, served := quarterNumbers.map budgetMark }
    let msg : FaultMsg := ⟨0, 0#48, 1, codeOwnership, 0x38#8, 0#52, 0#6, 0#8, 0, 0⟩
    runsOne 0x0103010280300000#64 true ∧ runsOne ((((encodeSlot (.ld { fx with h := 9#4 })).map (·.2)).getD 0#64)) false ∧
    nextInput { base with inputs := [(100, .pinReset)] } = some (100, .pinReset) ∧
    nextInput quiet = none ∧ quiet.late = false ∧ earlyEvent quiet = none ∧ lateEvent { quiet with late := true } = none ∧ earlyEvent {} = some .bootStart ∧
    lateEvent { quiet with late := true, faults := [(0, msg)] } ≠ none ∧ nextInput { quiet with late := true, faults := [(0, msg)] } = none ∧
    nextInput { quiet with inputs := [(0, .pcfgWrite 0#64)] } = none ∧ earlyEvent { quiet with inputs := [(0, .pcfgWrite 0#64)] } = none ∧
    nextInput { quiet with inputs := [(0, .pcfgWrite 0#64)], late := true } = some (0, .pcfgWrite 0#64) := by decide +kernel

/-- A state in the form of the invariant, with entries in its tables. -/
theorem test_hyp_WfKeptByStep : mapped.Wf := by constructor <;> decide +kernel

/-- The frame of memory (R107): an operation that is encoded, alone in its issue. -/
theorem test_hyp_MemoryFrame : encodeSlot (.add fr) ≠ none ∧ base.cur.stores = [] ∧ base.cur.near = [] ∧ base.before = [] ∧ issuesB (.add fr) base = true := by decide +kernel

/-! A launch and a service binding whose image passes every check (R226, R351, R354). The signature is any one of the right form: the key of the tenant is the root
that it gives for the image, so that nothing here evaluates a hash. -/

theorem length_zip_add (h v : List W32) (l : v.length = h.length) : ((h.zip v).map fun x => x.1 + x.2).length = h.length := by simp [l]

theorem shaRound_length (v : List W32) (k : W32) : (shaRound v k).length = v.length := by
  unfold shaRound; split <;> rfl

theorem foldl_shaRound_length (l : List W32) (v : List W32) : (l.foldl shaRound v).length = v.length := by
  induction l generalizing v with
  | nil => rfl
  | cons x r ih => rw [List.foldl_cons, ih, shaRound_length]

theorem shaBlocks_length (n : Nat) (h : List W32) (b : List Byte) : (shaBlocks n h b).length = h.length := by
  induction n generalizing h b with
  | zero => rfl
  | succ n ih => rw [shaBlocks, ih]; exact length_zip_add _ _ (foldl_shaRound_length _ _)

theorem beBytes_length (x n : Nat) : (beBytes x n).length = n := by
  have : ∀ (m k : Nat), (leBytes m k).length = k := fun m k => by induction k generalizing m with
    | zero => rfl
    | succ k ih => simp [leBytes, ih]
  simp [beBytes, this]

theorem sha256_length (m : List Byte) : (sha256 m).length = 32 := by
  have h : ∀ l : List W32, (l.flatMap fun w => beBytes w.toNat 4).length = 4 * l.length := fun l => by
    induction l with
    | nil => rfl
    | cons x r ih => simp [List.flatMap_cons, beBytes_length]; omega
  simp only [sha256, h, shaBlocks_length]; rfl

theorem treeRoot_length (id : List Byte) (n k : Nat) (p t : List Byte) (h : t.length = 32) : (treeRoot id n k p t).length = 32 := by
  induction n generalizing k p t with
  | zero => exact h
  | succ n ih => exact ih _ _ _ (sha256_length _)

/-- A key of which a signature of a message is one: the root that it gives, under an identifier of 16 bytes. -/
def keyOf (msg sig : List Byte) : List Byte :=
  let id : List Byte := List.replicate 16 7#8
  let q := beNat (sig.take 4)
  let leaf := sha256 (id ++ beBytes (1024 + q) 4 ++ beBytes 0x8282 2 ++ otsCandidate (id ++ sig.take 4) ((sig.drop 4).take 2180) msg)
  [0#8, 0#8, 0#8, 6#8, 0#8, 0#8, 0#8, 3#8] ++ id ++ treeRoot id 10 (1024 + q) (sig.drop 2188) leaf

theorem keyOf_length (msg sig : List Byte) : (keyOf msg sig).length = 56 := by
  simp [keyOf, treeRoot_length _ _ _ _ _ (sha256_length _)]

theorem lmsVerify_keyOf (msg sig : List Byte) (h : (sig.length = 2508 && beNat ((sig.drop 4).take 4) = 3 && beNat ((sig.drop 2184).take 4) = 6 && decide (beNat (sig.take 4) < 1024)) = true) :
    lmsVerify (keyOf msg sig) msg sig = true := by
  simp only [Bool.and_eq_true, decide_eq_true_eq] at h
  have e1 : ((keyOf msg sig).drop 8).take 16 = List.replicate 16 7#8 := rfl
  have e2 : (keyOf msg sig).take 4 = [0#8, 0#8, 0#8, 6#8] := rfl
  have e3 : ((keyOf msg sig).drop 4).take 4 = [0#8, 0#8, 0#8, 3#8] := rfl
  simp only [lmsVerify, e1, e2, e3, keyOf_length, h.1.1.1, h.1.1.2, h.1.2, h.2, decide_true, Bool.and_true, Bool.true_and, Bool.and_eq_true, decide_eq_true_eq]
  exact ⟨by decide, rfl⟩

/-- Bytes read are those that stand there. -/
theorem read_eq (m : List Host.Cell) (a : Nat) (l : List Byte) (h : ∀ i (k : i < l.length), Memory.get m (a + i) = l[i]) : Memory.read m a l.length = l := by
  induction l generalizing a with
  | nil => rfl
  | cons b r ih =>
    simp only [List.length_cons, Memory.read, List.cons.injEq]
    exact ⟨h 0 (by simp), ih (a + 1) fun i k => by have := h (i + 1) (by simpa using k); rw [show a + 1 + i = a + (i + 1) by omega]; simpa using this⟩

theorem read_congr (m n : List Host.Cell) (a k : Nat) (h : ∀ i, i < k → Memory.get m (a + i) = Memory.get n (a + i)) : Memory.read m a k = Memory.read n a k := by
  induction k generalizing a with
  | zero => rfl
  | succ k ih =>
    simp only [Memory.read]
    rw [show Memory.get m a = Memory.get n a from h 0 (by omega), ih (a + 1) fun i c => by have := h (i + 1) (by omega); rwa [show a + 1 + i = a + (i + 1) by omega]]

theorem read_write_same (m : List Host.Cell) (a : Nat) (l : List Byte) (w : Memory.wf m = true) : Memory.read (Memory.write m a l) a l.length = l :=
  read_eq _ _ _ fun _ k => Memory.get_write_of_inside w k

theorem read_write_other (m : List Host.Cell) (a b k : Nat) (l : List Byte) (w : Memory.wf m = true) (h : b + k ≤ a ∨ a + l.length ≤ b) :
    Memory.read (Memory.write m a l) b k = Memory.read m b k :=
  read_congr _ _ _ _ fun i c => Memory.get_write_of_outside w (by omega)

theorem read_prefix (m : List Host.Cell) (a : Nat) {n k : Nat} (h : n ≤ k) : Memory.read m a n = (Memory.read m a k).take n := by
  induction n generalizing a k with
  | zero => simp [Memory.read]
  | succ n ih =>
    obtain _ | k := k
    · omega
    · simp only [Memory.read, List.take_succ_cons]; rw [ih (a + 1) (k := k) (by omega)]

/-- The device's own reads give the bytes of a range that lies in one place (R251). -/
theorem deviceRead_eq (s : State) (part : Nat) (cid : BitVec 8) (va die loc n : Nat) (hz : (s.die die).poisoned = [])
    (h : ∀ i, i < n → locate s part cid (va + i) useData cid = .ok ⟨die, loc + i⟩) :
    deviceRead s part cid va n = .ok (Memory.read s.mem (hbmPlace die loc) n) := by
  induction n generalizing va loc with
  | zero => rfl
  | succ n ih =>
    have h0 := h 0 (by omega)
    have h1 := ih (va + 1) (loc + 1) fun i k => by have := h (i + 1) (by omega); rwa [show va + 1 + i = va + (i + 1) by omega, show loc + 1 + i = loc + (i + 1) by omega]
    simp only [Nat.add_zero] at h0
    simp only [deviceRead, h0, h1, spotPoisoned, hz, List.any_nil, Bool.false_eq_true, if_false, Memory.read, hbmPlace, Nat.add_assoc]

theorem rangeOf_congr (q : Quarter) {a b : Nat} (h : a / 2 ^ 25 = b / 2 ^ 25) : rangeOf q a = rangeOf q b := by unfold rangeOf; rw [h]

/-- The place of an address of a big page whose two tables are there (R247 to R253). -/
theorem locate_big (s : State) (cid : BitVec 8) (va mask h root e1 e2 loc : Nat)
    (hr : rangeOf (s.quarter 0) va = some (true, mask)) (hh : homeOf (true, mask) va = h) (hp : passes s 0 (quarterOf h) = true)
    (hroot : (s.die h).ptroot.get 0#64 cid.toNat = BitVec.ofNat 64 root) (hv : (BitVec.ofNat 64 root).getLsbD 0 = true)
    (h1 : tableEntry s h cid (((BitVec.ofNat 64 root).extractLsb' 15 21).toNat * 32768) (va / 2 ^ 40 % 4096) = .ok (BitVec.ofNat 64 e1))
    (c1 : (!(BitVec.ofNat 64 e1).getLsbD 0 || (BitVec.ofNat 64 e1).getLsbD 1 || !entryClean (BitVec.ofNat 64 e1) || decide (entryAddr (BitVec.ofNat 64 e1) % 2 ^ 18 ≠ 0)) = false)
    (h2 : tableEntry s h cid (entryAddr (BitVec.ofNat 64 e1)) (va / 2 ^ 25 % 32768) = .ok (BitVec.ofNat 64 e2))
    (c2 : (!(BitVec.ofNat 64 e2).getLsbD 0 || !entryClean (BitVec.ofNat 64 e2)) = false)
    (c3 : (!(BitVec.ofNat 64 e2).getLsbD 1 || decide (entryAddr (BitVec.ofNat 64 e2) % 2 ^ 25 ≠ 0)) = false)
    (hwin : (inPathWindow va || inControlWindow va) = false) (hf : s.pkg.fenced.getLsbD h = false) (hc : tlbEntry (s.die h) cid va true = none)
    (ht : (s.die h).translateFrame (entryAddr (BitVec.ofNat 64 e2) + va % 2 ^ 25) = loc) (ho : (s.die h).owns loc useData cid = true) :
    locate s 0 cid va useData cid = .ok ⟨h, loc⟩ := by
  have hw : walkTables s h cid va true = .ok (entryAddr (BitVec.ofNat 64 e2)) := by
    simp only [walkTables, hroot, hv, h1, c1, h2, c2, c3, Bool.not_true, Bool.false_eq_true, if_false, if_true]
  have htr : translate s h cid va true = .ok (entryAddr (BitVec.ofNat 64 e2) + va % 2 ^ 25) := by
    simp only [Machine.translate, hc, hw, pageBytes, Except.map, Bool.false_eq_true, if_false, if_true]
  simp only [locate, locateRaw, hwin, hf, hr, hh, hp, htr, ht, ho, Bool.not_true, Bool.false_eq_true, if_false, if_true, Except.map, Spot.current]

/-- A table entry whose frame holds tables of the tenant (R251, R253). -/
theorem tableEntry_ok (s : State) (cid : BitVec 8) (die table index loc : Nat) (e : Nat) (hz : (s.die die).poisoned = []) (hl : (s.die die).translateFrame (table + 8 * index) = loc)
    (ho : (s.die die).owns loc useTable cid = true) (hm : leNat (Memory.read s.mem (hbmPlace die loc) 8) = e) :
    tableEntry s die cid table index = .ok (BitVec.ofNat 64 e) := by simp [tableEntry, hz, hl, ho, hm]

/-! An image of one byte of text and one entry of one context. -/

/-- Its bytes, with an energy estimate in its entry, and a signature of the right form. -/
def imageBody (energy : Byte) : List Byte :=
  [0x31#8, 0x49#8, 0x4B#8, 0x53#8, 0#8, 0#8, 1#8, 0#8, 1#8, 0#8, 0#8, 0#8, 0#8, 0#8, 0#8, 0#8, 0#8, 0x10#8, 0#8, 0#8, 0#8, 0#8, 0#8, 0#8, 0#8, 0#8, 1#8] ++ List.replicate 229 0#8 ++
  ([1#8] ++ List.replicate 23 0#8 ++ [1#8] ++ List.replicate 39 0#8) ++
  ([1#8, 0#8, 1#8, 0#8, 0#8, 0#8, 4#8, 1#8, 0#8, 0#8, 0#8, 0#8, 0xFF#8, 0xFF#8] ++ List.replicate 10 0#8 ++ [energy] ++ List.replicate 3751 0#8)
def signature : List Byte := List.replicate 7 0#8 ++ [3#8] ++ List.replicate 2179 0#8 ++ [6#8] ++ List.replicate 320 0#8
@[irreducible] def image (energy : Byte) : List Byte := imageBody energy ++ signature

/-- What the reads of an image and its signature rest on. -/
structure WellSized (b : List Byte) : Prop where
  length : b.length = 6604
  len : numAt b 16 8 = 4096
  head : numAt (b.take 256) 16 8 = 4096
  sig : ((b.drop 4096).length = 2508 && beNat (((b.drop 4096).drop 4).take 4) = 3 && beNat (((b.drop 4096).drop 2184).take 4) = 6 && decide (beNat ((b.drop 4096).take 4) < 1024)) = true

theorem image_sized (energy : Byte) (h : energy = 1#8 ∨ energy = 0#8) : WellSized (image energy) := by
  rcases h with rfl | rfl <;> constructor <;> decide +kernel

/-- Its checks: none fails, for a launch of entry 0 and for a service binding; without an estimate the claims are refused. -/
theorem image_faults : (parseImage (image 1#8)).fault 0x10000 0 false = none ∧ (parseImage (image 1#8)).fault 0x10000 0 true = none ∧
    (parseImage (image 0#8)).fault 0x10000 0 false = some 6#8 ∧ (parseImage (image 0#8)).fault 0x10000 0 true = some 6#8 := by decide +kernel

/-! The state: the tenant's page of `mapped`, with the image at 0x11000 in it; its key at address 0 of the hypervisor's space, whose tables are in frames 0x10 and 0x14; the same image
in host memory at 0x100000; and a binding of service context 0 that is pending. -/

def hostAt : Nat := hostPlace 0 0x100000
def passState (m : List Host.Cell) (l : Launch) (u : List Held := []) : State :=
  { mapped with
    mem := m, held := u, ctxs := [], launches := [(2, l)], blocks := [(1, {})],
    dies := [(0, { ptroot := [(1, 0x40001#64), (255, 0x100001#64)],
                   frames := [(4, { own := 1#8, use := useTable }), (8, { own := 1#8, use := useTable }), (0x10, { own := 0xFF#8, use := useTable }), (0x14, { own := 0xFF#8, use := useTable }),
                              (0x201, { own := 1#8, use := useData }), (0x400, { own := 0xFF#8, use := useData })],
                   svc := [(0, { cfg := 0x8001000000000000#64, img := 0x11000#64, lb := 0x10000#64, pending := some 50 })] })] }
/-- A launch of that image from a host queue. -/
def passLaunch : Launch := { origin := .imageQueue 0 0x1000 0#32 true, quarter := 0, cid := 1#8, img := 0x100000, lbase := 0x10000, entry := 0, noload := true, ready := 50 }

/-- What its memory holds. -/
structure Holds (m : List Host.Cell) (b : List Byte) : Prop where
  t1 : leNat (Memory.read m 0x40000 8) = 0x80001
  t2 : leNat (Memory.read m 0x80000 8) = 0x2000003
  t3 : leNat (Memory.read m 0x100000 8) = 0x140001
  t4 : leNat (Memory.read m 0x140000 8) = 0x4000003
  dev : Memory.read m 0x2011000 6604 = b
  key : Memory.read m 0x4000000 56 = keyOf (b.take 4096) (b.drop 4096)
  host : Memory.read m hostAt 6604 = b

def tables : List Host.Cell := [(0x40000, 1#8), (0x40002, 8#8), (0x80000, 3#8), (0x80003, 2#8), (0x100000, 1#8), (0x100002, 0x14#8), (0x140000, 3#8), (0x140003, 4#8)]
/-- Such a memory: the tables, the image in the device, the key and the image in the host. -/
def passMem (b : List Byte) : List Host.Cell :=
  Memory.write (Memory.write (Memory.write tables 0x2011000 b) 0x4000000 (keyOf (b.take 4096) (b.drop 4096))) hostAt b

theorem passMem_holds (b : List Byte) (hb : b.length = 6604) : Holds (passMem b) b ∧ Memory.wf (passMem b) = true := by
  have w0 : Memory.wf tables = true := by decide
  have w1 := Memory.wf_write (a := 0x2011000) (l := b) w0
  have w2 := Memory.wf_write (a := 0x4000000) (l := keyOf (b.take 4096) (b.drop 4096)) w1
  have k := keyOf_length (b.take 4096) (b.drop 4096)
  have far : (0x5000000 : Nat) ≤ hostAt := by decide
  have low (a n : Nat) (h : a + n ≤ 0x2011000) : Memory.read (passMem b) a n = Memory.read tables a n := by
    rw [passMem, read_write_other _ _ _ _ _ w2 (by omega), read_write_other _ _ _ _ _ w1 (by omega), read_write_other _ _ _ _ _ w0 (by omega)]
  refine ⟨⟨?_, ?_, ?_, ?_, ?_, ?_, ?_⟩, Memory.wf_write w2⟩
  · rw [low _ _ (by omega)]; decide
  · rw [low _ _ (by omega)]; decide
  · rw [low _ _ (by omega)]; decide
  · rw [low _ _ (by omega)]; decide
  · rw [passMem, read_write_other _ _ _ _ _ w2 (by omega), read_write_other _ _ _ _ _ w1 (by omega), ← hb]
    exact read_write_same _ _ _ w0
  · rw [passMem, read_write_other _ _ _ _ _ w2 (by omega), ← k]; exact read_write_same _ _ _ w1
  · rw [passMem, ← hb]; exact read_write_same _ _ _ w2

theorem pass_quarter (m : List Host.Cell) (l : Launch) (u : List Held) : (passState m l u).quarter 0 = mapped.quarter 0 := rfl
theorem pass_die (m : List Host.Cell) (l : Launch) (u : List Held) : (passState m l u).die 0 = (passState [] passLaunch).die 0 := rfl
theorem pass_block (m : List Host.Cell) (l : Launch) (u : List Held) (q c : Nat) : (passState m l u).block q c = (passState [] passLaunch).block q c := rfl
theorem pass_mem (m : List Host.Cell) (l : Launch) (u : List Held) : (passState m l u).mem = m := rfl
theorem pass_fenced (m : List Host.Cell) (l : Launch) (u : List Held) : (passState m l u).pkg.fenced.getLsbD 0 = false := by
  show mapped.pkg.fenced.getLsbD 0 = false; decide +kernel
theorem pass_passes (m : List Host.Cell) (l : Launch) (u : List Held) : passes (passState m l u) 0 (quarterOf 0) = true := by unfold passes; rw [pass_quarter]; decide +kernel

/-- The tenant's page: addresses 0x10000 to 0x1FFFF. -/
theorem pass_locate {m : List Host.Cell} {b : List Byte} (hm : Holds m b) (l : Launch) (u : List Held) (i : Nat) (h : i < 0x10000) :
    locate (passState m l u) 0 1#8 (0x10000 + i) useData 1#8 = .ok ⟨0, 0x2010000 + i⟩ := by
  have z : (0x10000 + i) / 2 ^ 25 = 0 := by omega
  have z' : (0x10000 + i) / 2 ^ 40 % 4096 = 0 := by omega
  have f : (0x2000000 + (0x10000 + i) % 2 ^ 25) / 65536 = 0x201 := by omega
  refine locate_big _ _ _ 1 0 0x40001 0x80001 0x2000003 _ ((rangeOf_congr _ (b := 0) z).trans (by rw [pass_quarter]; decide +kernel)) ?_ (pass_passes _ _ _) (by rw [pass_die]; decide +kernel)
    (by decide) ?_ (by decide) ?_ (by decide) (by decide) (by simp [inPathWindow, inControlWindow]; omega) (pass_fenced _ _ _) (by rw [pass_die]; rfl) ?_ ?_
  · simp only [homeOf, pageOf, z, if_true]; decide +kernel
  · rw [z']; exact tableEntry_ok _ _ _ _ _ 0x40000 _ rfl (by rw [pass_die]; decide +kernel) (by rw [pass_die]; decide +kernel) hm.t1
  · rw [z]; exact tableEntry_ok _ _ _ _ _ 0x80000 _ rfl (by rw [pass_die]; decide +kernel) (by rw [pass_die]; decide +kernel) hm.t2
  · rw [show entryAddr (BitVec.ofNat 64 0x2000003) = 0x2000000 by decide, Die.translateFrame, f, pass_die, show ((passState [] passLaunch).die 0).current 0x201 = 0x201 by decide +kernel]
    omega
  · rw [Die.owns, show (0x2010000 + i) / 65536 = 0x201 by omega, pass_die]; decide +kernel

/-- The hypervisor's page, to the end of its first key. -/
theorem pass_locate_key {m : List Host.Cell} {b : List Byte} (hm : Holds m b) (l : Launch) (u : List Held) (i : Nat) (h : i < 56) :
    locate (passState m l u) 0 0xFF#8 (0 + i) useData 0xFF#8 = .ok ⟨0, 0x4000000 + i⟩ := by
  have z : (0 + i) / 2 ^ 25 = 0 := by omega
  have z' : (0 + i) / 2 ^ 40 % 4096 = 0 := by omega
  have f : (0x4000000 + (0 + i) % 2 ^ 25) / 65536 = 0x400 := by omega
  refine locate_big _ _ _ 1 0 0x100001 0x140001 0x4000003 _ ((rangeOf_congr _ (b := 0) z).trans (by rw [pass_quarter]; decide +kernel)) ?_ (pass_passes _ _ _) (by rw [pass_die]; decide +kernel)
    (by decide) ?_ (by decide) ?_ (by decide) (by decide) (by simp [inPathWindow, inControlWindow]; omega) (pass_fenced _ _ _) (by rw [pass_die]; rfl) ?_ ?_
  · simp only [homeOf, pageOf, z, if_true]; decide +kernel
  · rw [z']; exact tableEntry_ok _ _ _ _ _ 0x100000 _ rfl (by rw [pass_die]; decide +kernel) (by rw [pass_die]; decide +kernel) hm.t3
  · rw [z]; exact tableEntry_ok _ _ _ _ _ 0x140000 _ rfl (by rw [pass_die]; decide +kernel) (by rw [pass_die]; decide +kernel) hm.t4
  · rw [show entryAddr (BitVec.ofNat 64 0x4000003) = 0x4000000 by decide, Die.translateFrame, f, pass_die, show ((passState [] passLaunch).die 0).current 0x400 = 0x400 by decide +kernel]
    omega
  · rw [Die.owns, show (0x4000000 + i) / 65536 = 0x400 by omega, pass_die]; decide +kernel

theorem pass_keys {m : List Host.Cell} {b : List Byte} (hm : Holds m b) (l : Launch) (u : List Held) : tenantKeys (passState m l u) 0 1 = [keyOf (b.take 4096) (b.drop 4096)] := by
  have h := deviceRead_eq (passState m l u) 0 0xFF#8 0 0 0x4000000 56 rfl (pass_locate_key hm l u)
  rw [pass_mem, show hbmPlace 0 0x4000000 = 0x4000000 by decide, hm.key] at h
  rw [tenantKeys, pass_block, show ((passState [] passLaunch).block 0 1).akey = 0#64 by decide +kernel]
  simp only [show List.range (((0#64 : Word).extractLsb' 0 2).toNat + 1) = [0] by decide, show ((0#64 : Word).extractLsb' 6 46).toNat * 64 + 64 * 0 = 0 by decide,
    List.filterMap_cons, List.filterMap_nil, h]

theorem pass_signature {m : List Host.Cell} {b : List Byte} (hm : Holds m b) (hb : WellSized b) (l : Launch) (u : List Held) : signatureOk b (tenantKeys (passState m l u) 0 1) = true := by
  rw [pass_keys hm, signatureOk, hb.len, hb.length]
  simp only [List.any_cons, lmsVerify_keyOf _ _ hb.sig, Bool.true_or, Bool.and_true]
  decide

theorem pass_virtual {m : List Host.Cell} {b : List Byte} (hm : Holds m b) (hb : WellSized b) (l : Launch) (u : List Held) :
    readImage (virtualSource (passState m l u) 0 1#8 0x11000) = some b := by
  have rd (n : Nat) (hn : n ≤ 6604) : virtualSource (passState m l u) 0 1#8 0x11000 0 n = some (Memory.read m 0x2011000 n) := by
    have h := deviceRead_eq (passState m l u) 0 1#8 (0x11000 + 0) 0 0x2011000 n rfl fun i c => by
      have := pass_locate hm l u (0x1000 + i) (by omega)
      rwa [show 0x10000 + (0x1000 + i) = 0x11000 + 0 + i by omega, show 0x2010000 + (0x1000 + i) = 0x2011000 + i by omega] at this
    simp only [virtualSource, show effectiveCid 1#8 0x11000 = 1#8 by decide, h, pass_mem, show hbmPlace 0 0x2011000 = 0x2011000 by decide]
  rw [readImage, rd 256 (by omega), read_prefix _ _ (show 256 ≤ 6604 by omega), hm.dev]
  simp only [hb.head]
  rw [if_neg (by omega), show 4096 + signatureBytes = 6604 by decide, rd 6604 (by omega), hm.dev]

theorem pass_host {m : List Host.Cell} {b : List Byte} (hm : Holds m b) (hb : WellSized b) (h : Config.freeOrder 0 0 % 2 = 0) :
    readImage (launchSource (passState m passLaunch) passLaunch) = some b := by
  have rd (n : Nat) : launchSource (passState m passLaunch) passLaunch 0 n = some (Memory.read m hostAt n) := by
    show hostSource (passState m passLaunch) (portOf (mapped.vf 0)) 0x100000 0 n = _
    rw [show portOf (mapped.vf 0) = 0 by decide +kernel]
    exact if_pos ⟨List.mem_singleton.mpr rfl, h⟩
  rw [readImage, rd 256, read_prefix _ _ (show 256 ≤ 6604 by omega), hm.host]
  simp only [hb.head]
  rw [if_neg (by omega), show 4096 + signatureBytes = 6604 by decide, rd 6604, hm.host]

theorem pass_shot (m : List Host.Cell) (l : Launch) (u : List Held) (ps : List (Nat × List Byte)) :
    piecesShot (passState m l u) 0 ps = piecesShot (passState [] passLaunch) 0 ps := rfl
theorem pass_waits (m : List Host.Cell) (l : Launch) (w : Holder) (sp : List Spot) : deviceWaits (passState m l) w sp = deviceWaits (passState [] passLaunch) w sp := rfl

/-- ACCESSION_CHECK (R226, R354): a launch whose image cannot be read, its port being down; and, where the free value says that the host answers its read (log entry 2), one whose
signature is no key's, one whose claims are refused, and one that passes. -/
theorem test_hyp_AccessionChecks :
    (let s : State := { launching passLaunch with pkg := { mapped.pkg with hostUp := [] } }
     s.launches.find 2 = some passLaunch ∧ checkDue s 2 = true ∧ (readImage (launchSource s passLaunch)).isNone = true) ∧
    passLaunch.noload = true ∧ passLaunch.entry < 0x8000 ∧ passLaunch.lbase = 0x10000 ∧ passLaunch.entry = 0 ∧
    ∀ _ : Config.freeOrder 0 0 % 2 = 0, ∀ e, e = 1#8 ∨ e = 0#8 →
      let s := passState (passMem (image e)) passLaunch
      s.launches.find 2 = some passLaunch ∧ checkDue s 2 = true ∧ readImage (launchSource s passLaunch) = some (image e) ∧ signatureOk (image e) (tenantKeys s 0 1) = true ∧
      signatureOk (image e) [] = false ∧ (parseImage (image e)).fault 0x10000 0 false = if e = 1#8 then none else some 6#8 := by
  refine ⟨by decide +kernel, rfl, by decide, rfl, rfl, fun h e he => ?_⟩
  have hb := image_sized e he
  have hm := (passMem_holds _ hb.length).1
  generalize passMem (image e) = m at hm ⊢
  refine ⟨rfl, (by rw [checkDue]; rfl), pass_host hm hb h, pass_signature hm hb _ _, by simp [signatureOk], ?_⟩
  rcases he with rfl | rfl
  · exact image_faults.1
  · exact image_faults.2.2.1

/-- The device holds the sections of a service binding's image, and has held them for too long. -/
def passHeld : List Held := [⟨.svc 0 0, 0, 0, [], true⟩]

theorem pass_binding {m : List Host.Cell} {b : List Byte} (hm : Holds m b) (u : List Held) :
    bindDue (passState m passLaunch u) 0 0 = true ∧
    ((passState m passLaunch u).die 0).svcBlock 0 = ⟨0x8001000000000000#64, 0x11000#64, 0x10000#64, some 50⟩ ∧
    pieceHold (passState m passLaunch) 0 1#8 (.svc 0 0) [(0x10000, [0#8])] = .none ∧
    pieceHold (passState m passLaunch passHeld) 0 1#8 (.svc 0 0) [(0x10000, [0#8])] = .out ∧
    pieceFault (passState m passLaunch) 0 1#8 [(0x10000, [0#8])] = none := by
  have hl := pass_locate hm passLaunch [] 0 (by omega)
  simp only [Nat.add_zero] at hl
  refine ⟨?_, by rw [pass_die]; decide +kernel, ?_, by rw [pieceHold, if_pos (show heldOut (passState m passLaunch passHeld) (.svc 0 0) = true from rfl)], ?_⟩
  · rw [bindDue, pass_die]; exact (by decide +kernel : bindDue (passState [] passLaunch) 0 0 = true)
  · rw [pieceHold, if_neg (show ¬ heldOut (passState m passLaunch) (.svc 0 0) = true from Bool.false_ne_true), pass_shot, pass_waits]
    simp only [pieceTargets, pieceSpot, List.filterMap_cons, List.filterMap_nil, show effectiveCid 1#8 0x10000 = 1#8 by decide, hl]
    decide +kernel
  · simp only [pieceFault, pieceSpot, List.find?_cons, List.find?_nil, show effectiveCid 1#8 0x10000 = 1#8 by decide, hl]; rfl

/-- SVC_BIND and SVC_UNBIND (R350, R351): a binding that is due, whose image passes, whose claims are refused, and whose signature is no key's; one whose sections the device has
held for too long; and one whose image cannot be read. -/
theorem test_hyp_ServiceBindings :
    (bindDue (passState [] passLaunch) 0 0 = true ∧ (readImage (virtualSource (passState [] passLaunch) 0 1#8 0x11000)).isNone = true) ∧
    (parseImage (image 1#8)).pieceList 0x10000 = [(0x10000, [0#8])] ∧
    ∀ e, e = 1#8 ∨ e = 0#8 → ∃ s : List Held → State, (∀ u, bindDue (s u) 0 0 = true ∧
        ((s u).die 0).svcBlock 0 = ⟨0x8001000000000000#64, 0x11000#64, 0x10000#64, some 50⟩ ∧ readImage (virtualSource (s u) 0 1#8 0x11000) = some (image e) ∧
        signatureOk (image e) (tenantKeys (s u) 0 1) = true) ∧
      pieceHold (s []) 0 1#8 (.svc 0 0) [(0x10000, [0#8])] = .none ∧ pieceHold (s passHeld) 0 1#8 (.svc 0 0) [(0x10000, [0#8])] = .out ∧
      pieceFault (s []) 0 1#8 [(0x10000, [0#8])] = none ∧ signatureOk (image e) [] = false ∧
      (parseImage (image e)).fault 0x10000 0 true = if e = 1#8 then none else some 6#8 := by
  refine ⟨by decide +kernel, by decide +kernel, fun e he => ?_⟩
  have hb := image_sized e he
  have hm := (passMem_holds _ hb.length).1
  have h (u : List Held) := pass_binding hm u
  refine ⟨fun u => passState (passMem (image e)) passLaunch u, fun u => ⟨(h u).1, (h u).2.1, pass_virtual hm hb _ _, pass_signature hm hb _ _⟩,
    (h []).2.2.1, (h []).2.2.2.1, (h []).2.2.2.2, by simp [signatureOk], ?_⟩
  rcases he with rfl | rfl
  · exact image_faults.2.1
  · exact image_faults.2.2.2

end Sys2Proof.Tests
end

section
/-!
What reset leaves (R194, R315, R319, R337, R340, R346, R365; that PTB is 0 and that no byte is listed are the model's choices, log entries 4 and 5).
-/
namespace Sys2Proof.Machine

@[simp] theorem State.reset_ctx (k : Nat) : State.reset.ctx k = {} := rfl
@[simp] theorem State.reset_core (c : Nat) : State.reset.core c = {} := rfl
@[simp] theorem State.reset_die (d : Nat) : State.reset.die d = {} := rfl
@[simp] theorem State.reset_quarter (q : Nat) : State.reset.quarter q = {} := rfl
@[simp] theorem State.reset_lane (n : Nat) : State.reset.lane n = {} := rfl

/-- Settles O58: every table is empty after reset, so that each of its entries reads as its reset value. -/
theorem stateAfterReset : Obligations.StateAfterReset := by
  unfold Obligations.StateAfterReset
  dsimp only
  refine ⟨rfl, rfl, fun k => ?contexts, fun c b => ?barriers, fun d => ?weights, fun q => ?quarters, rfl, rfl, rfl, rfl, fun n => ?lanes⟩
  case contexts => rw [State.reset_ctx]; exact ⟨rfl, rfl, rfl, fun m => rfl⟩
  case barriers => rw [State.reset_core]; rfl
  case weights => rw [State.reset_die]; decide
  case quarters => rw [State.reset_quarter]; exact ⟨rfl, rfl, rfl, rfl, rfl⟩
  case lanes => rw [State.reset_lane]; exact ⟨rfl, rfl⟩

end Sys2Proof.Machine
end

section
/-!
The children of a task: taken from the own deque, or stolen from another of the cluster (R15, R204, R232).
-/
namespace Sys2Proof.Machine

/-- What a context does when a child begins in it (R15, R204): RUN at the child's entry with its arguments in s1 to s4 and every slot idle; the rest as its HALT left it. -/
def Ctx.RunsChild (c d : Ctx) (ch : Child) : Prop :=
  d.mode = .run ∧ d.pc = ch.entry ∧ d.repleft = 0 ∧ d.slots = [] ∧ d.child = some ch.parent ∧ d.steal = none ∧
  (∀ k, k < 4 → d.sreg (k + 1) = ch.args.getD k 0#64) ∧ (∀ r, 5 ≤ r → d.sreg r = c.sreg r) ∧ d.v = c.v ∧ d.h = c.h ∧ d.acc = c.acc

/-- The scalar registers of a context that begins a child: s1 to s4 are written, and no other. -/
theorem Ctx.sreg_runChild (c : Ctx) (ch : Child) (r : Nat) :
    (c.runChild ch).sreg r = if r = 0 then 0#64 else if r < 5 then ch.args.getD (r - 1) 0#64 else c.sreg r := by
  match r with
  | 0 => rfl
  | 1 | 2 | 3 | 4 => simp [Ctx.sreg, Ctx.runChild, List.range_succ, Sparse.get_set]
  | r + 5 => simp [Ctx.sreg, Ctx.runChild, List.range_succ, Sparse.get_set]

theorem Ctx.runsChild_runChild (c : Ctx) (ch : Child) : c.RunsChild (c.runChild ch) ch := by
  refine ⟨rfl, rfl, rfl, rfl, rfl, rfl, fun k hk => ?_, fun r hr => ?_, rfl, rfl, rfl⟩
  · simp [Ctx.sreg_runChild, hk]
  · rw [Ctx.sreg_runChild, if_neg (by omega), if_neg (by omega)]

/-- The state in which the child `ch`, gone from the deque of the core `v`, has begun in a context. -/
def State.childBegun (s : State) (key v : Nat) (rest : List Child) (ch : Child) : State :=
  { s with cores := s.cores.set v { s.core v with deque := rest }, ctxs := s.ctxs.set key ((s.ctx key).runChild ch) }

theorem State.childBegun_ctx (s : State) (key v : Nat) (rest : List Child) (ch : Child) :
    (s.childBegun key v rest ch).ctx key = (s.ctx key).runChild ch :=
  Sparse.get_set_self ..

theorem exec_childTake (key : Nat) (s : State) : exec (.childTake key) s = done (takeChild key) s := rfl
theorem exec_stealComplete (key : Nat) (s : State) : exec (.stealComplete key) s = done (completeSteal key) s := rfl

section
variable {s : State} {key t : Nat}

/-- The own deque comes first (R204): its newest child of the task begins. -/
theorem exec_childTake_own (hk : takesChildren s key = true) (ht : (s.ctx key).task = some t) {ch : Child}
    (hc : (s.core (coreOf key)).deque.find? (fun x => x.task = t) = some ch) :
    exec (.childTake key) s = .next (s.childBegun key (coreOf key) ((s.core (coreOf key)).deque.erase ch) ch) := by
  rw [exec_childTake, done_eq]
  simp only [takeChild, hk, ht, Option.getD_some, hc, Bool.not_true, Bool.false_eq_true, if_false, applyAll_seq]
  rfl

/-- With no child in the own deque and stealing on, a steal of 16 cycles begins from the first deque of the ring that holds one (R204). -/
theorem exec_childTake_steal (hk : takesChildren s key = true) (ht : (s.ctx key).task = some t)
    (hown : (s.core (coreOf key)).deque.find? (fun x => x.task = t) = none) (hdet : (s.ctx key).det = false) {v : Nat}
    (hv : (ringFrom (coreOf key)).find? (fun v => (s.core v).deque.any (·.task = t)) = some v) :
    exec (.childTake key) s = .next { s with ctxs := s.ctxs.set key { s.ctx key with steal := some ⟨v, s.now + 16⟩ } } := by
  have htake : takeChild key s = modCtx key (fun c => { c with steal := some ⟨v, s.now + 16⟩ }) s := by
    simp only [takeChild, hk, ht, Option.getD_some, hown, hdet, hv, Bool.not_true, Bool.false_eq_true, if_false]
  rw [exec_childTake, done_eq, htake]
  rfl

/-- The first deque of the ring that holds a child of the task, where the ring is written out around it. -/
theorem ringFrom_find_of_split {core v : Nat} {a b : List Nat} (hring : ringFrom core = a ++ v :: b)
    (ha : ∀ w ∈ a, ∀ ch ∈ (s.core w).deque, ch.task ≠ t) (hv : ∃ ch ∈ (s.core v).deque, ch.task = t) :
    (ringFrom core).find? (fun v => (s.core v).deque.any (·.task = t)) = some v := by
  rw [List.find?_eq_some_iff_append]
  exact ⟨by simpa using hv, a, b, hring, fun w hw => by simpa using ha w hw⟩

/-- The children of the task that may be stolen from a deque, the oldest first: the thief's place among those of the cycle picks its own. -/
theorem getElem?_filter_reverse_of_split {α : Type} (p : α → Bool) (a b : List α) {x : α} (hx : p x = true) :
    ((a ++ x :: b).reverse.filter p)[(b.filter p).length]? = some x := by
  simp [List.filter_append, List.filter_reverse, hx]

/-- The last occurrence of a member is what erasing it from behind removes. -/
theorem reverse_erase_reverse_of_split {α : Type} [BEq α] [LawfulBEq α] (a b : List α) {x : α} (hx : x ∉ b) :
    ((a ++ x :: b).reverse.erase x).reverse = a ++ b := by
  have h : x ∉ b.reverse := by simpa using hx
  simp [List.erase_append_right _ h]

variable {x : Steal}

/-- A steal that is over takes the child at the thief's place from the tail (R204). -/
theorem exec_stealComplete_takes (hs : (s.ctx key).steal = some x) (hd : x.done ≤ s.now) (ht : (s.ctx key).task = some t)
    (hm : (s.ctx key).mode = .halted) {a b : List Child} {ch : Child} (hq : (s.core x.victim).deque = a ++ ch :: b) (hch : ch.task = t)
    (hn : (b.filter fun y => y.task = t).length = nearerThieves s key x.victim (some t)) (hb : ch ∉ b) :
    exec (.stealComplete key) s = .next (s.childBegun key x.victim (a ++ b) ch) := by
  have hpick := getElem?_filter_reverse_of_split (fun y : Child => decide (some t = some y.task)) a b (x := ch) (by simp [hch])
  have hn' : (b.filter fun y => decide (some t = some y.task)).length = nearerThieves s key x.victim (some t) := by
    simpa [eq_comm] using hn
  rw [hn'] at hpick
  rw [exec_stealComplete, done_eq]
  simp only [completeSteal, hs, ht, hm, hq, hpick, not_lt.mpr hd, ne_eq, not_true_eq_false, or_self, if_false, applyAll_seq, modCore,
    reverse_erase_reverse_of_split a b hb]
  rfl

/-- A steal that finds no child left for it ends without one (R204). -/
theorem exec_stealComplete_none (hs : (s.ctx key).steal = some x) (hd : x.done ≤ s.now) (ht : (s.ctx key).task = some t)
    (hm : (s.ctx key).mode = .halted)
    (hn : ((s.core x.victim).deque.filter fun y => y.task = t).length ≤ nearerThieves s key x.victim (some t)) :
    exec (.stealComplete key) s = .next { s with ctxs := s.ctxs.set key { s.ctx key with steal := none } } := by
  have hpick : ((s.core x.victim).deque.reverse.filter fun y => decide (some t = some y.task))[nearerThieves s key x.victim (some t)]? = none := by
    rw [List.getElem?_eq_none_iff, List.filter_reverse, List.length_reverse]
    simpa [eq_comm] using hn
  have hsteal : completeSteal key s = modCtx key (fun c => { c with steal := none }) s := by
    simp only [completeSteal, hs, ht, hm, hpick, not_lt.mpr hd, ne_eq, not_true_eq_false, or_self, if_false]
  rw [exec_stealComplete, done_eq, hsteal]
  rfl

end

/-- An event that begins a child changes the deque that held it and the context that it runs in, and nothing else. -/
theorem answers_of_childBegun {i : Instr} {s : State} {key v : Nat} {rest : List Child} {ch : Child}
    (h : exec i s = .next (s.childBegun key v rest ch)) :
    Answers i s fun u => u = { s with cores := s.cores.set v { s.core v with deque := rest }, ctxs := s.ctxs.set key (u.ctx key) } ∧
      (s.ctx key).RunsChild (u.ctx key) ch := by
  refine ⟨_, h, ?_, ?_⟩ <;> rw [State.childBegun_ctx]
  · rfl
  · exact Ctx.runsChild_runChild _ _

/-- CHILD_TAKE and STEAL_COMPLETE, put together (R15, R204, R232). -/
theorem childrenTaken : Clause.ChildrenTaken := by
  refine ⟨fun key t s hk ht => ⟨fun ch hc => ?own, fun a v b hown hdet hring ha hv => ?steal⟩,
    fun key t s x hs hd ht hm => ⟨fun a ch b hq hch hn hb => ?takes, exec_stealComplete_none hs hd ht hm⟩⟩
  case own => exact answers_of_childBegun (exec_childTake_own hk ht hc)
  case steal => exact exec_childTake_steal hk ht (by simpa using hown) hdet (ringFrom_find_of_split hring ha hv)
  case takes => exact answers_of_childBegun (exec_stealComplete_takes hs hd ht hm hq hch hn hb)

end Sys2Proof.Machine
end

section
/-!
The priority queue of a die (R206, R207, R233, R234): what arrives at it, the order of its entries, and the claim that is served.
-/
namespace Sys2Proof.Machine

/-! Arrivals. -/

theorem length_numberEntries (n : Nat) (l : List PqEntry) : (numberEntries n l).length = l.length := by
  induction l generalizing n with
  | nil => rfl
  | cons e r ih => simp [numberEntries, ih]

theorem getElem?_numberEntries (n : Nat) (l : List PqEntry) (k : Nat) :
    (numberEntries n l)[k]? = l[k]?.map fun e => { e with order := n + k } := by
  induction l generalizing n k with
  | nil => rfl
  | cons e r ih =>
    cases k with
    | zero => rfl
    | succ k => simp [numberEntries, ih, Nat.add_right_comm, Nat.add_assoc]

/-- A numbered entry is one of the entries, but for its number. -/
theorem mem_of_mem_numberEntries {n : Nat} {l : List PqEntry} {x : PqEntry} (h : x ∈ numberEntries n l) :
    ∃ e ∈ l, x = { e with order := x.order } := by
  obtain ⟨k, hk⟩ := List.mem_iff_getElem?.mp h
  rw [getElem?_numberEntries, Option.map_eq_some_iff] at hk
  obtain ⟨e, he, rfl⟩ := hk
  exact ⟨e, List.mem_of_getElem? he, rfl⟩

/-- Every entry is numbered. -/
theorem mem_numberEntries_of_mem {n : Nat} {l : List PqEntry} {e : PqEntry} (h : e ∈ l) :
    ∃ x ∈ numberEntries n l, x = { e with order := x.order } := by
  obtain ⟨k, hk⟩ := List.mem_iff_getElem?.mp h
  exact ⟨{ e with order := n + k }, List.mem_of_getElem? (i := k) (by rw [getElem?_numberEntries, hk]; rfl), rfl⟩

theorem order_of_getElem?_numberEntries {n : Nat} {l : List PqEntry} {k : Nat} {x : PqEntry} (h : (numberEntries n l)[k]? = some x) :
    x.order = n + k := by
  rw [getElem?_numberEntries, Option.map_eq_some_iff] at h
  obtain ⟨e, -, rfl⟩ := h
  rfl

/-- The moves that reach the queue on a cycle, in the order that the free value gives: the cores from the pivot on come first (log entry 2). -/
def Die.dueMoves (d : Die) (now pivot : Nat) : List PqMove :=
  let due := d.pqMoves.filter fun m => decide (m.due ≤ now) && !m.here
  due.filter (fun m => decide (pivot ≤ coreOf m.ctx)) ++ due.filter (fun m => decide (coreOf m.ctx < pivot))

theorem Die.mem_dueMoves (d : Die) (now pivot : Nat) (m : PqMove) :
    m ∈ d.dueMoves now pivot ↔ m ∈ d.pqMoves ∧ m.due ≤ now ∧ m.here = false := by
  have := Nat.lt_or_ge (coreOf m.ctx) pivot
  simp only [Die.dueMoves, List.mem_append, List.mem_filter, Bool.and_eq_true, decide_eq_true_eq, Bool.not_eq_true']
  tauto

/-- The entries of the pushes that reach the queue on a cycle, with their numbers (R206). -/
def Die.newEntries (d : Die) (now pivot : Nat) : List PqEntry := numberEntries d.pqOrder ((d.dueMoves now pivot).filterMap (·.push))

theorem Die.mem_duePushes (d : Die) (now pivot : Nat) (e : PqEntry) :
    e ∈ (d.dueMoves now pivot).filterMap (·.push) ↔ ∃ m, m ∈ d.pqMoves ∧ (m.due ≤ now ∧ m.here = false) ∧ m.push = some e := by
  simp only [List.mem_filterMap, Die.mem_dueMoves, and_assoc]

/-- The moves after an arrival: the claims that waited, those that reach the queue and wait from now on, and all that is still on its way. -/
def Die.movesLeft (d : Die) (now pivot : Nat) : List PqMove :=
  d.pqMoves.filter (·.here) ++ (((d.dueMoves now pivot).filter (·.push.isNone)).map fun m => { m with here := true }) ++
    d.pqMoves.filter fun m => decide (now < m.due) && !m.here

theorem Die.mem_movesLeft_of_claim {d : Die} {now : Nat} (pivot : Nat) {m : PqMove} (h : m ∈ d.pqMoves) (hd : m.due ≤ now ∧ m.here = false)
    (hc : m.push = none) : { m with here := true } ∈ d.movesLeft now pivot := by
  have hm : m ∈ d.dueMoves now pivot := (d.mem_dueMoves now pivot m).mpr ⟨h, hd⟩
  exact List.mem_append_left _ (List.mem_append_right _ (List.mem_map.mpr ⟨m, List.mem_filter.mpr ⟨hm, by simp [hc]⟩, rfl⟩))

theorem Die.mem_movesLeft_of_not_due {d : Die} {now : Nat} (pivot : Nat) {m : PqMove} (h : m ∈ d.pqMoves)
    (hd : ¬ (m.due ≤ now ∧ m.here = false)) : m ∈ d.movesLeft now pivot := by
  cases hh : m.here with
  | true => exact List.mem_append_left _ (List.mem_append_left _ (List.mem_filter.mpr ⟨h, hh⟩))
  | false =>
    have : now < m.due := by simpa [hh] using hd
    exact List.mem_append_right _ (List.mem_filter.mpr ⟨h, by simp [hh, this]⟩)

/-- What the arrivals of a cycle make of a die. -/
def Die.arrived (d : Die) (now pivot : Nat) : Die :=
  { d with pq := d.pq ++ d.newEntries now pivot, pqOrder := d.pqOrder + (d.newEntries now pivot).length, pqMoves := d.movesLeft now pivot }

/-- The state after the arrivals of a cycle at a die. -/
def State.pqArrived (s : State) (die : Nat) : State :=
  { s with free := s.free + 1, dies := s.dies.set die ((s.die die).arrived s.now (Config.freeNat s.free % 2304)) }

theorem State.pqArrived_die (s : State) (die : Nat) :
    (s.pqArrived die).die die = (s.die die).arrived s.now (Config.freeNat s.free % 2304) :=
  Sparse.get_set_self ..

theorem exec_pqArrival (die : Nat) (s : State) : exec (.pqArrival die) s = .next (s.pqArrived die) := by
  rw [State.pqArrived, Die.arrived, Die.newEntries, length_numberEntries]
  rfl

/-! The order of the entries. -/

/-- The place that a ticket gives among equal keys: no ticket comes last (R207, log entry 43). -/
def ticketPlace : Option (Nat × Nat) → WithTop (Nat ×ₗ Nat)
  | some x => (toLex x : Nat ×ₗ Nat)
  | none => ⊤

/-- The place of an entry in its queue: its key, then its ticket, then its number (R206, R207, R234). -/
def PqEntry.place (e : PqEntry) : Nat ×ₗ WithTop (Nat ×ₗ Nat) ×ₗ Nat := toLex (e.key.toNat, toLex (ticketPlace e.ticket, e.order))

theorem PqEntry.before_of_key_ne {a b : PqEntry} (h : a.key ≠ b.key) : a.before b = decide (a.key.toNat < b.key.toNat) := by
  rw [PqEntry.before, if_pos h]

/-- Entries of equal keys stand in the order of their tickets, and those of equal tickets in the order of their numbers. -/
theorem PqEntry.before_iff_of_key_eq {a b : PqEntry} (h : a.key = b.key) :
    a.before b = true ↔ toLex (ticketPlace a.ticket, a.order) < toLex (ticketPlace b.ticket, b.order) := by
  rw [PqEntry.before, if_neg (not_not.mpr h), Prod.Lex.toLex_lt_toLex]
  rcases a.ticket with _ | x <;> rcases b.ticket with _ | y
  · simp
  · simp [ticketPlace]
  · simp [ticketPlace]
  · by_cases hxy : x = y <;> simp [ticketPlace, hxy, Prod.Lex.toLex_lt_toLex]

theorem PqEntry.before_iff_place_lt (a b : PqEntry) : a.before b = true ↔ a.place < b.place := by
  rw [PqEntry.place, PqEntry.place, Prod.Lex.toLex_lt_toLex]
  by_cases h : a.key = b.key
  · simp [PqEntry.before_iff_of_key_eq h, h]
  · have hn : a.key.toNat ≠ b.key.toNat := fun e => h (BitVec.eq_of_toNat_eq e)
    simp [PqEntry.before_of_key_ne h, hn]

theorem PqEntry.before_of_key_lt {a b : PqEntry} (h : a.key.toNat < b.key.toNat) : a.before b = true ∧ b.before a = false := by
  have hne : a.key ≠ b.key := fun e => absurd h (by simp [e])
  rw [PqEntry.before_of_key_ne hne, PqEntry.before_of_key_ne hne.symm]
  exact ⟨decide_eq_true h, decide_eq_false h.asymm⟩

theorem PqEntry.before_of_no_tickets {a b : PqEntry} (h : a.key = b.key) (ha : a.ticket = none) (hb : b.ticket = none) :
    a.before b = decide (a.order < b.order) := by
  simp only [PqEntry.before, h, ha, hb, ne_eq, not_true_eq_false, if_false]

theorem PqEntry.before_of_tickets {a b : PqEntry} {x y : Nat × Nat} (h : a.key = b.key) (ha : a.ticket = some x) (hb : b.ticket = some y)
    (hxy : x ≠ y) : a.before b = decide (x.1 < y.1 ∨ (x.1 = y.1 ∧ x.2 < y.2)) := by
  simp [PqEntry.before, h, ha, hb, hxy]

/-- An entry that no other of its tenant precedes: where a tenant has an entry, it has one of rank 0 (R234). -/
theorem exists_rankOf_eq_zero {l : List PqEntry} {e : PqEntry} (he : e ∈ l) : ∃ x ∈ l, x.cid = e.cid ∧ rankOf l x = 0 := by
  obtain ⟨x, hx, hmin⟩ := (l.filter fun x => x.cid = e.cid).toFinset.exists_min_image PqEntry.place ⟨e, by simp [he]⟩
  simp only [List.mem_toFinset, List.mem_filter, decide_eq_true_eq] at hx hmin
  refine ⟨x, hx.1, hx.2, ?_⟩
  rw [rankOf, List.length_eq_zero_iff, List.filter_eq_nil_iff]
  intro y hy h
  obtain ⟨hcid, hbefore⟩ : y.cid = x.cid ∧ y.before x = true := by simpa using h
  exact absurd ((PqEntry.before_iff_place_lt y x).mp hbefore) (hmin y ⟨hy, hcid.trans hx.2⟩).not_gt

/-! The claim that is served. -/

/-- The entries that a claim may remove: those of its CID whose rank is below the window, 1 for a DET context (R207, R234). -/
def claimable (s : State) (die : Nat) (m : PqMove) : List PqEntry :=
  (s.die die).pq.filter fun e => e.cid = m.cid && decide (rankOf (s.die die).pq e < if m.det then 1 else relaxation s die)

theorem mem_claimable {s : State} {die : Nat} {m : PqMove} {e : PqEntry} : e ∈ claimable s die m ↔
    e ∈ (s.die die).pq ∧ e.cid = m.cid ∧ rankOf (s.die die).pq e < if m.det then 1 else relaxation s die := by
  simp [claimable]

/-- A claim that is served has an entry of its CID at the queue. -/
theorem exists_entry_of_servable {s : State} {d : Die} {m : PqMove} (h : servable s d = some m) : ∃ e ∈ d.pq, e.cid = m.cid := by
  have hm := List.find?_some h
  simp only [Bool.and_eq_true, List.any_eq_true, decide_eq_true_eq] at hm
  obtain ⟨⟨-, hentry⟩, -⟩ := hm
  exact hentry

theorem claimable_ne_nil {s : State} {die : Nat} {m : PqMove} (h : servable s (s.die die) = some m) : claimable s die m ≠ [] := by
  obtain ⟨e, he, hc⟩ := exists_entry_of_servable h
  obtain ⟨x, hx, hxc, hr⟩ := exists_rankOf_eq_zero he
  have hw : 0 < if m.det then 1 else relaxation s die := by split <;> simp [relaxation]
  exact List.ne_nil_of_mem (mem_claimable.mpr ⟨hx, hxc.trans hc, hr ▸ hw⟩)

/-- The free value of a claim picks one of the entries that it may remove. -/
theorem exists_claimed {s : State} {die : Nat} {m : PqMove} (h : servable s (s.die die) = some m) (n : Nat) :
    ∃ e ∈ claimable s die m, (claimable s die m)[n % (claimable s die m).length]? = some e := by
  have hlt := Nat.mod_lt n (List.length_pos_of_ne_nil (claimable_ne_nil h))
  exact ⟨_, List.getElem_mem hlt, List.getElem?_eq_getElem hlt⟩

theorem exec_pqClaimServe {s : State} {die : Nat} {m : PqMove} (h : servable s (s.die die) = some m) {e : PqEntry}
    (he : (claimable s die m)[Config.freeNat s.free % (claimable s die m).length]? = some e) :
    exec (.pqClaimServe die) s = .next { s with
      free := s.free + 2,
      dies := s.dies.set die { s.die die with pq := (s.die die).pq.erase e, pqMoves := (s.die die).pqMoves.erase m },
      ctxs := s.ctxs.set m.ctx { s.ctx m.ctx with
        pending := (s.ctx m.ctx).pending.map (serveClaim m.id e (max (m.due + 8) s.now + Config.freeNat (s.free + 1))) } } := by
  rw [show exec (.pqClaimServe die) s = done (servePq die) s from rfl, done_eq]
  simp only [servePq, h, withFree, applyAll_seq]
  split
  case h_1 hnone => cases he.symm.trans hnone
  case h_2 x hx =>
    cases he.symm.trans hx
    rfl

/-- PQ_ARRIVAL, PQ_CLAIM_SERVE and the order of the entries, put together (R206, R207, R233, R234). -/
theorem priorityQueueService : Clause.PriorityQueueService := by
  refine ⟨fun die s => ⟨_, exec_pqArrival die s, ?arrival⟩, fun die s m h => ?serve,
    fun _ _ => ⟨PqEntry.before_of_key_lt, PqEntry.before_of_no_tickets, fun _ _ => PqEntry.before_of_tickets⟩⟩
  case arrival =>
    simp only [State.pqArrived_die]
    refine ⟨rfl, rfl, ⟨(s.die die).newEntries s.now _, rfl, rfl, fun k e => order_of_getElem?_numberEntries, fun m e hm hd he => ?pushed,
      fun x hx => ?new⟩, fun m hm => ⟨Die.mem_movesLeft_of_claim _ hm, Die.mem_movesLeft_of_not_due _ hm⟩⟩
    case pushed => exact mem_numberEntries_of_mem ((Die.mem_duePushes _ _ _ e).mpr ⟨m, hm, hd, he⟩)
    case new =>
      obtain ⟨e, he, hx⟩ := mem_of_mem_numberEntries hx
      obtain ⟨m, hm, hd, he⟩ := (Die.mem_duePushes _ _ _ e).mp he
      exact ⟨m, e, hm, hd, he, hx⟩
  case serve =>
    obtain ⟨e, hmem, he⟩ := exists_claimed h (Config.freeNat s.free)
    obtain ⟨hpq, hcid, hrank⟩ := mem_claimable.mp hmem
    exact ⟨e, _, hpq, hcid, hrank, by omega, by omega, exec_pqClaimServe h he⟩

/-- Settles O43: the children of a task (R204, R232) and the priority queue of a die (R206, R207, R233, R234). -/
theorem childrenAndClaims : Obligations.ChildrenAndClaims := ⟨childrenTaken, priorityQueueService⟩

end Sys2Proof.Machine
end

section
/-!
The bytes of a bundle and their decoding: little-endian words (R4), a bundle of one slot word (R45 to R47), and the slot word of an operation
(R58 to R60, R71 to R75).
-/
namespace Sys2Proof

/-! The words of bytes. -/

theorem length_leBytes (x n : Nat) : (Machine.leBytes x n).length = n := by
  induction n generalizing x with
  | zero => rfl
  | succ n ih => rw [Machine.leBytes, List.length_cons, ih]

@[simp] theorem length_wordBytes (w : Word) (n : Nat) : (Machine.wordBytes w n).length = n := length_leBytes ..

/-- The first byte of a word is its lowest (R4). -/
theorem toNat_wordOfBytes_cons {b : Byte} {bs : List Byte} (h : (wordOfBytes bs).toNat < 2 ^ 56) :
    (wordOfBytes (b :: bs)).toNat = 2 ^ 8 * (wordOfBytes bs).toNat + b.toNat := by
  have hb : (b.setWidth 64).toNat = b.toNat := BitVec.toNat_setWidth_of_le (by decide)
  have hs : (wordOfBytes bs).toNat <<< 8 < 2 ^ 64 := by rw [Nat.shiftLeft_eq]; omega
  rw [show wordOfBytes (b :: bs) = wordOfBytes bs <<< 8 ||| b.setWidth 64 from rfl, BitVec.toNat_or, BitVec.toNat_shiftLeft, Nat.mod_eq_of_lt hs,
    hb, Nat.shiftLeft_eq, Nat.mul_comm, Nat.two_pow_add_eq_or_of_lt b.isLt]

theorem toNat_wordOfBytes_leBytes {n : Nat} (x : Nat) (h : n ≤ 8) : (wordOfBytes (Machine.leBytes x n)).toNat = x % 2 ^ (8 * n) := by
  induction n generalizing x with
  | zero => simp [Machine.leBytes, wordOfBytes, Nat.mod_one]
  | succ n ih =>
    have ht := ih (x / 256) (by omega)
    have hlt : (wordOfBytes (Machine.leBytes (x / 256) n)).toNat < 2 ^ 56 :=
      ht ▸ (Nat.mod_lt _ (by positivity)).trans_le (Nat.pow_le_pow_right (by decide) (by omega))
    rw [Machine.leBytes, toNat_wordOfBytes_cons hlt, ht, BitVec.toNat_ofNat, show 8 * (n + 1) = 8 + 8 * n by omega, pow_add, Nat.mod_mul,
      Nat.add_comm, show x / 256 = x / 2 ^ 8 from rfl]

@[simp] theorem wordOfBytes_wordBytes (w : Word) : wordOfBytes (Machine.wordBytes w 8) = w :=
  BitVec.eq_of_toNat_eq ((toNat_wordOfBytes_leBytes w.toNat (by decide)).trans (Nat.mod_eq_of_lt w.isLt))

theorem wordsOfBytes_wordBytes_append (n : Nat) (w : Word) (bs : List Byte) :
    wordsOfBytes (n + 1) (Machine.wordBytes w 8 ++ bs) = w :: wordsOfBytes n bs := by
  rw [wordsOfBytes, List.take_left' (length_wordBytes w 8), List.drop_left' (length_wordBytes w 8), wordOfBytes_wordBytes]

/-! A bundle of one slot word. -/

/-- The header of a bundle that names slot k alone, in a form that R46 calls legal. -/
structure Header.Solo (h : Header) (k : Nat) : Prop where
  kind : h.kind = 0#3
  present : h.p = Machine.slotBit k
  disjoint : h.p &&& h.q = 0#7
  resv : h.resv = 0#2
  broadcast : h.be = 0#1 → h.bsrc = 0#6

theorem slotWords_of_present {h : Header} {k : Nat} (hp : h.p = Machine.slotBit k) (hk : k < 7) (w : Word) (r : List Word) :
    slotWords h (w :: r) = [(k, w)] := by
  have hone : ∀ k < 7, (List.range 7).filter (fun j => (Machine.slotBit k).getLsbD (6 - j)) = [k] := by decide
  rw [slotWords, show h.present = fun j => (Machine.slotBit k).getLsbD (6 - j) from funext fun j => by rw [Header.present, hp], hone k hk]
  rfl

/-- What the decoder reads from a bundle of one slot word, whatever bytes follow (R46, R47). -/
theorem decodeBytes_eq_some_iff {hw : Word} {k : Nat} (hp : (Header.ofWord hw).p = Machine.slotBit k) (hk : k < 7) (w : Word) (rest : List Byte)
    (i : Instr) : decodeBytes (Machine.wordBytes hw 8 ++ (Machine.wordBytes w 8 ++ rest)) = some i ↔
      (Header.ofWord hw).Solo k ∧ decodeSlot (slotClass k) w = .ok i := by
  simp only [decodeBytes, wordsOfBytes_wordBytes_append, List.headD_cons, List.drop_one, List.tail_cons, slotWords_of_present hp hk]
  split
  next hbad =>
    refine ⟨nofun, ?_⟩
    rintro ⟨⟨hkind, -, hq, hresv, hbe⟩, -⟩
    tauto
  next hgood =>
    push Not at hgood
    obtain ⟨hkind, hresv, hq, hbe⟩ := hgood
    cases hd : decodeSlot (slotClass k) w with
    | ok j => simpa using fun _ => ⟨hkind, hp, hq, hresv, hbe⟩
    | error e => simp

theorem SlotClass.slot_lt (cls : SlotClass) : cls.slot < 7 := by cases cls <;> decide
@[simp] theorem slotClass_slot (cls : SlotClass) : slotClass cls.slot = cls := by cases cls <;> rfl

theorem Header.ofWord_toWord_soloHeader (cls : SlotClass) : Header.ofWord (soloHeader cls.slot).toWord = soloHeader cls.slot := by cases cls <;> decide

theorem soloHeader_solo (k : Nat) : (soloHeader k).Solo k := ⟨rfl, rfl, BitVec.and_zero, rfl, fun _ => rfl⟩

/-! The slot word of an operation. -/

namespace Laws.RoundTrip

/-- Every operation's slot word decodes to it, where the fields that select its constructor name it. -/
theorem statement : ∀ i, Statement i
  | .bundleIssue core => bundleIssue core | .idleCycle core => idleCycle core | .instructionFetch key => instructionFetch key
  | .fixedLatencyLanding key => fixedLatencyLanding key | .variableLatencyArrival key => variableLatencyArrival key
  | .lockstepStep task => lockstepStep task | .add f => add f | .sub f => sub f | .mul f => mul f | .mulh f => mulh f | .div f => div f
  | .rem f => rem f | .and f => and f | .or f => or f | .xor f => xor f | .shl f => shl f | .shr f => shr f | .sar f => sar f | .min f => min f
  | .max f => max f | .clz f => clz f | .addi f => addi f | .andi f => andi f | .ori f => ori f | .xori f => xori f | .shli f => shli f
  | .shri f => shri f | .sari f => sari f | .movi f => movi f | .moviIns f => moviIns f | .cmp f => cmp f | .cmpi f => cmpi f | .sel f => sel f
  | .popc f => popc f | .lea f => lea f | .fadd f => fadd f | .fsub f => fsub f | .fmul f => fmul f | .fma f => fma f | .fdiv f => fdiv f
  | .fsqrt f => fsqrt f | .fmin f => fmin f | .fmax f => fmax f | .fcmp f => fcmp f | .fcvt f => fcvt f | .fsgn f => fsgn f | .ld f => ld f
  | .st f => st f | .amo f => amo f | .grant f => grant f | .revoke f => revoke f | .permld f => permld f | .cmpt f => cmpt f | .cmptV f => cmptV f
  | .fork f => fork f | .join f => join f | .pqpush f => pqpush f | .pqpop f => pqpop f | .barm f => barm f | .barrive f => barrive f
  | .bwait f => bwait f | .gbarrive f => gbarrive f | .gbwait f => gbwait f | .gangBarrierRelease task bar => gangBarrierRelease task bar
  | .qcfg f => qcfg f | .drainR f => drainR f | .drainA f => drainA f | .drainBoth f => drainBoth f | .trap f => trap f | .resume f => resume f
  | .resumeServiceCore f => resumeServiceCore f | .resumeEnd f => resumeEnd f | .rdrec f => rdrec f | .wrrec f => wrrec f | .vtsel f => vtsel f
  | .srmovRead f => srmovRead f | .srmovWrite f => srmovWrite f | .cinv f => cinv f | .cflush f => cflush f | .waitt f => waitt f
  | .waittRelease key => waittRelease key | .snap f => snap f | .step f => step f | .phase f => phase f | .phaseOff f => phaseOff f
  | .wdecl f => wdecl f | .enrd f => enrd f | .enrdIdle f => enrdIdle f | .enclr f => enclr f | .yield f => yield f | .halt f => halt f
  | .br f => br f | .breq f => breq f | .brne f => brne f | .brlt f => brlt f | .brge f => brge f | .brltu f => brltu f | .brgeu f => brgeu f
  | .brall f => brall f | .brnone f => brnone f | .call f => call f | .callRegister f => callRegister f | .ret f => ret f | .jr f => jr f
  | .loop f => loop f | .loopw f => loopw f | .vadd f => vadd f | .vsub f => vsub f | .vmul f => vmul f | .vfma f => vfma f | .vmin f => vmin f
  | .vmax f => vmax f | .vabs f => vabs f | .vneg f => vneg f | .vmulh f => vmulh f | .vavg f => vavg f | .vshl f => vshl f | .vshr f => vshr f
  | .vsar f => vsar f | .vand f => vand f | .vor f => vor f | .vxor f => vxor f | .vcvt f => vcvt f | .vcmp f => vcmp f | .vsel f => vsel f
  | .vshuf f => vshuf f | .vperm f => vperm f | .vred f => vred f | .vclmul f => vclmul f | .vclmulh f => vclmulh f | .vrcp f => vrcp f
  | .vrsq f => vrsq f | .vexp f => vexp f | .vmov f => vmov f | .vmovi f => vmovi f | .vld f => vld f | .vst f => vst f | .vgath f => vgath f
  | .vscat f => vscat f | .vamo f => vamo f | .qpush f => qpush f | .qpop f => qpop f | .vdup f => vdup f | .mldw f => mldw f | .mldwS f => mldwS f
  | .mma f => mma f | .mmas f => mmas f | .mzero f => mzero f | .mfuse f => mfuse f | .mdrain f => mdrain f | .mdrainV f => mdrainV f
  | .sequencerOpStart key => sequencerOpStart key | .mmaRowStep key => mmaRowStep key | .mdrainEntryStep key => mdrainEntryStep key
  | .queueClaimArrival key => queueClaimArrival key | .cpy f => cpy f | .cpy2 f => cpy2 f | .cpy3 f => cpy3 f | .cgath f => cgath f
  | .cscat f => cscat f | .cmcast f => cmcast f | .cfill f => cfill f | .credI32 f => credI32 f | .credFp32 f => credFp32 f
  | .credBf16 f => credBf16 f | .cpyAt f => cpyAt f | .cpy2At f => cpy2At f | .cpy3At f => cpy3At f | .cgathAt f => cgathAt f
  | .cscatAt f => cscatAt f | .cmcastAt f => cmcastAt f | .cfillAt f => cfillAt f | .credI32At f => credI32At f | .credFp32At f => credFp32At f
  | .credBf16At f => credBf16At f | .atCopyLaunch id => atCopyLaunch id | .copyCompletion id => copyCompletion id
  | .mcastLanding id => mcastLanding id | .storeAcknowledge id => storeAcknowledge id | .homeAccess id => homeAccess id
  | .pathAccess id => pathAccess id | .farAccessArrival a => farAccessArrival a | .pathResponseTimeout id => pathResponseTimeout id
  | .deferredFault d => deferredFault d | .stoppingComplete key => stoppingComplete key | .childTake key => childTake key
  | .stealComplete key => stealComplete key | .pqArrival die => pqArrival die | .pqClaimServe die => pqClaimServe die
  | .doorbell vf tail => doorbell vf tail | .iqbaseWrite vf value => iqbaseWrite vf value | .accessionCheck launch => accessionCheck launch
  | .budgetIntervalStart quarter => budgetIntervalStart quarter | .placement quarter cid => placement quarter cid | .startTick task => startTick task
  | .taskCompletion task => taskCompletion task | .replayAccept launch => replayAccept launch | .nodeEvaluation walker => nodeEvaluation walker
  | .replayEnd launch => replayEnd launch | .gangSwitchTick quarter => gangSwitchTick quarter | .saveComplete quarter die => saveComplete quarter die
  | .saveDeadline quarter => saveDeadline quarter | .restore quarter => restore quarter | .sliceStart quarter => sliceStart quarter
  | .checkpointTimerTrigger quarter cid => checkpointTimerTrigger quarter cid | .snapTick quarter cid => snapTick quarter cid
  | .drainFrameDone quarter cid die => drainFrameDone quarter cid die | .drainHeaderDone quarter cid => drainHeaderDone quarter cid
  | .reserveHoldExpiry quarter cid => reserveHoldExpiry quarter cid | .drainWriteError quarter cid => drainWriteError quarter cid
  | .hbctlWrite quarter cid value => hbctlWrite quarter cid value | .governorWrite share value => governorWrite share value
  | .thermalGateOn die => thermalGateOn die | .thermalGateOff die => thermalGateOff die | .thermalTrip die reading => thermalTrip die reading
  | .railFault die rail => railFault die rail | .carriedCheckMismatch e => carriedCheckMismatch e | .eccErrorConsumed e => eccErrorConsumed e
  | .eccScrub die frame word uncorrectable => eccScrub die frame word uncorrectable | .laneWindowEnd margins => laneWindowEnd margins
  | .quiesceRequest quarter => quiesceRequest quarter | .quiesceCancel quarter => quiesceCancel quarter | .quiesced quarter => quiesced quarter
  | .quiesceTimeout quarter => quiesceTimeout quarter | .pcfgWrite value => pcfgWrite value | .nbondWrite quarter value => nbondWrite quarter value
  | .tslotWrite quarter k value => tslotWrite quarter k value | .controlWindowAccess id => controlWindowAccess id
  | .tcsdWrite die value => tcsdWrite die value | .shootDownDone die => shootDownDone die | .svcBind die j => svcBind die j
  | .svcUnbind die j => svcUnbind die j | .hotResetSelfHosted port => hotResetSelfHosted port | .hotResetHostManaged port => hotResetHostManaged port
  | .functionLevelReset vf => functionLevelReset vf | .connectionEnable conn => connectionEnable conn
  | .connectionWord5Write conn value => connectionWord5Write conn value | .nvmeofConnected conn => nvmeofConnected conn
  | .connectionFailure conn errc => connectionFailure conn errc | .powerOn => powerOn | .pinReset => pinReset | .hvReset retry => hvReset retry
  | .bootStart => bootStart | .registerWrite unit off value => registerWrite unit off value
  | .ringHeadWrite quarter cid eq head => ringHeadWrite quarter cid eq head | .hostLinkRetrained port => hostLinkRetrained port

end Laws.RoundTrip

theorem decodeSlot_of_encodeSlot {i : Instr} {cls : SlotClass} {w : Word} (h : wellFormed i = true) (he : encodeSlot i = some (cls, w)) :
    decodeSlot cls w = .ok i :=
  Laws.RoundTrip.statement i (Bool.and_eq_true_iff.mp h).2 (cls, w) he

/-- Settles O52: the header of an operation's bundle names its slot alone, and its slot word decodes to it. -/
theorem encodingRoundTrip : Obligations.EncodingRoundTrip := by
  intro i rest hwf hne
  match he : encodeSlot i with
  | none => exact absurd (by rw [encode, he]) hne
  | some (cls, w) =>
    have hsolo := Header.ofWord_toWord_soloHeader cls
    rw [show encode i = [(soloHeader cls.slot).toWord, w] by rw [encode, he], List.flatMap_cons, List.flatMap_cons, List.flatMap_nil, List.append_nil,
      List.append_assoc, decodeBytes_eq_some_iff (by rw [hsolo]; rfl) cls.slot_lt, hsolo, slotClass_slot]
    exact ⟨soloHeader_solo _, decodeSlot_of_encodeSlot hwf he⟩

end Sys2Proof
end

section
/-!
What the slot words of an issue decode to, and what an operation of a slot does: its class, its step 0, and its meaning.
-/
namespace Sys2Proof

/-- Every row of an opcode map is an operation of the map's class (R54, R71 to R75). -/
theorem encodeSlot_class_of_decodeSlot {cls : SlotClass} {w : Word} {i : Instr} (h : decodeSlot cls w = .ok i) :
    ∃ v, encodeSlot i = some (cls, v) := by
  have hclass : (encodeSlot i).map Prod.fst = some cls := by
    cases cls
    all_goals
      simp only [decodeSlot, decodeS, decodeV, decodeM, decodeC, decodeB] at h
      split at h
      all_goals try split_ifs at h
      all_goals
        cases h <;> rfl
  obtain ⟨⟨_, v⟩, he, rfl⟩ := Option.map_eq_some_iff.mp hclass
  exact ⟨v, he⟩

/-! Step 0 of a slot word is the word as given (R63). -/

@[simp] theorem stepName_zero (x : OpName) : stepName 0 x = x := by
  rw [stepName]
  split
  next h => rw [Nat.add_zero, Nat.mod_eq_of_lt h, BitVec.ofNat_toNat, BitVec.setWidth_eq]
  next => rfl

theorem FmtR.stepped_zero (f : FmtR) : f.stepped 0 = f := by simp [FmtR.stepped]
theorem FmtI.stepped_zero (f : FmtI) : f.stepped 0 = f := by simp [FmtI.stepped]
theorem FmtX.stepped_zero (f : FmtX) : f.stepped 0 = f := by simp [FmtX.stepped]

namespace Machine

@[simp] theorem stepped_zero (i : Instr) : stepped 0 i = i := by
  cases i <;> simp only [stepped, FmtR.stepped_zero, FmtI.stepped_zero, FmtX.stepped_zero]

/-- The meaning of an operation is its issue alone; an event has no slot word. -/
theorem exec_eq_runOne {i : Instr} (h : encodeSlot i ≠ none) (s : State) : exec i s = runOne i (slotOp i) s := by
  cases i
  all_goals try exact absurd rfl h
  all_goals rfl

end Machine
end Sys2Proof
end

section
/-!
What keeps the issue in progress: the reads that the end of an issue performs, and the end of a wait.
-/
namespace Sys2Proof.Machine

/-- Changes that leave the issue in progress as it is. -/
def KeepsCur (l : List Effect) : Prop := ∀ e ∈ l, ∀ s, (applyEffect e s).cur = s.cur

theorem KeepsCur.applyAll {l : List Effect} (h : KeepsCur l) (s : State) : (applyAll l s).cur = s.cur := by
  induction l generalizing s with
  | nil => rfl
  | cons e r ih =>
    rw [applyAll_cons, ih fun x hx => h x (List.mem_cons_of_mem _ hx)]
    exact h e List.mem_cons_self s

theorem keepsCur_nil : KeepsCur [] := List.forall_mem_nil _

theorem KeepsCur.cons {e : Effect} {l : List Effect} (he : ∀ s, (applyEffect e s).cur = s.cur) (hl : KeepsCur l) : KeepsCur (e :: l) :=
  List.forall_mem_cons.mpr ⟨he, hl⟩

theorem keepsCur_singleton {e : Effect} (he : ∀ s, (applyEffect e s).cur = s.cur) : KeepsCur [e] := .cons he keepsCur_nil

theorem KeepsCur.append {l r : List Effect} (hl : KeepsCur l) (hr : KeepsCur r) : KeepsCur (l ++ r) :=
  List.forall_mem_append.mpr ⟨hl, hr⟩

theorem KeepsCur.seq {f g : Act} (hf : ∀ s, KeepsCur (f s)) (hg : ∀ s, KeepsCur (g s)) (s : State) : KeepsCur (Act.seq f g s) :=
  (hf s).append (hg _)

theorem KeepsCur.each {α : Type} {l : List α} {f : α → Act} (h : ∀ x s, KeepsCur (f x s)) (s : State) : KeepsCur (Act.each l f s) := by
  induction l generalizing s with
  | nil => exact keepsCur_nil
  | cons x r ih => exact KeepsCur.seq (h x) ih s

theorem keepsCur_modCtx (k : Nat) (f : Ctx → Ctx) (s : State) : KeepsCur (modCtx k f s) := keepsCur_singleton fun _ => rfl
theorem keepsCur_modCore (k : Nat) (f : Core → Core) (s : State) : KeepsCur (modCore k f s) := keepsCur_singleton fun _ => rfl

theorem keepsCur_releaseHolds (key id : Nat) (s : State) : KeepsCur (releaseHolds key id s) := by
  refine KeepsCur.append (List.forall_mem_map.mpr fun _ _ _ => rfl) ?_
  split
  · exact keepsCur_nil
  · exact keepsCur_singleton fun _ => rfl

theorem keepsCur_finishPart (id : Nat) (p : Part) (b : Option (List Byte)) (s : State) : KeepsCur (finishPart id p b s) := by
  rw [finishPart]
  split
  case h_1 => exact keepsCur_nil
  case h_2 a _ =>
    dsimp only
    split
    case isFalse => exact keepsCur_singleton fun _ => rfl
    case isTrue =>
      refine KeepsCur.append ?_ ?_
      · split
        · exact keepsCur_nil
        · exact keepsCur_releaseHolds a.key id s
      · split <;> exact .cons (fun _ => rfl) (keepsCur_singleton fun _ => rfl)

theorem keepsCur_readNear (key : Nat) (places : List Nat) (s : State) : KeepsCur (readNear key places s) := by
  refine KeepsCur.each (fun x t => ?_) s
  split
  · split
    · exact keepsCur_nil
    · exact keepsCur_finishPart x.1 x.2 _ t
  · exact keepsCur_nil

theorem keepsCur_endWait (key : Nat) (s : State) : KeepsCur (endWait key s) := by
  rw [endWait]
  split
  · exact KeepsCur.seq (KeepsCur.seq (fun t => keepsCur_modCore _ _ t) fun t => keepsCur_modCtx _ _ t) (fun t => keepsCur_modCtx _ _ t) s
  · exact keepsCur_modCtx _ _ s
  · exact keepsCur_nil

/-- The end of an issue takes no TRAP of the issue away. -/
@[simp] theorem flushed_trapped (t : State) : (flushed t).cur.trapped = t.cur.trapped := by
  by_cases e : t.cur.stores = []
  · rw [flushed_of_empty e]
  · have hr := (keepsCur_readNear t.cur.key (t.cur.stores.map (·.1)) t).applyAll t
    rw [flushed, flushStores, if_neg e, Act.seqs, applyAll_seq, Act.seqs, applyAll_seq, applyAll_stores]
    exact (congrArg Issue.trapped hr :)

end Sys2Proof.Machine
end

section
/-!
The issue of a bundle with one active slot (R45 to R53, R68, R377): what its context gives it, how it is judged, and what it changes.
-/
namespace Sys2Proof.Machine

/-- The first issue of the bundle of words hw and w. -/
def firstIssue (key : Nat) (pc hw w : Word) : NextIssue := ⟨key, pc, [hw, w], 0, none⟩

/-- What the start of an issue changes: the sticky slots as its bundle gives them, the issue in progress, and the end of a wait. -/
def opening (n : NextIssue) : Act := fun s =>
  Act.seq (fun _ => [.ctx n.key { (s.ctx n.key).atIssue n with yielded := false }, .cur (startIssue (s.ctx n.key) n)]) (endWait n.key) s

/-- The state in which the slots of an issue are looked at. -/
def State.opened (s : State) (n : NextIssue) : State := applyAll (opening n s) s

/-- The state in which the operation of a slot word on step 0 is looked at. -/
def State.atSlot (s : State) (k : Nat) (w : Word) : State := { s with cur := { s.cur with slot := k, sw := w, step := 0#32 } }

theorem State.opened_cur (s : State) (n : NextIssue) : (s.opened n).cur = startIssue (s.ctx n.key) n := by
  rw [State.opened, opening, applyAll_seq, (keepsCur_endWait n.key _).applyAll]
  rfl

@[simp] theorem State.opened_key (s : State) (n : NextIssue) : (s.opened n).cur.key = n.key := by rw [State.opened_cur]; rfl
@[simp] theorem State.opened_partner (s : State) (n : NextIssue) : (s.opened n).cur.partner = none := by rw [State.opened_cur]; rfl

/-- A context whose bundle, of words hw and w, is to issue with one active slot, k, whose word decodes to i. -/
structure LoneSlot (c : Ctx) (key k : Nat) (hw w : Word) (i : Instr) : Prop where
  kind : c.lock = false ∨ (c.pos ≠ 0#7 ∧ c.mode = .service)
  slot : k < 7
  header : (Header.ofWord hw).Solo k
  quiet : (Header.ofWord hw).q = 0#7
  decodes : decodeSlot (slotClass k) w = .ok i
  others : ∀ j, j < 7 → j ≠ k → (c.sticky j).idle = true
  issues : k = 0 ∨ k = 6 ∨ (c.mode ≠ .service ∧ isService (coreOf key) = false)

section
variable {c : Ctx} {key k : Nat} {hw w pc : Word} {i : Instr}

/-- The header of a bundle with one active slot takes no trap (R40, R46). -/
theorem LoneSlot.headerTrap (b : LoneSlot c key k hw w i) : headerTrap c (firstIssue key pc hw w) = none := by
  have hlead : (c.lock && decide (c.pos = 0#7)) = false := by
    rcases b.kind with h | ⟨h, -⟩ <;> simp [h]
  have hbe : (decide ((Header.ofWord hw).be = 1#1) || decide ((Header.ofWord hw).bsrc = 0#6)) = true := by
    rcases BitVec.eq_zero_or_eq_one (Header.ofWord hw).be with h | h
    · simp [b.header.broadcast h]
    · simp [h]
  have hfaults : headerFaults c (Header.ofWord hw) = [] := by
    simp [headerFaults, need, hlead, b.header.kind, b.header.disjoint, b.header.resv, hbe]
  rw [Machine.headerTrap, if_neg (by simp [firstIssue]), show headerFaults c (firstIssue key pc hw w).header = [] from hfaults]

/-- Its slot alone is given anew, on step 0 (R52). -/
theorem LoneSlot.giveSlots (b : LoneSlot c key k hw w i) :
    c.giveSlots (firstIssue key pc hw w) = { c with slots := c.slots.set k ⟨w, false, 0#32⟩ } := by
  have hgiven : slotWords (firstIssue key pc hw w).header [w] = [(k, w)] := slotWords_of_present b.header.present b.slot w []
  have hquiet (j : Nat) : (firstIssue key pc hw w).header.quiet j = false := by
    rw [Header.quiet, show (firstIssue key pc hw w).header.q = 0#7 from b.quiet, BitVec.getLsbD_zero]
  have hk := b.slot
  simp only [Ctx.giveSlots, show (firstIssue key pc hw w).words.drop 1 = [w] from rfl, hgiven, hquiet, Bool.false_eq_true, if_false]
  interval_cases k <;> rfl

/-- Its slot alone is active (R51, R53). -/
theorem LoneSlot.activeSlots (b : LoneSlot c key k hw w i) :
    activeSlots (c.atIssue (firstIssue key pc hw w)) key = [(k, ⟨w, false, 0#32⟩)] := by
  have hat : c.atIssue (firstIssue key pc hw w) = { c with slots := c.slots.set k ⟨w, false, 0#32⟩ } := b.giveSlots
  have hone : ∀ k < 7, (List.range 7).filterMap (fun j => if j = k then some (k, (⟨w, false, 0#32⟩ : Sticky)) else none) =
      [(k, ⟨w, false, 0#32⟩)] := by
    intro k hk
    interval_cases k <;> rfl
  rw [hat, ← hone k b.slot]
  refine List.filterMap_congr fun j hj => ?_
  by_cases hjk : j = k
  · subst hjk
    have hactive : c.mode = .service ∨ isService (coreOf key) = true → ¬ j = 0 → j = 6 := by
      rcases b.issues with h | h | ⟨h, h'⟩
      · exact fun _ h0 => absurd h h0
      · exact fun _ _ => h
      · simp [h, h']
    simpa [Ctx.sticky] using hactive
  · have hidle : ((c.slots.set k ⟨w, false, 0#32⟩).get {} j).idle = true := by
      rw [Sparse.get_set_ne _ _ _ (Ne.symm hjk)]
      exact b.others j (List.mem_range.mp hj) hjk
    simp [Ctx.sticky, hidle, hjk]
end

/-- An operation of a slot's class stands in that slot. -/
theorem slotFor_of_decodeSlot {s : State} {w : Word} {i : Instr} (h : decodeSlot (slotClass s.cur.slot) w = .ok i) :
    slotFor s i = s.cur.slot := by
  obtain ⟨v, he⟩ := encodeSlot_class_of_decodeSlot h
  simp [slotFor, he]

theorem besides_of_no_partner {s : State} (h : s.cur.partner = none) (slot : Nat) (i : Instr) : besides s slot i = [] := by
  unfold besides
  split
  next hp => cases h.symm.trans hp
  next => rfl

/-- What an issue of the operation of slot k alone changes, where its meaning changes e. -/
def soloEffects (s : State) (k : Nat) (w : Word) (i : Instr) (e : List Effect) : List Effect :=
  .cur (withPartner s [(k, i)]).cur :: .cur (issuedAt i (s.atSlot k w)).cur :: (e ++ flushStores (applyAll e (issuedAt i (s.atSlot k w))))

section
variable {s : State} {k : Nat} {w : Word} {i : Instr} {op : SlotOp} {engines : Nat → Bool}

/-- An issue of one operation, judged before its slot is looked at: where the engines accept it, it is judged as the operation alone is. -/
theorem judge_solo (hslot : slotFor (s.atSlot k w) i = k) (hp : s.cur.partner = none) (h : Issues i (s.atSlot k w))
    (hne : judge engines (slotBit k) 0#7 [] [(⟨k, w, 0#32, i⟩, op)] s ≠ .waits) :
    judge engines (slotBit k) 0#7 [] [(⟨k, w, 0#32, i⟩, op)] s = match op (issuedAt i (s.atSlot k w)) with
      | .error t => .traps t
      | .ok e => .commits (soloEffects s k w i e) := by
  have hops : opsAlone i (s.atSlot k w) = [(k, i)] := by
    rw [opsAlone, hslot, besides_of_no_partner (s := s.atSlot k w) hp]
  have hl : legalityTrap s.view [(k, i)] (slotBit k) 0#7 = none := by
    have := h.legal
    rwa [hops, hslot] at this
  have hs : waitsForSource s.view [(k, i)] = false := hops ▸ h.sources
  have hd : declarationTrap s.view [(k, i)] = none := hops ▸ h.declared
  have he : emptyReadTrap s.view [(k, i)] = none := hops ▸ h.full
  have hat : issuedAt i (s.atSlot k w) = applyAll [.cur { (withPartner s [(k, i)]).cur with slot := k, sw := w, step := 0#32 }] (withPartner s [(k, i)]) := by
    rw [issuedAt, issueOf, hops, hslot]
    rfl
  cases ha : refused s s.cur.key engines [⟨k, w, 0#32, i⟩] with
  | true => exact absurd (by simp [judge, opsOf, hl, ha]) hne
  | false =>
    simp only [judge, opsOf, List.map_cons, List.map_nil, List.cons_append, List.nil_append, List.append_nil, hl, hs, ha, hd, he, Bool.or_self, Bool.false_eq_true,
      if_false, runSlots]
    rw [← hat]
    cases hop : op (issuedAt i (s.atSlot k w)) with
    | error t => rfl
    | ok e => exact congrArg Verdict.commits (by rw [soloEffects, hat]; rfl)
end

end Sys2Proof.Machine
end

section
/-!
The step of a core's issue, and of the other parts of a cycle (R29, R30, R52, R259, log entry 1).
-/
namespace Sys2Proof.Machine

/-! What an issue alone changes. -/

section
variable {s : State} {core key k : Nat} {hw w pc : Word} {i : Instr} {engines : Nat → Bool}

/-- The operation of an issue alone leads to the state of its end (R107). -/
theorem applyAll_soloEffects (e : List Effect) :
    applyAll (soloEffects s k w i e) s = flushed (applyAll e (issuedAt i (s.atSlot k w))) := by
  rw [soloEffects, applyAll_cons, applyAll_cons, applyAll_append]
  rfl

/-- What the copies from the own scratchpad keep does not depend on the issue in progress (log entry 107). -/
theorem keepRead_soloEffects (e : List Effect) : keepRead core (soloEffects s k w i e) s =
    keepRead core (e ++ flushStores (applyAll e (issuedAt i (s.atSlot k w)))) (s.atSlot k w) := rfl

/-- What an issue that commits e makes, from the start of the issue to its end. -/
def committed (n : NextIssue) (l : List SlotIssue) (e : List Effect) : Act := fun s =>
  let s0 := s.opened n
  let t := applyAll e s0
  let e2 := modCur (fun y => { y with slot := 7 }) t
  let e3 := e2 ++ keepRead (coreOf n.key) e s0 (applyAll e2 t)
  opening n s ++ e ++ e3 ++ endIssue n l (issueCharge s0 (startIssue (s.ctx n.key) n) l) (applyAll e3 t)

/-- A bundle with one active slot becomes what the judgement of its operation says. -/
theorem LoneSlot.tryIssue (b : LoneSlot (s.ctx key) key k hw w i) :
    tryIssue engines (firstIssue key pc hw w) s =
      match judge engines (slotBit k) 0#7 [] [(⟨k, w, 0#32, i⟩, slotOp i)] (s.opened (firstIssue key pc hw w)) with
      | .waits => .waits
      | .traps t => .traps t
      | .commits e => .commits (committed (firstIssue key pc hw w) [⟨k, w, 0#32, i⟩] e s) := by
  have hissues : slotIssues (Machine.activeSlots ((s.ctx key).atIssue (firstIssue key pc hw w)) key) = [(⟨k, w, 0#32, i⟩, slotOp i)] := by
    simp [b.activeSlots, slotIssues, b.decodes]
  have hdecoded : undecoded (Machine.activeSlots ((s.ctx key).atIssue (firstIssue key pc hw w)) key) = [] := by
    simp [b.activeSlots, undecoded, b.decodes]
  have hp : (firstIssue key pc hw w).header.p = slotBit k := b.header.present
  have hq : (firstIssue key pc hw w).header.q = 0#7 := b.quiet
  have hkey : (firstIssue key pc hw w).key = key := rfl
  simp only [Machine.tryIssue, hkey, b.headerTrap, hissues, hdecoded, hp, hq, State.opened, opening]
  generalize judge engines (slotBit k) 0#7 [] [(⟨k, w, 0#32, i⟩, slotOp i)] _ = v
  cases v <;> rfl

/-- Where an operation issues, its bundle traps as the operation does, or commits what it changes. -/
theorem LoneSlot.tryIssue_of_issues {n : NextIssue} (hn : n = firstIssue key pc hw w) (b : LoneSlot (s.ctx key) key k hw w i)
    (ht : (Machine.tryIssue engines n s).takesPlace = true) (h : Issues i ((s.opened n).atSlot k w)) :
    Machine.tryIssue engines n s = match slotOp i (issuedAt i ((s.opened n).atSlot k w)) with
      | .error t => .traps t
      | .ok e => .commits (committed n [⟨k, w, 0#32, i⟩] (soloEffects (s.opened n) k w i e) s) := by
  subst hn
  have hne : judge engines (slotBit k) 0#7 [] [(⟨k, w, 0#32, i⟩, slotOp i)] (s.opened (firstIssue key pc hw w)) ≠ .waits := by
    intro hwaits
    rw [b.tryIssue, hwaits] at ht
    cases ht
  rw [b.tryIssue, judge_solo (slotFor_of_decodeSlot b.decodes) (s.opened_partner _) h hne]
  cases slotOp i (issuedAt i ((s.opened (firstIssue key pc hw w)).atSlot k w)) <;> rfl

end

/-! The context that issues. -/

theorem mem_of_select {s : State} {core x : Nat} {l : List Nat} (h : select s core l = some x) : x ∈ l := by
  have htop : ∀ y ∈ topContexts s core l, y ∈ l := fun y hy => (List.mem_filter.mp hy).1
  rw [select] at h
  split at h
  next hh => exact htop x (Option.some.inj h ▸ hh.1)
  next => exact htop x (by simpa using List.find?_some h)

theorem mem_readyContexts_of_issuer {s : State} {engines : Nat → Bool} {core x : Nat} (h : issuer s engines core = some x) :
    x ∈ readyContexts s engines core := by
  rcases (Option.orElse_eq_some _ _ _).mp h with h | ⟨-, h⟩
  · split at h
    · exact (by simpa using List.find?_some h : x ∈ readyContexts s engines core ∧ _).1
    · cases h
  · exact mem_of_select h

theorem isReady_of_mem_readyContexts {s : State} {engines : Nat → Bool} {core x : Nat} (h : x ∈ readyContexts s engines core) :
    x < contextsOf core ∧ isReady s engines (keyOf core x) = true := by
  have hl : x ∈ (List.range (contextsOf core)).filter fun x => isReady s engines (keyOf core x) := by
    rw [readyContexts] at h
    split at h
    · exact h
    · exact (List.mem_filter.mp h).1
  exact ⟨List.mem_range.mp (List.mem_filter.mp hl).1, (List.mem_filter.mp hl).2⟩

theorem coreOf_keyOf {core x : Nat} (h : x < contextsOf core) : coreOf (keyOf core x) = core := by
  have : contextsOf core ≤ 8 := by rw [contextsOf]; split <;> decide
  rw [coreOf, keyOf]
  omega

theorem ownIssue_of_bundleWords {s : State} {key : Nat} {hw w : Word} (hr : (s.ctx key).repleft = 0)
    (hb : bundleWords s key (s.ctx key).pc = some [hw, w]) : ownIssue s key = some (firstIssue key (s.ctx key).pc hw w) := by
  simp [ownIssue, hr, hb, firstIssue]

theorem applyAll_seqs_append (l r : List Act) (s : State) : applyAll (Act.seqs (l ++ r) s) s =
    applyAll (Act.seqs r (applyAll (Act.seqs l s) s)) (applyAll (Act.seqs l s) s) := by
  induction l generalizing s with
  | nil => rfl
  | cons f l ih => rw [List.cons_append, Act.seqs, applyAll_seq, ih, Act.seqs, applyAll_seq]

/-! The step of a cycle. -/

section
variable {s : State} {i : Instr} {x : Nat × Instr}

theorem step_of_input (h : nextInput s = some x) : step s = exec x.2 { s with inputs := s.inputs.erase x } := by rw [step, h]

theorem step_of_earlyEvent (hn : nextInput s = none) (hl : s.late = false) (he : earlyEvent s = some i) : step s = exec i s := by
  rw [step, hn, nextEarly, hl, if_neg Bool.false_ne_true, he]

theorem step_of_no_earlyEvent (hn : nextInput s = none) (he : s.late = true ∨ earlyEvent s = none) : step s = lateStep { s with late := true } := by
  have hearly : nextEarly s = none := by
    rw [nextEarly]
    rcases he with hl | he
    · rw [if_pos hl]
    · rw [he, ite_self]
  rw [step, hn, hearly]

theorem lateStep_of_input (h : nextInput s = some x) : lateStep s = exec x.2 { s with inputs := s.inputs.erase x } := by rw [lateStep, h]

theorem lateStep_of_lateEvent (hn : nextInput s = none) (he : lateEvent s = some i) : lateStep s = exec i s := by rw [lateStep, hn, he]

theorem lateStep_of_no_lateEvent (hn : nextInput s = none) (he : lateEvent s = none) : lateStep s = .next (tick s) := by rw [lateStep, hn, he]

end

section
variable {s : State} {core x : Nat} {n : NextIssue}

/-- Where the event is the issue of a core that has chosen a context, the step is that issue. -/
theorem step_of_bundleIssue (hn : nextInput s = none) (hl : s.late = false) (he : earlyEvent s = some (.bundleIssue core))
    (hs : hasIssued s core = false) (hx : issuer s (accepts s core) core = some x) : step s = done (coreIssue core) s := by
  have hnow : issuesNow s core = true := by simp [issuesNow, hs, hx]
  rw [step_of_earlyEvent hn hl he, show exec (.bundleIssue core) s = done (bundleIssue core) s from rfl, done_eq, done_eq, bundleIssue, if_pos hnow]

theorem coreIssue_of_commits {e : List Effect} (hx : issuer s (accepts s core) core = some x) (hn : ownIssue s (keyOf core x) = some n)
    (ht : tryIssue (accepts s core) n s = .commits e) : coreIssue core s =
      Act.seqs [fun _ => e, modCore core fun y => holdAfter y x (topContexts s core (readyContexts s (accepts s core) core)),
        endYields core (some x), softwareStop, serve core, endCycle core] s := by
  simp only [coreIssue, hx, hn, ht]

theorem coreIssue_of_traps {tr : Trap} (hx : issuer s (accepts s core) core = some x) (hn : ownIssue s (keyOf core x) = some n)
    (ht : tryIssue (accepts s core) n s = .traps tr) : coreIssue core s =
      Act.seqs [takePrecise (keyOf core x) tr, modCore core fun y => holdAfter y x (topContexts s core (readyContexts s (accepts s core) core)),
        endYields core (some x), fun u => [.served (trapMark core :: u.served)]] s := by
  simp only [coreIssue, hx, hn, ht]

/-- The end of an issue that commits e follows in the state that e leads to. -/
theorem applyAll_committed (l : List SlotIssue) (e : List Effect) : applyAll (committed n l e s) s =
    applyAll (Act.seqs [modCur fun y => { y with slot := 7 }, keepRead (coreOf n.key) e (s.opened n),
      endIssue n l (issueCharge (s.opened n) (startIssue (s.ctx n.key) n) l)] (applyAll e (s.opened n))) (applyAll e (s.opened n)) := by
  simp only [committed, Act.seqs, Act.seq, Act.skip, applyAll_append, List.append_nil]
  rfl

end

/-- Settles O55: a step is the next input or event of its part of the cycle; and the issue of a core whose bundle has one active slot is the
meaning of the operation that the decoder reads there, and the end of the issue or the trap that it takes. -/
theorem stepRunsDecodedInstruction : Obligations.StepRunsDecodedInstruction := by
  refine ⟨fun s x hx => step_of_input hx, fun s i hn hl he => step_of_earlyEvent hn hl he, fun s x hn hl he hx => ?lateInput,
    fun s i hn hq hn' he => ?lateEvent, fun s hn hq hn' he => ?cycleEnd, ?issue⟩
  case lateInput => rw [step_of_no_earlyEvent hn (.inr he), lateStep_of_input hx]
  case lateEvent => rw [step_of_no_earlyEvent hn hq, lateStep_of_lateEvent hn' he]
  case cycleEnd => rw [step_of_no_earlyEvent hn hq, lateStep_of_no_lateEvent hn' he]
  case issue =>
    intro s core x k hw w i key c n s0 s1 l peers hn hl hev hserved hx hrep hlead hwords hread henc hk hp hq hothers hmay h
    obtain ⟨hlt, hready⟩ := isReady_of_mem_readyContexts (mem_readyContexts_of_issuer hx)
    have hcore : coreOf n.key = core := coreOf_keyOf hlt
    have hown : ownIssue s key = some n := ownIssue_of_bundleWords hrep hwords
    obtain ⟨hheader, hdecodes⟩ := (decodeBytes_eq_some_iff hp hk w [] i).mp (by rwa [List.append_nil])
    have b : LoneSlot c key k hw w i := ⟨hlead, hk, hheader, hq, hdecodes, hothers, (coreOf_keyOf hlt).symm ▸ hmay⟩
    have htake : (tryIssue (accepts s core) n s).takesPlace = true := by
      have hany : (ownIssue s key).any (fun n => (tryIssue (accepts s core) n s).takesPlace) = true := (Bool.and_eq_true_iff.mp hready).2
      rwa [hown] at hany
    have htry : tryIssue (accepts s core) n s = match slotOp i (issuedAt i s1) with
      | .error t => .traps t
      | .ok e => .commits (committed n l (soloEffects s0 k w i e) s) := b.tryIssue_of_issues rfl htake h
    have hstep := step_of_bundleIssue hn hl hev hserved hx
    have hexec := exec_eq_runOne henc s1
    refine ⟨fun e he hkept => ⟨flushed (applyAll e (issuedAt i s1)), ?next, ?commits⟩, fun tr he => ⟨?trap, ?traps⟩⟩
    case next => rw [hexec, runOne_of_ok h he (by rw [flushed_trapped, hkept])]
    case commits =>
      have hcommits : tryIssue (accepts s core) n s = .commits (committed n l (soloEffects s0 k w i e) s) := by rw [htry, he]
      have hend : applyAll (soloEffects s0 k w i e) (s.opened n) = flushed (applyAll e (issuedAt i s1)) := applyAll_soloEffects e
      have hkeep : keepRead core (soloEffects s0 k w i e) (s.opened n) = keepRead core (e ++ flushStores (applyAll e (issuedAt i s1))) s1 :=
        keepRead_soloEffects e
      rw [hstep, done_eq, coreIssue_of_commits hx hown hcommits, Act.seqs, applyAll_seq, applyAll_committed, hend, hcore, hkeep,
        ← applyAll_seqs_append]
      rfl
    case trap => rw [hexec, runOne_of_error h he, show s1.cur.key = key from s.opened_key n]
    case traps =>
      have htraps : tryIssue (accepts s core) n s = .traps tr := by rw [htry, he]
      rw [hstep, done_eq, coreIssue_of_traps hx hown htraps, done_eq]

end Sys2Proof.Machine
end

section
/-!
The word of a decoded operation: the decoder reads a word's opcode and its fields, and the encoder writes those back (R54, R58 to R60, R71 to R75).
-/
namespace Sys2Proof

/-- The opcode of a word from its number (R54). -/
theorem ofNat_eq_opcode {w : Word} {n : Nat} (h : (w.extractLsb' 56 8).toNat = n) : BitVec.ofNat 8 n = w.extractLsb' 56 8 := by
  rw [← h, BitVec.ofNat_toNat, BitVec.setWidth_eq]

/-! Each row of a map takes the fields of the word in the row's format; the encoder puts them back under the row's opcode, which is the word's. -/

theorem encodeSlot_of_decodeS {w : Word} {i : Instr} (h : decodeS w = .ok i) : encodeSlot i = some (.s, w) := by
  simp only [decodeS] at h
  split at h
  all_goals try split_ifs at h
  all_goals cases h
  all_goals
    simp only [encodeSlot, ofNat_eq_opcode ‹_›, FmtR.toWord_ofWord, FmtI.toWord_ofWord, FmtX.toWord_ofWord, FmtA.toWord_ofWord, FmtY.toWord_ofWord]

theorem encodeSlot_of_decodeV {w : Word} {i : Instr} (h : decodeV w = .ok i) : encodeSlot i = some (.v, w) := by
  rw [decodeV] at h
  split at h
  all_goals cases h
  all_goals
    simp only [encodeSlot, ofNat_eq_opcode ‹_›, FmtR.toWord_ofWord, FmtI.toWord_ofWord, FmtX.toWord_ofWord, FmtA.toWord_ofWord]

theorem encodeSlot_of_decodeM {w : Word} {i : Instr} (h : decodeM w = .ok i) : encodeSlot i = some (.m, w) := by
  simp only [decodeM] at h
  split at h
  all_goals try split_ifs at h
  all_goals cases h
  all_goals
    simp only [encodeSlot, ofNat_eq_opcode ‹_›, FmtM.toWord_ofWord]

theorem encodeSlot_of_decodeC {w : Word} {i : Instr} (h : decodeC w = .ok i) : encodeSlot i = some (.c, w) := by
  rw [decodeC] at h
  split at h
  all_goals cases h
  all_goals
    simp only [encodeSlot, ofNat_eq_opcode ‹_›, FmtC.toWord_ofWord]

theorem encodeSlot_of_decodeB {w : Word} {i : Instr} (h : decodeB w = .ok i) : encodeSlot i = some (.b, w) := by
  simp only [decodeB] at h
  split at h
  all_goals try split_ifs at h
  all_goals cases h
  all_goals
    simp only [encodeSlot, ofNat_eq_opcode ‹_›, FmtJ.toWord_ofWord, FmtL.toWord_ofWord]

theorem encodeSlot_of_decodeSlot : ∀ {cls : SlotClass} {w : Word} {i : Instr}, decodeSlot cls w = .ok i → encodeSlot i = some (cls, w)
  | .s, _, _, h => encodeSlot_of_decodeS h
  | .v, _, _, h => encodeSlot_of_decodeV h
  | .m, _, _, h => encodeSlot_of_decodeM h
  | .c, _, _, h => encodeSlot_of_decodeC h
  | .b, _, _, h => encodeSlot_of_decodeB h

/-- Settles O53: an operation is encoded in one class and one word, those that it is decoded from. -/
theorem decodedWordIsItsEncoding : Obligations.DecodedWordIsItsEncoding := by
  refine ⟨fun _ _ _ => encodeSlot_of_decodeSlot, fun cls cls' v w i hv hw => ?_⟩
  have heq : some (cls, v) = some (cls', w) := (encodeSlot_of_decodeSlot hv).symm.trans (encodeSlot_of_decodeSlot hw)
  simpa using heq

end Sys2Proof
end

section
/-!
The branch slot (R60, R113 to R117): where a branch goes and what it costs, the masks that take BRALL and BRNONE, and the link of a call.
-/
namespace Sys2Proof

/-- Of two values set at one key the later stands. -/
@[simp] theorem Sparse.set_set {α : Type} (t : Sparse α) (i : Nat) (v w : α) : (t.set i v).set i w = t.set i w := by
  induction t with
  | nil => simp [Sparse.set]
  | cons x r ih =>
    obtain ⟨k, u⟩ := x
    by_cases hlt : i < k
    · simp [Sparse.set, hlt]
    · by_cases heq : k = i <;> simp [Sparse.set, hlt, heq, ih]

namespace Machine

/-! Targets and costs. -/

/-- The issue with the target of a branch: from slot B the target is also the outcome of the branch slot (R43, R113). -/
def Issue.goesTo (i : Issue) (a : Word) : Issue := { i with target := some a, branch := if i.slot = 6 then some a else i.branch }

/-- A context whose next issue waits for a cost of 3 cycles (R114). -/
def Ctx.fetchesLate (c : Ctx) (now : Nat) : Ctx := { c with notBefore := max c.notBefore (now + 4) }

@[simp] theorem applyAll_modCtx (k : Nat) (f : Ctx → Ctx) (s : State) : applyAll (modCtx k f s) s = { s with ctxs := s.ctxs.set k (f (s.ctx k)) } := rfl
theorem applyAll_seqs_cons (f : Act) (r : List Act) (s : State) :
    applyAll (Act.seqs (f :: r) s) s = applyAll (Act.seqs r (applyAll (f s) s)) (applyAll (f s) s) := applyAll_seq ..
@[simp] theorem applyAll_goTo (a : Word) (s : State) : applyAll (goTo a s) s = { s with cur := s.cur.goesTo a } := rfl
@[simp] theorem applyAll_branchCost_three (s : State) : applyAll (branchCost 3 s) s = s.withIssuer (s.issuer.fetchesLate s.now) := rfl

/-- A context that has taken the top of its return predictor (R114). -/
def Ctx.returned (c : Ctx) : Ctx := { c with predictor := c.predictor.drop 1 }

/-- What a conditional branch leaves (R114, R115): its target where it is taken, and its cost where its hint says otherwise. -/
def BranchOutcome (f : FmtJ) (taken : Bool) (s t : State) : Prop :=
  (t.cur.target = if taken then some (pcMask (s.cur.pc + f.disp.signExtend 64 * 8#64)) else s.cur.target) ∧
  (if taken = decide (f.hint = 1#2) then OnlyCur s t else OnlyCur (s.withIssuer (s.issuer.fetchesLate s.now)) t)

theorem applyAll_branchOn (f : FmtJ) (taken : Bool) (s : State) : applyAll (branchOn f taken s) s =
    { (if taken = decide (f.hint = 1#2) then s else s.withIssuer (s.issuer.fetchesLate s.now)) with
      cur := if taken then s.cur.goesTo (directJ s.cur f) else s.cur } := by
  rw [branchOn, applyAll_seq]
  by_cases hcost : taken = decide (f.hint = 1#2)
  · rw [if_pos hcost, if_pos hcost]
    cases taken <;> rfl
  · rw [if_neg hcost, if_neg hcost]
    cases taken <;> rfl

section
variable {i : Instr} {s : State} (h : Issues i s)
include h

/-- An operation of the branch slot answers what its changes leave, where they give the issue no store and no TRAP. -/
theorem answers_of_act {f : Act} (hx : exec i s = runOne i (Machine.act f) s) {t : State} (ht : applyAll (f (issuedAt i s)) (issuedAt i s) = t)
    (hs : t.cur.stores = s.cur.stores) (hp : t.cur.trapped = s.cur.trapped) {P : State → Prop} (hP : P t) : Answers i s P := by
  subst ht
  exact answers_of_ok h hx rfl (hs.trans h.stores) (hp.trans h.trapped) hP

/-- A conditional branch (R114, R115). -/
theorem answers_branchOn {f : FmtJ} {taken : Bool} {op : SlotOp} (hx : exec i s = runOne i op s)
    (ho : op (issuedAt i s) = .ok (branchOn f taken (issuedAt i s))) : Answers i s (BranchOutcome f taken s) := by
  have ht := applyAll_branchOn f taken (issuedAt i s)
  refine answers_of_ok h hx ho ?stores ?trapped ?outcome <;> rw [ht]
  case stores => rw [← h.stores]; cases taken <;> rfl
  case trapped => rw [← h.trapped]; cases taken <;> rfl
  case outcome =>
    constructor
    · cases taken <;> rfl
    · by_cases hcost : taken = decide (f.hint = 1#2)
      · rw [if_pos hcost, if_pos hcost]
        cases taken <;> exact ⟨rfl, rfl⟩
      · rw [if_neg hcost, if_neg hcost]
        cases taken <;> exact ⟨rfl, rfl⟩

end

/-- A branch on a comparison of two registers. -/
theorem branchesOn_compareBranch {i : Instr} {f : FmtJ} {cond : Word → Word → Bool} (hx : ∀ s, exec i s = runOne i (compareBranch f cond) s) :
    BranchesOn i f fun s => cond (s.src f.a) (s.src f.b) :=
  fun s h => answers_branchOn h (hx s) rfl

theorem branches : Clause.Branches := by
  have hslt (a b : Word) : (!a.slt b) = decide (b.toInt ≤ a.toInt) := by simp [BitVec.slt, ← decide_not]
  have hult (a b : Word) : (!a.ult b) = decide (b.toNat ≤ a.toNat) := by simp [BitVec.ult, ← decide_not]
  refine ⟨fun f s h => answers_of_act h rfl (applyAll_goTo _ _) rfl rfl ⟨⟨rfl, rfl⟩, rfl⟩,
    fun f => branchesOn_compareBranch (cond := fun a b => decide (a = b)) fun _ => rfl,
    fun f => branchesOn_compareBranch (cond := fun a b => decide (a ≠ b)) fun _ => rfl,
    fun f => branchesOn_compareBranch (cond := fun a b => a.slt b) fun _ => rfl, fun f => ?brge,
    fun f => branchesOn_compareBranch (cond := fun a b => a.ult b) fun _ => rfl, fun f => ?brgeu⟩
  case brge =>
    simp only [← hslt]
    exact branchesOn_compareBranch (cond := fun a b => !a.slt b) fun _ => rfl
  case brgeu =>
    simp only [← hult]
    exact branchesOn_compareBranch (cond := fun a b => !a.ult b) fun _ => rfl

/-! Masks. -/

theorem popCount_eq_iff (x n : Nat) : popCount x n = n ↔ ∀ k < n, x.testBit k = true := by
  conv_lhs => rhs; rw [← List.length_range (n := n)]
  rw [popCount, List.length_filter_eq_length_iff]
  simp [Nat.testBit_eq_decide_div_mod_eq]

theorem popCount_eq_zero_iff (x n : Nat) : popCount x n = 0 ↔ ∀ k < n, x.testBit k = false := by
  rw [popCount, List.length_eq_zero_iff, List.filter_eq_nil_iff]
  simp [Nat.testBit_eq_decide_div_mod_eq]

theorem maskCount_pos (b : OpName) : 0 < maskCount b := by
  rw [maskCount]
  split <;> decide

/-- BRALL, with `all`, and BRNONE (R116): a mask of ones alone, of zeros alone, and a mixed one. -/
theorem maskBranch_cases {i : Instr} {f : FmtJ} {all : Bool} {s : State} (h : Issues i s) (hx : exec i s = runOne i (maskBranch f all) s) :
    let m := s.issuer.mreg (f.a.extractLsb' 0 3).toNat
    let ones := ∀ k, k < maskCount f.b → m.getLsbD k = true
    let zeros := ∀ k, k < maskCount f.b → m.getLsbD k = false
    (ones → Answers i s (BranchOutcome f all s)) ∧ (zeros → Answers i s (BranchOutcome f (!all) s)) ∧
      (¬ ones → ¬ zeros → Traps i s { code := codeNonuniform, slots := slotBit (slotFor s i) }) := by
  intro m ones zeros
  have hones : popCount m.toNat (maskCount f.b) = maskCount f.b ↔ ones := popCount_eq_iff ..
  have hzeros : popCount m.toNat (maskCount f.b) = 0 ↔ zeros := popCount_eq_zero_iff ..
  have hop : maskBranch f all (issuedAt i s) = if popCount m.toNat (maskCount f.b) = maskCount f.b then .ok (branchOn f all (issuedAt i s))
      else if popCount m.toNat (maskCount f.b) = 0 then .ok (branchOn f (!all) (issuedAt i s))
      else .error { code := codeNonuniform, slots := slotBit (slotFor s i) } := rfl
  refine ⟨fun ho => answers_branchOn h hx ?_, fun hz => answers_branchOn h hx ?_, fun ho hz => traps_of_error h hx ?_⟩
  · rw [hop, if_pos (hones.mpr ho)]
  · have := maskCount_pos f.b
    rw [hop, if_neg (by rw [hzeros.mpr hz]; omega), if_pos (hzeros.mpr hz)]
  · rw [hop, if_neg (mt hones.mp ho), if_neg (mt hzeros.mp hz)]

theorem maskBranches : Clause.MaskBranches := by
  intro f s
  refine ⟨fun h => ?_, fun h => ?_⟩
  · exact maskBranch_cases h rfl
  · obtain ⟨hones, hzeros, hmixed⟩ := maskBranch_cases h (f := f) (all := false) rfl
    exact ⟨hzeros, hones, hmixed⟩

/-! Calls. -/

/-- A context that has called (R86, R114, R117): the link is on its way to `d`, to land on issue + 1, and stands on top of the predictor. -/
def Ctx.calls (c : Ctx) (now : Nat) (r : OpRec) (d : OpName) (link : Word) : Ctx :=
  { c with landings := c.landings ++ [⟨r, now + 1, .s d.toNat, .word link⟩], predictor := (link :: c.predictor).take 8 }

theorem applyAll_callLink (d : OpName) (a : Word) (s : State) :
    applyAll (callLink d a s) s = s.withIssuer (s.issuer.calls s.now { opRec s with ca := a } d (linkValue s.cur)) := by
  rw [callLink, applyAll_seq]
  simp [land, State.withIssuer, State.issuer, Ctx.calls]

/-- A state whose issue goes to an address and whose issuing context is written. -/
def State.goneTo (s : State) (c : Ctx) (a : Word) : State := { s.withIssuer c with cur := s.cur.goesTo a }

theorem applyAll_modCtx_goneTo (s : State) (c : Ctx) (a : Word) (g : Ctx → Ctx) :
    applyAll (modCtx s.cur.key g (s.goneTo c a)) (s.goneTo c a) = s.goneTo (g c) a := by
  rw [applyAll_modCtx, show (s.goneTo c a).ctx s.cur.key = c from Sparse.get_set_self ..]
  simp [State.goneTo, State.withIssuer]

/-- An operation of the branch slot that goes to an address and writes its context. -/
theorem answers_of_goneTo {i : Instr} {s : State} (h : Issues i s) {f : Act} (hx : exec i s = runOne i (Machine.act f) s) {a : Word} {c : Ctx}
    (ht : applyAll (f (issuedAt i s)) (issuedAt i s) = (issuedAt i s).goneTo c a) {P : State → Prop}
    (hP : ∀ t, t.cur.target = some a → OnlyCur (s.withIssuer c) t → P t) : Answers i s P :=
  answers_of_act h hx ht rfl rfl (hP _ rfl ⟨rfl, rfl⟩)

/-- The changes of a RET to an address at a cost (R114, R117). -/
def returning (a : Word) (cost : Nat) : Act := fun s => Act.seqs [goTo a, branchCost cost, modCtx s.cur.key Ctx.returned] s

theorem applyAll_returning_zero (a : Word) (s : State) : applyAll (returning a 0 s) s = s.goneTo s.issuer.returned a := rfl

theorem applyAll_returning_three (a : Word) (s : State) :
    applyAll (returning a 3 s) s = s.goneTo (s.issuer.fetchesLate s.now).returned a := by
  rw [returning, applyAll_seqs_cons, applyAll_goTo, applyAll_seqs_cons, applyAll_branchCost_three]
  exact applyAll_modCtx_goneTo s _ a Ctx.returned

theorem callsAndReturns : Clause.CallsAndReturns := by
  intro f s
  refine ⟨fun h => ?call, fun h => ?callRegister, fun h => ?ret, fun h => ?jr⟩
  case call =>
    let r : OpRec := { opRec (issuedAt (.call f) s) with ca := 0#64 }
    refine answers_of_goneTo h rfl (a := directJ s.cur f) (c := s.issuer.calls s.now r f.d (linkValue s.cur)) ?_
      fun t ht hc => ⟨ht, r, opRec_isOf _ _, hc⟩
    rw [applyAll_seq, applyAll_callLink, applyAll_goTo]
    rfl
  case callRegister =>
    let r : OpRec := { opRec (issuedAt (.callRegister f) s) with ca := s.src f.a }
    refine answers_of_goneTo h rfl (a := pcMask (s.src f.a)) (c := (s.issuer.calls s.now r f.d (linkValue s.cur)).fetchesLate s.now) ?_
      fun t ht hc => ⟨ht, r, opRec_isOf _ _, hc⟩
    rw [applyAll_seqs_cons, applyAll_callLink, applyAll_seqs_cons, applyAll_goTo]
    exact applyAll_modCtx_goneTo (issuedAt (.callRegister f) s) _ _ fun c => c.fetchesLate s.now
  case ret =>
    by_cases hp : s.issuer.predictor.head? = some (pcMask (s.src f.a))
    · simp only [if_pos hp]
      refine answers_of_goneTo h rfl (a := pcMask (s.src f.a)) (c := s.issuer.returned) ?_ fun t ht hc => ⟨ht, hc⟩
      have hcost : (if s.issuer.predictor.head? = some (pcMask (s.src f.a)) then 0 else 3) = 0 := if_pos hp
      exact (congrArg (fun n => applyAll (returning _ n _) _) hcost).trans (applyAll_returning_zero ..)
    · simp only [if_neg hp]
      refine answers_of_goneTo h rfl (a := pcMask (s.src f.a)) (c := (s.issuer.fetchesLate s.now).returned) ?_ fun t ht hc => ⟨ht, hc⟩
      have hcost : (if s.issuer.predictor.head? = some (pcMask (s.src f.a)) then 0 else 3) = 3 := if_neg hp
      exact (congrArg (fun n => applyAll (returning _ n _) _) hcost).trans (applyAll_returning_three ..)
  case jr =>
    refine answers_of_goneTo h rfl (a := pcMask (s.src f.a)) (c := s.issuer.fetchesLate s.now) ?_ fun t ht hc => ⟨ht, hc⟩
    rw [applyAll_seq, applyAll_goTo, applyAll_branchCost_three]
    rfl

/-- Settles O6: the comparisons of R115, the masks of R116, and the calls and returns of R117 (the return predictor is the model's choice, log entry 57). -/
theorem branchesAndCalls : Obligations.BranchesAndCalls := ⟨branches, maskBranches, callsAndReturns⟩

end Machine
end Sys2Proof
end

section
/-!
What changes leave alone: a list of changes keeps a part of the state where each of them does; and what stops, and the end of a task, keep (R231, R265).
-/
namespace Sys2Proof.Machine

/-- No change of a list touches a part of the state: `KeepsCur` is the case of the issue in progress. -/
def Keeps {α : Type} (p : State → α) (l : List Effect) : Prop := ∀ e ∈ l, ∀ s, p (applyEffect e s) = p s

section
variable {α : Type} {p : State → α}

theorem Keeps.applyAll {l : List Effect} (h : Keeps p l) (s : State) : p (applyAll l s) = p s := by
  induction l generalizing s with
  | nil => rfl
  | cons e r ih => rw [applyAll_cons, ih fun x hx => h x (List.mem_cons_of_mem _ hx), h e List.mem_cons_self]

theorem Keeps.nil : Keeps p [] := List.forall_mem_nil _

theorem Keeps.singleton {e : Effect} (h : ∀ s, p (applyEffect e s) = p s) : Keeps p [e] := List.forall_mem_singleton.mpr h

theorem Keeps.append {l r : List Effect} (hl : Keeps p l) (hr : Keeps p r) : Keeps p (l ++ r) := List.forall_mem_append.mpr ⟨hl, hr⟩

/-- What changes leave alone, they leave alone in part. -/
theorem Keeps.comp {β : Type} {l : List Effect} (h : Keeps p l) (f : α → β) : Keeps (fun s => f (p s)) l := fun e he s => congrArg f (h e he s)

theorem Keeps.map {β : Type} {l : List β} {f : β → Effect} (h : ∀ x s, p (applyEffect (f x) s) = p s) : Keeps p (l.map f) :=
  List.forall_mem_map.mpr fun x _ => h x

theorem Keeps.seq {f g : Act} {s : State} (hf : Keeps p (f s)) (hg : ∀ t, Keeps p (g t)) : Keeps p (Act.seq f g s) := hf.append (hg _)

theorem Keeps.seqs {l : List Act} (h : ∀ f ∈ l, ∀ s, Keeps p (f s)) (s : State) : Keeps p (Act.seqs l s) := by
  induction l generalizing s with
  | nil => exact Keeps.nil
  | cons f r ih => exact (h f List.mem_cons_self s).seq (ih fun g hg => h g (List.mem_cons_of_mem _ hg))

theorem Keeps.each {β : Type} {l : List β} {f : β → Act} (h : ∀ x ∈ l, ∀ s, Keeps p (f x s)) (s : State) : Keeps p (Act.each l f s) :=
  Keeps.seqs (List.forall_mem_map.mpr h) s

end

/-- The issue in progress and one context. -/
def issueAndCtx (key : Nat) (s : State) : Issue × Ctx := (s.cur, s.ctx key)

section
variable {key k : Nat} (h : k ≠ key)
include h

theorem issueAndCtx_ctx (c : Ctx) (s : State) : issueAndCtx key (applyEffect (.ctx k c) s) = issueAndCtx key s :=
  congrArg (Prod.mk s.cur) (State.ctx_set_ne s c h)

/-- The end of a task changes no context of another (R231). -/
theorem keeps_unbind (s : State) : Keeps (issueAndCtx key) (unbind k s) := by
  have hclaims : Keeps (issueAndCtx key) (dropClaims k s) := by
    unfold dropClaims
    dsimp only
    split_ifs
    · exact Keeps.singleton fun _ => rfl
    · exact Keeps.nil
  exact (((Keeps.singleton (issueAndCtx_ctx h _)).append hclaims).append (Keeps.map fun _ _ => rfl)).append (Keeps.map fun _ _ => rfl)

end

/-- What changes of accesses, copies, multicast stores and cores leave alone. -/
def beyondAccesses (s : State) : Nat × List Host.Cell × Issue × Sparse Ctx × Sparse Gang × Sparse Before :=
  (s.now, s.mem, s.cur, s.ctxs, s.gangs, s.before)

theorem keeps_freezeHeld (k : Nat) (s : State) : Keeps beyondAccesses (freezeHeld k s) := by
  unfold freezeHeld
  split_ifs
  · exact Keeps.nil
  · exact ((Keeps.map fun _ _ => rfl).append (Keeps.map fun _ _ => rfl)).append (Keeps.map fun _ _ => rfl)

theorem keeps_settleLines (k : Nat) (s : State) : Keeps beyondAccesses (settleLines k s) := by
  unfold settleLines
  split
  · split_ifs
    · exact Keeps.singleton fun _ => rfl
    · exact Keeps.nil
  · exact Keeps.nil

theorem Keeps.issueAndCtx {l : List Effect} (h : Keeps beyondAccesses l) (key : Nat) : Keeps (issueAndCtx key) l :=
  h.comp fun x => (x.2.2.1, Sparse.get ({} : Ctx) x.2.2.2.1 key)

/-- A context that an ended task stops is one of its own (R231). -/
theorem keeps_stopUnbind {key k : Nat} (h : k ≠ key) (s : State) : Keeps (issueAndCtx key) (stopUnbind k s) := by
  unfold stopUnbind
  dsimp only
  split
  · exact Keeps.nil
  · exact keeps_unbind h s
  · split
    · exact Keeps.singleton (issueAndCtx_ctx h _)
    · exact (((keeps_freezeHeld k s).append (keeps_settleLines k s)).issueAndCtx key).append (Keeps.singleton (issueAndCtx_ctx h _))

theorem keeps_endTask {key t : Nat} (code : BitVec 16) {s : State} (h : ∀ k ∈ taskContexts s t, k ≠ key) :
    Keeps (issueAndCtx key) (endTask t code s) := by
  unfold endTask
  split
  next => exact Keeps.nil
  next l _ =>
    refine Keeps.seqs ?_ s
    simp only [List.forall_mem_cons]
    refine ⟨fun s => ?launch, fun s => ?deques, fun s => ?saves, fun s => ?contexts, List.forall_mem_nil _⟩
    case launch =>
      unfold modLaunch
      split
      · exact Keeps.singleton fun _ => rfl
      · exact Keeps.nil
    case deques => exact Keeps.each (fun _ _ _ => Keeps.singleton fun _ => rfl) s
    case saves => exact Keeps.map fun _ _ => rfl
    case contexts => exact Keeps.each (fun k hk => keeps_stopUnbind (h k hk)) s

end Sys2Proof.Machine
end

section
/-!
The entry into SERVICE and the return from it (R53, R261, R263): what a context sets aside, and that it comes back.
-/
namespace Sys2Proof

/-- Values set at eight keys in a row are what the keys read as. -/
theorem Sparse.get_setEight {α : Type} (d : α) (t : Sparse α) (n : Nat) (f : Nat → α) (k : Nat) :
    ((List.range 8).foldl (fun t i => t.set (n + i) (f i)) t).get d k = if n ≤ k ∧ k < n + 8 then f (k - n) else t.get d k := by
  simp only [List.range_succ, List.range_zero, List.nil_append, List.foldl_cons, List.foldl_nil, List.cons_append, Sparse.get_set]
  by_cases hk : n ≤ k ∧ k < n + 8
  · obtain ⟨i, rfl⟩ := Nat.exists_eq_add_of_le hk.1
    have hi : i < 8 := by omega
    rw [if_pos hk]
    interval_cases i <;> simp
  · rw [if_neg hk]
    repeat rw [if_neg (by omega)]

namespace Machine

/-- The values of s56 to s63 at the start of a handler (R261). -/
def Ctx.handed (c : Ctx) (va : BitVec 52) (i : Nat) : Word := [c.trapcause, c.trapinfo, va.setWidth 64].getD i 0#64

section
variable {c : Ctx} (va : BitVec 52)

theorem enterService_sreg (k : Nat) : (enterService c va).sreg k = if 56 ≤ k ∧ k < 64 then c.handed va (k - 56) else c.sreg k := by
  have hs : (enterService c va).s = (List.range 8).foldl (fun t i => t.set (56 + i) (c.handed va i)) c.s := rfl
  rw [Ctx.sreg, Ctx.sreg, hs, Sparse.get_setEight]
  by_cases hk : k = 0
  · subst hk; rfl
  · rw [if_neg hk, if_neg hk]

theorem enterService_sticky (k : Nat) : (enterService c va).sticky k = if k = 0 ∨ k = 6 then {} else c.sticky k := by
  have hs : (enterService c va).slots = (c.slots.set 0 {}).set 6 {} := rfl
  rw [Ctx.sticky, Ctx.sticky, hs, Sparse.get_set, Sparse.get_set]
  by_cases hk : k = 0 ∨ k = 6
  · rcases hk with rfl | rfl <;> rfl
  · rw [if_neg (by omega), if_neg (by omega), if_neg hk]

variable (h : c.aside = none)
include h

/-- The entry into SERVICE sets aside the place of the next issue, the sticky S and B slots, and s56 to s63 with their empty marks (R261). -/
theorem enterService_aside : (enterService c va).aside = some
    { pc := c.pc, bseq := c.bseq, repleft := c.repleft, s0w := c.sticky 0, s6w := c.sticky 6, sregs := (List.range 8).map fun i => c.sreg (56 + i),
      sfull := c.emptyS.extractLsb' 56 8 } := by
  simp only [enterService, h]

/-- A handler that leaves at once leaves the registers of its context as they were (R261, R263). -/
theorem leaveService_enterService_sreg (n k : Nat) : (leaveService (enterService c va) n).sreg k = c.sreg k := by
  have hs : (leaveService (enterService c va) n).s =
      (List.range 8).foldl (fun t i => t.set (56 + i) (((List.range 8).map fun i => c.sreg (56 + i)).getD i 0#64)) (enterService c va).s := by
    simp only [leaveService, enterService_aside va h]
  rw [Ctx.sreg, hs, Sparse.get_setEight]
  by_cases h0 : k = 0
  · subst h0; rfl
  · rw [if_neg h0]
    have hr := enterService_sreg (c := c) va k
    split_ifs with hk
    · obtain ⟨i, rfl⟩ := Nat.exists_eq_add_of_le hk.1
      rw [Nat.add_sub_cancel_left, List.getD_eq_getElem?_getD, List.getElem?_map, List.getElem?_range (by omega)]
      rfl
    · rw [if_neg hk, Ctx.sreg, if_neg h0] at hr
      exact hr

theorem leaveService_enterService_slots (n : Nat) :
    (leaveService (enterService c va) n).slots = ((enterService c va).slots.set 0 (c.sticky 0)).set 6 (c.sticky 6) := by
  simp only [leaveService, enterService_aside va h]

end

/-- The empty marks of s56 to s63 and those of the other registers make up the word (R261). -/
theorem append_extractLsb'_and_low (x : Word) : x.extractLsb' 56 8 ++ (x &&& 0x00FFFFFFFFFFFFFF#64).extractLsb' 0 56 = x := by
  have hlow : (x &&& 0x00FFFFFFFFFFFFFF#64).extractLsb' 0 56 = x.extractLsb' 0 56 := by
    rw [BitVec.extractLsb'_and, show (0x00FFFFFFFFFFFFFF#64).extractLsb' 0 56 = BitVec.allOnes 56 by decide, BitVec.and_allOnes]
  rw [hlow, BitVec.extractLsb'_append_extractLsb'_eq_extractLsb' (by decide)]
  exact BitVec.extractLsb'_eq_self

theorem serviceEntryAndReturn : Clause.ServiceEntryAndReturn := by
  intro c va h
  have ha := enterService_aside va h
  have hr := enterService_sreg (c := c) va
  have hk := enterService_sticky (c := c) va
  have hslots := leaveService_enterService_slots va h
  refine ⟨⟨rfl, rfl, rfl, rfl, rfl, hr 56, hr 57, hr 58, fun k h1 h2 => ?high, fun k h1 => ?low, hk 0, hk 6, fun k h0 h6 => ?sticky, ?empty, rfl, rfl, rfl⟩,
    fun n => ⟨rfl, ?pc, ?bseq, ?repleft, ?sticky0, ?sticky6, fun k _ => leaveService_enterService_sreg va h n k, ?emptyS, ?aside, rfl⟩⟩
  case high =>
    rw [hr, if_pos ⟨by omega, h2⟩, Ctx.handed, List.getD_eq_default _ _ (by simp; omega)]
  case low => rw [hr, if_neg (by omega)]
  case sticky => rw [hk, if_neg (by tauto)]
  case empty =>
    rw [show (enterService c va).emptyS = c.emptyS &&& 0x00FFFFFFFFFFFFFF#64 from rfl, BitVec.extractLsb'_and,
      show (0x00FFFFFFFFFFFFFF#64).extractLsb' 56 8 = 0#8 by decide, BitVec.and_zero]
  case pc => simp only [leaveService, ha]
  case bseq => simp only [leaveService, ha]
  case repleft => simp only [leaveService, ha]
  case sticky0 => rw [Ctx.sticky, hslots, Sparse.get_set_ne _ _ _ (by decide), Sparse.get_set_self]
  case sticky6 => rw [Ctx.sticky, hslots, Sparse.get_set_self]
  case emptyS =>
    simp only [leaveService, ha]
    exact append_extractLsb'_and_low c.emptyS
  case aside => simp only [leaveService, ha]

end Machine
end Sys2Proof
end

section
/-!
RESUME (R270, R271, R277, R280): its validation, the return of a context whose queue is empty, and the forms of a service core.
-/
namespace Sys2Proof

/-- The keys of a table that rise from a bound are no smaller than it. -/
theorem Sparse.le_of_mem {α : Type} {t : Sparse α} {a k : Nat} {v : α} (w : Sparse.risingFrom a t = true) (h : (k, v) ∈ t) : a ≤ k := by
  induction t generalizing a with
  | nil => cases h
  | cons x r ih =>
    simp only [Sparse.risingFrom, Bool.and_eq_true, decide_eq_true_eq] at w
    rcases List.mem_cons.mp h with rfl | hr
    · exact w.1
    · exact (Nat.le_succ_of_le w.1).trans (ih w.2 hr)

/-- In a table in canonical form every pair listed is the value of its key. -/
theorem Sparse.get_of_mem {α : Type} {d : α} {t : Sparse α} {a k : Nat} {v : α} (w : Sparse.risingFrom a t = true) (h : (k, v) ∈ t) :
    t.get d k = v := by
  induction t generalizing a with
  | nil => cases h
  | cons x r ih =>
    obtain ⟨j, u⟩ := x
    simp only [Sparse.risingFrom, Bool.and_eq_true, decide_eq_true_eq] at w
    rcases List.mem_cons.mp h with heq | hr
    · cases heq
      simp [Sparse.get]
    · have hlt := Sparse.le_of_mem w.2 hr
      rw [Sparse.get, if_neg (by omega), if_neg (by omega)]
      exact ih w.2 hr

namespace Machine

/-- A context of a task in a table in canonical form is bound to the task. -/
theorem ctx_task_of_mem_taskContexts {s : State} (w : s.ctxs.wf = true) {t k : Nat} (h : k ∈ taskContexts s t) : (s.ctx k).task = some t := by
  simp only [taskContexts, List.mem_map, List.mem_filter] at h
  obtain ⟨⟨_, c⟩, ⟨hmem, hc⟩, rfl⟩ := h
  simp only [Bool.and_eq_true, decide_eq_true_eq] at hc
  rw [show s.ctx _ = c from Sparse.get_of_mem w hmem]
  exact hc.1

@[simp] theorem slotClass_slotFor {i : Instr} {cls : SlotClass} {w : Word} (s : State) (he : encodeSlot i = some (cls, w)) :
    slotClass (slotFor s i) = cls := by
  simp only [slotFor, he]
  split_ifs with h
  · exact h
  · exact slotClass_slot cls

/-- The slot of an operation issued alone is that of its issue. -/
theorem slotFor_of_slot {i : Instr} {s u : State} (h : u.cur.slot = slotFor s i) : slotFor u i = slotFor s i := by
  match he : encodeSlot i with
  | none => simp only [slotFor, he]
  | some (cls, w) =>
    have hc := slotClass_slotFor s he
    rw [slotFor, he]
    dsimp only
    rw [h, if_pos hc]

/-- The record of an operation issued alone is of its issue also where only the rest of the state has changed. -/
theorem opRec_isOf_of_issueAndCtx {i : Instr} {s u : State} (h : issueAndCtx s.cur.key u = issueAndCtx s.cur.key (issuedAt i s)) :
    (opRec (issuedAt i s)).isOf i u := by
  obtain ⟨hcur, hctx⟩ := Prod.ext_iff.mp h
  change u.cur = issueOf i s at hcur
  have hissuer : u.issuer = s.issuer := by
    rw [State.issuer, hcur]
    exact hctx
  refine ⟨by rw [hissuer]; rfl, ?_, by rw [hcur]; rfl, by rw [hcur]; rfl⟩
  rw [slotFor_of_slot (s := s) (by rw [hcur]; rfl)]
  rfl

/-! The queue of a context. -/

/-- A context that has returned with no record left to reissue (R271, R280). -/
def Ctx.backFrom (c : Ctx) (from_ : Nat) : Ctx := { leaveService c from_ with kept := [], heldReads := [] }

/-- A lockstep member that has resumed and waits for its gang (R277). -/
def Ctx.heldForGang (c : Ctx) (now t0 : Nat) : Ctx :=
  { leaveService c t0 with vtcount := c.vtcount, mode := .stopping, stop := some { kind := .peer, t := now, wasHalted := c.parkedFromHalted },
                           held := true, resumed := true, resumeAt := t0 }

@[simp] theorem validate_issuedAt (i : Instr) (s : State) (key : Nat) : validate (issuedAt i s) key = validate s key := rfl

section
variable {s : State} {key : Nat} (t0 : Nat)

theorem resumeCtx_of_lock (h : (s.ctx key).lock = true) : resumeCtx key t0 s = [.ctx key ((s.ctx key).heldForGang s.now t0)] := if_pos h

variable (h : (s.ctx key).vtcount = 0#9)
include h

theorem vitrineQueue_of_empty : vitrineQueue s.mem key (s.ctx key) = [] := by rw [vitrineQueue, h]; rfl

theorem validate_of_empty : validate s key = none := by
  simp only [validate, vitrineQueue_of_empty h, h]
  rfl

theorem reissueAll_of_empty : reissueAll key t0 s = [.ctx key { s.ctx key with vtcount := 0#9, kept := [], heldReads := [] }] := by
  simp only [reissueAll, vitrineQueue_of_empty h, reissueQueue, holdsNamed]
  simp [Act.seq, Act.when, modCtx]

theorem applyAll_returnFrom_of_empty :
    applyAll (returnFrom key t0 s) s = { s with ctxs := s.ctxs.set key ((s.ctx key).backFrom (t0 + 1)) } := by
  let c : Ctx := { leaveService (s.ctx key) (t0 + 1) with vtcount := (s.ctx key).vtcount }
  let u : State := { s with ctxs := s.ctxs.set key c }
  have hc : u.ctx key = c := State.ctx_set s key c
  have hreissue := reissueAll_of_empty (s := u) (key := key) t0 (by rw [hc]; exact h)
  rw [returnFrom]
  dsimp only
  rw [applyAll_seq, applyAll_modCtx, hreissue, hc, applyAll_cons, applyAll_nil, applyEffect_ctx, Sparse.set_set]
  rfl

theorem applyAll_resumeCtx_of_empty (hl : (s.ctx key).lock = false) :
    applyAll (resumeCtx key t0 s) s = { s with ctxs := s.ctxs.set key ((s.ctx key).backFrom (t0 + 1)) } := by
  rw [resumeCtx, hl]
  exact applyAll_returnFrom_of_empty t0 h

end

theorem leaveService_aside (c : Ctx) (n : Nat) : (leaveService c n).aside = none := by
  unfold leaveService
  cases h : c.aside <;> simp [h]

section
variable {f : FmtY} {s : State}

theorem opResume_of_fault {k : Nat} {why : BitVec 8} (h : validate s s.cur.key = some (k, why)) : opResume f (issuedAt (.resume f) s) =
    .error { code := codeResumeBad, why := why, idx := BitVec.ofNat 16 k, slots := slotBit (slotFor s (.resume f)) } := by
  simp only [opResume, issuedAt_key, validate_issuedAt, h]
  rfl

theorem opResume_of_valid (h : validate s s.cur.key = none) :
    opResume f (issuedAt (.resume f) s) = .ok (resumeCtx s.cur.key (s.now + 1) (issuedAt (.resume f) s)) := by
  simp only [opResume, issuedAt_key, validate_issuedAt, h]
  rfl

/-- RESUME of a valid queue answers what the resumption makes of its context. -/
theorem answers_resume (h : Issues (.resume f) s) (hv : validate s s.cur.key = none) {c : Ctx}
    (ht : applyAll (resumeCtx s.cur.key (s.now + 1) (issuedAt (.resume f) s)) (issuedAt (.resume f) s) = (issuedAt (.resume f) s).withIssuer c)
    {P : State → Prop} (hP : ∀ t, t.issuer = c → OnlyCur (s.withIssuer t.issuer) t → P t) : Answers (.resume f) s P := by
  refine answers_of_ok h rfl (opResume_of_valid hv) ?_ ?_ ?_ <;> rw [ht]
  · exact h.stores
  · exact h.trapped
  · have hc := State.withIssuer_issuer (issuedAt (.resume f) s) c
    exact hP _ hc (by rw [hc]; exact ⟨rfl, rfl⟩)

end

/-- RESUME of the own form (R270, R277, R280). -/
theorem resume_ownForm (f : FmtY) (s : State) (h : Issues (.resume f) s) :
    (∀ k why, validate s s.cur.key = some (k, why) → Traps (.resume f) s
      { code := codeResumeBad, why := why, idx := BitVec.ofNat 16 k, slots := slotBit (slotFor s (.resume f)) }) ∧
    (s.issuer.vtcount = 0#9 → s.issuer.lock = false → Answers (.resume f) s fun t =>
      t.issuer = s.issuer.backFrom (s.now + 2) ∧ OnlyCur (s.withIssuer t.issuer) t) ∧
    (s.issuer.vtcount = 0#9 → s.issuer.lock = true → Answers (.resume f) s fun t =>
      t.issuer = s.issuer.heldForGang s.now (s.now + 1) ∧ OnlyCur (s.withIssuer t.issuer) t) := by
  refine ⟨fun k why hv => traps_of_error h rfl (opResume_of_fault hv), fun hq hl => ?_, fun hq hl => ?_⟩
  · have ht := applyAll_resumeCtx_of_empty (s := issuedAt (.resume f) s) (key := s.cur.key) (s.now + 1) hq hl
    exact answers_resume h (validate_of_empty hq) ht fun t hc ho => ⟨hc, ho⟩
  · have hr := resumeCtx_of_lock (s := issuedAt (.resume f) s) (key := s.cur.key) (s.now + 1) hl
    exact answers_resume h (validate_of_empty hq) (by rw [hr]; rfl) fun t hc ho => ⟨hc, ho⟩

/-! The form of a service core. -/

/-- The context that an operation of a service core acts on: the selected one (R280, R282). -/
def State.selected (s : State) : Nat := s.issuer.vtsel.getD s.cur.key

/-- Why RESUME on a service core does not resume its context (R280): it is not parked, or its queue fails validation. -/
def resumeFault (s : State) : Option (Nat × BitVec 8) := if (s.ctx s.selected).mode ≠ .parked then some (0, 0#8) else validate s s.selected

theorem resumeFault_of_not_parked {s : State} (h : (s.ctx s.selected).mode ≠ .parked) : resumeFault s = some (0, 0#8) := if_pos h
theorem resumeFault_of_parked {s : State} (h : (s.ctx s.selected).mode = .parked) : resumeFault s = validate s s.selected := if_neg (not_not.mpr h)

theorem toNat_append_eq_add {m n : Nat} (x : BitVec m) (y : BitVec n) : (x ++ y).toNat = x.toNat * 2 ^ n + y.toNat := by
  rw [BitVec.toNat_append, ← Nat.shiftLeft_add_eq_or_of_lt y.isLt, Nat.shiftLeft_eq]

theorem resumeStatus_some {n : Nat} (why : BitVec 8) (h : n < 2 ^ 16) :
    resumeStatus (some (n, why)) = BitVec.ofNat 64 (2 ^ 63 + n * 2 ^ 16 + why.toNat * 2 ^ 8) := by
  have hw := why.isLt
  have hv : (resumeStatus (some (n, why))).toNat = 2 ^ 63 + n * 2 ^ 16 + why.toNat * 2 ^ 8 := by
    simp only [resumeStatus, toNat_append_eq_add, BitVec.toNat_ofNat]
    omega
  rw [← hv, BitVec.ofNat_toNat, BitVec.setWidth_eq]

theorem opResumeServiceCore_eq (f : FmtY) (s : State) : opResumeServiceCore f s = .ok (Act.seq
    (Act.when (resumeFault s).isNone (resumeCtx s.selected (s.now + 16)))
    (land (opRec s) 2 (.s f.d.toNat) (.word (resumeStatus (resumeFault s)))) s) := rfl

/-- A RESUME that fails lands its status and changes nothing else (R280). -/
theorem lands_of_resumeFault {f : FmtY} {s : State} (h : Issues (.resumeServiceCore f) s) {x : Nat × BitVec 8} (hx : resumeFault s = some x) :
    Answers (.resumeServiceCore f) s fun t => Lands (.resumeServiceCore f) s t 2 (.s f.d.toNat) (.word (resumeStatus (some x))) := by
  have hx' : resumeFault (issuedAt (.resumeServiceCore f) s) = some x := hx
  refine lands_of_land h (opRec_isOf _ _) ?_
  rw [opResumeServiceCore_eq, hx']
  rfl

/-- A result put on its way in a state that is another but for the issue in progress. -/
theorem lands_of_onlyCur {i : Instr} {w u : State} (h : OnlyCur w u) {r : OpRec} (hr : r.isOf i w) (n : Nat) (d : Dest) (v : Result) :
    Lands i w (applyAll (land r n d v u) u) n d v := by
  obtain ⟨hu, hk⟩ := h
  refine ⟨r, hr, ?_, hk⟩
  rw [hu]
  simp only [land, applyAll_modCtx, State.withIssuer, State.issuer, hk]
  rfl

/-- A result put on its way where another context than the issuer's has been written. -/
theorem lands_of_other_ctx {i : Instr} {s : State} {k : Nat} (hk : k ≠ s.cur.key) (c : Ctx) {r : OpRec} (hr : r.isOf i s) (n : Nat) (d : Dest) (v : Result) :
    let w : State := { s with ctxs := s.ctxs.set k c }
    let u : State := { issuedAt i s with ctxs := (issuedAt i s).ctxs.set k c }
    Lands i w (applyAll (land r n d v u) u) n d v := by
  intro w u
  have hc : w.issuer = s.issuer := State.ctx_set_ne s c hk
  have hw : r.isOf i w := by rwa [OpRec.isOf, hc]
  have ho : OnlyCur w u := ⟨rfl, rfl⟩
  exact lands_of_onlyCur ho hw n d v

/-- An operation that makes changes, which leave the issue alone, and then puts a result on its way. -/
theorem answers_of_land_after {i : Instr} {s u : State} (h : Issues i s) {op : SlotOp} (hx : exec i s = runOne i op s) {f : Act} {r : OpRec}
    {n : Nat} {d : Dest} {v : Result} (ho : op (issuedAt i s) = .ok (Act.seq f (land r n d v) (issuedAt i s)))
    (hf : applyAll (f (issuedAt i s)) (issuedAt i s) = u) (hcur : u.cur = (issuedAt i s).cur) {P : State → Prop}
    (hP : P (applyAll (land r n d v u) u)) : Answers i s P := by
  have ht : applyAll (Act.seq f (land r n d v) (issuedAt i s)) (issuedAt i s) = applyAll (land r n d v u) u := by rw [applyAll_seq, hf]
  have hc : (applyAll (land r n d v u) u).cur = (issuedAt i s).cur := hcur
  refine answers_of_ok h hx ho ?_ ?_ (by rwa [ht]) <;> rw [ht, hc]
  · exact h.stores
  · exact h.trapped

theorem resume_serviceCore (f : FmtY) (s : State) (h : Issues (.resumeServiceCore f) s) :
    let t0 := s.ctx s.selected
    (t0.mode ≠ .parked → Answers (.resumeServiceCore f) s fun t =>
      Lands (.resumeServiceCore f) s t 2 (.s f.d.toNat) (.word 0x8000000000000000#64)) ∧
    (∀ n why, t0.mode = .parked → validate s s.selected = some (n, why) → n < 2 ^ 16 → Answers (.resumeServiceCore f) s fun t =>
      Lands (.resumeServiceCore f) s t 2 (.s f.d.toNat) (.word (BitVec.ofNat 64 (2 ^ 63 + n * 2 ^ 16 + why.toNat * 2 ^ 8)))) ∧
    (t0.mode = .parked → s.selected ≠ s.cur.key → t0.vtcount = 0#9 → t0.lock = false → Answers (.resumeServiceCore f) s fun t =>
      Lands (.resumeServiceCore f) { s with ctxs := s.ctxs.set s.selected (t0.backFrom (s.now + 17)) } t 2 (.s f.d.toNat) (.word 0#64)) := by
  intro t0
  refine ⟨fun hm => lands_of_resumeFault h (resumeFault_of_not_parked hm), fun n why hm hv hn => ?invalid, fun hm hk hq hl => ?resumes⟩
  case invalid =>
    rw [← resumeStatus_some why hn]
    exact lands_of_resumeFault h ((resumeFault_of_parked hm).trans hv)
  case resumes =>
    have hnone : resumeFault (issuedAt (.resumeServiceCore f) s) = none := (resumeFault_of_parked hm).trans (validate_of_empty hq)
    have ho := opResumeServiceCore_eq f (issuedAt (.resumeServiceCore f) s)
    rw [hnone] at ho
    have hf := applyAll_resumeCtx_of_empty (s := issuedAt (.resumeServiceCore f) s) (key := s.selected) (s.now + 16) hq hl
    exact answers_of_land_after h rfl ho hf rfl (lands_of_other_ctx hk _ (opRec_isOf _ _) _ _ _)

theorem opResumeEnd_of_parked {f : FmtY} {s : State} {task : Nat} (hm : (s.ctx s.selected).mode = .parked)
    (ht : (s.ctx s.selected).task = some task) :
    let v := (s.src f.a).extractLsb' 0 16
    opResumeEnd f s = .ok (Act.seq (endTask task (if v = 0#16 then (s.ctx s.selected).trapcause.extractLsb' 0 16 else v))
      (land (opRec s) 2 (.s f.d.toNat) (.word 0#64)) s) := by
  have hsel : selectedCtx s = s.selected := rfl
  simp only [opResumeEnd, act, hsel, hm, ht, ne_eq, not_true_eq_false, if_false]
  rfl

/-- What RESUME.END ends (R280): the task of the selected context, with a code that is given or, as 0, that of the trap. -/
theorem resumeEnd (f : FmtY) (s : State) (h : Issues (.resumeEnd f) s) :
    let t0 := s.ctx s.selected
    let v := (s.src f.a).extractLsb' 0 16
    (t0.mode ≠ .parked → Answers (.resumeEnd f) s fun t => Lands (.resumeEnd f) s t 2 (.s f.d.toNat) (.word 0x8000000000000000#64)) ∧
    (∀ task, t0.mode = .parked → t0.task = some task → s.issuer.task ≠ some task → s.ctxs.wf = true → Answers (.resumeEnd f) s fun t => ∃ u, Lands (.resumeEnd f)
      u t 2 (.s f.d.toNat) (.word 0#64) ∧ u = applyAll (endTask task (if v = 0#16 then t0.trapcause.extractLsb' 0 16 else v) (issuedAt (.resumeEnd f) s))
        (issuedAt (.resumeEnd f) s)) := by
  intro t0 v
  refine ⟨fun hm => lands_of_land h (opRec_isOf _ _) (congrArg Except.ok (if_pos hm)), fun task hm ht hne w => ?_⟩
  have ho := opResumeEnd_of_parked (f := f) (s := issuedAt (.resumeEnd f) s) hm ht
  have hothers : ∀ k ∈ taskContexts (issuedAt (.resumeEnd f) s) task, k ≠ s.cur.key := by
    rintro k hk rfl
    exact hne (ctx_task_of_mem_taskContexts w hk)
  generalize hu : applyAll (endTask task (if v = 0#16 then t0.trapcause.extractLsb' 0 16 else v) (issuedAt (.resumeEnd f) s))
    (issuedAt (.resumeEnd f) s) = u
  have hkeep : issueAndCtx s.cur.key u = issueAndCtx s.cur.key (issuedAt (.resumeEnd f) s) := hu ▸ (keeps_endTask _ hothers).applyAll _
  refine answers_of_land_after h rfl ho hu (congrArg Prod.fst hkeep) ⟨u, lands_of_onlyCur ⟨rfl, rfl⟩ ?_ _ _ _, rfl⟩
  exact opRec_isOf_of_issueAndCtx hkeep

theorem resumption : Clause.Resumption := by
  refine ⟨fun f s h => ?_, resume_serviceCore, resumeEnd⟩
  obtain ⟨hbad, hback, hheld⟩ := resume_ownForm f s h
  refine ⟨hbad, hback, fun hq hl => ?_⟩
  obtain ⟨t, ht, hc, ho⟩ := hheld hq hl
  refine ⟨t, ht, ho, ?_⟩
  rw [hc]
  exact ⟨rfl, rfl, rfl, rfl, leaveService_aside _ (s.now + 1)⟩

/-- Settles O36: what is set aside comes back, and RESUME in its three forms. -/
theorem serviceAndResumption : Obligations.ServiceAndResumption := ⟨serviceEntryAndReturn, resumption⟩

end Machine
end Sys2Proof
end

section
/-!
The end of a core's cycle (R277, R286, R336): YIELDs that are over, and a core on which no rollback and no held gang goes on.
-/
namespace Sys2Proof

/-- The keys of the pairs of a table whose values meet a condition are the same after a value was set that meets it as the value before did; where the key
was absent, neither does. -/
theorem Sparse.keys_filter_set {α : Type} {d : α} {p : α → Bool} (hd : p d = false) (t : Sparse α) (k : Nat) {v : α} (h : p v = p (t.get d k)) :
    ((t.set k v).filter fun x => p x.2).map Prod.fst = (t.filter fun x => p x.2).map Prod.fst := by
  induction t with
  | nil =>
    have hv : p v = false := h.trans hd
    simp [Sparse.set, hv]
  | cons x r ih =>
    obtain ⟨j, w⟩ := x
    by_cases heq : j = k
    · subst heq
      have hv : p v = p w := by rw [h, Sparse.get, if_pos rfl]
      simp [Sparse.set, List.filter_cons, hv]
      split_ifs <;> rfl
    · by_cases hlt : k < j
      · have hv : p v = false := by rw [h, Sparse.get, if_neg heq, if_pos hlt, hd]
        simp [Sparse.set, hlt, List.filter_cons, hv]
      · have hr : p v = p (Sparse.get d r k) := by rw [h, Sparse.get, if_neg heq, if_neg hlt]
        simp [Sparse.set, hlt, heq, List.filter_cons]
        split_ifs <;> simp [ih hr]

/-- Values set at several keys, each the same at a key wherever it stands in the list. -/
theorem Sparse.get_foldl_set {α : Type} (d : α) (l : List Nat) (g : Nat → α) (t : Sparse α) (k : Nat) :
    (l.foldl (fun t k => t.set k (g k)) t).get d k = if k ∈ l then g k else t.get d k := by
  induction l generalizing t with
  | nil => rfl
  | cons j r ih =>
    rw [List.foldl_cons, ih, Sparse.get_set]
    by_cases hr : k ∈ r
    · rw [if_pos hr, if_pos (List.mem_cons_of_mem _ hr)]
    · by_cases hj : j = k
      · subst hj; rw [if_neg hr, if_pos rfl, if_pos List.mem_cons_self]
      · rw [if_neg hr, if_neg hj, if_neg (by simp [hr, Ne.symm hj])]

namespace Machine

/-! What a part that does nothing leaves. -/

theorem Act.seq_eq_nil {f g : Act} {s : State} (hf : f s = []) (hg : g s = []) : Act.seq f g s = [] := by
  rw [Act.seq, hf]
  exact hg

theorem Act.each_eq_nil {α : Type} {l : List α} {f : α → Act} {s : State} (h : ∀ x ∈ l, f x s = []) : Act.each l f s = [] := by
  induction l with
  | nil => rfl
  | cons x r ih => exact Act.seq_eq_nil (h x List.mem_cons_self) (ih fun y hy => h y (List.mem_cons_of_mem _ hy))

/-! Gangs, as the resumption of a gang looks at them. -/

/-- What rollbacks and the resumption of gangs read of a context (R277, R336). -/
def Ctx.gangView (c : Ctx) : Mode × Bool × Bool × Bool × Option Nat × Nat × Nat :=
  (c.mode, c.held, c.resumed, c.lock, c.task, c.index, c.phase.stage)

/-- Two states whose contexts and gangs are alike to rollbacks and the resumption of gangs. -/
structure SameGangs (s t : State) : Prop where
  view : ∀ k, (t.ctx k).gangView = (s.ctx k).gangView
  members : ∀ task, gangMembers t task = gangMembers s task

theorem SameGangs.trans {s t u : State} (h : SameGangs s t) (k : SameGangs t u) : SameGangs s u :=
  ⟨fun x => (k.view x).trans (h.view x), fun x => (k.members x).trans (h.members x)⟩

theorem SameGangs.of_ctxs_eq {s t : State} (h : t.ctxs = s.ctxs) : SameGangs s t :=
  ⟨fun k => by rw [State.ctx, h]; rfl, fun task => by rw [gangMembers, h]; rfl⟩

/-- A context written so that it looks as before to a gang. -/
theorem SameGangs.set {s : State} {k : Nat} {c : Ctx} (h : c.gangView = (s.ctx k).gangView) : SameGangs s { s with ctxs := s.ctxs.set k c } := by
  refine ⟨fun j => ?_, fun task => ?_⟩
  · by_cases hj : k = j
    · subst hj; rw [State.ctx_set, h]
    · rw [State.ctx_set_ne s c hj]
  · let p (c : Ctx) : Bool := c.task = some task && c.index = 0 && c.mode ≠ .unbound
    have hp : p c = p (s.ctxs.get {} k) := by
      simp only [Ctx.gangView, Prod.mk.injEq, State.ctx] at h
      obtain ⟨hm, -, -, -, ht, hi, -⟩ := h
      simp only [p, hm, ht, hi]
    exact Sparse.keys_filter_set (p := p) rfl s.ctxs k hp

theorem SameGangs.foldl_set {g : Nat → Ctx} (l : List Nat) {s : State} (h : ∀ k, (g k).gangView = (s.ctx k).gangView) :
    SameGangs s { s with ctxs := l.foldl (fun t k => t.set k (g k)) s.ctxs } := by
  induction l generalizing s with
  | nil => exact .of_ctxs_eq rfl
  | cons k r ih =>
    have hk := SameGangs.set (h k)
    exact hk.trans (ih fun j => (h j).trans (hk.view j).symm)

theorem SameGangs.gangHeld_eq {s t : State} (h : SameGangs s t) (key : Nat) : gangHeld t (lockMembers t key) = gangHeld s (lockMembers s key) := by
  have hview (k : Nat) := h.view k
  simp only [Ctx.gangView, Prod.mk.injEq] at hview
  have hms : lockMembers t key = lockMembers s key := by
    rw [lockMembers, lockMembers, (hview key).2.2.2.2.1]
    split
    · exact h.members _
    · rfl
  simp only [hms, gangHeld, fun k => (hview k).1, fun k => (hview k).2.1, fun k => (hview k).2.2.1]

/-! The end of a cycle. -/

/-- No rollback and no held gang goes on on a core. -/
def Quiet (s : State) (core : Nat) : Prop := ∀ x < contextsOf core, (s.ctx (keyOf core x)).phase.stage = 0 ∧
  ((s.ctx (keyOf core x)).lock && gangHeld s (lockMembers s (keyOf core x))) = false

theorem Quiet.of_sameGangs {s t : State} {core : Nat} (h : Quiet s core) (g : SameGangs s t) : Quiet t core := by
  intro x hx
  obtain ⟨hstage, hheld⟩ := h x hx
  have hview := g.view (keyOf core x)
  simp only [Ctx.gangView, Prod.mk.injEq] at hview
  obtain ⟨-, -, -, hlock, -, -, hst⟩ := hview
  exact ⟨hst.trans hstage, by rw [hlock, g.gangHeld_eq]; exact hheld⟩

theorem advanceRollback_of_stage_zero {s : State} {key : Nat} (h : (s.ctx key).phase.stage = 0) : advanceRollback key s = [] := by
  simp [advanceRollback, h]

theorem endCycle_of_quiet {s : State} {core : Nat} (h : Quiet s core) : endCycle core s = [] := by
  refine Act.each_eq_nil fun x hx => ?_
  obtain ⟨hstage, hheld⟩ := h x (List.mem_range.mp hx)
  refine Act.seq_eq_nil (advanceRollback_of_stage_zero hstage) ?_
  rw [resumeGang, hheld]
  rfl

/-! YIELDs. -/

/-- A context whose YIELD is over (R286). -/
def Ctx.awake (c : Ctx) : Ctx := { c with yielded := false }

theorem Ctx.awake_of_not_yielded {c : Ctx} (h : c.yielded = false) : c.awake = c := by
  rw [Ctx.awake, ← h]

/-- The contexts of a core, but for the issuer, whose YIELDs are over. -/
def yieldsOver (s : State) (core : Nat) (issuer : Option Nat) : List Nat :=
  ((List.range (contextsOf core)).filter fun x => issuer ≠ some x && (s.ctx (keyOf core x)).yielded).map (keyOf core)

theorem endYields_eq (core : Nat) (issuer : Option Nat) (s : State) :
    endYields core issuer s = (yieldsOver s core issuer).map fun k => .ctx k (s.ctx k).awake := by
  rw [yieldsOver, List.map_map]
  rfl

theorem applyAll_map_ctx (l : List Nat) (g : Nat → Ctx) (s : State) :
    applyAll (l.map fun k => .ctx k (g k)) s = { s with ctxs := l.foldl (fun t k => t.set k (g k)) s.ctxs } := by
  induction l generalizing s with
  | nil => rfl
  | cons k r ih => exact ih _

theorem applyAll_endYields (core : Nat) (issuer : Option Nat) (s : State) : applyAll (endYields core issuer s) s =
    { s with ctxs := (yieldsOver s core issuer).foldl (fun t k => t.set k (s.ctx k).awake) s.ctxs } := by
  rw [endYields_eq, applyAll_map_ctx]

theorem ctx_endYields (core : Nat) (issuer : Option Nat) (s : State) (k : Nat) :
    (applyAll (endYields core issuer s) s).ctx k = if k ∈ yieldsOver s core issuer then (s.ctx k).awake else s.ctx k := by
  rw [applyAll_endYields]
  exact Sparse.get_foldl_set {} _ (fun k => (s.ctx k).awake) s.ctxs k

theorem sameGangs_endYields (core : Nat) (issuer : Option Nat) (s : State) : SameGangs s (applyAll (endYields core issuer s) s) := by
  rw [applyAll_endYields]
  exact .foldl_set _ fun _ => rfl

end Machine
end Sys2Proof
end

section
/-!
Idle cycles (R286, R316).
-/
namespace Sys2Proof.Machine

theorem applyAll_chargeIdle (core : Nat) (s : State) :
    applyAll (chargeIdle core s) s = { s with blocks := (applyAll (chargeIdle core s) s).blocks } := by
  unfold chargeIdle
  dsimp only
  split
  next => split_ifs <;> rfl
  next => rfl

theorem chargeIdle_of_not_running {core : Nat} {s : State} (h : (s.quarter (partOf s.pkg core)).running = none) : chargeIdle core s = [] := by
  rw [chargeIdle, h]

/-- A bound context that is not saved makes its compute core count (R316). -/
theorem countsIdle_of_bound {core x : Nat} {s : State} (hc : core < 2304) (hx : x < 4) (hu : (s.ctx (keyOf core x)).mode ≠ .unbound)
    (hs : (s.ctx (keyOf core x)).mode ≠ .saved) : countsIdle s core = true := by
  have hcompute : isService core = false := decide_eq_false (Nat.not_le.mpr hc)
  have hctx (n : Option Nat) : (s.ctx (keyOf core x)).countsIdle n = true := by simp [Ctx.countsIdle, hu, hs]
  have hany (n : Option Nat) : ((List.range 4).any fun x => (s.ctx (keyOf core x)).countsIdle n) = true :=
    List.any_eq_true.mpr ⟨x, List.mem_range.mpr hx, hctx n⟩
  simp [countsIdle, hcompute, hany]

/-- The charge of an idle cycle, which saturates (R316). -/
theorem pidle_applyAll_chargeIdle {core cid : Nat} {s : State} (hr : (s.quarter (partOf s.pkg core)).running = some cid)
    (hc : countsIdle s core = true) : ((applyAll (chargeIdle core s) s).block (partOf s.pkg core) cid).pidle.toNat =
      min (2 ^ 48 - 1) ((s.block (partOf s.pkg core) cid).pidle.toNat + (s.die (dieOf core)).wstat.toNat) := by
  rw [chargeIdle, hr]
  dsimp only
  rw [if_pos hc]
  simp only [modBlock, applyAll_cons, applyAll_nil, applyEffect_block, State.block, Sparse.get_set_self, BitVec.toNat_ofNat]
  exact Nat.mod_eq_of_lt (Nat.lt_of_le_of_lt (Nat.min_le_left ..) (by decide))

section
variable {core : Nat} {s : State}

/-- No rollback and no held gang goes on on a core without lockstep members and rollbacks. -/
theorem quiet_of_no_lock (h : ∀ x < contextsOf core, (s.ctx (keyOf core x)).lock = false ∧ (s.ctx (keyOf core x)).phase.stage = 0) :
    Quiet s core := fun x hx => ⟨(h x hx).2, by rw [(h x hx).1, Bool.false_and]⟩

/-- What the idle cycle of a core leaves, where nothing goes on at its end. -/
theorem applyAll_idleCycle (hs : core ∉ s.served) (hi : issuesNow s core = false) (hq : Quiet s core) : applyAll (idleCycle core s) s =
    { s with blocks := (applyAll (chargeIdle core s) s).blocks, served := core :: s.served, ctxs := (applyAll (endYields core none s) s).ctxs } := by
  rw [idleCycle, if_neg (by simp [hs, hi]), applyAll_seqs_cons, applyAll_chargeIdle]
  let u : State := { s with blocks := (applyAll (chargeIdle core s) s).blocks }
  have hy : applyAll (endYields core none u) u = { u with ctxs := (applyAll (endYields core none s) s).ctxs } := by
    rw [applyAll_endYields, applyAll_endYields]
    rfl
  have hend : endCycle core { u with ctxs := (applyAll (endYields core none s) s).ctxs, served := core :: s.served } = [] :=
    endCycle_of_quiet (hq.of_sameGangs ((sameGangs_endYields core none s).trans (.of_ctxs_eq rfl)))
  rw [applyAll_seqs_cons, hy, applyAll_seqs_cons, applyAll_seqs_cons]
  simp only [serve, applyAll_cons, applyAll_nil, applyEffect_served]
  rw [hend]
  rfl

/-- Every YIELD of a core whose cycle is idle is over (R286). -/
theorem ctx_endYields_none {x : Nat} (hx : x < contextsOf core) :
    (applyAll (endYields core none s) s).ctx (keyOf core x) = (s.ctx (keyOf core x)).awake := by
  rw [ctx_endYields]
  split_ifs with hmem
  · rfl
  · refine (Ctx.awake_of_not_yielded ?_).symm
    by_contra hyielded
    exact hmem (List.mem_map.mpr ⟨x, by simpa [hx] using hyielded, rfl⟩)

end

theorem idleCycles : Clause.IdleCycles := by
  intro core s hs hi hlock
  refine ⟨_, rfl, ?_⟩
  rw [applyAll_idleCycle hs hi (quiet_of_no_lock hlock)]
  refine ⟨rfl, fun x hx => ctx_endYields_none hx, fun hr => ?_, fun cid x hr hc hx hu hsv => ?_⟩
  case refine_1 => rw [chargeIdle_of_not_running hr]; rfl
  case refine_2 => exact pidle_applyAll_chargeIdle hr (countsIdle_of_bound hc hx hu hsv)

end Sys2Proof.Machine
end

section
/-!
Illegal headers (R40, R46).
-/
namespace Sys2Proof.Machine

theorem need_eq_nil_iff {ok : Bool} {why : BitVec 8} : need ok why = [] ↔ ok = true := by cases ok <;> simp [need]

theorem headerFaults_eq_nil_iff (c : Ctx) (h : Header) : headerFaults c h = [] ↔ h.kind = (if c.lock = true ∧ c.pos = 0#7 then 1#3 else 0#3) ∧
    h.p &&& h.q = 0#7 ∧ h.resv = 0#2 ∧ (h.be = 1#1 ∨ h.bsrc = 0#6) := by
  simp only [headerFaults, List.append_eq_nil_iff, need_eq_nil_iff, Bool.and_eq_true, Bool.or_eq_true, decide_eq_true_eq, and_assoc]

theorem headerTrap_eq {c : Ctx} {n : NextIssue} (hn : n.follows = none) : headerTrap c n =
    if headerFaults c n.header = [] then none
    else some { code := codeIllegalBundle, why := leastWhy (headerFaults c n.header), slots := n.header.p &&& n.header.q } := by
  rw [headerTrap, hn]
  dsimp only [Option.isSome_none]
  split
  next h => exact (if_pos h).symm
  next h => exact (if_neg h).symm

/-- An illegal header makes the bundle illegal as a whole: no slot of it issues. -/
theorem tryIssue_of_headerTrap {c : Ctx} {n : NextIssue} {t : Trap} (engines : Nat → Bool) {s : State} (hc : s.ctx n.key = c)
    (h : headerTrap c n = some t) : tryIssue engines n s = .traps t := by
  unfold tryIssue
  dsimp only
  rw [hc, h]

theorem illegalHeaders : Clause.IllegalHeaders := by
  intro c n hn
  dsimp only
  rw [headerTrap_eq hn, ← headerFaults_eq_nil_iff]
  refine ⟨by simp, fun t ht => ?_⟩
  have htrap : headerTrap c n = some t := (headerTrap_eq hn).trans ht
  refine ⟨?_, fun engines s hc => tryIssue_of_headerTrap engines hc htrap⟩
  split_ifs at ht
  obtain rfl := Option.some.inj ht
  rfl

end Sys2Proof.Machine
end

section
/-!
Fetches (R48, R336).
-/
namespace Sys2Proof.Machine

section
variable {s : State} {key : Nat}

theorem fetchInFlight_eq_none (h : ∀ x, x ∈ s.accs → x.2.key = key → x.2.what ≠ .fetch) : fetchInFlight s key = none := by
  refine List.find?_eq_none.mpr fun x hx => ?_
  simpa using h x hx

/-- A context whose bundle is not fetched has no issue to make. -/
theorem ownIssue_of_unfetched (hr : (s.ctx key).repleft = 0) (hw : codeWord s key (s.ctx key).pc = none) : ownIssue s key = none := by
  rw [ownIssue, if_neg fun h => h.1 hr, bundleWords, hw]
  rfl

/-- The first line that a context asks for is that of its header (R48). -/
theorem lineToFetch_of_unfetched (hf : fetches (s.ctx key) = true) (hn : fetchInFlight s key = none) (hl : (s.ctx key).follows = false)
    (ho : ownIssue s key = none) (hline : fetchedLine s key (codeAddr (s.ctx key).pc / 64 * 64) = none) :
    lineToFetch s key = some (codeAddr (s.ctx key).pc / 64 * 64, 0x20#8, codeAddr (s.ctx key).pc / 64 * 64) := by
  rw [lineToFetch, hf, hn, neededLines]
  dsimp only
  rw [hl, ho]
  simp [hline]

/-- A context that is in SERVICE, or that is in RUN, does not roll back and does not follow a lead, fetches its own stream. -/
theorem fetches_and_not_follows {c : Ctx} (h : c.mode = .service ∨ (c.mode = .run ∧ c.phase.stage = 0 ∧ (c.lock = false ∨ c.pos = 0#7))) :
    fetches c = true ∧ c.follows = false := by
  obtain hservice | ⟨hrun, hstage, hlead⟩ := h
  · simp [fetches, Ctx.follows, Ctx.inStream, hservice]
  · obtain hlock | hpos := hlead
    · simp [fetches, Ctx.follows, Ctx.inStream, hrun, hstage, hlock]
    · simp [fetches, Ctx.follows, hrun, hstage, hpos]

/-- The request of a line (R48). -/
theorem applyAll_instructionFetch_ask {a va : Nat} {why : BitVec 8} (hn : fetchInFlight s key = none) (hl : lineToFetch s key = some (a, why, va)) :
    ∃ (x : Access) (due : Nat), x.key = key ∧ x.cid = (s.ctx key).cid ∧ x.kind = .global ∧ x.what = .fetch ∧ x.performed = none ∧
      s.now + 1 ≤ due ∧ x.parts = [⟨0, 0, a, 64, due, false⟩] ∧
      applyAll (instructionFetch key s) s = { s with nextId := s.nextId + 1, free := s.free + 1, accs := s.accs.set s.nextId x } := by
  rw [instructionFetch, hn]
  dsimp only
  rw [hl]
  exact ⟨_, _, rfl, rfl, rfl, rfl, rfl, Nat.le_add_right .., rfl, rfl⟩

theorem Core.fillCode_eq (x : Core) (l : CacheLine) (n : Nat) :
    ∃ rest, x.fillCode l n = { x with icache := l :: rest } ∧ rest.Sublist x.icache ∧ (rest.length < 1024 ∨ x.icache.length > 1024) := by
  let kept := x.icache.filter fun y => !(y.cid = l.cid && y.va = l.va)
  refine ⟨if kept.length < 1024 then kept else kept.eraseIdx (n % kept.length), rfl, ?_, ?_⟩
  case refine_1 =>
    split_ifs
    · exact List.filter_sublist
    · exact (List.eraseIdx_sublist ..).trans List.filter_sublist
  case refine_2 =>
    have hle : kept.length ≤ x.icache.length := List.length_filter_le ..
    split_ifs with hroom
    · exact .inl hroom
    · have hidx : n % kept.length < kept.length := Nat.mod_lt _ (by omega)
      rw [List.length_eraseIdx_of_lt hidx]
      omega

/-- The line that a fetch brings into the instruction cache. -/
def Access.codeLine (x : Access) (va : Nat) : CacheLine := { cid := effectiveCid x.cid va, va := va / 64, window := false, data := x.data }

/-- A fetch whose bytes have come (R48): its line enters the instruction cache. -/
theorem applyAll_instructionFetch_fill {id : Nat} {x : Access} {p : Part} (hf : fetchInFlight s key = some (id, x)) (hp : x.performed.isSome = true)
    (hh : x.parts.head? = some p) : applyAll (instructionFetch key s) s = { s with
      free := s.free + 1, accs := s.accs.erase id, cores := s.cores.set (coreOf key) ((s.core (coreOf key)).fillCode (x.codeLine p.va) (Config.freeNat s.free)) } := by
  rw [instructionFetch, hf]
  dsimp only
  rw [if_pos hp, hh]
  rfl

end

theorem instructionFetches : Clause.InstructionFetches := by
  refine ⟨fun key s => ?ask, fun key id s x p hf hp hh => ?fill⟩
  case ask =>
    intro c a hmode hnone hr hw hline
    obtain ⟨hfetches, hown⟩ := fetches_and_not_follows hmode
    have hn := fetchInFlight_eq_none hnone
    obtain ⟨x, due, hkey, hcid, hkind, hwhat, hperf, hdue, hparts, ht⟩ :=
      applyAll_instructionFetch_ask hn (lineToFetch_of_unfetched hfetches hn hown (ownIssue_of_unfetched hr hw) hline)
    exact ⟨_, rfl, x, _, hkey, hcid, hkind, hwhat, hperf, hparts, rfl, rfl, rfl, hdue, ht⟩
  case fill =>
    obtain ⟨rest, hrest, hsub, hroom⟩ := Core.fillCode_eq (s.core (coreOf key)) (x.codeLine p.va) (Config.freeNat s.free)
    refine ⟨_, rfl, x.codeLine p.va, rfl, rfl, rfl, ?_⟩
    rw [applyAll_instructionFetch_fill hf hp hh]
    simp only [State.core, Sparse.get_set_self]
    exact ⟨trivial, rest, hrest, hsub, hroom⟩

end Sys2Proof.Machine
end

section
/-!
A step of a lockstep gang on which one member issues (R40 to R43).
-/
namespace Sys2Proof.Machine

/-! The stream of a gang. -/

/-- A gang whose lead adds an issue to the stream; that of a later member adds none. -/
def Gang.extended (g : Gang) (lead : Bool) (x : LockIssue) : Gang := if lead then { g with stream := g.stream ++ [x] } else g

section
variable (g : Gang) (lead : Bool) (x : LockIssue) (members : Nat)

theorem Gang.extended_advance_step : ((g.extended lead x).advance members).step = g.step + 1 := by cases lead <;> rfl

theorem Gang.extended_advance_bars : ((g.extended lead x).advance members).bars = g.bars := by cases lead <;> rfl

/-- What a step leaves in the stream: the issues before it and the lead's, but for those that every member has executed (R41). -/
theorem Gang.mem_extended_advance (y : LockIssue) : y ∈ ((g.extended lead x).advance members).stream ↔
    (y ∈ g.stream ∨ (lead = true ∧ y = x)) ∧ g.step < y.step + 2 * (members - 1) := by
  cases lead <;> simp [Gang.advance, Gang.extended, or_and_right]

end

theorem applyAll_extendStream (task : Nat) (n : NextIssue) (lead : Bool) (s : State) : applyAll (Act.when lead (extendStream task n) s) s =
    { s with gangs := (applyAll (Act.when lead (extendStream task n) s) s).gangs } := by cases lead <;> rfl

theorem gang_extendStream (task : Nat) (n : NextIssue) (lead : Bool) (s : State) : (applyAll (Act.when lead (extendStream task n) s) s).gang task =
    (s.gang task).extended lead ⟨(s.gang task).step, n.pc, n.words, n.repleft, s.cur.branch⟩ := by
  cases lead
  · rfl
  · exact Sparse.get_set_self ..

/-! The place of a member in the stream. -/

theorem followStream_zero (task key : Nat) (s : State) : followStream task key 0 s = [] := by
  unfold followStream
  split <;> rfl

theorem applyAll_followStream (task key p : Nat) (s : State) :
    applyAll (followStream task key p s) s = { s with ctxs := (applyAll (followStream task key p s) s).ctxs } := by
  unfold followStream
  split
  · split_ifs <;> rfl
  · rfl

theorem sameGangs_followStream (task key p : Nat) (s : State) : SameGangs s (applyAll (followStream task key p s) s) := by
  unfold followStream
  split
  · split_ifs
    · exact .of_ctxs_eq rfl
    · exact .set rfl
  · exact .of_ctxs_eq rfl

/-! The issue of one member. -/

/-- What follows the issue of the member at a position on a step. -/
def memberEnd (task key : Nat) (n : NextIssue) (p : Nat) : Act := Act.seqs
  [Act.when (p = 0) (extendStream task n), endYields (coreOf key) (some (ctxOf key)), followStream task key p, endCycle (coreOf key)]

/-- The YIELD of the issuer itself is not what its issue ends (R286). -/
theorem not_mem_yieldsOver (s : State) (key : Nat) : key ∉ yieldsOver s (coreOf key) (some (ctxOf key)) := by
  simp only [yieldsOver, List.mem_map, List.mem_filter, decide_eq_true_eq, Bool.and_eq_true, not_exists, not_and, and_imp]
  intro x _ hne _ heq
  refine hne (congrArg some ?_)
  simp only [keyOf, coreOf, ctxOf] at heq ⊢
  omega

section
variable {task key : Nat} {n : NextIssue} {p : Nat} {s : State}

/-- What follows the issue of a member, where nothing goes on at the end of its core's cycle. -/
theorem applyAll_memberEnd (hq : Quiet s (coreOf key)) : ∃ t, applyAll (memberEnd task key n p s) s = t ∧
    t = { s with ctxs := t.ctxs, gangs := t.gangs } ∧ (p = 0 → t.ctx key = s.ctx key) ∧ t.gang task =
      (s.gang task).extended (p = 0) ⟨(s.gang task).step, n.pc, n.words, n.repleft, s.cur.branch⟩ := by
  have hextend := applyAll_extendStream task n (p = 0) s
  have hgang := gang_extendStream task n (p = 0) s
  rw [memberEnd, applyAll_seqs_cons]
  generalize applyAll (Act.when (p = 0) (extendStream task n) s) s = s1 at hextend hgang
  have hyields := applyAll_endYields (coreOf key) (some (ctxOf key)) s1
  have hkey := ctx_endYields (coreOf key) (some (ctxOf key)) s1 key
  have hsame := sameGangs_endYields (coreOf key) (some (ctxOf key)) s1
  rw [if_neg (not_mem_yieldsOver s1 key)] at hkey
  rw [applyAll_seqs_cons]
  generalize applyAll (endYields (coreOf key) (some (ctxOf key)) s1) s1 = s2 at hyields hkey hsame
  have hfollow := applyAll_followStream task key p s2
  have hlead : p = 0 → applyAll (followStream task key p s2) s2 = s2 := by rintro rfl; rw [followStream_zero]; rfl
  have hsame' := sameGangs_followStream task key p s2
  rw [applyAll_seqs_cons]
  generalize applyAll (followStream task key p s2) s2 = s3 at hfollow hlead hsame'
  have hend : endCycle (coreOf key) s3 = [] :=
    endCycle_of_quiet (hq.of_sameGangs ((SameGangs.of_ctxs_eq (by rw [hextend])).trans (hsame.trans hsame')))
  rw [applyAll_seqs_cons, hend]
  refine ⟨s3, rfl, ?_, fun hp => ?_, ?_⟩
  case refine_1 => rw [hfollow, hyields, hextend]
  case refine_2 => rw [hlead hp, hkey, hextend]; rfl
  case refine_3 => rw [← hgang, hfollow, hyields]; rfl

/-- What the issue of a member leaves, with what follows it, before the steps of the members behind it. -/
theorem applyAll_commitStep_issue {e : List Effect} (h : tryIssue (fun _ => true) n s = .commits e) (r : List ((Nat × DueIssue) × Nat)) {u w : State}
    (hu : { applyAll e s with served := coreOf key :: s.served } = u) (hw : applyAll (memberEnd task key n p u) u = w) (ht : w.cur.trapped = none) :
    applyAll (commitStep task (((key, .issue n), p) :: r) [] s) s = applyAll (commitStep task r [] w) w := by
  have happly : applyAll (e ++ [Effect.served (coreOf key :: s.served)]) s = u := by rw [applyAll_append, ← hu]; rfl
  rw [commitStep]
  simp only [h, happly]
  rw [← memberEnd, hw, ht, applyAll_append, applyAll_append, happly, hw]

/-- A member to which nothing is due makes no issue. -/
theorem commitStep_append_of_nothing {l : List ((Nat × DueIssue) × Nat)} (h : ∀ x ∈ l, x.1.2 = .nothing) (r : List ((Nat × DueIssue) × Nat))
    (stops : List (Nat × Trap)) : commitStep task (l ++ r) stops = commitStep task r stops := by
  induction l with
  | nil => rfl
  | cons x l ih =>
    funext s
    rw [List.cons_append, commitStep, h x List.mem_cons_self]
    exact congrFun (ih fun y hy => h y (List.mem_cons_of_mem _ hy)) s

theorem commitStep_of_nothing {l : List ((Nat × DueIssue) × Nat)} (h : ∀ x ∈ l, x.1.2 = .nothing) (s : State) : commitStep task l [] s = [] := by
  have happend := commitStep_append_of_nothing (task := task) h [] []
  rw [List.append_nil] at happend
  rw [happend]
  rfl

theorem nothing_of_mem_zipIdx {l : List (Nat × DueIssue)} (h : ∀ x ∈ l, x.2 = .nothing) (k : Nat) : ∀ x ∈ l.zipIdx k, x.1.2 = .nothing :=
  fun _ hx => h _ (List.fst_mem_of_mem_zipIdx hx)

end

section
variable {task key : Nat} {n : NextIssue} {s : State} {a b : List (Nat × DueIssue)} (ha : ∀ x ∈ a ++ b, x.2 = .nothing)
include ha

/-- The issues of a step on which one member alone has an issue due. -/
theorem applyAll_commitStep_single {e : List Effect} (h : tryIssue (fun _ => true) n s = .commits e) {u w : State}
    (hu : { applyAll e s with served := coreOf key :: s.served } = u) (hw : applyAll (memberEnd task key n a.length u) u = w)
    (ht : w.cur.trapped = none) : applyAll (commitStep task (a ++ (key, .issue n) :: b).zipIdx [] s) s = w := by
  obtain ⟨hbefore, hafter⟩ := List.forall_mem_append.mp ha
  rw [List.zipIdx_append, List.zipIdx_cons, commitStep_append_of_nothing (nothing_of_mem_zipIdx hbefore 0), Nat.zero_add,
    applyAll_commitStep_issue h _ hu hw ht, commitStep_of_nothing (nothing_of_mem_zipIdx hafter _), applyAll_nil]

end

theorem lockstepStep_of_no_trap {task : Nat} {s : State} (h : stepDue s task = true) (ht : stepTraps s (dueIssues s task) = []) :
    applyAll (lockstepStep task s) s =
      (let s1 : State := { s with served := lockMark task :: s.served }
       let w := applyAll (commitStep task (dueIssues s task).zipIdx [] s1) s1
       { w with gangs := w.gangs.set task ((w.gang task).advance (dueIssues s task).length) }) := by
  rw [lockstepStep, h, if_neg (by decide)]
  dsimp only
  rw [ht, applyAll_seqs_cons, applyAll_seqs_cons, applyAll_seq]
  rfl

theorem lockstep_commits (task : Nat) (s : State) (a b : List (Nat × DueIssue)) (key : Nat) (n : NextIssue) (hdue : stepDue s task = true)
    (hl : dueIssues s task = a ++ (key, .issue n) :: b) (ha : ∀ x ∈ a ++ b, x.2 = .nothing) (e : List Effect)
    (ht : stepTraps s (dueIssues s task) = []) (he : tryIssue (fun _ => true) n { s with served := lockMark task :: s.served } = .commits e) :
    let v := applyAll e { s with served := lockMark task :: s.served }
    v.cur.trapped = none → v.gangs = s.gangs →
      (∀ x, x < contextsOf (coreOf key) → (v.ctx (keyOf (coreOf key) x)).phase.stage = 0 ∧
        gangHeld v (lockMembers v (keyOf (coreOf key) x)) = false) → Answers (.lockstepStep task) s fun t =>
        t.mem = v.mem ∧ t.core (coreOf key) = v.core (coreOf key) ∧ coreOf key ∈ t.served ∧ (t.gang task).step = (s.gang task).step + 1 ∧
        (t.gang task).bars = (s.gang task).bars ∧ (a = [] → t.ctx key = v.ctx key) ∧
        (∀ x, x ∈ (s.gang task).stream → (s.gang task).step < x.step + 2 * ((dueIssues s task).length - 1) → x ∈ (t.gang task).stream) ∧
        (a = [] → 1 < (dueIssues s task).length →
          (⟨(s.gang task).step, n.pc, n.words, n.repleft, v.cur.branch⟩ : LockIssue) ∈ (t.gang task).stream) ∧
        ∀ x, x ∈ (t.gang task).stream → (s.gang task).step < x.step + 2 * ((dueIssues s task).length - 1) := by
  intro v htrapped hgangs hquiet
  let u : State := { v with served := coreOf key :: lockMark task :: s.served }
  have hq : Quiet u (coreOf key) :=
    Quiet.of_sameGangs (s := v) (fun x hx => ⟨(hquiet x hx).1, by rw [(hquiet x hx).2, Bool.and_false]⟩) (.of_ctxs_eq rfl)
  obtain ⟨w, hw, hkeeps, hctx, hgang⟩ := applyAll_memberEnd (task := task) (n := n) (p := a.length) hq
  have hug : u.gang task = s.gang task := congrArg (fun g => Sparse.get ({} : Gang) g task) hgangs
  have hwt : w.cur.trapped = none := by rw [hkeeps]; exact htrapped
  have hmem : w.mem = v.mem := (congrArg State.mem hkeeps :)
  have hcores : w.cores = v.cores := (congrArg State.cores hkeeps :)
  have hserved : w.served = coreOf key :: lockMark task :: s.served := (congrArg State.served hkeeps :)
  refine ⟨_, rfl, ?_⟩
  rw [lockstepStep_of_no_trap hdue ht]
  dsimp only
  rw [hl, applyAll_commitStep_single ha he rfl hw hwt, ← hl]
  have htg : State.gang { w with gangs := w.gangs.set task ((w.gang task).advance (dueIssues s task).length) } task =
      ((s.gang task).extended (a.length = 0) ⟨(s.gang task).step, n.pc, n.words, n.repleft, v.cur.branch⟩).advance (dueIssues s task).length := by
    rw [State.gang, Sparse.get_set_self, hgang, hug]
  rw [htg]
  refine ⟨hmem, congrArg (fun x => Sparse.get ({} : Core) x (coreOf key)) hcores, ?served, Gang.extended_advance_step .., Gang.extended_advance_bars ..,
    fun hempty => hctx (by rw [hempty]; rfl), fun x hx hleft => ?old, fun hempty hone => ?new, fun x hx => ?bound⟩
  case served => exact hserved ▸ List.mem_cons_self
  case old => exact (Gang.mem_extended_advance ..).mpr ⟨.inl hx, hleft⟩
  case new => exact (Gang.mem_extended_advance ..).mpr ⟨.inr ⟨by rw [hempty]; rfl, rfl⟩, by dsimp only; omega⟩
  case bound => exact ((Gang.mem_extended_advance ..).mp hx).2

end Sys2Proof.Machine
end

section
/-!
A step of a lockstep gang on which a member traps (R43).
-/
namespace Sys2Proof.Machine

/-! The precise stop of a context. -/

theorem trapCause_code (sup heavy deferred : Bool) (code : BitVec 16) : (trapCause sup heavy deferred code).extractLsb' 0 16 = code := by
  rw [trapCause, BitVec.extractLsb'_append_eq_of_add_le (by decide), BitVec.extractLsb'_eq_self]

/-- A context that a precise trap stops: its mode, its address, the cause, and the kind of the stop (R81, R265). -/
theorem beginStop_precise_of_running {c : Ctx} (h : c.stop = none) (at_ : Nat) (tr : Trap) : (beginStop c .precise at_ tr).mode = .stopping ∧
    (beginStop c .precise at_ tr).pc = c.pc ∧ (beginStop c .precise at_ tr).stop.isSome = true ∧
    (beginStop c .precise at_ tr).trapcause.extractLsb' 0 16 = tr.code := by
  simp only [beginStop, h, Option.isSome_some, true_and]
  exact trapCause_code ..

/-- A precise trap does not change a stop in progress (R264). -/
theorem beginStop_precise_of_stopping {c : Ctx} (h : c.stop.isSome = true) (at_ : Nat) (tr : Trap) : beginStop c .precise at_ tr = c := by
  obtain ⟨st, hst⟩ := Option.isSome_iff_exists.mp h
  simp [beginStop, hst]

theorem settleWait_eq (s : State) (key : Nat) (c : Ctx) :
    settleWait s key c = { c with wait := (settleWait s key c).wait, holdLoads := (settleWait s key c).holdLoads } := by
  unfold settleWait
  split
  · split_ifs <;> rfl
  · split_ifs <;> rfl
  · rfl

/-- A context that is stopping, without the landings of the cycle: what the stop has written stands (R265). -/
theorem ctxBefore_set_of_stopping (s : State) (key : Nat) {d : Ctx} (h : d.stop.isSome = true) (hpc : d.pc = (s.ctx key).pc) :
    let c := ctxBefore { s with ctxs := s.ctxs.set key d } key
    c.mode = d.mode ∧ c.pc = (ctxBefore s key).pc ∧ c.stop = d.stop ∧ c.trapcause = d.trapcause := by
  have hbefore : beforeNow { s with ctxs := s.ctxs.set key d } key = beforeNow s key := rfl
  simp only [ctxBefore, hbefore, State.ctx_set]
  cases beforeNow s key with
  | none => exact ⟨rfl, hpc, rfl, rfl⟩
  | some b => exact ⟨rfl, rfl, rfl, if_pos h⟩

/-! What a precise trap leaves alone. -/

/-- Memory, the gangs and one context. -/
def memGangsCtx (key : Nat) (s : State) : List Host.Cell × Sparse Gang × Ctx := (s.mem, s.gangs, s.ctx key)

theorem Keeps.memGangsCtx {l : List Effect} (h : Keeps beyondAccesses l) (key : Nat) : Keeps (memGangsCtx key) l :=
  h.comp fun x => (x.2.1, x.2.2.2.2.1, Sparse.get ({} : Ctx) x.2.2.2.1 key)

theorem keeps_ctx_of_ne {key k : Nat} (h : k ≠ key) (c : Ctx) : Keeps (memGangsCtx key) [.ctx k c] :=
  Keeps.singleton fun s => congrArg (fun x => (s.mem, s.gangs, x)) (State.ctx_set_ne s c h)

theorem Keeps.flatMap {α β : Type} {p : State → α} {l : List β} {f : β → List Effect} (h : ∀ x ∈ l, Keeps p (f x)) : Keeps p (l.flatMap f) := by
  intro e he
  obtain ⟨x, hx, hex⟩ := List.mem_flatMap.mp he
  exact h x hx e hex

/-- The peers of a context are other contexts (R43). -/
theorem ne_of_mem_lockPeers {s : State} {key k : Nat} (h : k ∈ lockPeers s key) : k ≠ key := by
  unfold lockPeers at h
  dsimp only at h
  split at h
  · split at h
    · obtain ⟨x, -, hx⟩ := List.mem_filterMap.mp h
      split_ifs at hx with hpeer
      exact Option.some.inj hx ▸ hpeer.1
    · exact absurd h List.not_mem_nil
  · exact absurd h List.not_mem_nil

theorem undoLandings_of_no_undo {s : State} {k : Nat} (h : ∀ b, beforeNow s k = some b → b.undo = []) : undoLandings k s = [] := by
  rw [undoLandings]
  split
  next b hb => rw [h b hb]; rfl
  next => rfl

/-- A precise trap where nothing landed outside the contexts on its cycle: memory and the gangs stand (R43, R265). -/
theorem applyAll_takePrecise {s : State} {key : Nat} (h : ∀ k b, beforeNow s k = some b → b.undo = []) (tr : Trap) :
    memGangsCtx key (applyAll (takePrecise key tr s) s) =
      (s.mem, s.gangs, beginStop (settleWait s key (ctxBefore s key)) .precise (s.now - 1) tr) := by
  have hundo : Act.each (key :: lockPeers s key) undoLandings s = [] := Act.each_eq_nil fun k _ => undoLandings_of_no_undo (h k)
  have hown : Keeps (memGangsCtx key) (freezeHeld key s ++ settleLines key s) :=
    ((keeps_freezeHeld key s).append (keeps_settleLines key s)).memGangsCtx key
  have hpeers : Keeps (memGangsCtx key) ((lockPeers s key).flatMap fun p => settleLines p s ++
      [.ctx p (beginStop (settleWait s p (ctxBefore s p)) .peer (s.now - 1) { code := 0#16 })]) :=
    Keeps.flatMap fun p hp => ((keeps_settleLines p s).memGangsCtx key).append (keeps_ctx_of_ne (ne_of_mem_lockPeers hp) _)
  have hstart := hown.applyAll s
  simp only [memGangsCtx, Prod.mk.injEq] at hstart
  obtain ⟨hmem, hgangs, -⟩ := hstart
  rw [takePrecise, hundo, List.append_nil, applyAll_append, applyAll_cons, hpeers.applyAll, applyEffect_ctx, memGangsCtx, State.ctx_set, hmem, hgangs]

/-! The withheld step. -/

theorem lockstepStep_of_trap {task key : Nat} {tr : Trap} {s : State} (h : stepDue s task = true)
    (ht : stepTraps s (dueIssues s task) = [(key, tr)]) : applyAll (lockstepStep task s) s =
      (let u : State := { s with served := lockMark task :: s.served, ctxs := s.ctxs.set key (beginStop (s.ctx key) .precise (s.now - 1) tr) }
       applyAll (takePrecise key tr u) u) := by
  rw [lockstepStep, h, if_neg (by decide)]
  dsimp only
  rw [ht, applyAll_seqs_cons, applyAll_seqs_cons]
  dsimp only
  rw [withholdStep, stopMembers, applyAll_seq, Act.each, Act.each, List.map_singleton, List.map_singleton, applyAll_seqs_cons, applyAll_seqs_cons]
  rfl

theorem lockstep_withheld {task key : Nat} {tr : Trap} {s : State} (h : stepDue s task = true)
    (ht : stepTraps s (dueIssues s task) = [(key, tr)]) (hstop : (s.ctx key).stop = none) (hundo : ∀ k u, beforeNow s k = some u → u.undo = []) :
    Answers (.lockstepStep task) s fun t => t.mem = s.mem ∧ t.gangs = s.gangs ∧ (t.ctx key).mode = .stopping ∧
      (t.ctx key).pc = (ctxBefore s key).pc ∧ (t.ctx key).trapcause.extractLsb' 0 16 = tr.code := by
  obtain ⟨hmode, hpc, hstopped, hcause⟩ := beginStop_precise_of_running hstop (s.now - 1) tr
  refine ⟨_, rfl, ?_⟩
  rw [lockstepStep_of_trap h ht]
  dsimp only
  generalize beginStop (s.ctx key) .precise (s.now - 1) tr = d at hmode hpc hstopped hcause
  let s1 : State := { s with served := lockMark task :: s.served }
  let u : State := { s1 with ctxs := s1.ctxs.set key d }
  obtain ⟨hmode', hpc', hstop', hcause'⟩ := ctxBefore_set_of_stopping s1 key hstopped hpc
  have hleft := applyAll_takePrecise (s := u) (key := key) hundo tr
  have hstopping : (settleWait u key (ctxBefore u key)).stop.isSome = true := by rw [settleWait_eq]; exact hstop' ▸ hstopped
  rw [beginStop_precise_of_stopping hstopping, settleWait_eq, memGangsCtx, Prod.mk.injEq, Prod.mk.injEq] at hleft
  obtain ⟨hmem, hgangs, hctx⟩ := hleft
  exact ⟨hmem, hgangs, (congrArg Ctx.mode hctx :).trans (hmode'.trans hmode), (congrArg Ctx.pc hctx :).trans hpc',
    (congrArg (fun c => c.trapcause.extractLsb' 0 16) hctx :).trans (hcause' ▸ hcause)⟩

theorem lockstepSteps : Clause.LockstepSteps := by
  intro task s a b key n s1 due hdue hl ha
  exact ⟨fun e ht he => lockstep_commits task s a b key n hdue hl ha e ht he, fun tr ht hstop hundo => lockstep_withheld hdue ht hstop hundo⟩

/-- Settles O38: the end of a core's cycle does nothing where no rollback and no held gang goes on, a step commits the issue of its one member or stops it,
and an illegal header is found before any slot. -/
theorem issueCycles : Obligations.IssueCycles := ⟨instructionFetches, idleCycles, lockstepSteps, illegalHeaders⟩

end Sys2Proof.Machine
end

section
/-!
The check of an access through a handle (R93).
-/
namespace Sys2Proof.Machine

/-- The bound check fails exactly where the range leaves [0, BOUND) or reaches a carve-out (R89, R90, R93). -/
theorem checkHandle_eq (h : Handle) (off : Word) (n perm : Nat) : checkHandle h off n perm =
    if h.v = false then some codeHandleInvalid
    else if ¬ ((0 ≤ off.toInt ∧ off.toInt + n ≤ h.bound.toNat) ∧
        ((h.kind = .spad ∨ h.kind = .mcast) → h.base.toNat + off.toInt + n ≤ 0x2F0000) ∧
        (h.kind = .cluster → h.base.toNat + off.toInt + n ≤ 0x1780000)) then some codeHandleBound
    else if ¬ (h.perm.getLsbD perm = true ∧ (h.kind = .mcast → perm = 1)) then some codeHandlePerm
    else none := by
  simp only [checkHandle, programArea, windowEnd, Bool.not_eq_true', Bool.or_eq_true, Bool.and_eq_true, decide_eq_true_eq, not_and_or, not_le,
    Classical.not_imp, gt_iff_lt, Bool.not_eq_true, or_assoc, ne_eq, Nat.cast_ofNat]

/-- Settles O8: the three checks are tried in the order of R93, and the first that fails gives the code. -/
theorem handleChecks : Obligations.HandleChecks := by
  intro h off n perm inside top clear may
  rw [checkHandle_eq]
  refine ⟨fun hv => if_pos hv, fun hv hrange => ?bound, fun hv hin hclear hperm => ?denied, fun hv hin hclear hmay => ?free⟩
  case bound => rw [if_neg (by simp [hv]), if_pos hrange]
  case denied => rw [if_neg (by simp [hv]), if_neg (not_not_intro ⟨hin, hclear⟩), if_pos hperm]
  case free => rw [if_neg (by simp [hv]), if_neg (not_not_intro ⟨hin, hclear⟩), if_neg (not_not_intro hmay)]

end Sys2Proof.Machine
end

section
/-!
The system registers: what SRMOV reads of a context and what it writes (R78 to R80, R111, R291).
-/
namespace Sys2Proof.Machine

/-! The fields of the registers that hold several. -/

theorem Ctx.ctxstat_fields (c : Ctx) : c.ctxstat.extractLsb' 0 3 = c.mode.bits ∧ c.ctxstat.getLsbD 3 = false ∧ c.ctxstat.getLsbD 4 = c.scdem ∧
    c.ctxstat.getLsbD 5 = c.ensat ∧ c.ctxstat.getLsbD 6 = c.walk.act ∧ c.ctxstat.getLsbD 7 = c.phase.held ∧ c.ctxstat.extractLsb' 8 56 = 0#56 := by
  unfold Ctx.ctxstat
  refine ⟨?mode, ?_, ?_, ?_, ?_, ?_, ?top⟩
  case mode => rw [BitVec.extractLsb'_append_eq_of_add_le (by decide), BitVec.extractLsb'_eq_self]
  case top =>
    repeat rw [BitVec.extractLsb'_append_eq_of_le (by decide)]
    rfl
  all_goals
    repeat rw [BitVec.getLsbD_append]
    simp

theorem Ctx.ctxcfg_fields (c : Ctx) : c.ctxcfg.extractLsb' 0 3 = c.pri ∧ c.ctxcfg.getLsbD 3 = false ∧ c.ctxcfg.extractLsb' 4 4 = c.quads ∧
    c.ctxcfg.extractLsb' 8 2 = c.fuse ∧ c.ctxcfg.getLsbD 12 = c.sysok ∧ c.ctxcfg.getLsbD 13 = c.det ∧ c.ctxcfg.getLsbD 16 = c.lock ∧
    c.ctxcfg.extractLsb' 17 7 = c.pos ∧ c.ctxcfg.extractLsb' 24 8 = c.cid := by
  unfold Ctx.ctxcfg
  refine ⟨?_, ?zero, ?_, ?_, ?sysok, ?det, ?lock, ?_, ?_⟩
  case zero | sysok | det | lock =>
    repeat rw [BitVec.getLsbD_append]
    simp
  all_goals
    repeat rw [BitVec.extractLsb'_append_eq_of_le (by decide)]
    rw [BitVec.extractLsb'_append_eq_of_add_le (by decide)]
    exact BitVec.extractLsb'_eq_self

theorem Walk.lwi_fields (w : Walk) : w.lwi.extractLsb' 0 32 = w.iter ∧ w.lwi.extractLsb' 36 3 = w.ndecl ∧ w.lwi.getLsbD 39 = w.dph := by
  unfold Walk.lwi
  refine ⟨?_, ?_, ?dph⟩
  case dph =>
    repeat rw [BitVec.getLsbD_append]
    simp
  all_goals
    repeat rw [BitVec.extractLsb'_append_eq_of_le (by decide)]
    rw [BitVec.extractLsb'_append_eq_of_add_le (by decide)]
    exact BitVec.extractLsb'_eq_self

theorem Walk.lwn_fields (w : Walk) : w.lwn.extractLsb' 0 32 = w.trip ∧ w.lwn.extractLsb' 32 32 = w.nrun := by
  unfold Walk.lwn
  rw [BitVec.extractLsb'_append_eq_of_add_le (by decide), BitVec.extractLsb'_append_eq_of_le (by decide)]
  exact ⟨BitVec.extractLsb'_eq_self, BitVec.extractLsb'_eq_self⟩

theorem Walk.cmapcfg_fields (w : Walk) : w.cmapcfg.extractLsb' 0 32 = w.off ∧ w.cmapcfg.extractLsb' 32 21 = w.ncell ∧
    w.cmapcfg.extractLsb' 55 2 = w.lp ∧ w.cmapcfg.extractLsb' 57 3 = w.cell ∧ w.cmapcfg.extractLsb' 60 4 = w.wh := by
  unfold Walk.cmapcfg
  refine ⟨?_, ?_, ?_, ?_, ?wh⟩
  case wh =>
    repeat rw [BitVec.extractLsb'_append_eq_of_le (by decide)]
    exact BitVec.extractLsb'_eq_self
  all_goals
    repeat rw [BitVec.extractLsb'_append_eq_of_le (by decide)]
    rw [BitVec.extractLsb'_append_eq_of_add_le (by decide)]
    exact BitVec.extractLsb'_eq_self

theorem Sticky.slotn_fields (k : Sticky) : k.slotn.extractLsb' 0 32 = k.n ∧ k.slotn.getLsbD 32 = k.idle ∧ k.slotn.extractLsb' 33 31 = 0#31 := by
  unfold Sticky.slotn
  refine ⟨?n, ?idle, ?top⟩
  case n => rw [BitVec.extractLsb'_append_eq_of_add_le (by decide), BitVec.extractLsb'_eq_self]
  case idle =>
    repeat rw [BitVec.getLsbD_append]
    simp
  case top =>
    repeat rw [BitVec.extractLsb'_append_eq_of_le (by decide)]
    rfl

/-! Reading. -/

/-- The system registers that have a number of their own; the others are LPn, QBn and the sticky slots (R78). -/
def ownNumbers : List Nat := [0x000, 0x001, 0x002, 0x003, 0x004, 0x005, 0x006, 0x008, 0x009, 0x00A, 0x010, 0x011, 0x012, 0x013, 0x018]

theorem not_mem_ownNumbers {n : Nat} (h : 0x20 ≤ n) : n ∉ ownNumbers := by
  simp only [ownNumbers, List.mem_cons, List.not_mem_nil, or_false]
  omega

section
variable (key now : Nat) (c : Ctx)

theorem sysReg_of_not_mem {n : Nat} (h : n ∉ ownNumbers) : sysReg key now c n =
    if n < 0x24 then c.lpreg (n - 0x20)
    else if n < 0x30 then c.qbind (n - 0x28)
    else if n < 0x37 then (c.visibleSlot (n - 0x30)).w
    else (c.visibleSlot (n - 0x38)).slotn := by
  simp only [ownNumbers, List.mem_cons, List.not_mem_nil, or_false, not_or] at h
  unfold sysReg
  split
  on_goal 16 => rfl
  all_goals omega

theorem sysReg_lp {n : Nat} (h : n < 4) : sysReg key now c (0x20 + n) = c.lpreg n := by
  rw [sysReg_of_not_mem key now c (not_mem_ownNumbers (by omega)), if_pos (by omega), Nat.add_sub_cancel_left]

theorem sysReg_qb {n : Nat} (h : n < 8) : sysReg key now c (0x28 + n) = c.qbind n := by
  rw [sysReg_of_not_mem key now c (not_mem_ownNumbers (by omega)), if_neg (by omega), if_pos (by omega),
    Nat.add_sub_cancel_left]

theorem sysReg_slotw {n : Nat} (h : n < 7) : sysReg key now c (0x30 + n) = (c.visibleSlot n).w := by
  rw [sysReg_of_not_mem key now c (not_mem_ownNumbers (by omega)), if_neg (by omega), if_neg (by omega), if_pos (by omega),
    Nat.add_sub_cancel_left]

theorem sysReg_slotn (n : Nat) : sysReg key now c (0x38 + n) = (c.visibleSlot n).slotn := by
  rw [sysReg_of_not_mem key now c (not_mem_ownNumbers (by omega)), if_neg (by omega), if_neg (by omega), if_neg (by omega),
    Nat.add_sub_cancel_left]

/-- What the two registers of a slot hold of its sticky state (R51, R78). -/
theorem sysReg_slot {n : Nat} (h : n < 7) : let k := c.visibleSlot n
    sysReg key now c (0x30 + n) = k.w ∧ (sysReg key now c (0x38 + n)).extractLsb' 0 32 = k.n ∧
    (sysReg key now c (0x38 + n)).getLsbD 32 = k.idle ∧ (sysReg key now c (0x38 + n)).extractLsb' 33 31 = 0#31 := by
  rw [sysReg_slotw key now c h, sysReg_slotn]
  exact ⟨rfl, Sticky.slotn_fields _⟩

end

section
variable {c : Ctx} (h : c.aside = none)
include h

/-! Outside SERVICE nothing is set aside. -/

theorem Ctx.visiblePc_of_none : c.visiblePc = c.pc := by simp only [Ctx.visiblePc, h]
theorem Ctx.visibleBseq_of_none : c.visibleBseq = c.bseq := by simp only [Ctx.visibleBseq, h]
theorem Ctx.visibleSlot_of_none (k : Nat) : c.visibleSlot k = c.sticky k := by simp only [Ctx.visibleSlot, h]

end

theorem systemRegisterReads : Clause.SystemRegisterReads := by
  intro key now c h r
  have hslot {n : Nat} (hn : n < 7) := sysReg_slot key now c hn
  simp only [Ctx.visibleSlot_of_none h] at hslot
  obtain ⟨hmode, hzero, hscdem, hensat, hact, hheld, htop⟩ := c.ctxstat_fields
  obtain ⟨hpri, hzero', hquads, hfuse, hsysok, hdet, hlock, hpos, hcid⟩ := c.ctxcfg_fields
  obtain ⟨hiter, hndecl, hdph⟩ := c.walk.lwi_fields
  obtain ⟨htrip, hnrun⟩ := c.walk.lwn_fields
  obtain ⟨hoff, hncell, hlp, hcell, hwh⟩ := c.walk.cmapcfg_fields
  have hbits : c.mode.bits = (match c.mode with
      | .unbound => 0#3 | .run => 1#3 | .service => 2#3 | .stopping => 3#3 | .parked => 4#3 | .saved => 5#3 | .halted => 6#3) := by
    cases c.mode <;> rfl
  exact ⟨c.visiblePc_of_none h, congrArg (BitVec.setWidth 64) (c.visibleBseq_of_none h), rfl, rfl, rfl, rfl, rfl, rfl, rfl, rfl, hmode.trans hbits,
    hzero, hscdem, hensat, hact, hheld, htop, hpri, hzero', hquads, hfuse, hsysok, hdet, hlock, hpos, hcid, hiter, hndecl, hdph, htrip, hnrun, hoff,
    hncell, hlp, hcell, hwh, fun n hn => sysReg_lp key now c hn, fun n hn => sysReg_qb key now c hn, fun n hn => hslot hn⟩


/-! Writing. -/

section
variable (c : Ctx) (v : Word) (svc : Bool)

theorem writeSysReg_of_not_mem {n : Nat} (h : n ∉ ownNumbers) : writeSysReg c n v svc =
    if n < 0x24 then c.writeLp (n - 0x20) v svc
    else if n < 0x30 then c.writeQb (n - 0x28) v
    else if n < 0x37 then c.writeSlot (n - 0x30) fun k => { k with w := v }
    else c.writeSlot (n - 0x38) fun k => { k with idle := v.getLsbD 32, n := v.setWidth 32 } := by
  simp only [ownNumbers, List.mem_cons, List.not_mem_nil, or_false, not_or] at h
  unfold writeSysReg
  split
  on_goal 16 => rfl
  all_goals omega

theorem writeSysReg_lp {n : Nat} (h : n < 4) : writeSysReg c (0x20 + n) v svc = c.writeLp n v svc := by
  rw [writeSysReg_of_not_mem c v svc (not_mem_ownNumbers (by omega)), if_pos (by omega), Nat.add_sub_cancel_left]

theorem writeSysReg_qb {n : Nat} (h : n < 8) : writeSysReg c (0x28 + n) v svc = c.writeQb n v := by
  rw [writeSysReg_of_not_mem c v svc (not_mem_ownNumbers (by omega)), if_neg (by omega), if_pos (by omega),
    Nat.add_sub_cancel_left]

theorem writeSysReg_slotw {n : Nat} (h : n < 7) : writeSysReg c (0x30 + n) v svc = c.writeSlot n fun k => { k with w := v } := by
  rw [writeSysReg_of_not_mem c v svc (not_mem_ownNumbers (by omega)), if_neg (by omega), if_neg (by omega), if_pos (by omega),
    Nat.add_sub_cancel_left]

theorem writeSysReg_slotn (n : Nat) :
    writeSysReg c (0x38 + n) v svc = c.writeSlot n fun k => { k with idle := v.getLsbD 32, n := v.extractLsb' 0 32 } := by
  rw [writeSysReg_of_not_mem c v svc (not_mem_ownNumbers (by omega)), if_neg (by omega), if_neg (by omega), if_neg (by omega),
    Nat.add_sub_cancel_left]
  rfl

/-- The bits that a binding holds (R162, R78). -/
theorem getLsbD_qbMask (k : Nat) (h : k < 64) : (0xFFFFFFFF00000FF7#64).getLsbD k = decide (k < 12 ∧ k ≠ 3 ∨ 32 ≤ k) := by
  revert k
  decide

end

/-! In SERVICE the set-aside state takes the writes of PC, BSEQ and the S and B slots (R111); no other write reads or writes it. -/

/-- A context with what SERVICE sets aside. -/
def Ctx.withAside (c : Ctx) (a : Option SetAside) : Ctx := { c with aside := a }

theorem Ctx.writeLp_withAside (c : Ctx) (a : Option SetAside) (n : Nat) (v : Word) (svc : Bool) :
    (c.withAside a).writeLp n v svc = (c.writeLp n v svc).withAside a := by
  unfold Ctx.writeLp
  dsimp only [Ctx.withAside]
  split_ifs <;> rfl

theorem Ctx.writeSlot_withAside (c : Ctx) (a : SetAside) {k : Nat} (f : Sticky → Sticky) (h0 : k ≠ 0) (h6 : k ≠ 6) :
    (c.withAside (some a)).writeSlot k f = ((c.withAside none).writeSlot k f).withAside (some a) := by
  simp only [Ctx.writeSlot, Ctx.withAside, h0, h6, if_false]
  rfl

/-- A write of a register that SERVICE does not set aside (R111). -/
theorem writeSysReg_withAside (c : Ctx) (a : SetAside) (v : Word) (svc : Bool) {n : Nat} (h : n < 0x40)
    (hn : n ∉ [0x000, 0x001, 0x30, 0x36, 0x37, 0x38, 0x3E]) :
    writeSysReg (c.withAside (some a)) n v svc = (writeSysReg (c.withAside none) n v svc).withAside (some a) := by
  simp only [List.mem_cons, List.not_mem_nil, or_false, not_or] at hn
  by_cases hm : n ∈ ownNumbers
  · simp only [ownNumbers, List.mem_cons, List.not_mem_nil, or_false] at hm
    rcases hm with rfl | rfl | rfl | rfl | rfl | rfl | rfl | rfl | rfl | rfl | rfl | rfl | rfl | rfl | rfl
    on_goal 1 => exact absurd rfl hn.1
    on_goal 1 => exact absurd rfl hn.2.1
    all_goals rfl
  · rw [writeSysReg_of_not_mem _ _ _ hm, writeSysReg_of_not_mem _ _ _ hm]
    split_ifs
    · rw [Ctx.writeLp_withAside, Ctx.writeLp_withAside]; rfl
    · rfl
    · exact c.writeSlot_withAside a _ (by omega) (by omega)
    · exact c.writeSlot_withAside a _ (by omega) (by omega)

theorem Ctx.visibleSlot_withAside (c : Ctx) (a : SetAside) {k : Nat} (h0 : k ≠ 0) (h6 : k ≠ 6) :
    (c.withAside (some a)).visibleSlot k = (c.withAside none).visibleSlot k := by
  simp only [Ctx.visibleSlot, Ctx.withAside, h0, h6, if_false]
  rfl

/-- A register that SERVICE does not set aside reads as outside SERVICE (R111). -/
theorem sysReg_withAside (key now : Nat) (c : Ctx) (a : SetAside) {n : Nat} (hn : n ∉ [0x000, 0x001, 0x30, 0x36, 0x37, 0x38, 0x3E]) :
    sysReg key now (c.withAside (some a)) n = sysReg key now (c.withAside none) n := by
  simp only [List.mem_cons, List.not_mem_nil, or_false, not_or] at hn
  by_cases hm : n ∈ ownNumbers
  · simp only [ownNumbers, List.mem_cons, List.not_mem_nil, or_false] at hm
    rcases hm with rfl | rfl | rfl | rfl | rfl | rfl | rfl | rfl | rfl | rfl | rfl | rfl | rfl | rfl | rfl
    on_goal 1 => exact absurd rfl hn.1
    on_goal 1 => exact absurd rfl hn.2.1
    all_goals rfl
  · rw [sysReg_of_not_mem _ _ _ hm, sysReg_of_not_mem _ _ _ hm]
    split_ifs
    · rfl
    · rfl
    · rw [c.visibleSlot_withAside a (by omega) (by omega)]
    · rw [c.visibleSlot_withAside a (by omega) (by omega)]

/-- A context in SERVICE is one that has set aside nothing, with what it has set aside. -/
theorem Ctx.exists_withAside {c : Ctx} {a : SetAside} (h : c.aside = some a) : ∃ b : Ctx, c = b.withAside (some a) := ⟨c, by rw [← h]; rfl⟩

theorem Ctx.writeSlot_of_none {c : Ctx} (h : c.aside = none) (k : Nat) (f : Sticky → Sticky) :
    c.writeSlot k f = { c with slots := c.slots.set k (f (c.sticky k)) } := by
  simp only [Ctx.writeSlot, h]

/-- The binding that a write leaves (R162, R183). -/
theorem Ctx.exists_writeQb (c : Ctx) (n : Nat) (v : Word) : ∃ b : Word,
    (∀ k, k < 64 → b.getLsbD k = (v.getLsbD k && decide (k < 12 ∧ k ≠ 3 ∨ 32 ≤ k))) ∧
    c.writeQb n v = { c with qb := c.qb.set n b, queues := c.queues.set n { c.queue n with ordinal := 0#40 } } :=
  ⟨v &&& 0xFFFFFFFF00000FF7#64, fun k hk => by rw [BitVec.getLsbD_and, getLsbD_qbMask k hk], rfl⟩

theorem systemRegisterWrites : Clause.SystemRegisterWrites := by
  refine ⟨fun c v svc h => ?outside, fun c v n hn => ?walkRegister, fun key now c a h => ?readInService, fun c a v svc h => ?writeInService⟩
  case outside =>
    have hpc : writeSysReg c 0x000 v svc = { c with pc := v &&& 0x000FFFFFFFFFFFF8#64 } := by simp only [writeSysReg, h, pcMask]
    have hbseq : writeSysReg c 0x001 v svc = { c with bseq := v.setWidth 48 } := by simp only [writeSysReg, h]
    have hclear (old one : Bool) : (old && !one) = if one then false else old := by cases one <;> simp
    have hflags : writeSysReg c 0x003 v svc =
        { c with ensat := if v.getLsbD 5 then false else c.ensat, scdem := if v.getLsbD 4 then false else c.scdem } := by
      simp only [writeSysReg, hclear]
    refine ⟨hpc, hbseq, rfl, hflags, rfl, rfl, rfl, rfl, rfl, rfl, rfl, rfl, rfl, rfl, rfl, fun n hn hsvc hv => ?lp, fun n hn hsvc hv => ?lpZero,
      fun n hn => ?qb, fun n hn => ⟨?slotw, ?slotn⟩⟩
    case lp => exact (writeSysReg_lp c v svc hn).trans (by simp [Ctx.writeLp, hsvc, hv])
    case lpZero => exact (writeSysReg_lp c v svc hn).trans (by simp [Ctx.writeLp, hsvc, hv, Ctx.closeFrame, Ctx.frame])
    case qb =>
      obtain ⟨b, hb, hw⟩ := c.exists_writeQb n v
      exact ⟨b, hb, (writeSysReg_qb c v svc hn).trans hw⟩
    case slotw => exact (writeSysReg_slotw c v svc hn).trans (Ctx.writeSlot_of_none h n _)
    case slotn => exact (writeSysReg_slotn c v svc n).trans (Ctx.writeSlot_of_none h n _)
  case walkRegister =>
    rw [writeSysReg_lp c v true hn]
    simp only [Ctx.writeLp, Bool.true_and, Bool.and_eq_true, decide_eq_true_eq]
    rfl
  case readInService =>
    obtain ⟨b, rfl⟩ := Ctx.exists_withAside h
    refine ⟨rfl, rfl, sysReg_slot key now _ (by decide), sysReg_slot key now _ (by decide), fun n h1 h6 => ?between, fun n => ?others⟩
    case between =>
      have hslot := sysReg_slot key now (b.withAside (some a)) (show n < 7 by omega)
      rwa [b.visibleSlot_withAside a (by omega) (by omega)] at hslot
    case others =>
      intro h0 h1 h30 h36 h37 h38 h3e
      exact sysReg_withAside key now b a (by simp [*])
  case writeInService =>
    obtain ⟨b, rfl⟩ := Ctx.exists_withAside h
    refine ⟨rfl, rfl, rfl, rfl, rfl, rfl, fun n hn => ?others⟩
    intro h0 h1 h30 h36 h37 h38 h3e
    exact writeSysReg_withAside b a v svc hn (by simp [*])

/-- Settles O29: the registers of one number each read and write by their own case of R78, the others by the place of their number in its range; what
SERVICE sets aside is of no consequence to any register but PC, BSEQ and those of the S and B slots. -/
theorem systemRegisters : Obligations.SystemRegisters := ⟨systemRegisterReads, systemRegisterWrites⟩

end Sys2Proof.Machine
end

section
/-!
The registers of a context as results reach them (R77, R84, R87): what a write changes of each register, of its pending writer and of its empty mark.
-/
namespace Sys2Proof

theorem Sparse.find_eq_none_of_risingFrom {α : Type} {t : Sparse α} {a i : Nat} (w : Sparse.risingFrom a t = true) (h : i < a) :
    Sparse.find t i = none := by
  cases t with
  | nil => rfl
  | cons x r =>
    obtain ⟨k, v⟩ := x
    simp only [Sparse.risingFrom, Bool.and_eq_true, decide_eq_true_eq] at w
    simp only [Sparse.find]
    rw [if_neg (by omega), if_pos (by omega)]

/-- In a table with rising keys an erased key is absent, and every other reads as before. -/
theorem Sparse.find_erase_of_risingFrom {α : Type} {t : Sparse α} {a : Nat} (w : Sparse.risingFrom a t = true) (i j : Nat) :
    Sparse.find (t.erase i) j = if i = j then none else Sparse.find t j := by
  induction t generalizing a with
  | nil => simp [Sparse.erase, Sparse.find]
  | cons x r ih =>
    obtain ⟨k, v⟩ := x
    simp only [Sparse.risingFrom, Bool.and_eq_true, decide_eq_true_eq] at w
    have hlow : j ≤ k → Sparse.find r j = none := fun h => Sparse.find_eq_none_of_risingFrom w.2 (by omega)
    simp only [Sparse.erase, Sparse.find]
    rcases Nat.lt_trichotomy i k with hlt | rfl | hgt
    · rw [if_neg (by omega), if_pos hlt, Sparse.find]
      grind
    · grind
    · rw [if_neg (by omega), if_neg (by omega), Sparse.find, ih w.2]
      grind

theorem Sparse.find_erase {α : Type} {t : Sparse α} (w : t.wf = true) (i j : Nat) :
    Sparse.find (t.erase i) j = if i = j then none else Sparse.find t j :=
  Sparse.find_erase_of_risingFrom w i j

theorem Sparse.get_map {α : Type} (d : α) (f : α → α) (t : Sparse α) (k : Nat) :
    Sparse.get (f d) (t.map fun x => (x.1, f x.2)) k = f (Sparse.get d t k) := by
  induction t with
  | nil => rfl
  | cons x r ih =>
    simp only [List.map_cons, Sparse.get, ih]
    split_ifs <;> rfl

namespace Machine

theorem getLsbD_setBit_false {w : Nat} (x : BitVec w) (i j : Nat) : (setBit x i false).getLsbD j = (x.getLsbD j && decide (i ≠ j)) := by
  by_cases hj : j < w
  · have : (j < i ∨ j - i ≠ 0) ↔ i ≠ j := by omega
    simp [setBit, hj]
    grind
  · rw [BitVec.getLsbD_of_ge _ _ (by omega), BitVec.getLsbD_of_ge _ _ (by omega), Bool.false_and]


/-! What a context holds of a destination. -/

/-- The value in a destination. -/
def Ctx.holds (c : Ctx) : Dest → Result
  | .s r => .word (c.sreg r)
  | .v r => .vec (c.vreg r) (~~~0#1024)
  | .o r => .vec (c.oreg r) (~~~0#1024)
  | .m r => .mask (c.mreg r)
  | .h r => .handle (c.handle r)
  | .none => .word 0#64

/-- What a context holds of a destination: its value, its pending writer and its empty mark (R87). -/
def Ctx.regView (c : Ctx) (e : Dest) : Result × Option Nat × Bool := (c.holds e, c.writer e, c.isEmpty e)

/-- The pending writers are in canonical form. -/
def Ctx.WritersWf (c : Ctx) : Prop := c.writerS.wf = true ∧ c.writerV.wf = true

/-- A context beside its scalar and vector registers and its last results. -/
def Ctx.besideSV (c : Ctx) : Ctx :=
  { c with s := [], v := [], emptyS := 0#64, emptyV := 0#64, writerS := [], writerV := [], ls := 0#64, lc0 := 0#64, lc1 := 0#64, lv0 := 0#1024,
           lv1 := 0#1024, lm := 0#1024 }

/-- A context beside all its registers. -/
def Ctx.besideRegs (c : Ctx) : Ctx := { c.besideSV with o := [], m := [], h := [] }

section
variable {c d : Ctx} {e : Dest}

theorem Ctx.regView_eq_iff : d.regView e = c.regView e ↔ d.holds e = c.holds e ∧ d.writer e = c.writer e ∧ d.isEmpty e = c.isEmpty e := by
  rw [Ctx.regView, Ctx.regView, Prod.mk.injEq, Prod.mk.injEq]

theorem Ctx.sreg_of_regView {r : Nat} (h : d.regView (.s r) = c.regView (.s r)) : d.sreg r = c.sreg r := Result.word.inj (Ctx.regView_eq_iff.mp h).1
theorem Ctx.vreg_of_regView {r : Nat} (h : d.regView (.v r) = c.regView (.v r)) : d.vreg r = c.vreg r := (Result.vec.inj (Ctx.regView_eq_iff.mp h).1).1
theorem Ctx.oreg_of_regView {r : Nat} (h : d.regView (.o r) = c.regView (.o r)) : d.oreg r = c.oreg r := (Result.vec.inj (Ctx.regView_eq_iff.mp h).1).1
theorem Ctx.mreg_of_regView {r : Nat} (h : d.regView (.m r) = c.regView (.m r)) : d.mreg r = c.mreg r := Result.mask.inj (Ctx.regView_eq_iff.mp h).1
theorem Ctx.handle_of_regView {r : Nat} (h : d.regView (.h r) = c.regView (.h r)) : d.handle r = c.handle r :=
  Result.handle.inj (Ctx.regView_eq_iff.mp h).1
theorem Ctx.writer_of_regView (h : d.regView e = c.regView e) : d.writer e = c.writer e := (Ctx.regView_eq_iff.mp h).2.1
theorem Ctx.isEmpty_of_regView (h : d.regView e = c.regView e) : d.isEmpty e = c.isEmpty e := (Ctx.regView_eq_iff.mp h).2.2

theorem Ctx.besideRegs_of_besideSV (h : d.besideSV = c.besideSV) : d.besideRegs = c.besideRegs := by rw [Ctx.besideRegs, Ctx.besideRegs, h]

end

/-! A write of the last result of a slot, of a register, and of a full mark. -/

section
variable (c : Ctx) (slot r : Nat) (w : Word) (x m : Vec) {e : Dest}

theorem Ctx.setLast_regView : (c.setLast slot w x).regView e = c.regView e := by unfold Ctx.setLast; split <;> rfl
@[simp] theorem Ctx.setLast_besideSV : (c.setLast slot w x).besideSV = c.besideSV := by unfold Ctx.setLast; split <;> rfl
@[simp] theorem Ctx.setLast_writerS : (c.setLast slot w x).writerS = c.writerS := by unfold Ctx.setLast; split <;> rfl
@[simp] theorem Ctx.setLast_writerV : (c.setLast slot w x).writerV = c.writerV := by unfold Ctx.setLast; split <;> rfl

theorem Ctx.writeS_regView (h : e ≠ .s r) : (c.writeS slot r w).regView e = c.regView e := by
  rw [Ctx.writeS, Ctx.setLast_regView]
  split_ifs
  · rfl
  · cases e with
    | s k =>
      have hk : r ≠ k := fun hk => h (congrArg Dest.s hk.symm)
      simp only [Ctx.regView, Ctx.holds, Ctx.sreg, Sparse.get_set_ne _ _ _ hk]
      rfl
    | _ => rfl

@[simp] theorem Ctx.writeS_besideSV : (c.writeS slot r w).besideSV = c.besideSV := by
  rw [Ctx.writeS, Ctx.setLast_besideSV]
  split_ifs <;> rfl
@[simp] theorem Ctx.writeS_writerS : (c.writeS slot r w).writerS = c.writerS := by
  rw [Ctx.writeS, Ctx.setLast_writerS]
  split_ifs <;> rfl
@[simp] theorem Ctx.writeS_writerV : (c.writeS slot r w).writerV = c.writerV := by
  rw [Ctx.writeS, Ctx.setLast_writerV]
  split_ifs <;> rfl

theorem Ctx.writeS_sreg (h : r ≠ 0) : (c.writeS slot r w).sreg r = w := by
  rw [Ctx.writeS, Ctx.sreg_of_regView (Ctx.setLast_regView ..), if_neg h]
  simp only [Ctx.sreg, if_neg h, Sparse.get_set_self]

theorem Ctx.writeV_regView (h : e ≠ .v r) : (c.writeV slot r x m).regView e = c.regView e := by
  rw [Ctx.writeV, Ctx.setLast_regView]
  cases e with
  | v k =>
    have hk : r ≠ k := fun hk => h (congrArg Dest.v hk.symm)
    simp only [Ctx.regView, Ctx.holds, Ctx.vreg, Sparse.get_set_ne _ _ _ hk]
    rfl
  | _ => rfl

@[simp] theorem Ctx.writeV_besideSV : (c.writeV slot r x m).besideSV = c.besideSV := Ctx.setLast_besideSV ..
@[simp] theorem Ctx.writeV_writerS : (c.writeV slot r x m).writerS = c.writerS := Ctx.setLast_writerS ..
@[simp] theorem Ctx.writeV_writerV : (c.writeV slot r x m).writerV = c.writerV := Ctx.setLast_writerV ..

theorem Ctx.writeV_vreg : (c.writeV slot r x m).vreg r = (c.vreg r &&& ~~~m) ||| (x &&& m) := by
  rw [Ctx.writeV, Ctx.vreg_of_regView (Ctx.setLast_regView ..)]
  simp only [Ctx.vreg, Sparse.get_set_self]
  rfl

theorem Ctx.writeO_regView (h : e ≠ .o r) : (c.writeO slot r x m).regView e = c.regView e := by
  rw [Ctx.writeO, Ctx.setLast_regView]
  cases e with
  | o k =>
    have hk : r ≠ k := fun hk => h (congrArg Dest.o hk.symm)
    simp only [Ctx.regView, Ctx.holds, Ctx.oreg, Sparse.get_set_ne _ _ _ hk]
    rfl
  | _ => rfl

@[simp] theorem Ctx.writeO_besideRegs : (c.writeO slot r x m).besideRegs = c.besideRegs := by
  rw [Ctx.writeO, Ctx.besideRegs, Ctx.setLast_besideSV]
  rfl
@[simp] theorem Ctx.writeO_writerS : (c.writeO slot r x m).writerS = c.writerS := Ctx.setLast_writerS ..
@[simp] theorem Ctx.writeO_writerV : (c.writeO slot r x m).writerV = c.writerV := Ctx.setLast_writerV ..

end

section
variable {c : Ctx} (w : c.WritersWf)
include w

theorem Ctx.markFull_regView {d e : Dest} (h : e ≠ d) : (c.markFull d).regView e = c.regView e := by
  cases d with
  | s r =>
    cases e with
    | s k =>
      have hk : r ≠ k := fun hk => h (congrArg Dest.s hk.symm)
      simp only [Ctx.regView, Ctx.holds, Ctx.markFull, Ctx.writer, Ctx.isEmpty, Sparse.find_erase w.1, getLsbD_setBit_false, if_neg hk]
      simp [Ctx.sreg, hk]
    | _ => rfl
  | v r =>
    cases e with
    | v k =>
      have hk : r ≠ k := fun hk => h (congrArg Dest.v hk.symm)
      simp only [Ctx.regView, Ctx.holds, Ctx.markFull, Ctx.writer, Ctx.isEmpty, Sparse.find_erase w.2, getLsbD_setBit_false, if_neg hk]
      simp [Ctx.vreg, hk]
    | _ => rfl
  | _ => rfl

theorem Ctx.markFull_writer (d : Dest) : (c.markFull d).writer d = none := by
  cases d with
  | s r => simp only [Ctx.markFull, Ctx.writer, Sparse.find_erase w.1, if_true]
  | v r => simp only [Ctx.markFull, Ctx.writer, Sparse.find_erase w.2, if_true]
  | _ => rfl

theorem Ctx.WritersWf.markFull (d : Dest) : (c.markFull d).WritersWf := by
  cases d with
  | s r => exact ⟨Sparse.risingFrom_erase w.1, w.2⟩
  | v r => exact ⟨w.1, Sparse.risingFrom_erase w.2⟩
  | _ => exact w

end

theorem Ctx.markFull_isEmpty (c : Ctx) (d : Dest) : (c.markFull d).isEmpty d = false := by
  cases d with
  | s r => simp [Ctx.markFull, Ctx.isEmpty, getLsbD_setBit_false]
  | v r => simp [Ctx.markFull, Ctx.isEmpty, getLsbD_setBit_false]
  | _ => rfl

@[simp] theorem Ctx.markFull_besideSV (c : Ctx) (d : Dest) : (c.markFull d).besideSV = c.besideSV := by
  cases d <;> rfl

end Machine
end Sys2Proof
end

section
/-!
The landing of fixed-latency results (R84, R86, R87).
-/
namespace Sys2Proof.Machine

/-! One result. -/

section
variable {c : Ctx} {op : OpRec} {d e : Dest} {v : Result}

theorem Ctx.landValue_of_newer {n : Nat} (h : c.writer d = some n) (hn : op.order < n) : c.landValue op d v = c := by
  simp only [Ctx.landValue, h, if_pos hn]

theorem Ctx.landValue_of_not_newer (h : ∀ n, c.writer d = some n → n ≤ op.order) : c.landValue op d v = Ctx.landValue.write op d v c := by
  unfold Ctx.landValue
  split
  next n hn => rw [if_neg (by have := h n hn; omega)]
  next => rfl

/-- A result is written or discarded. -/
theorem Ctx.landValue_eq (c : Ctx) (op : OpRec) (d : Dest) (v : Result) :
    c.landValue op d v = c ∨ c.landValue op d v = Ctx.landValue.write op d v c := by
  by_cases h : ∀ n, c.writer d = some n → n ≤ op.order
  · exact .inr (Ctx.landValue_of_not_newer h)
  · push Not at h
    obtain ⟨n, hw, hn⟩ := h
    exact .inl (Ctx.landValue_of_newer hw hn)

theorem Ctx.setMask_regView (r : Nat) (x : MaskVal) (h : e ≠ .m r) : ({ c with m := c.m.set r x } : Ctx).regView e = c.regView e := by
  cases e with
  | m k =>
    have hk : r ≠ k := fun hk => h (congrArg Dest.m hk.symm)
    simp only [Ctx.regView, Ctx.holds, Ctx.mreg, Sparse.get_set_ne _ _ _ hk]
    rfl
  | _ => rfl

theorem Ctx.setHandle_regView (r : Nat) (x : Handle) (h : e ≠ .h r) : ({ c with h := c.h.set r x } : Ctx).regView e = c.regView e := by
  cases e with
  | h k =>
    have hk : r ≠ k := fun hk => h (congrArg Dest.h hk.symm)
    simp only [Ctx.regView, Ctx.holds, Ctx.handle, Sparse.get_set_ne _ _ _ hk]
    rfl
  | _ => rfl

theorem Ctx.landValue_besideRegs (c : Ctx) (op : OpRec) (d : Dest) (v : Result) : (c.landValue op d v).besideRegs = c.besideRegs := by
  rcases c.landValue_eq op d v with hl | hl
  · rw [hl]
  · rw [hl]
    unfold Ctx.landValue.write
    split
    · exact Ctx.besideRegs_of_besideSV (by simp)
    · exact Ctx.besideRegs_of_besideSV (by simp)
    · simp
    · rfl
    · rfl
    · rfl

theorem Ctx.WritersWf.writeS (w : c.WritersWf) (slot r : Nat) (x : Word) : (c.writeS slot r x).WritersWf := by simpa [Ctx.WritersWf] using w
theorem Ctx.WritersWf.writeV (w : c.WritersWf) (slot r : Nat) (x m : Vec) : (c.writeV slot r x m).WritersWf := by simpa [Ctx.WritersWf] using w

section
variable (w : c.WritersWf)
include w

theorem Ctx.WritersWf.landValue (op : OpRec) (d : Dest) (v : Result) : (c.landValue op d v).WritersWf := by
  rcases c.landValue_eq op d v with hl | hl
  · rwa [hl]
  · rw [hl]
    unfold Ctx.landValue.write
    split
    · exact (w.writeS ..).markFull _
    · exact (w.writeV ..).markFull _
    · simpa [Ctx.WritersWf] using w
    · exact w
    · exact w
    · exact w

/-- A landing changes no register but its own. -/
theorem Ctx.landValue_regView (h : e ≠ d) : (c.landValue op d v).regView e = c.regView e := by
  rcases c.landValue_eq op d v with hl | hl
  · rw [hl]
  · rw [hl]
    unfold Ctx.landValue.write
    split
    · exact (Ctx.markFull_regView (w.writeS ..) h).trans (Ctx.writeS_regView _ _ _ _ h)
    · exact (Ctx.markFull_regView (w.writeV ..) h).trans (Ctx.writeV_regView _ _ _ _ _ h)
    · exact Ctx.writeO_regView _ _ _ _ _ h
    · exact Ctx.setMask_regView _ _ h
    · exact Ctx.setHandle_regView _ _ h
    · rfl

/-- A landing makes no operation a pending writer (R87). -/
theorem Ctx.landValue_writer_of_none (h : c.writer e = none) : (c.landValue op d v).writer e = none := by
  by_cases he : e = d
  · subst he
    rcases c.landValue_eq op e v with hl | hl
    · rwa [hl]
    · rw [hl]
      unfold Ctx.landValue.write
      split
      · exact Ctx.markFull_writer (w.writeS ..) _
      · exact Ctx.markFull_writer (w.writeV ..) _
      · rfl
      · rfl
      · rfl
      · exact h
  · rw [Ctx.writer_of_regView (Ctx.landValue_regView w he), h]

/-- A word that lands in a scalar register makes it full and ends the wait for an older writer (R86, R87). -/
theorem Ctx.word_of_landing {u : Ctx} {r : Nat} {x : Word} (hu : u.regView (.s r) = (c.landValue op (.s r) (.word x)).regView (.s r)) (hr : r ≠ 0)
    (h : ∀ n, c.writer (.s r) = some n → n ≤ op.order) : u.sreg r = x ∧ u.emptyS.getLsbD r = false ∧ u.writer (.s r) = none := by
  rw [Ctx.landValue_of_not_newer h, Ctx.landValue.write] at hu
  exact ⟨(Ctx.sreg_of_regView hu).trans (Ctx.writeS_sreg c op.slot r x hr), (Ctx.isEmpty_of_regView hu).trans (Ctx.markFull_isEmpty ..),
    (Ctx.writer_of_regView hu).trans (Ctx.markFull_writer (w.writeS ..) _)⟩

end

theorem Ctx.landValue_vec {r : Nat} (x m : Vec) (h : c.writer (.v r) = none) :
    (c.landValue op (.v r) (.vec x m)).vreg r = (c.vreg r &&& ~~~m) ||| (x &&& m) := by
  rw [Ctx.landValue_of_not_newer (by simp [h]), Ctx.landValue.write]
  exact Ctx.writeV_vreg c op.slot r x m

theorem Ctx.landValue_mask (r : Nat) (x : MaskVal) : (c.landValue op (.m r) (.mask x)).mreg r = x := Sparse.get_set_self ..
theorem Ctx.landValue_handle (r : Nat) (x : Handle) : (c.landValue op (.h r) (.handle x)).handle r = x := Sparse.get_set_self ..

end

/-! The results of a cycle. -/

/-- A context after landings, in their order. -/
def Ctx.landAll (c : Ctx) (ls : List Landing) : Ctx := ls.foldl (fun c l => c.landValue l.op l.dest l.val) c

theorem Ctx.landAll_besideRegs (c : Ctx) (ls : List Landing) : (c.landAll ls).besideRegs = c.besideRegs := by
  induction ls generalizing c with
  | nil => rfl
  | cons l ls ih => exact (ih _).trans (c.landValue_besideRegs ..)

section
variable {c : Ctx} {e : Dest} {ls : List Landing} (w : c.WritersWf)
include w

theorem Ctx.WritersWf.landAll (ls : List Landing) : (c.landAll ls).WritersWf := by
  induction ls generalizing c with
  | nil => exact w
  | cons l ls ih => exact ih (w.landValue ..)

theorem Ctx.landAll_regView (h : ∀ l, l ∈ ls → l.dest ≠ e) : (c.landAll ls).regView e = c.regView e := by
  induction ls generalizing c with
  | nil => rfl
  | cons l ls ih =>
    obtain ⟨hl, hls⟩ := List.forall_mem_cons.mp h
    exact (ih (w.landValue ..) hls).trans (Ctx.landValue_regView w hl.symm)

theorem Ctx.landAll_writer_of_none (h : c.writer e = none) : (c.landAll ls).writer e = none := by
  induction ls generalizing c with
  | nil => exact h
  | cons l ls ih => exact ih (w.landValue ..) (Ctx.landValue_writer_of_none w h)

/-- A register keeps what it holds where its pending writer is newer than every result (R87). -/
theorem Ctx.landAll_of_newer {n : Nat} (h : c.writer e = some n) (hn : ∀ l, l ∈ ls → l.op.order < n) : (c.landAll ls).regView e = c.regView e := by
  induction ls generalizing c with
  | nil => rfl
  | cons l ls ih =>
    obtain ⟨hl, hls⟩ := List.forall_mem_cons.mp hn
    have hview : (c.landValue l.op l.dest l.val).regView e = c.regView e := by
      by_cases he : e = l.dest
      · rw [Ctx.landValue_of_newer (he ▸ h) hl]
      · exact Ctx.landValue_regView w he
    exact (ih (w.landValue ..) ((Ctx.writer_of_regView hview).trans h) hls).trans hview

/-- The last result due to a register is the one that it shows (R86). -/
theorem Ctx.landAll_last {a b : List Landing} {l : Landing} (h : ∀ x, x ∈ b → x.dest ≠ l.dest) :
    (c.landAll (a ++ l :: b)).regView l.dest = ((c.landAll a).landValue l.op l.dest l.val).regView l.dest := by
  rw [Ctx.landAll, List.foldl_append, List.foldl_cons]
  exact Ctx.landAll_regView ((w.landAll a).landValue ..) h

end

/-! The change of the state. -/

/-- A context that has taken the results due on a cycle off their way, and the write ports for them (R67). -/
def Ctx.takesDue (c : Ctx) (now : Nat) (due : List Landing) : Ctx :=
  { c with landings := c.landings.filter fun l => !decide (l.due ≤ now), portAt := now, portS := (portCount due).1, portV := (portCount due).2 }

theorem Ctx.takesDue_landings (c : Ctx) (now : Nat) (due : List Landing) :
    (c.takesDue now due).landings = c.landings.filter fun l => decide (now < l.due) :=
  List.filter_congr fun l _ => by simp only [← decide_not, Nat.not_le]

/-- A state in which results have reached one context, with what is kept of the contexts for a stop (R265). -/
def State.withResults (s : State) (key : Nat) (b : Sparse Before) (d : Ctx) : State := { s with before := b, ctxs := s.ctxs.set key d }

@[simp] theorem State.withResults_ctx (s : State) (key : Nat) (b : Sparse Before) (d : Ctx) : (s.withResults key b d).ctx key = d :=
  Sparse.get_set_self ..

theorem applyAll_modCtx_withResults (s : State) (key : Nat) (b : Sparse Before) (d : Ctx) (f : Ctx → Ctx) :
    applyAll (modCtx key f (s.withResults key b d)) (s.withResults key b d) = s.withResults key b (f d) := by
  rw [applyAll_modCtx, State.withResults_ctx]
  simp only [State.withResults, Sparse.set_set]

/-- What is kept of a context changes nothing else (R265). -/
theorem applyAll_keepBefore (key : Nat) (s : State) : ∃ b, applyAll (keepBefore key s) s = { s with before := b } := by
  unfold keepBefore
  split
  · exact ⟨s.before, rfl⟩
  · exact ⟨_, rfl⟩

theorem landOne_of_value (key : Nat) {l : Landing} (h : ∀ a, l.val ≠ .act a) (s : State) :
    landOne key l s = modCtx key (fun c => c.landValue l.op l.dest l.val) s := by
  unfold landOne
  split
  · exact absurd ‹_› (h _)
  · rfl

theorem applyAll_each_landOne (key : Nat) {ls : List Landing} (h : ∀ l, l ∈ ls → ∀ a, l.val ≠ .act a) (s : State) (b : Sparse Before) (c : Ctx) :
    applyAll (Act.each ls (landOne key) (s.withResults key b c)) (s.withResults key b c) = s.withResults key b (c.landAll ls) := by
  induction ls generalizing c with
  | nil => rfl
  | cons l ls ih =>
    obtain ⟨hl, hls⟩ := List.forall_mem_cons.mp h
    rw [Act.each, List.map_cons, applyAll_seqs_cons, landOne_of_value key hl, applyAll_modCtx_withResults]
    exact ih hls _

theorem applyAll_landDue {key : Nat} {s : State} (hflows : (s.ctx key).flows = true) (hdue : dueLandings s key ≠ []) :
    ∃ b, let u := s.withResults key b ((s.ctx key).takesDue s.now (dueLandings s key))
      applyAll (landDue key s) s = applyAll (Act.each (dueLandings s key) (landOne key) u) u := by
  obtain ⟨b, hb⟩ := applyAll_keepBefore key s
  refine ⟨b, ?_⟩
  simp only [landDue, hflows, hdue, Bool.not_true, decide_false, Bool.or_self, Bool.false_eq_true, if_false]
  rw [applyAll_seqs_cons, hb, applyAll_seqs_cons, applyAll_modCtx, applyAll_seqs_cons]
  rfl


theorem exec_fixedLatencyLanding (key : Nat) (s : State) : exec (.fixedLatencyLanding key) s = done (landDue key) s := rfl

section
variable {key : Nat} {s : State} (hflows : (s.ctx key).flows = true)
include hflows

/-- Where no result is an action, the results due land in their order. -/
theorem exec_landing_of_results (hdue : dueLandings s key ≠ []) (h : ∀ l, l ∈ dueLandings s key → ∀ a, l.val ≠ .act a) :
    ∃ b, exec (.fixedLatencyLanding key) s =
      .next (s.withResults key b (((s.ctx key).takesDue s.now (dueLandings s key)).landAll (dueLandings s key))) := by
  obtain ⟨b, hb⟩ := applyAll_landDue hflows hdue
  refine ⟨b, ?_⟩
  rw [exec_fixedLatencyLanding, done_eq, hb]
  exact congrArg Host.Outcome.next (applyAll_each_landOne key h s b _)

/-- An action that is due alone, and that is a change of its context, makes that change. -/
theorem exec_landing_of_action {l : Landing} (hdue : dueLandings s key = [l]) {a : Action} (ha : l.val = .act a) {f : Ctx → Ctx}
    (hf : ∀ u, applyAction key l.op a u = modCtx key f u) :
    ∃ b, exec (.fixedLatencyLanding key) s = .next (s.withResults key b (f ((s.ctx key).takesDue s.now [l]))) := by
  obtain ⟨b, hb⟩ := applyAll_landDue hflows (hdue ▸ List.cons_ne_nil l [])
  refine ⟨b, ?_⟩
  have hone (u : State) : landOne key l u = modCtx key f u := by rw [landOne, ha]; exact hf u
  rw [exec_fixedLatencyLanding, done_eq, hb, hdue]
  rw [Act.each, List.map_singleton, applyAll_seqs_cons, hone, applyAll_modCtx_withResults]
  rfl

end

/-! What an action changes of its context. -/

theorem applyAction_srWrite_own (key : Nat) (op : OpRec) (n : Nat) (v : Word) (u : State) :
    applyAction key op (.srWrite key n v) u = modCtx key (fun c => writeSysReg c n v (c.mode = .service)) u := by
  simp [applyAction, Act.when, modSelected, Act.seq]

theorem applyAction_permld_own (key : Nat) (op : OpRec) (e : Nat) (p : PermEntry) (u : State) :
    applyAction key op (.permld key e p) u = modCtx key (fun c => c.setPerm e p) u := by
  simp [applyAction, Act.when, modSelected, Act.seq]

theorem applyAction_revoke (key : Nat) (op : OpRec) (h : Nat) (u : State) :
    applyAction key op (.revoke h) u = modCtx key (fun c => c.revoke op h) u := rfl
theorem applyAction_fuse (key : Nat) (op : OpRec) (f : BitVec 2) (u : State) :
    applyAction key op (.fuse f) u = modCtx key (fun c => { c with fuse := f }) u := rfl
theorem applyAction_vtsel (key : Nat) (op : OpRec) (t : Option Nat) (u : State) :
    applyAction key op (.vtsel t) u = modCtx key (fun c => { c with vtsel := t }) u := rfl
theorem applyAction_qcfg (key : Nat) (op : OpRec) (q : Nat) (v : Word) (u : State) :
    applyAction key op (.qcfg q v) u = modCtx key (fun c => c.writeQb q v) u := rfl

theorem Ctx.revoke_handle (c : Ctx) (op : OpRec) (h k : Nat) :
    (c.revoke op h).handle k = if h = k then { c.handle h with v := false } else c.handle k := Sparse.get_set ..

theorem Ctx.setPerm_permEntry (c : Ctx) (e : Nat) (p : PermEntry) (k : Nat) :
    (c.setPerm e p).permEntry k = if e = k then p else c.permEntry k := Sparse.get_set ..

/-- A change of a permission-table entry takes away the handles of the entry (R109). -/
theorem Ctx.setPerm_handle (c : Ctx) (e : Nat) (p : PermEntry) (k : Nat) :
    (c.setPerm e p).handle k = if (c.handle k).entry = e then { c.handle k with v := false } else c.handle k := by
  have hmap : (c.setPerm e p).h = c.h.map fun x => (x.1, if x.2.entry = e then { x.2 with v := false } else x.2) :=
    List.map_congr_left fun x _ => by split_ifs <;> rfl
  have hnone : ({} : Handle) = if ({} : Handle).entry = e then { ({} : Handle) with v := false } else {} := by split_ifs <;> rfl
  rw [Ctx.handle, hmap, hnone]
  exact Sparse.get_map {} (fun x => if x.entry = e then { x with v := false } else x) c.h k

theorem fixedLatencyLandings : Clause.FixedLatencyLandings := by
  intro key s c due hflows hdue hS hV
  refine ⟨fun hval => ?results, fun l hl => ?actions⟩
  case results =>
    obtain ⟨b, hexec⟩ := exec_landing_of_results hflows hdue hval
    refine ⟨_, hexec, ?_⟩
    dsimp only
    rw [State.withResults_ctx]
    let u : Ctx := c.takesDue s.now due
    have w : u.WritersWf := ⟨hS, hV⟩
    have hbeside := u.landAll_besideRegs due
    have hview {e : Dest} (h : ∀ l, l ∈ due → l.dest ≠ e) := Ctx.landAll_regView w h
    refine ⟨rfl, (congrArg Ctx.landings hbeside :).trans (c.takesDue_landings s.now due), (congrArg Ctx.pending hbeside :),
      (congrArg Ctx.mode hbeside :), (congrArg Ctx.pc hbeside :), (congrArg Ctx.bseq hbeside :), (congrArg Ctx.acc hbeside :), (congrArg Ctx.queues hbeside :),
      (congrArg Ctx.lp hbeside :), fun r h => Ctx.sreg_of_regView (hview h), fun r h => Ctx.vreg_of_regView (hview h),
      fun r h => Ctx.oreg_of_regView (hview h), fun r h => Ctx.mreg_of_regView (hview h), fun r h => Ctx.handle_of_regView (hview h),
      fun a l b hsplit hlast => ?_⟩
    have hshown : (u.landAll due).regView l.dest = ((u.landAll a).landValue l.op l.dest l.val).regView l.dest :=
      hsplit ▸ Ctx.landAll_last w hlast
    refine ⟨fun r x hd hx hr => ⟨fun hnone => ?word, fun n hn hle ha => ?oldWriter, fun n hn hnew => ?newWriter⟩,
      fun r x m hd hx ha hnone => ?vec, fun r x hd hx => ?mask, fun r x hd hx => ?handle⟩
    case newWriter => exact Ctx.sreg_of_regView (hd ▸ Ctx.landAll_of_newer w hn hnew)
    all_goals rw [hd, hx] at hshown
    case word =>
      have hw : (u.landAll a).writer (.s r) = none := Ctx.landAll_writer_of_none w (hd ▸ hnone)
      exact (Ctx.word_of_landing (w.landAll a) hshown hr (by simp [hw])).1
    case oldWriter =>
      rw [hd] at hn ha ⊢
      have hw : (u.landAll a).writer (.s r) = some n := (Ctx.writer_of_regView (Ctx.landAll_regView w ha)).trans hn
      exact Ctx.word_of_landing (w.landAll a) hshown hr fun k hk => Option.some.inj (hw.symm.trans hk) ▸ hle
    case vec =>
      rw [hd] at hnone ha
      have hbefore := Ctx.landAll_regView w ha
      have hvreg := Ctx.landValue_vec (op := l.op) x m ((Ctx.writer_of_regView hbefore).trans hnone)
      rw [Ctx.vreg_of_regView hbefore] at hvreg
      exact (Ctx.vreg_of_regView hshown).trans hvreg
    case mask => exact (Ctx.mreg_of_regView hshown).trans (Ctx.landValue_mask r x)
    case handle => exact (Ctx.handle_of_regView hshown).trans (Ctx.landValue_handle r x)
  case actions =>
    have hact {a : Action} (ha : l.val = .act a) {f : Ctx → Ctx} (hf : ∀ u, applyAction key l.op a u = modCtx key f u) {P : State → Prop}
        (hp : ∀ b, P (s.withResults key b (f (c.takesDue s.now [l])))) : Answers (.fixedLatencyLanding key) s P := by
      obtain ⟨b, hexec⟩ := exec_landing_of_action hflows hl ha hf
      exact ⟨_, hexec, hp b⟩
    refine ⟨fun n v ha => ?srWrite, fun h ha => ?revoke, fun f ha => ?fuse, fun k ha => ?vtsel, fun q v ha => ?qcfg, fun e p ha => ?permld⟩
    case srWrite =>
      refine hact ha (applyAction_srWrite_own key l.op n v) fun b => ⟨c.takesDue s.now [l], ?_, rfl, State.withResults_ctx ..⟩
      rw [← Ctx.takesDue_landings c s.now [l]]
      rfl
    case revoke =>
      refine hact ha (applyAction_revoke key l.op h) fun b => ⟨rfl, ?_, fun k hk => ?_⟩
      · rw [State.withResults_ctx, Ctx.revoke_handle, if_pos rfl]; rfl
      · rw [State.withResults_ctx, Ctx.revoke_handle, if_neg hk.symm]; rfl
    case fuse => exact hact ha (applyAction_fuse key l.op f) fun b => ⟨rfl, congrArg Ctx.fuse (State.withResults_ctx ..)⟩
    case vtsel => exact hact ha (applyAction_vtsel key l.op k) fun b => ⟨rfl, congrArg Ctx.vtsel (State.withResults_ctx ..)⟩
    case qcfg =>
      refine hact ha (applyAction_qcfg key l.op q v) fun b => ⟨rfl, ?_, ?_⟩
      · rw [State.withResults_ctx]; exact Sparse.get_set_self ..
      · rw [State.withResults_ctx]; exact congrArg Queue.ordinal (Sparse.get_set_self ..)
    case permld =>
      refine hact ha (applyAction_permld_own key l.op e p) fun b => ⟨rfl, ?_, fun k hk => ?_, fun k => ⟨fun hk _ => ?_, fun hk => ?_⟩⟩
      · rw [State.withResults_ctx, Ctx.setPerm_permEntry, if_pos rfl]
      · rw [State.withResults_ctx, Ctx.setPerm_permEntry, if_neg hk.symm]; rfl
      · rw [State.withResults_ctx, Ctx.setPerm_handle]; exact congrArg Handle.v (if_pos hk)
      · rw [State.withResults_ctx, Ctx.setPerm_handle]; exact if_neg hk

end Sys2Proof.Machine
end

section
/-!
The arrival of pending operations (R87, R162, R182, R205).
-/
namespace Sys2Proof.Machine

/-! The operation that arrives. -/

theorem arrival_of_nextArrival {s : State} {key : Nat} {p : Pending} (h : nextArrival s key = some p) :
    ∃ at_ vals, arrival s key p = some (at_, vals) ∧ at_ ≤ s.now := by
  have hp := List.find?_some h
  cases ha : arrival s key p with
  | none => simp [ha] at hp
  | some x => exact ⟨x.1, x.2, rfl, by simp [ha] at hp; exact hp.2⟩

section
variable {s : State} {key : Nat} {p : Pending} {at_ : Nat} {vals : List Result} (ha : arrival s key p = some (at_, vals))
include ha

/-- A claim arrives with the converted entry that it holds, 3 cycles after the entry was appended at the earliest (R162, R182). -/
theorem entry_of_claim_arrival {q n since : Nat} {o : BitVec 40} {b : Word} (h : p.src = .claim q n o b since) :
    ∃ e, ((s.ctx key).queue q).entryOf n = some e ∧ at_ = max since e.appended + 3 ∧
      vals = [.vec (BitVec.ofNat 1024 (convertEntry b o e.src e.n (leNat e.image))) (~~~0#1024)] := by
  simp only [arrival, h, Option.map_eq_some_iff, Prod.mk.injEq] at ha
  obtain ⟨e, he, hat, hvals⟩ := ha
  exact ⟨e, he, hat.symm, hvals.symm⟩

/-- A JOIN arrives on the cycle that it was given, with the count of the children that have ended (R205). -/
theorem count_of_join_arrival {since : Nat} {due : Option Nat} (h : p.src = .join since due) :
    due = some at_ ∧ vals = [.word ((s.ctx key).done.setWidth 64)] := by
  simp only [arrival, h, Option.map_eq_some_iff, Prod.mk.injEq] at ha
  obtain ⟨t, ht, rfl, hvals⟩ := ha
  exact ⟨ht, hvals.symm⟩

end

theorem exec_arrival {s : State} {key : Nat} {p : Pending} (h : nextArrival s key = some p) :
    exec (if p.isClaim then .queueClaimArrival key else .variableLatencyArrival key) s = .next (applyAll (arriveOne key p s) s) := by
  split_ifs with hc
  · have harrive : arriveClaim key s = arriveOne key p s := by rw [arriveClaim, h]; exact if_pos hc
    exact congrArg (fun e => Host.Outcome.next (applyAll e s)) harrive
  · have harrive : arriveValue key s = arriveOne key p s := by rw [arriveValue, h]; exact if_neg hc
    exact congrArg (fun e => Host.Outcome.next (applyAll e s)) harrive

/-! What it gives up. -/

/-- The destinations of a pending operation that take a write port (R67, R77, R87). -/
def Ctx.portDests (c : Ctx) (p : Pending) : List Dest := p.dests.filter fun d => c.takes p.op d && d ≠ .s 0

/-- A context that a pending operation has left, before its values are written: its claim is filled, its count of children read, and the write ports
of the destinations taken (R67, R182, R205). -/
def Ctx.releases (c : Ctx) (now : Nat) (p : Pending) (ds : List Dest) : Ctx :=
  let c := { c with pending := c.pending.erase p, portS := (if c.portAt = now then c.portS else 0) + (ds.filter Dest.isS).length,
                    portV := (if c.portAt = now then c.portV else 0) + (ds.filter Dest.isV).length, portAt := now }
  match p.src with
  | .claim q n .. => { c with queues := c.queues.set q ((c.queue q).fill n) }
  | .join _ _ => { c with done := 0#16 }
  | _ => c

section
variable (c : Ctx) (now : Nat) (p : Pending) (ds : List Dest)

theorem Ctx.releases_regView (e : Dest) : (c.releases now p ds).regView e = c.regView e := by
  unfold Ctx.releases
  cases p.src <;> rfl

theorem Ctx.WritersWf.releases (w : c.WritersWf) : (c.releases now p ds).WritersWf := by
  unfold Ctx.releases
  cases p.src <;> exact w

theorem Ctx.releases_fields : let d := c.releases now p ds
    d.pending = c.pending.erase p ∧ d.landings = c.landings ∧ d.mode = c.mode ∧ d.pc = c.pc ∧ d.acc = c.acc ∧ d.m = c.m ∧ d.h = c.h ∧ d.o = c.o := by
  unfold Ctx.releases
  cases p.src <;> exact ⟨rfl, rfl, rfl, rfl, rfl, rfl, rfl, rfl⟩

theorem Ctx.releases_done_of_join {since : Nat} {due : Option Nat} (h : p.src = .join since due) : (c.releases now p ds).done = 0#16 := by
  simp only [Ctx.releases, h]

theorem Ctx.releases_done (h : ∀ since due, p.src ≠ .join since due) : (c.releases now p ds).done = c.done := by
  unfold Ctx.releases
  cases hs : p.src with
  | join since due => exact absurd hs (h since due)
  | _ => rfl

end

/-! The values that it brings. -/

/-- A context after the values of an arrival, in their order. -/
def Ctx.arriveAll (c : Ctx) (op : OpRec) (l : List (Dest × Result)) : Ctx := l.foldl (fun c x => c.arrive op x.1 x.2) c

theorem Ctx.arrive_of_not_takes {c : Ctx} {op : OpRec} {d : Dest} (v : Result) (h : c.takes op d = false) : c.arrive op d v = c :=
  if_neg (Bool.not_eq_true _ ▸ h)

theorem Ctx.arrive_word_eq {c : Ctx} {op : OpRec} {r : Nat} (x : Word) (h : c.takes op (.s r) = true) :
    c.arrive op (.s r) (.word x) = (c.writeS op.slot r x).markFull (.s r) := if_pos h

/-- A vector arrives in its register; from slot 3 it is the last mask, too (R84). -/
theorem Ctx.arrive_vec_eq {c : Ctx} {op : OpRec} {r : Nat} (x m : Vec) (h : c.takes op (.v r) = true) :
    ∃ lm, c.arrive op (.v r) (.vec x m) = { (c.writeV op.slot r x m).markFull (.v r) with lm := lm } := by
  have ha : c.arrive op (.v r) (.vec x m) = _ := if_pos h
  by_cases h3 : op.slot = 3
  · exact ⟨_, ha.trans (if_pos h3)⟩
  · exact ⟨_, ha.trans (if_neg h3)⟩

/-- What the arrival of a value can do: nothing, or write the register of its kind and make it full (R87). -/
theorem Ctx.arrive_cases (c : Ctx) (op : OpRec) (d : Dest) (v : Result) : c.arrive op d v = c ∨
    (∃ r x, d = .s r ∧ c.arrive op d v = (c.writeS op.slot r x).markFull (.s r)) ∨
    ∃ r x m lm, d = .v r ∧ c.arrive op d v = { (c.writeV op.slot r x m).markFull (.v r) with lm := lm } := by
  cases h : c.takes op d with
  | false => exact .inl (Ctx.arrive_of_not_takes v h)
  | true =>
    have ha : c.arrive op d v = _ := if_pos h
    split at ha
    next r x => exact .inr (.inl ⟨r, x, rfl, ha⟩)
    next r x m =>
      obtain ⟨lm, hlm⟩ := Ctx.arrive_vec_eq x m h
      exact .inr (.inr ⟨r, x, m, lm, rfl, hlm⟩)
    next => exact .inl ha

/-- The last mask is no register. -/
theorem Ctx.setLastMask_regView (c : Ctx) (x : Vec) (e : Dest) : ({ c with lm := x } : Ctx).regView e = c.regView e := by cases e <;> rfl

theorem Ctx.arrive_besideSV (c : Ctx) (op : OpRec) (d : Dest) (v : Result) : (c.arrive op d v).besideSV = c.besideSV := by
  rcases c.arrive_cases op d v with h | ⟨r, x, -, h⟩ | ⟨r, x, m, lm, -, h⟩
  · rw [h]
  · rw [h, Ctx.markFull_besideSV, Ctx.writeS_besideSV]
  · rw [h]
    exact (Ctx.markFull_besideSV ..).trans (Ctx.writeV_besideSV ..)

theorem Ctx.arriveAll_besideSV (c : Ctx) (op : OpRec) (l : List (Dest × Result)) : (c.arriveAll op l).besideSV = c.besideSV := by
  induction l generalizing c with
  | nil => rfl
  | cons x l ih => exact (ih _).trans (c.arrive_besideSV ..)

section
variable {c : Ctx} {op : OpRec} {e : Dest} (w : c.WritersWf)
include w

theorem Ctx.WritersWf.arrive (d : Dest) (v : Result) : (c.arrive op d v).WritersWf := by
  rcases c.arrive_cases op d v with h | ⟨r, x, -, h⟩ | ⟨r, x, m, lm, -, h⟩
  · rwa [h]
  · rw [h]
    exact (w.writeS ..).markFull _
  · rw [h]
    exact (w.writeV op.slot r x m).markFull (.v r)

/-- An arrival changes no register but its own. -/
theorem Ctx.arrive_regView {d : Dest} {v : Result} (he : e ≠ d) : (c.arrive op d v).regView e = c.regView e := by
  rcases c.arrive_cases op d v with h | ⟨r, x, rfl, h⟩ | ⟨r, x, m, lm, rfl, h⟩
  · rw [h]
  · rw [h, Ctx.markFull_regView (w.writeS ..) he, Ctx.writeS_regView _ _ _ _ he]
  · rw [h, Ctx.setLastMask_regView, Ctx.markFull_regView (w.writeV ..) he, Ctx.writeV_regView _ _ _ _ _ he]

theorem Ctx.arriveAll_regView {l : List (Dest × Result)} (h : ∀ x, x ∈ l → x.1 ≠ e) : (c.arriveAll op l).regView e = c.regView e := by
  induction l generalizing c with
  | nil => rfl
  | cons x l ih =>
    obtain ⟨hx, hl⟩ := List.forall_mem_cons.mp h
    exact (ih (w.arrive ..) hl).trans (Ctx.arrive_regView w hx.symm)

/-- The pending writer of a scalar register writes it and makes it full (R87). -/
theorem Ctx.arrive_word {r : Nat} (x : Word) (hr : r ≠ 0) (h : c.writer (.s r) = some op.order) :
    (c.arrive op (.s r) (.word x)).sreg r = x ∧ (c.arrive op (.s r) (.word x)).isEmpty (.s r) = false ∧
    (c.arrive op (.s r) (.word x)).writer (.s r) = none := by
  rw [Ctx.arrive_word_eq x (by simp [Ctx.takes, h])]
  exact ⟨Ctx.writeS_sreg c op.slot r x hr, Ctx.markFull_isEmpty _ _, Ctx.markFull_writer (w.writeS ..) _⟩

end

/-- The pending writer of a vector register writes the bits that it has and makes it full (R87, R122). -/
theorem Ctx.arrive_vec {c : Ctx} {op : OpRec} {r : Nat} (x m : Vec) (h : c.writer (.v r) = some op.order) :
    (c.arrive op (.v r) (.vec x m)).vreg r = (c.vreg r &&& ~~~m) ||| (x &&& m) ∧ (c.arrive op (.v r) (.vec x m)).isEmpty (.v r) = false := by
  obtain ⟨lm, hlm⟩ := Ctx.arrive_vec_eq (op := op) x m (show c.takes op (.v r) = true by simp [Ctx.takes, h])
  rw [hlm]
  exact ⟨c.writeV_vreg op.slot r x m, Ctx.markFull_isEmpty (c.writeV op.slot r x m) (.v r)⟩

/-- The value of an operation that is no longer the pending writer is discarded (R87). -/
theorem Ctx.arrive_of_not_writer {c : Ctx} {op : OpRec} {d : Dest} (v : Result) (h0 : d ≠ .s 0) (h : c.writer d ≠ some op.order) :
    c.arrive op d v = c := by
  exact Ctx.arrive_of_not_takes v (by simp [Ctx.takes, h0, h])

/-! The change of the state. -/

theorem applyAll_keepValue (key : Nat) (p : Pending) (vals : List Result) (s : State) :
    ∃ b, applyAll (keepValue key p vals s) s = { s with before := b } := by
  unfold keepValue
  split
  · exact ⟨_, rfl⟩
  · exact ⟨s.before, rfl⟩

/-- The access that a pending operation waited for is over with its arrival, unless it still has to reach its home (R107). -/
def releaseAccess (p : Pending) : Act := fun s =>
  match p.src with
  | .access id => (match s.accs.find id with
    | some a => if a.buffered then [] else [.acc id none]
    | none => [])
  | _ => []

theorem applyAll_releaseAccess (p : Pending) (s : State) : ∃ accs, applyAll (releaseAccess p s) s = { s with accs := accs } ∧
    ((∀ id, p.src ≠ .access id) → accs = s.accs) ∧ ∀ id, p.src = .access id → accs = s.accs ∨ accs = s.accs.erase id := by
  unfold releaseAccess
  split
  next id hsrc =>
    have hid {accs : Sparse Access} (h : accs = s.accs ∨ accs = s.accs.erase id) :
        ((∀ id, p.src ≠ .access id) → accs = s.accs) ∧ ∀ id, p.src = .access id → accs = s.accs ∨ accs = s.accs.erase id :=
      ⟨fun hn => absurd hsrc (hn id), fun id' h' => Source.access.inj (hsrc.symm.trans h') ▸ h⟩
    split
    · split_ifs
      · exact ⟨s.accs, rfl, hid (.inl rfl)⟩
      · exact ⟨s.accs.erase id, rfl, hid (.inr rfl)⟩
    · exact ⟨s.accs, rfl, hid (.inl rfl)⟩
  next => exact ⟨s.accs, rfl, fun _ => rfl, fun _ _ => .inl rfl⟩

theorem arriveOne_eq {key : Nat} {p : Pending} {s : State} {at_ : Nat} {vals : List Result} (h : arrival s key p = some (at_, vals)) :
    arriveOne key p s = Act.seqs [keepBefore key, keepValue key p vals,
      modCtx key fun c => (c.releases s.now p ((s.ctx key).portDests p)).arriveAll p.op (p.dests.zip vals), releaseAccess p] s := by
  rw [arriveOne, h]
  rfl

/-- An arrival writes its own context, and releases its access. -/
theorem applyAll_arriveOne {key : Nat} {p : Pending} {s : State} {at_ : Nat} {vals : List Result} (h : arrival s key p = some (at_, vals)) :
    ∃ b accs, applyAll (arriveOne key p s) s = ({ s with accs := accs } : State).withResults key b
        (((s.ctx key).releases s.now p ((s.ctx key).portDests p)).arriveAll p.op (p.dests.zip vals)) ∧
      ((∀ id, p.src ≠ .access id) → accs = s.accs) ∧ ∀ id, p.src = .access id → accs = s.accs ∨ accs = s.accs.erase id := by
  obtain ⟨b, hb⟩ := applyAll_keepBefore key s
  obtain ⟨b', hb'⟩ := applyAll_keepValue key p vals { s with before := b }
  obtain ⟨accs, haccs, hrest⟩ := applyAll_releaseAccess p
    (s.withResults key b' (((s.ctx key).releases s.now p ((s.ctx key).portDests p)).arriveAll p.op (p.dests.zip vals)))
  refine ⟨b', accs, ?_, hrest⟩
  rw [arriveOne_eq h, applyAll_seqs_cons, hb, applyAll_seqs_cons, hb', applyAll_seqs_cons, applyAll_seqs_cons]
  exact haccs

theorem variableLatencyArrivals : Clause.VariableLatencyArrivals := by
  intro key s p hnext hS hV c i
  obtain ⟨at_, vals, ha, hnow⟩ := arrival_of_nextArrival hnext
  refine ⟨at_, vals, ha, hnow, fun q n o b since hsrc => ?claim, fun since due hsrc => count_of_join_arrival ha hsrc, ?arrives⟩
  case claim =>
    obtain ⟨e, he, hat, hvals⟩ := entry_of_claim_arrival ha hsrc
    exact ⟨e, he, by omega, by omega, hvals⟩
  case arrives =>
    obtain ⟨b, accs, hstate, hvalue, haccess⟩ := applyAll_arriveOne ha
    refine ⟨_, (exec_arrival hnext).trans (congrArg Host.Outcome.next hstate), ?_⟩
    dsimp only
    rw [State.withResults_ctx]
    let u : Ctx := c.releases s.now p (c.portDests p)
    have w : u.WritersWf := Ctx.WritersWf.releases c s.now p _ ⟨hS, hV⟩
    have hleft {e : Dest} : u.regView e = c.regView e := c.releases_regView s.now p _ e
    obtain ⟨hpending, hlandings, hmode, hpc, hacc, hm, hh, ho⟩ := c.releases_fields s.now p (c.portDests p)
    have hbeside := u.arriveAll_besideSV p.op (p.dests.zip vals)
    have hview {e : Dest} (h : e ∉ p.dests) : (u.arriveAll p.op (p.dests.zip vals)).regView e = c.regView e :=
      (Ctx.arriveAll_regView w fun x hx he => h (by rw [← he]; exact (List.of_mem_zip hx).1)).trans hleft
    refine ⟨rfl, (congrArg Ctx.pending hbeside :).trans hpending, (congrArg Ctx.landings hbeside :).trans hlandings,
      (congrArg Ctx.mode hbeside :).trans hmode, (congrArg Ctx.pc hbeside :).trans hpc, (congrArg Ctx.acc hbeside :).trans hacc,
      (congrArg Ctx.m hbeside :).trans hm, (congrArg Ctx.h hbeside :).trans hh, (congrArg Ctx.o hbeside :).trans ho,
      fun r h => ⟨Ctx.sreg_of_regView (hview h), Ctx.isEmpty_of_regView (hview h)⟩, fun r h => Ctx.vreg_of_regView (hview h),
      fun r x hd hx hr => ?word, fun r x m hd hx => ?vec, fun h => (congrArg Ctx.done hbeside :).trans (c.releases_done s.now p _ h),
      fun since due h => (congrArg Ctx.done hbeside :).trans (c.releases_done_of_join s.now p _ h), hvalue, haccess⟩
    case word =>
      rw [hd, hx]
      split_ifs with hw
      · exact Ctx.arrive_word w x hr ((Ctx.writer_of_regView hleft).trans hw)
      · have hkept : u.arrive p.op (.s r) (.word x) = u :=
          Ctx.arrive_of_not_writer _ (by simpa using hr) fun h => hw ((Ctx.writer_of_regView hleft).symm.trans h)
        have hview : (u.arriveAll p.op [(.s r, .word x)]).regView (.s r) = c.regView (.s r) := (congrArg (Ctx.regView · (.s r)) hkept).trans hleft
        exact ⟨Ctx.sreg_of_regView hview, Ctx.writer_of_regView hview⟩
    case vec =>
      rw [hd, hx]
      split_ifs with hw
      · obtain ⟨hvreg, hfull⟩ := Ctx.arrive_vec x m ((Ctx.writer_of_regView hleft).trans hw)
        exact ⟨hvreg.trans (by rw [Ctx.vreg_of_regView hleft]), hfull⟩
      · have hkept : u.arrive p.op (.v r) (.vec x m) = u :=
          Ctx.arrive_of_not_writer _ (by simp) fun h => hw ((Ctx.writer_of_regView hleft).symm.trans h)
        have hview : (u.arriveAll p.op [(.v r, .vec x m)]).regView (.v r) = c.regView (.v r) := (congrArg (Ctx.regView · (.v r)) hkept).trans hleft
        exact ⟨Ctx.vreg_of_regView hview, Ctx.writer_of_regView hview⟩

/-- Settles O37: a result changes no register but its own, so the last of a cycle is what its register shows, and one that is
not the newest writer of its register is discarded; what an arrival brings is what its source held. -/
theorem resultsArrive : Obligations.ResultsArrive := ⟨fixedLatencyLandings, variableLatencyArrivals⟩

end Sys2Proof.Machine
end

section
/-!
The words that the spec's examples write out (R101, R115, R119, R120, R281).
-/
namespace Sys2Proof

/-- Settles O54: the opcode of each word selects its row of the class's map, and the row reads its fields; the header reads P of S and B. -/
theorem decodeExampleWords : Obligations.DecodeExampleWords := by
  unfold Obligations.DecodeExampleWords
  refine ⟨?addi, ?brne, ?movi, ?loop, ?srmov, ?bundle, ?header⟩
  case addi | brne | movi | loop | srmov => rfl
  case bundle => decide +kernel
  case header => decide

end Sys2Proof
end

section
/-!
The integer instructions of the S slot (R95 to R101): each lands the result of its captures on issue plus its latency.
-/
namespace Sys2Proof.Machine

/-- A fixed-latency operation of the S slot lands what its sources give, wherever it issues (R86, R94). -/
theorem landsS_of_scalarOp {i : Instr} {d : OpName} {g : Word → Word → Word → Word} {n : Nat} {v : State → Word} (hl : latency i = .fixed n)
    (hx : ∀ s, exec i s = runOne i (scalarOp i d g) s)
    (hv : ∀ s, g ((scalarSources s i).getD 0 0#64) ((scalarSources s i).getD 1 0#64) ((scalarSources s i).getD 2 0#64) = v s) :
    LandsS i d n v := by
  intro s h
  obtain ⟨t, ht, hlands⟩ := lands_of_scalarOp h (d := d) (f := g) hl
  exact ⟨t, (hx s).trans ht, hv s ▸ hlands⟩

/-- A result that is given in another form lands all the same. -/
theorem LandsS.congr {i : Instr} {d : OpName} {n : Nat} {v w : State → Word} (h : LandsS i d n v) (hvw : ∀ s, v s = w s) : LandsS i d n w :=
  funext hvw ▸ h

theorem integerOperations : Clause.IntegerOperations :=
  ⟨fun f => landsS_of_scalarOp (g := resAdd f) rfl (fun _ => rfl) fun _ => rfl,
    fun f => landsS_of_scalarOp (g := resSub f) rfl (fun _ => rfl) fun _ => rfl,
    fun f => landsS_of_scalarOp (g := resMul f) rfl (fun _ => rfl) fun _ => rfl,
    fun f => landsS_of_scalarOp (g := resAnd f) rfl (fun _ => rfl) fun _ => rfl,
    fun f => landsS_of_scalarOp (g := resOr f) rfl (fun _ => rfl) fun _ => rfl,
    fun f => landsS_of_scalarOp (g := resXor f) rfl (fun _ => rfl) fun _ => rfl⟩

theorem shifts : Clause.Shifts :=
  ⟨fun f => landsS_of_scalarOp (g := resShl f) rfl (fun _ => rfl) fun _ => rfl,
    fun f => landsS_of_scalarOp (g := resShr f) rfl (fun _ => rfl) fun _ => rfl,
    fun f => landsS_of_scalarOp (g := resSar f) rfl (fun _ => rfl) fun _ => rfl,
    fun f => landsS_of_scalarOp (g := resShli f) rfl (fun _ => rfl) fun _ => rfl,
    fun f => landsS_of_scalarOp (g := resShri f) rfl (fun _ => rfl) fun _ => rfl,
    fun f => landsS_of_scalarOp (g := resSari f) rfl (fun _ => rfl) fun _ => rfl⟩

/-! MULH. -/

theorem mulHigh_zero (ty : BitVec 4) (a b : Word) :
    mulHigh ty 0 a b = BitVec.ofInt 64 ((signedIn ty a).toInt * (signedIn ty b).toInt / 2 ^ opWidth ty) := rfl

theorem mulHigh_one (ty : BitVec 4) (a b : Word) :
    mulHigh ty 1 a b = BitVec.ofNat 64 ((unsignedIn ty a).toNat * (unsignedIn ty b).toNat / 2 ^ opWidth ty) := by
  rw [← BitVec.ofInt_natCast]
  push_cast
  rfl

theorem mulHigh_two (ty : BitVec 4) (a b : Word) :
    mulHigh ty 2 a b = BitVec.ofInt 64 ((signedIn ty a).toInt * (unsignedIn ty b).toNat / 2 ^ opWidth ty) := rfl

theorem highProduct : Clause.HighProduct := by
  intro f
  have hlands : LandsS (.mulh f) f.d 3 fun s => resultOut f.ty (mulHigh f.ty f.var.toNat (s.src f.a) (s.src f.b)) :=
    landsS_of_scalarOp (g := resMulh f) rfl (fun _ => rfl) fun _ => rfl
  refine ⟨fun h => ?_, fun h => ?_, fun h => ?_⟩ <;> rw [h] at hlands
  · exact hlands.congr fun s => congrArg _ (mulHigh_zero ..)
  · exact hlands.congr fun s => congrArg _ (mulHigh_one ..)
  · exact hlands.congr fun s => congrArg _ (mulHigh_two ..)

/-! The immediate forms. -/

/-- The bits of a value with one of its 16-bit fields replaced (R101). -/
theorem getLsbD_insertField (x : Word) (q : Nat) (imm : BitVec 16) {k : Nat} (hk : k < 64) :
    (insertField x q imm).getLsbD k = if k / 16 = q then imm.getLsbD (k % 16) else x.getLsbD k := by
  have hones : (0xFFFF#64) = (BitVec.allOnes 16).setWidth 64 := by decide
  simp only [insertField, hones, BitVec.getLsbD_or, BitVec.getLsbD_and, BitVec.getLsbD_not, BitVec.getLsbD_shiftLeft, BitVec.getLsbD_setWidth,
    BitVec.getLsbD_allOnes, hk, decide_true, Bool.true_and]
  by_cases hq : k / 16 = q
  · have hin : ¬ k < 16 * q ∧ k - 16 * q = k % 16 ∧ k % 16 < 64 ∧ k % 16 < 16 := by omega
    simp only [hq, hin, if_true, decide_true, decide_false, Bool.not_false, Bool.not_true, Bool.true_and, Bool.and_false, Bool.false_or]
  · by_cases hlt : k < 16 * q
    · simp only [hlt, hq, if_false, decide_true, Bool.not_true, Bool.false_and, Bool.not_false, Bool.and_true, Bool.or_false]
    · have hout : ¬ k - 16 * q < 16 := by omega
      simp only [hlt, hq, hout, BitVec.getLsbD_of_ge imm (k - 16 * q) (by omega), if_false, decide_false, Bool.and_false, Bool.not_false, Bool.and_true, Bool.or_false]

theorem immediates : Clause.Immediates := by
  refine ⟨fun f => landsS_of_scalarOp (g := resAddi f) rfl (fun _ => rfl) fun _ => rfl,
    fun f => landsS_of_scalarOp (g := resAndi f) rfl (fun _ => rfl) fun _ => rfl,
    fun f => landsS_of_scalarOp (g := resOri f) rfl (fun _ => rfl) fun _ => rfl,
    fun f => landsS_of_scalarOp (g := resXori f) rfl (fun _ => rfl) fun _ => rfl,
    fun f => landsS_of_scalarOp (g := resMovi f) rfl (fun _ => rfl) fun _ => rfl,
    fun f => ⟨fun x => insertField x (f.var.toNat % 4) f.imm, ?_, fun x k hk => getLsbD_insertField x _ _ hk⟩⟩
  refine landsS_of_scalarOp (g := resMoviIns f) rfl (fun _ => rfl) fun s => ?_
  simp only [resMoviIns, BitVec.extractLsb'_toNat, Nat.shiftRight_zero]
  rfl

/-- Settles O1: the operations, the shifts, the high product and the immediate forms, each proved above. -/
theorem integerArithmetic : Obligations.IntegerArithmetic := ⟨integerOperations, shifts, highProduct, immediates⟩

end Sys2Proof.Machine
end

section
/-!
MIN, MAX, CLZ, POPC, SEL, LEA, CMP and CMPI (R95, R98, R100).
-/
namespace Sys2Proof.Machine

/-! MIN and MAX take A where neither operand is the less. -/

theorem lessThan_signed (ty : BitVec 4) (a b : Word) : lessThan ty 0#8 a b = decide ((signedIn ty a).toInt < (signedIn ty b).toInt) := rfl

theorem lessThan_unsigned (ty : BitVec 4) (a b : Word) : lessThan ty 1#8 a b = decide ((unsignedIn ty a).toNat < (unsignedIn ty b).toNat) := rfl

theorem resMin_signed {f : FmtR} (h : f.var = 0#8) (a b c : Word) : resMin f a b c =
    resultOut f.ty (if (signedIn f.ty a).toInt ≤ (signedIn f.ty b).toInt then a else b) := by
  simp only [resMin, h, lessThan_signed, decide_eq_true_eq, ← not_le, ite_not]

theorem resMin_unsigned {f : FmtR} (h : f.var = 1#8) (a b c : Word) : resMin f a b c =
    resultOut f.ty (if (unsignedIn f.ty a).toNat ≤ (unsignedIn f.ty b).toNat then a else b) := by
  simp only [resMin, h, lessThan_unsigned, decide_eq_true_eq, ← not_le, ite_not]

theorem resMax_signed {f : FmtR} (h : f.var = 0#8) (a b c : Word) : resMax f a b c =
    resultOut f.ty (if (signedIn f.ty b).toInt ≤ (signedIn f.ty a).toInt then a else b) := by
  simp only [resMax, h, lessThan_signed, decide_eq_true_eq, ← not_le, ite_not]

theorem resMax_unsigned {f : FmtR} (h : f.var = 1#8) (a b c : Word) : resMax f a b c =
    resultOut f.ty (if (unsignedIn f.ty b).toNat ≤ (unsignedIn f.ty a).toNat then a else b) := by
  simp only [resMax, h, lessThan_unsigned, decide_eq_true_eq, ← not_le, ite_not]

/-! CLZ and POPC. -/

/-- CLZ counts the zero bits above the highest one bit of the low w bits; all w where there is none. -/
theorem leadingZeros_spec (w : Nat) (x : Word) : leadingZeros w x ≤ w ∧ x.toNat % 2 ^ w < 2 ^ (w - leadingZeros w x) ∧
    (leadingZeros w x < w → 2 ^ (w - 1 - leadingZeros w x) ≤ x.toNat % 2 ^ w) := by
  rw [leadingZeros]
  have hlt : x.toNat % 2 ^ w < 2 ^ w := Nat.mod_lt _ (Nat.two_pow_pos w)
  generalize x.toNat % 2 ^ w = y at hlt
  by_cases h0 : y = 0
  · simp [h0]
  · have htop : y.log2 < w := (Nat.log2_lt h0).mpr hlt
    have habove : w - (w - 1 - y.log2) = y.log2 + 1 := by omega
    have hat : w - 1 - (w - 1 - y.log2) = y.log2 := by omega
    rw [if_neg h0, habove, hat]
    exact ⟨by omega, Nat.lt_log2_self, fun _ => Nat.log2_self_le h0⟩

theorem popCount_toNat (x : Word) (n : Nat) : popCount x.toNat n = ((List.range n).filter fun k => x.getLsbD k).length := by
  simp only [popCount, ← BitVec.testBit_toNat, Nat.testBit_eq_decide_div_mod_eq]

/-! SEL and LEA. -/

theorem resSel_eq (f : FmtR) (a b c : Word) : resSel f a b c = if a = 0#64 then c else b := ite_not ..

theorem resLea_eq (f : FmtR) (a b c : Word) : resLea f a b c = a + BitVec.ofNat 64 (2 ^ f.var.toNat) * b := by
  rw [resLea, BitVec.shiftLeft_eq_mul_twoPow, BitVec.mul_comm]
  congr 2
  exact BitVec.eq_of_toNat_eq (by simp [BitVec.toNat_twoPow])

theorem integerSelection : Clause.IntegerSelection :=
  ⟨fun f h => landsS_of_scalarOp (g := resMin f) rfl (fun _ => rfl) fun _ => resMin_signed h ..,
    fun f h => landsS_of_scalarOp (g := resMin f) rfl (fun _ => rfl) fun _ => resMin_unsigned h ..,
    fun f h => landsS_of_scalarOp (g := resMax f) rfl (fun _ => rfl) fun _ => resMax_signed h ..,
    fun f h => landsS_of_scalarOp (g := resMax f) rfl (fun _ => rfl) fun _ => resMax_unsigned h ..,
    fun f => ⟨leadingZeros (opWidth f.ty), landsS_of_scalarOp (g := resClz f) rfl (fun _ => rfl) fun _ => rfl,
      leadingZeros_spec (opWidth f.ty)⟩,
    fun f => landsS_of_scalarOp (g := resPopc f) rfl (fun _ => rfl) fun _ => congrArg _ (popCount_toNat ..),
    fun f => landsS_of_scalarOp (g := resSel f) rfl (fun _ => rfl) fun _ => resSel_eq ..,
    fun f => landsS_of_scalarOp (g := resLea f) rfl (fun _ => rfl) fun _ => resLea_eq ..⟩

/-! Conditions. -/

theorem not_slt_eq_true_iff (a b : Word) : (!a.slt b) = true ↔ b.toInt ≤ a.toInt := by simp [BitVec.slt]
theorem not_ult_eq_true_iff (a b : Word) : (!a.ult b) = true ↔ b.toNat ≤ a.toNat := by simp [BitVec.ult]

/-- A fault that one check of an operation finds makes it ill-formed. -/
theorem wellFormed_eq_false_of_mem {i : Instr} {why : BitVec 8} (h : why ∈ faults i) : wellFormed i = false := by
  rw [wellFormed, List.isEmpty_eq_false_iff.mpr (List.ne_nil_of_mem h), Bool.false_and]

/-- The last check of a format is that of VAR: a VAR that it refuses is a fault (R69). -/
theorem whyResv_mem_of_need {ok : Bool} (l : List (BitVec 8)) (h : ok = false) : whyResv ∈ l ++ need ok whyResv := by
  rw [h]
  exact List.mem_append_right _ (List.mem_singleton.mpr rfl)

theorem comparisons : Clause.Comparisons :=
  ⟨fun f => landsS_of_scalarOp (g := resCmp f) rfl (fun _ => rfl) fun _ => rfl,
    fun f => landsS_of_scalarOp (g := resCmpi f) rfl (fun _ => rfl) fun _ => rfl,
    fun _ _ _ => ⟨decide_eq_true_iff, decide_eq_true_iff, decide_eq_true_iff, not_slt_eq_true_iff .., decide_eq_true_iff, not_ult_eq_true_iff ..⟩,
    fun _ h => wellFormed_eq_false_of_mem (whyResv_mem_of_need _ (decide_eq_false (not_lt.mpr h))),
    fun _ h => wellFormed_eq_false_of_mem (whyResv_mem_of_need _ (decide_eq_false (not_lt.mpr h)))⟩

/-- Settles O2: the selections and the comparisons, each proved above. -/
theorem selectionAndComparison : Obligations.SelectionAndComparison := ⟨integerSelection, comparisons⟩

end Sys2Proof.Machine
end

section
/-!
DIV and REM (R99).
-/
namespace Sys2Proof.Machine

/-! A result is written as its low w bits say, with the sign of their top bit (R95). -/

/-- Two values that agree on the bits of the width are written alike. -/
theorem resultOut_congr {ty : BitVec 4} {x y : Word} (h32 : ty = 2#4 → ∀ k, k < 32 → x.getLsbD k = y.getLsbD k) (h64 : ty ≠ 2#4 → x = y) :
    resultOut ty x = resultOut ty y := by
  unfold resultOut signedIn
  split
  · next hty => exact congrArg _ (BitVec.eq_of_getLsbD_eq fun k hk => by simpa [hk] using h32 hty k hk)
  · next hty => exact h64 hty

theorem resultOut_signedIn (ty : BitVec 4) (x : Word) : resultOut ty (signedIn ty x) = resultOut ty x := by
  refine resultOut_congr (fun hty k hk => ?_) fun hty => if_neg hty
  have hk' : k < 64 := by omega
  simp only [signedIn, hty, if_true, BitVec.getLsbD_signExtend, BitVec.getLsbD_extractLsb', hk, hk', decide_true, Bool.true_and, Nat.zero_add]

theorem resultOut_unsignedIn (ty : BitVec 4) (x : Word) : resultOut ty (unsignedIn ty x) = resultOut ty x := by
  refine resultOut_congr (fun hty k hk => ?_) fun hty => if_neg hty
  have hk' : k < 64 := by omega
  simp only [unsignedIn, hty, if_true, BitVec.getLsbD_setWidth, BitVec.getLsbD_extractLsb', hk, hk', decide_true, Bool.true_and, Nat.zero_add]

/-- An integer as the divider writes it. -/
def writtenInt (ty : BitVec 4) (x : Int) : Word := resultOut ty (BitVec.ofInt 64 x)

theorem writtenInt_toInt (ty : BitVec 4) (x : Word) : writtenInt ty x.toInt = resultOut ty x := by rw [writtenInt, BitVec.ofInt_toInt]

theorem writtenInt_toNat (ty : BitVec 4) (x : Word) : writtenInt ty x.toNat = resultOut ty x := by
  rw [writtenInt, BitVec.ofInt_natCast, BitVec.ofNat_toNat, BitVec.setWidth_eq]

/-- All ones of the width are written as all ones. -/
theorem writtenInt_allOnes (ty : BitVec 4) : writtenInt ty (2 ^ opWidth ty - 1) = ~~~0#64 := by
  unfold writtenInt resultOut signedIn opWidth
  split <;> decide

theorem writtenInt_zero (ty : BitVec 4) : writtenInt ty 0 = 0#64 := by
  unfold writtenInt resultOut signedIn
  split <;> decide

/-! The quotient and the remainder. -/

/-- The divider writes a quotient and a remainder of R99. -/
def WritesQuotRem (f : FmtR) (a b : Word) : Prop :=
  ∃ q r, DividesAs (opWidth f.ty) (f.var = 0#8) (divOperand f a) (divOperand f b) q r ∧
    divide f.ty f.var a b = (writtenInt f.ty q, writtenInt f.ty r)

theorem writesQuotRem_signed {f : FmtR} (h : f.var = 0#8) (a b : Word) : WritesQuotRem f a b := by
  unfold WritesQuotRem DividesAs divOperand divide
  simp only [h, if_true, decide_true, true_and]
  by_cases hzero : (signedIn f.ty b).toInt = 0
  · refine ⟨_, _, by rw [if_pos hzero]; exact ⟨rfl, rfl⟩, ?_⟩
    rw [if_pos hzero, writtenInt_allOnes, writtenInt_toInt, resultOut_signedIn]
  by_cases hover : (signedIn f.ty a).toInt = -(2 ^ (opWidth f.ty - 1)) ∧ (signedIn f.ty b).toInt = -1
  · refine ⟨_, _, by rw [if_neg hzero, if_pos hover]; exact ⟨rfl, rfl⟩, ?_⟩
    rw [if_neg hzero, if_pos hover, writtenInt_toInt, resultOut_signedIn, writtenInt_zero]
  · refine ⟨_, _, by rw [if_neg hzero, if_neg hover]; exact ⟨rfl, rfl⟩, ?_⟩
    rw [if_neg hzero, if_neg hover]
    rfl

/-- Truncated division of numbers that are not negative is that of the patterns. -/
theorem writtenInt_tdiv (ty : BitVec 4) (x y : Word) : writtenInt ty ((x.toNat : Int).tdiv y.toNat) = resultOut ty (x / y) := by
  rw [← writtenInt_toNat, BitVec.toNat_udiv]
  rfl

theorem writtenInt_tmod (ty : BitVec 4) (x y : Word) :
    writtenInt ty (x.toNat - (x.toNat : Int).tdiv y.toNat * y.toNat) = resultOut ty (x % y) := by
  rw [← writtenInt_toNat, BitVec.toNat_umod, Int.natCast_emod, Int.emod_def, Int.mul_comm]
  rfl

theorem writesQuotRem_unsigned {f : FmtR} (h : f.var ≠ 0#8) (a b : Word) : WritesQuotRem f a b := by
  have hcast : ((unsignedIn f.ty b).toNat : Int) = 0 ↔ unsignedIn f.ty b = 0#64 := by
    rw [Int.natCast_eq_zero, ← BitVec.toNat_inj, BitVec.toNat_zero]
  unfold WritesQuotRem DividesAs divOperand divide
  simp only [h, if_false, decide_false, Bool.false_eq_true, false_and]
  by_cases hzero : unsignedIn f.ty b = 0#64
  · refine ⟨_, _, by rw [if_pos (hcast.mpr hzero)]; exact ⟨rfl, rfl⟩, ?_⟩
    rw [if_pos hzero, writtenInt_allOnes, writtenInt_toNat, resultOut_unsignedIn]
  · refine ⟨_, _, by rw [if_neg (hzero ∘ hcast.mp)]; exact ⟨rfl, rfl⟩, ?_⟩
    rw [if_neg hzero, writtenInt_tdiv, writtenInt_tmod]

theorem writesQuotRem (f : FmtR) (a b : Word) : WritesQuotRem f a b := by
  by_cases h : f.var = 0#8
  · exact writesQuotRem_signed h a b
  · exact writesQuotRem_unsigned h a b

/-! The divider. -/

/-- DIV and REM deliver the one that they pick 12 to 40 cycles after the issue (R87, R99). -/
theorem divides_of_dividerOp {i : Instr} {f : FmtR} {g : Word → Word → Word → Word} {pick : Int → Int → Int}
    (hx : ∀ s, exec i s = runOne i (dividerOp i f.d g) s) (hsrc : ∀ s, scalarSources s i = [s.src f.a, s.src f.b])
    (hg : ∀ a b q r, divide f.ty f.var a b = (writtenInt f.ty q, writtenInt f.ty r) → g a b 0#64 = writtenInt f.ty (pick q r)) :
    Divides i f pick := by
  intro s h
  have hspan := Nat.mod_lt (Config.freeNat s.free) (show 29 > 0 by decide)
  obtain ⟨q, r, hqr, hdiv⟩ := writesQuotRem f (s.src f.a) (s.src f.b)
  have hv : scalarSources (issuedAt i s) i = [s.src f.a, s.src f.b] := hsrc s
  have hop : dividerOp i f.d g (issuedAt i s) = .ok (withLatency 12 29 (fun due => pend { opRec (issuedAt i s) with ca := s.src f.a, cb := s.src f.b }
      [.s f.d.toNat] (.value due [.word (writtenInt f.ty (pick q r))])) (issuedAt i s)) := by
    rw [← hg _ _ q r hdiv]
    simp only [dividerOp, act, hv]
    rfl
  exact answers_of_ok h (hx s) hop h.stores h.trapped ⟨s.now + 12 + Config.freeNat s.free % 29, q, r, by omega, by omega, hqr,
    { opRec (issuedAt i s) with ca := s.src f.a, cb := s.src f.b }, opRec_isOf i s, rfl, rfl⟩

/-- Settles O3: DIV picks the quotient, REM the remainder. -/
theorem divisionAndRemainder : Obligations.DivisionAndRemainder :=
  ⟨fun f => divides_of_dividerOp (g := resDiv f) (fun _ => rfl) (fun _ => rfl) fun _ _ _ _ h => congrArg Prod.fst h,
    fun f => divides_of_dividerOp (g := resRem f) (fun _ => rfl) (fun _ => rfl) fun _ _ _ _ h => congrArg Prod.snd h⟩

end Sys2Proof.Machine
end

section
/-!
The FP32 instructions of the S slot: latencies and results (R102, R103).
-/
namespace Sys2Proof.Machine

/-! FSGN. -/

/-- The bit of the sign that FSGN gives, from the signs of its sources (R103). -/
def givenSign (var : Nat) (a b : Bool) : Bool :=
  match var with
  | 0 => b
  | 1 => !b
  | _ => a ^^ b

theorem low32_div_eq_toNat_sign (x : Word) : low32 x / 2 ^ 31 = (x.getLsbD 31).toNat := by
  rw [low32, ← BitVec.testBit_toNat, Nat.toNat_testBit]
  omega

theorem low32_mod_sign (x : Word) : low32 x % 2 ^ 31 = x.toNat % 2 ^ 31 := by
  rw [low32]
  omega

theorem signOf_low32 (var : Nat) (a b : Word) :
    signOf var (low32 a) (low32 b) = a.toNat % 2 ^ 31 + 2 ^ 31 * (givenSign var (a.getLsbD 31) (b.getLsbD 31)).toNat := by
  unfold signOf
  rw [low32_mod_sign, low32_div_eq_toNat_sign, low32_div_eq_toNat_sign]
  match var with
  | 0 => cases b.getLsbD 31 <;> rfl
  | 1 => cases b.getLsbD 31 <;> rfl
  | _ + 2 => cases a.getLsbD 31 <;> cases b.getLsbD 31 <;> rfl

/-- A magnitude below a sign bit, as FSGN writes it. -/
def signedWord (mag : Nat) (sign : Bool) : Word := fpWord (mag % 2 ^ 31 + 2 ^ 31 * sign.toNat)

theorem resFsgn_eq (f : FmtR) (a b c : Word) : resFsgn f a b c = signedWord a.toNat (givenSign f.var.toNat (a.getLsbD 31) (b.getLsbD 31)) :=
  congrArg fpWord (signOf_low32 ..)

theorem toNat_signedWord (mag : Nat) (sign : Bool) : (signedWord mag sign).toNat = mag % 2 ^ 31 + 2 ^ 31 * sign.toNat := by
  have := Bool.toNat_lt sign
  rw [signedWord, fpWord, BitVec.toNat_ofNat]
  omega

theorem signedWord_magnitude (x : Word) (sign : Bool) : (signedWord x.toNat sign).extractLsb' 0 31 = x.extractLsb' 0 31 := by
  apply BitVec.eq_of_toNat_eq
  rw [BitVec.extractLsb'_toNat, BitVec.extractLsb'_toNat, toNat_signedWord, Nat.shiftRight_zero, Nat.shiftRight_zero]
  omega

theorem signedWord_high (mag : Nat) (sign : Bool) : (signedWord mag sign).extractLsb' 32 32 = 0#32 := by
  have := Bool.toNat_lt sign
  apply BitVec.eq_of_toNat_eq
  rw [BitVec.extractLsb'_toNat, toNat_signedWord, Nat.shiftRight_eq_div_pow, BitVec.toNat_zero]
  omega

theorem signedWord_sign (mag : Nat) (sign : Bool) : (signedWord mag sign).getLsbD 31 = sign := by
  have h := Bool.toNat_lt sign
  have hdiv : (mag % 2 ^ 31 + 2 ^ 31 * sign.toNat) / 2 ^ 31 % 2 = sign.toNat := by omega
  rw [← BitVec.testBit_toNat, toNat_signedWord, Nat.testBit_eq_decide_div_mod_eq, hdiv]
  cases sign <;> rfl

theorem fsgn (f : FmtR) : ∃ v : Word → Word → Word, (LandsS (.fsgn f) f.d 1 fun s => v (s.src f.a) (s.src f.b)) ∧ ∀ a b,
    (v a b).extractLsb' 0 31 = a.extractLsb' 0 31 ∧ (v a b).extractLsb' 32 32 = 0#32 ∧ (f.var = 0#8 → (v a b).getLsbD 31 = b.getLsbD 31) ∧
    (f.var = 1#8 → (v a b).getLsbD 31 = !b.getLsbD 31) ∧ (f.var = 2#8 → (v a b).getLsbD 31 = (a.getLsbD 31 ^^ b.getLsbD 31)) := by
  refine ⟨fun a b => signedWord a.toNat (givenSign f.var.toNat (a.getLsbD 31) (b.getLsbD 31)),
    landsS_of_scalarOp (g := resFsgn f) rfl (fun _ => rfl) fun _ => resFsgn_eq .., fun a b => ⟨signedWord_magnitude a _, signedWord_high .., ?_⟩⟩
  simp only [signedWord_sign]
  refine ⟨fun h => ?_, fun h => ?_, fun h => ?_⟩ <;> rw [h] <;> rfl

/-- Settles O4: each instruction lands the result of its captures; FSGN's is described bit by bit. -/
theorem floatInstructions : Obligations.FloatInstructions :=
  ⟨fun f => landsS_of_scalarOp (g := resFadd f) rfl (fun _ => rfl) fun _ => rfl,
    fun f => landsS_of_scalarOp (g := resFsub f) rfl (fun _ => rfl) fun _ => rfl,
    fun f => landsS_of_scalarOp (g := resFmul f) rfl (fun _ => rfl) fun _ => rfl,
    fun f => landsS_of_scalarOp (g := resFma f) rfl (fun _ => rfl) fun _ => rfl,
    fun f => landsS_of_scalarOp (g := resFdiv f) rfl (fun _ => rfl) fun _ => rfl,
    fun f => landsS_of_scalarOp (g := resFsqrt f) rfl (fun _ => rfl) fun _ => rfl,
    fun f => landsS_of_scalarOp (g := resFmin f) rfl (fun _ => rfl) fun _ => rfl,
    fun f => landsS_of_scalarOp (g := resFmax f) rfl (fun _ => rfl) fun _ => rfl,
    fun f => landsS_of_scalarOp (g := resFcmp f) rfl (fun _ => rfl) fun _ => rfl,
    fun f => landsS_of_scalarOp (g := resFcvt f) rfl (fun _ => rfl) fun _ => rfl, fsgn⟩

end Sys2Proof.Machine
end

section
/-!
NaNs, invalid operations, division by zero and the conversions on binary32 patterns (R102 to R104).
-/
namespace Sys2Proof.Machine

/-! What a pattern stands for. -/

/-- The value of a binary32 pattern, its fields written out (R143, R144). -/
theorem ofBits_fp32 (x : Nat) : Fp.ofBits fp32 x =
    if x / 2 ^ 23 % 256 = 255 then (if x % 2 ^ 23 = 0 then .inf (x / 2 ^ 31 % 2 = 1) else .nan)
    else if x / 2 ^ 23 % 256 = 0 then .num (x / 2 ^ 31 % 2 = 1) (x % 2 ^ 23) (-149)
    else .num (x / 2 ^ 31 % 2 = 1) (x % 2 ^ 23 + 2 ^ 23) ((x / 2 ^ 23 % 256 : Nat) - 127 - 23) := rfl

theorem ofBits_eq_nan_iff (x : Nat) : Fp.ofBits fp32 x = .nan ↔ isNan32 x := by
  rw [ofBits_fp32, isNan32]
  by_cases hexp : x / 2 ^ 23 % 256 = 255
  · by_cases hfrac : x % 2 ^ 23 = 0
    · simp only [hexp, hfrac, if_true, ne_eq, not_true_eq_false, and_false, reduceCtorEq]
    · simp only [hexp, hfrac, if_true, if_false, ne_eq, not_false_eq_true, and_self]
  · rw [if_neg hexp]
    split <;> simp only [hexp, false_and, reduceCtorEq]

/-- A finite pattern that is not a zero: its magnitude is not 0. -/
theorem ofBits_of_finite {x : Nat} (hlo : 0 < x % 2 ^ 31) (hhi : x % 2 ^ 31 < 0x7F800000) :
    ∃ m e, m ≠ 0 ∧ Fp.ofBits fp32 x = .num (x / 2 ^ 31 % 2 = 1) m e := by
  rw [ofBits_fp32, if_neg (by omega)]
  split
  · exact ⟨_, _, by omega, rfl⟩
  · exact ⟨_, _, by omega, rfl⟩

theorem ofBits_posZero : Fp.ofBits fp32 0 = .num false 0 (-149) := by decide
theorem ofBits_negZero : Fp.ofBits fp32 0x80000000 = .num true 0 (-149) := by decide
theorem ofBits_posInf : Fp.ofBits fp32 0x7F800000 = .inf false := by decide
theorem ofBits_negInf : Fp.ofBits fp32 0xFF800000 = .inf true := by decide

/-! NaNs. -/

theorem toBits_nan (rnd : Nat) : Fp.nan.toBits fp32 rnd 0 = 0x7FC00000 := rfl

@[simp] theorem Fp.add_nan_left (rnd : Nat) (a : Fp) : Fp.add rnd .nan a = .nan := rfl
@[simp] theorem Fp.add_nan_right (rnd : Nat) (a : Fp) : Fp.add rnd a .nan = .nan := by cases a <;> rfl
@[simp] theorem Fp.mul_nan_left (a : Fp) : Fp.mul .nan a = .nan := rfl
@[simp] theorem Fp.mul_nan_right (a : Fp) : Fp.mul a .nan = .nan := by cases a <;> rfl
@[simp] theorem Fp.div_nan_left (a : Fp) : Fp.div .nan a = .nan := rfl
@[simp] theorem Fp.div_nan_right (a : Fp) : Fp.div a .nan = .nan := by cases a <;> rfl
@[simp] theorem Fp.lt_nan_left (a : Fp) : Fp.lt .nan a = false := rfl
@[simp] theorem Fp.lt_nan_right (a : Fp) : Fp.lt a .nan = false := by cases a <;> rfl
@[simp] theorem Fp.eq_nan_left (a : Fp) : Fp.eq .nan a = false := rfl
@[simp] theorem Fp.eq_nan_right (a : Fp) : Fp.eq a .nan = false := by simp [Fp.eq]

/-- A NaN source makes every arithmetic result the canonical NaN (R102). -/
theorem arithmetic_of_nan (rnd : Nat) {x y : Nat} (z : Nat) (h : isNan32 x ∨ isNan32 y) :
    fpAdd fp32 rnd x y = 0x7FC00000 ∧ fpSub fp32 rnd x y = 0x7FC00000 ∧ fpMul fp32 rnd x y = 0x7FC00000 ∧ fpDiv fp32 rnd x y = 0x7FC00000 ∧
    fpFma fp32 rnd false false x y z = 0x7FC00000 ∧ fpFma fp32 rnd false false z x y = 0x7FC00000 := by
  rw [← ofBits_eq_nan_iff, ← ofBits_eq_nan_iff] at h
  rcases h with h | h <;> simp [fpAdd, fpSub, fpMul, fpDiv, fpFma, h, Fp.negate, toBits_nan]

/-- A comparison with a NaN is unordered (R103). -/
theorem compare_of_nan {x y : Nat} (h : isNan32 x ∨ isNan32 y) :
    fpCompare fp32 0 x y = false ∧ fpCompare fp32 1 x y = false ∧ fpCompare fp32 2 x y = false := by
  rw [← ofBits_eq_nan_iff, ← ofBits_eq_nan_iff] at h
  rcases h with h | h <;> simp [fpCompare, h]

theorem unordered_iff (x y : Nat) : fpCompare fp32 3 x y = true ↔ isNan32 x ∨ isNan32 y := by
  simp only [fpCompare, Bool.or_eq_true, decide_eq_true_eq, ofBits_eq_nan_iff]

/-! FMIN and FMAX of one NaN give the other source (R103). -/

section
variable {isMax : Bool} {x y : Nat}

theorem fpMinMax_nan_nan (hx : isNan32 x) (hy : isNan32 y) : fpMinMax fp32 isMax x y = 0x7FC00000 := by
  rw [← ofBits_eq_nan_iff] at hx hy
  rw [fpMinMax, hx, hy]
  rfl

theorem fpMinMax_nan_left (hx : isNan32 x) (hy : ¬ isNan32 y) : fpMinMax fp32 isMax x y = y := by
  rw [← ofBits_eq_nan_iff] at hx hy
  unfold fpMinMax
  rw [hx]
  cases h : Fp.ofBits fp32 y <;> simp_all

theorem fpMinMax_nan_right (hx : ¬ isNan32 x) (hy : isNan32 y) : fpMinMax fp32 isMax x y = x := by
  rw [← ofBits_eq_nan_iff] at hx hy
  unfold fpMinMax
  rw [hy]
  cases h : Fp.ofBits fp32 x <;> simp_all

end

theorem floatNan : Clause.FloatNan := fun rnd x _ z =>
  ⟨arithmetic_of_nan rnd z, fun hx => by rw [fpSqrt, (ofBits_eq_nan_iff x).mpr hx]; rfl,
    fun _ => ⟨fpMinMax_nan_nan, fpMinMax_nan_left, fpMinMax_nan_right⟩, compare_of_nan, unordered_iff ..⟩

/-! Invalid operations and division by zero. -/

/-- The root of a negative number that is not -0, of the negative infinity too, is the NaN (R103). -/
theorem fpSqrt_of_negative (rnd : Nat) {x : Nat} (hlo : 0x80000000 < x) (hhi : x ≤ 0xFF800000) : fpSqrt fp32 rnd x = 0x7FC00000 := by
  rcases Nat.lt_or_eq_of_le hhi with hlt | rfl
  · obtain ⟨m, e, hm, hx⟩ := ofBits_of_finite (x := x) (by omega) (by omega)
    have hneg : x / 2 ^ 31 % 2 = 1 := by omega
    rw [fpSqrt, hx, Fp.sqrt, if_neg hm, decide_eq_true hneg]
    rfl
  · rw [fpSqrt, ofBits_negInf]
    rfl

/-- A positive finite number divided by a zero (R102). -/
theorem fpDiv_by_zero (rnd : Nat) {x : Nat} (hlo : 0 < x) (hhi : x < 0x7F800000) :
    fpDiv fp32 rnd x 0 = 0x7F800000 ∧ fpDiv fp32 rnd x 0x80000000 = 0xFF800000 := by
  obtain ⟨m, e, hm, hx⟩ := ofBits_of_finite (x := x) (by omega) (by omega)
  have hpos : ¬ x / 2 ^ 31 % 2 = 1 := by omega
  rw [decide_eq_false hpos] at hx
  rw [fpDiv, fpDiv, hx, ofBits_posZero, ofBits_negZero, Fp.div, Fp.div, if_pos rfl, if_pos rfl, if_neg hm, if_neg hm]
  exact ⟨rfl, rfl⟩

theorem floatInvalid : Clause.FloatInvalid := by
  refine fun rnd => ⟨?add, ?sub, ?mul, ?div, ?sqrt, fun _ => fpSqrt_of_negative rnd, fun _ => fpDiv_by_zero rnd, by decide, by decide, by decide⟩
  case add => rw [fpAdd, ofBits_posInf, ofBits_negInf]; rfl
  case sub => rw [fpSub, ofBits_posInf]; rfl
  case mul => rw [fpMul, ofBits_posZero, ofBits_posInf]; rfl
  case div => rw [fpDiv, ofBits_posZero, ofBits_negZero]; rfl
  case sqrt => rw [fpSqrt, ofBits_negZero]; rfl

/-! FCVT. -/

/-- A number of at least 2^31 is beyond the range of I32, whatever the rounding (R104). -/
theorem toInt_of_large (rnd : Nat) {x : Nat} (hlo : 0x4F000000 ≤ x) (hhi : x < 0x7F800000) :
    (Fp.ofBits fp32 x).toInt rnd 0 (intLo 32) (intHi 32) = intHi 32 := by
  have hexp : x / 2 ^ 23 % 256 ≠ 255 ∧ x / 2 ^ 23 % 256 ≠ 0 ∧ 158 ≤ x / 2 ^ 23 % 256 ∧ ¬ x / 2 ^ 31 % 2 = 1 := by omega
  obtain ⟨hfinite, hnormal, he, hpos⟩ := hexp
  have hscale : (0 : Int) ≤ ((x / 2 ^ 23 % 256 : Nat) : Int) - 127 - 23 := by omega
  rw [ofBits_fp32, if_neg hfinite, if_neg hnormal, decide_eq_false hpos, Fp.toInt, roundScaled, if_pos hscale]
  have hpow : (2 : Int) ^ 8 ≤ 2 ^ (((x / 2 ^ 23 % 256 : Nat) : Int) - 127 - 23).toNat := pow_le_pow_right₀ (by decide) (by omega)
  have hlarge : (2 ^ 23 : Int) * 2 ^ 8 ≤ signed false (x % 2 ^ 23 + 2 ^ 23) * 2 ^ (((x / 2 ^ 23 % 256 : Nat) : Int) - 127 - 23).toNat :=
    mul_le_mul (by simp [signed]; omega) hpow (by decide) (by simp [signed]; omega)
  generalize signed false (x % 2 ^ 23 + 2 ^ 23) * 2 ^ (((x / 2 ^ 23 % 256 : Nat) : Int) - 127 - 23).toNat = v at hlarge
  have hb : intLo 32 = -2147483648 ∧ intHi 32 = 2147483647 := by decide
  rw [clampInt, hb.1, hb.2, if_neg (by omega), if_pos (by omega)]

theorem convertScalar_of_value {a : Word} {v : Fp} (h : Fp.ofBits fp32 (low32 a) = v) (rnd : Nat) :
    convertScalar 0 rnd a = BitVec.ofInt 64 (v.toInt rnd 0 (intLo 64) (intHi 64)) ∧
    convertScalar 1 rnd a = BitVec.ofInt 64 (v.toInt rnd 0 (intLo 32) (intHi 32)) := h ▸ ⟨rfl, rfl⟩

theorem floatConversions : Clause.FloatConversions := by
  intro rnd a
  refine ⟨fun h => ?nan, fun h => ?posInf, fun h => ?negInf, fun hlo hhi => ?beyond, rfl, rfl⟩
  case nan => exact convertScalar_of_value ((ofBits_eq_nan_iff _).mpr h) rnd
  case posInf =>
    obtain ⟨h64, h32⟩ := convertScalar_of_value (a := a) (by rw [h, ofBits_posInf]) rnd
    exact ⟨h64.trans (by rw [Fp.toInt]; decide), h32.trans (by rw [Fp.toInt]; decide)⟩
  case negInf =>
    obtain ⟨h64, h32⟩ := convertScalar_of_value (a := a) (by rw [h, ofBits_negInf]) rnd
    exact ⟨h64.trans (by rw [Fp.toInt]; decide), h32.trans (by rw [Fp.toInt]; decide)⟩
  case beyond =>
    rw [(convertScalar_of_value rfl rnd).2, toInt_of_large rnd hlo hhi]
    decide

/-- Settles O5. -/
theorem floatSpecialValues : Obligations.FloatSpecialValues := ⟨floatNan, floatInvalid, floatConversions⟩

end Sys2Proof.Machine
end

section
/-!
LOOP (R119, R301).
-/
namespace Sys2Proof.Machine

/-! The context of a LOOP. -/

/-- A frame closed and its count written: what a LOOP of count 0 and a back-edge test that is over leave (R119, R120). -/
def Ctx.closeLoop (c : Ctx) (n : Nat) (cnt : Word) : Ctx := { c.closeFrame n with lp := c.lp.set n cnt }

theorem Ctx.closeLoop_frame (c : Ctx) (n : Nat) (cnt : Word) (k : Nat) :
    (c.closeLoop n cnt).frame k = if n = k then { c.frame n with act := false } else c.frame k :=
  Sparse.get_set ..

theorem Ctx.closeLoop_lpreg (c : Ctx) (n : Nat) (cnt : Word) (k : Nat) : (c.closeLoop n cnt).lpreg k = if n = k then cnt else c.lpreg k :=
  Sparse.get_set ..

/-- A frame opened with its count (R119). -/
def Ctx.openLoop (c : Ctx) (n : Nat) (fr : Frame) (cnt : Word) : Ctx := { c.openFrame n fr with lp := c.lp.set n cnt }

theorem Ctx.openLoop_frame (c : Ctx) (n : Nat) (fr : Frame) (cnt : Word) (k : Nat) :
    (c.openLoop n fr cnt).frame k = if n = k then fr else c.frame k :=
  Sparse.get_set ..

/-! Its outcomes. -/

section
variable {f : FmtL} {s : State}

theorem opLoop_of_range (h : 2 ^ 32 ≤ (s.src f.a).toNat) :
    opLoop f (issuedAt (.loop f) s) = .error { code := codeLoopRange, slots := slotBit (slotFor s (.loop f)) } := if_pos h

variable (h : (s.src f.a).toNat < 2 ^ 32)
include h

theorem opLoop_of_walk (ha : s.issuer.walk.act = true) (hl : s.issuer.walk.lp = f.lp) :
    opLoop f (issuedAt (.loop f) s) = .error { code := codeWalkState, why := 0x7A#8, slots := slotBit (slotFor s (.loop f)) } := by
  have hwalk : (s.issuer.walk.act && decide (s.issuer.walk.lp = f.lp)) = true := by simp [ha, hl]
  exact (if_neg (not_le.mpr h)).trans (if_pos hwalk)

variable (hw : ¬ (s.issuer.walk.act = true ∧ s.issuer.walk.lp = f.lp))
include hw

theorem opLoop_of_zero (hz : s.src f.a = 0#64) : opLoop f (issuedAt (.loop f) s) =
    .ok (Act.seqs [markLoop, modCtx s.cur.key fun c => c.closeLoop f.lp.toNat (s.src f.a), goTo (directL s.cur f)] (issuedAt (.loop f) s)) := by
  have hwalk : ¬ (s.issuer.walk.act && decide (s.issuer.walk.lp = f.lp)) = true := by simpa using hw
  exact (if_neg (not_le.mpr h)).trans ((if_neg hwalk).trans (if_pos hz))

theorem opLoop_of_count (hz : s.src f.a ≠ 0#64) : opLoop f (issuedAt (.loop f) s) =
    .ok (Act.seqs [markLoop, modCtx s.cur.key fun c => c.openLoop f.lp.toNat (bodyFrame s.cur (directL s.cur f) false) (s.src f.a)]
      (issuedAt (.loop f) s)) := by
  have hwalk : ¬ (s.issuer.walk.act && decide (s.issuer.walk.lp = f.lp)) = true := by simpa using hw
  exact (if_neg (not_le.mpr h)).trans ((if_neg hwalk).trans (if_neg hz))

end

/-- The issuing context of a state in which it was written, whatever has become of the rest of the issue. -/
theorem State.issuer_of_withIssuer (s : State) (c : Ctx) {i : Issue} (h : i.key = s.cur.key) : State.issuer { s.withIssuer c with cur := i } = c := by
  rw [State.issuer, h]
  exact State.ctx_set s s.cur.key c

/-- An operation that has written the issuing context and the issue in progress, and has stored and trapped nothing. -/
theorem answers_of_withIssuer {i : Instr} {s : State} (h : Issues i s) {op : SlotOp} (hx : exec i s = runOne i op s) {e : List Effect}
    (ho : op (issuedAt i s) = .ok e) {c : Ctx} {x : Issue} (he : applyAll e (issuedAt i s) = { s.withIssuer c with cur := x })
    (hkey : x.key = s.cur.key) (hs : x.stores = s.cur.stores) (ht : x.trapped = s.cur.trapped) {P : State → Prop}
    (hP : ∀ t, t.issuer = c → t.cur = x → OnlyCur (s.withIssuer t.issuer) t → P t) : Answers i s P := by
  refine answers_of_ok h hx ho ?_ ?_ ?_ <;> rw [he]
  · exact hs.trans h.stores
  · exact ht.trans h.trapped
  · have hissuer := State.issuer_of_withIssuer s c hkey
    exact hP _ hissuer rfl (by rw [hissuer]; exact ⟨rfl, hkey⟩)

theorem loop_issues (f : FmtL) (s : State) (h : Issues (.loop f) s) :
    let n := f.lp.toNat
    let cnt := s.src f.a
    let exit_ := pcMask (s.cur.pc + f.disp.signExtend 64 * 8#64)
    let next := s.cur.pc + BitVec.ofNat 64 s.cur.len
    (2 ^ 32 ≤ cnt.toNat → Traps (.loop f) s { code := codeLoopRange, slots := slotBit (slotFor s (.loop f)) }) ∧
    (cnt.toNat < 2 ^ 32 → s.issuer.walk.act = true → s.issuer.walk.lp = f.lp →
      Traps (.loop f) s { code := codeWalkState, why := 0x7A#8, slots := slotBit (slotFor s (.loop f)) }) ∧
    (cnt.toNat < 2 ^ 32 → ¬ (s.issuer.walk.act = true ∧ s.issuer.walk.lp = f.lp) → Answers (.loop f) s fun t => OnlyCur (s.withIssuer t.issuer) t ∧
      t.issuer.lp = s.issuer.lp.set n cnt ∧ t.cur.loopIssued = true ∧
      (if cnt = 0#64 then (t.issuer.frame n).act = false ∧ t.cur.target = some exit_
       else t.issuer.frame n = { act := true, beg := next, fin := exit_, ow := false } ∧ t.issuer.order.head? = some n ∧
         t.cur.target = s.cur.target) ∧
      ∀ k, k ≠ n → t.issuer.frame k = s.issuer.frame k) := by
  refine ⟨fun hr => traps_of_error h rfl (opLoop_of_range hr), fun hr ha hl => traps_of_error h rfl (opLoop_of_walk hr ha hl), fun hr hw => ?_⟩
  by_cases hz : s.src f.a = 0#64
  · simp only [if_pos hz]
    refine answers_of_withIssuer h rfl (opLoop_of_zero hr hw hz) (c := s.issuer.closeLoop f.lp.toNat (s.src f.a))
      (x := { issueOf (.loop f) s with loopIssued := true }.goesTo (directL s.cur f)) rfl rfl rfl rfl fun t hc hi honly =>
        ⟨honly, by rw [hc]; rfl, by rw [hi]; rfl, ⟨?_, by rw [hi]; rfl⟩, fun k hk => ?_⟩
    · rw [hc, Ctx.closeLoop_frame, if_pos rfl]
    · rw [hc, Ctx.closeLoop_frame, if_neg hk.symm]
  · simp only [if_neg hz]
    refine answers_of_withIssuer h rfl (opLoop_of_count hr hw hz)
      (c := s.issuer.openLoop f.lp.toNat (bodyFrame s.cur (directL s.cur f) false) (s.src f.a))
      (x := { issueOf (.loop f) s with loopIssued := true }) rfl rfl rfl rfl fun t hc hi honly =>
        ⟨honly, by rw [hc]; rfl, by rw [hi], ⟨?_, by rw [hc]; rfl, by rw [hi]; rfl⟩, fun k hk => ?_⟩
    · rw [hc, Ctx.openLoop_frame, if_pos rfl]
      rfl
    · rw [hc, Ctx.openLoop_frame, if_neg hk.symm]

end Sys2Proof.Machine
end

section
/-!
The place of the next issue and the back-edge test (R113, R120, R295).
-/
namespace Sys2Proof.Machine

/-! The frames that a back-edge test looks at. -/

/-- A frame ends at an address (R120). -/
def Ctx.ends (c : Ctx) (next : Word) (k : Nat) : Prop := (c.frame k).act = true ∧ (c.frame k).fin = next

/-- Where a frame ends, it is a frame of LOOP whose count is over (R120). -/
def Ctx.closes (c : Ctx) (next : Word) (k : Nat) : Prop := c.ends next k → (c.frame k).ow = false ∧ (c.lpreg k).toNat ≤ 1

/-- A context whose next issue is the bundle at an address (R50, R52). -/
def Ctx.movedTo (c : Ctx) (a : Word) : Ctx := { c with pc := pcMask a, repleft := 0, fetched := [] }

section
variable {key : Nat} {next : Word} {s : State} {k : Nat} {l : List Nat}

theorem Ctx.ends_closeLoop (c : Ctx) (j : Nat) (cnt : Word) : (c.closeLoop j cnt).ends next k ↔ j ≠ k ∧ c.ends next k := by
  rw [Ctx.ends, Ctx.closeLoop_frame]
  by_cases h : j = k <;> simp [h, Ctx.ends]

theorem Ctx.closes_closeLoop {c : Ctx} (j : Nat) (cnt : Word) (h : c.closes next k) : (c.closeLoop j cnt).closes next k := by
  intro he
  obtain ⟨hne, hends⟩ := (c.ends_closeLoop j cnt).mp he
  rw [Ctx.closeLoop_frame, Ctx.closeLoop_lpreg, if_neg hne, if_neg hne]
  exact h hends

theorem Ctx.ends_iff (c : Ctx) : ((c.frame k).act && decide ((c.frame k).fin = next)) = true ↔ c.ends next k := by
  rw [Bool.and_eq_true, decide_eq_true_eq, Ctx.ends]

theorem backEdge_of_not_ends (h : ¬ (s.ctx key).ends next k) : backEdge key next (k :: l) s = backEdge key next l s :=
  if_pos (by rwa [Bool.not_eq_true', ← Bool.not_eq_true, Ctx.ends_iff])

section
variable (h : (s.ctx key).ends next k)
include h

theorem backEdge_of_ends : backEdge key next (k :: l) s =
    if ((s.ctx key).frame k).ow then Act.seq (walkEndTest key true) (if (s.ctx key).lpreg k = 0#64 then backEdge key next l else Act.skip) s
    else if 1 < ((s.ctx key).lpreg k).toNat then
      Act.seq (modCtx key fun c => { c with lp := c.lp.set k (c.lpreg k - 1#64) }) (goTo ((s.ctx key).frame k).beg) s
    else Act.seq (modCtx key fun c => c.closeLoop k 0#64) (backEdge key next l) s :=
  if_neg (by rwa [Bool.not_eq_true', ← Bool.not_eq_true, not_not, Ctx.ends_iff])

theorem backEdge_of_walk (ho : ((s.ctx key).frame k).ow = true) (hn : (s.ctx key).lpreg k ≠ 0#64) :
    backEdge key next (k :: l) s = Act.seq (walkEndTest key true) Act.skip s := by
  rw [backEdge_of_ends h, if_pos ho, if_neg hn]

variable (ho : ((s.ctx key).frame k).ow = false)
include ho

theorem backEdge_of_count (hn : 1 < ((s.ctx key).lpreg k).toNat) : backEdge key next (k :: l) s =
    Act.seq (modCtx key fun c => { c with lp := c.lp.set k (c.lpreg k - 1#64) }) (goTo ((s.ctx key).frame k).beg) s := by
  rw [backEdge_of_ends h, if_neg (Bool.eq_false_iff.mp ho), if_pos hn]

theorem backEdge_of_over (hn : ((s.ctx key).lpreg k).toNat ≤ 1) : backEdge key next (k :: l) s =
    Act.seq (modCtx key fun c => c.closeLoop k 0#64) (backEdge key next l) s := by
  rw [backEdge_of_ends h, if_neg (Bool.eq_false_iff.mp ho), if_neg (not_lt.mpr hn)]

end

end

/-! The frames that close. -/

/-- What the test of some frames has made of a context, and no frame of them is left that ends at `next`: those that ended there are closed with
count 0, every other frame and count stands, and the rest of the context too (R120). -/
structure Ctx.ClosedAll (next : Word) (l : List Nat) (c d : Ctx) : Prop where
  rest : d = { c with lp := d.lp, frames := d.frames }
  closed : ∀ k, k ∈ l → c.ends next k → d.frame k = { c.frame k with act := false } ∧ d.lpreg k = 0#64
  others : ∀ k, ¬ (k ∈ l ∧ c.ends next k) → d.frame k = c.frame k ∧ d.lpreg k = c.lpreg k

theorem Ctx.ClosedAll.nil (next : Word) (c : Ctx) : c.ClosedAll next [] c :=
  ⟨rfl, fun _ h => absurd h List.not_mem_nil, fun _ _ => ⟨rfl, rfl⟩⟩

theorem Ctx.ClosedAll.cons_of_not_ends {next : Word} {l : List Nat} {c d : Ctx} {k : Nat} (h : c.ClosedAll next l d) (hk : ¬ c.ends next k) :
    c.ClosedAll next (k :: l) d := by
  have hiff (j : Nat) : j ∈ k :: l ∧ c.ends next j ↔ j ∈ l ∧ c.ends next j := by
    refine ⟨fun ⟨hm, he⟩ => ⟨(List.mem_cons.mp hm).resolve_left fun heq => hk (heq ▸ he), he⟩, fun ⟨hm, he⟩ => ⟨List.mem_cons_of_mem _ hm, he⟩⟩
  exact ⟨h.rest, fun j hm he => h.closed j ((hiff j).mp ⟨hm, he⟩).1 he, fun j hj => h.others j fun hj' => hj ((hiff j).mpr hj')⟩

theorem Ctx.ClosedAll.cons_of_closed {next : Word} {l : List Nat} {c d : Ctx} {k : Nat} (h : (c.closeLoop k 0#64).ClosedAll next l d)
    (hk : c.ends next k) : c.ClosedAll next (k :: l) d := by
  have hself : ¬ (k ∈ l ∧ (c.closeLoop k 0#64).ends next k) := fun hj => ((c.ends_closeLoop k _).mp hj.2).1 rfl
  have hother {j : Nat} (hne : k ≠ j) : (c.closeLoop k 0#64).frame j = c.frame j ∧ (c.closeLoop k 0#64).lpreg j = c.lpreg j := by
    rw [Ctx.closeLoop_frame, Ctx.closeLoop_lpreg, if_neg hne, if_neg hne]
    exact ⟨rfl, rfl⟩
  refine ⟨by rw [h.rest]; rfl, fun j hm he => ?_, fun j hj => ?_⟩
  · by_cases hne : k = j
    · subst hne
      rw [(h.others k hself).1, (h.others k hself).2, Ctx.closeLoop_frame, Ctx.closeLoop_lpreg, if_pos rfl, if_pos rfl]
      exact ⟨rfl, rfl⟩
    · rw [← (hother hne).1]
      exact h.closed j ((List.mem_cons.mp hm).resolve_left (Ne.symm hne)) ((c.ends_closeLoop k _).mpr ⟨hne, he⟩)
  · have hne : k ≠ j := fun heq => hj (heq ▸ ⟨List.mem_cons_self, hk⟩)
    rw [← (hother hne).1, ← (hother hne).2]
    exact h.others j fun ⟨hm, he⟩ => hj ⟨List.mem_cons_of_mem _ hm, ((c.ends_closeLoop k _).mp he).2⟩

/-- A state as the test has it after some frames: but for the context it is the one before. -/
structure TestedTo (key : Nat) (s u : State) : Prop where
  cur : u.cur = s.cur
  ctxs : ∀ d, { u with ctxs := u.ctxs.set key d } = { s with ctxs := s.ctxs.set key d }

theorem applyAll_backEdge_closes {key : Nat} {next : Word} (r : List Nat) {a : List Nat} {s : State} (h : ∀ j ∈ a, (s.ctx key).closes next j) :
    ∃ u, TestedTo key s u ∧ (s.ctx key).ClosedAll next a (u.ctx key) ∧
      applyAll (backEdge key next (a ++ r) s) s = applyAll (backEdge key next r u) u := by
  induction a generalizing s with
  | nil => exact ⟨s, ⟨rfl, fun _ => rfl⟩, .nil next _, rfl⟩
  | cons k a ih =>
    rw [List.forall_mem_cons] at h
    by_cases hk : (s.ctx key).ends next k
    · obtain ⟨how, hn⟩ := h.1 hk
      obtain ⟨u, hu, hclosed, happ⟩ := ih (s := { s with ctxs := s.ctxs.set key ((s.ctx key).closeLoop k 0#64) }) (by
        rw [State.ctx_set]
        exact fun j hj => Ctx.closes_closeLoop k _ (h.2 j hj))
      rw [State.ctx_set] at hclosed
      refine ⟨u, ⟨hu.cur, fun d => (hu.ctxs d).trans (by simp)⟩, hclosed.cons_of_closed hk, ?_⟩
      rw [List.cons_append, backEdge_of_over hk how hn, applyAll_seq]
      exact happ
    · obtain ⟨u, hu, hclosed, happ⟩ := ih h.2
      refine ⟨u, hu, hclosed.cons_of_not_ends hk, ?_⟩
      rw [List.cons_append, backEdge_of_not_ends hk]
      exact happ

/-! The place of the next issue. -/

section
variable {x : NextIssue} {s : State}

/-- Where the bundle after an issue begins (R50). -/
def State.nextBundle (s : State) : Word := pcMask (linkValue s.cur)

/-- A state in which a context's next issue is the bundle at an address. -/
def State.movedTo (s : State) (key : Nat) (a : Word) : State := { s with ctxs := s.ctxs.set key ((s.ctx key).movedTo a) }

theorem State.movedTo_ctx (s : State) (key : Nat) (a : Word) : (s.movedTo key a).ctx key = (s.ctx key).movedTo a := State.ctx_set ..

theorem State.movedTo_set (s : State) (key : Nat) (d : Ctx) (i : Issue) (a : Word) :
    State.movedTo { s with ctxs := s.ctxs.set key d, cur := i } key a = { s with ctxs := s.ctxs.set key (d.movedTo a), cur := i } := by
  simp only [State.movedTo, State.ctx, Sparse.get_set_self, Sparse.set_set]

theorem applyAll_moveOn_of_target {a : Word} (h : s.cur.target = some a) : applyAll (moveOn x s) s = s.movedTo x.key a := by
  unfold moveOn
  rw [h]
  rfl

theorem applyAll_moveOn_of_remaining (h : s.cur.target = none) (hr : 0 < x.remaining) : applyAll (moveOn x s) s =
    { s with ctxs := s.ctxs.set x.key { s.ctx x.key with repleft := x.remaining, fetched := x.words } } := by
  unfold moveOn
  rw [h]
  exact congrArg (applyAll · s) (if_pos hr)

theorem applyAll_moveOn_of_last (h : s.cur.target = none) (hr : x.remaining = 0) : applyAll (moveOn x s) s =
    let u := applyAll (Act.when (!s.cur.loopIssued) (backEdge x.key s.nextBundle (s.ctx x.key).order) s) s
    u.movedTo x.key (u.cur.target.getD s.nextBundle) := by
  unfold moveOn
  rw [h]
  exact (congrArg (applyAll · s) (if_neg (by omega))).trans (applyAll_seq ..)

theorem applyAll_moveOn_of_loopIssued (h : s.cur.target = none) (hr : x.remaining = 0) (hl : s.cur.loopIssued = true) :
    applyAll (moveOn x s) s = s.movedTo x.key s.nextBundle := by
  rw [applyAll_moveOn_of_last h hr, hl]
  show s.movedTo x.key (s.cur.target.getD s.nextBundle) = _
  rw [h]
  rfl

variable (h : s.cur.target = none) (hr : x.remaining = 0) (hl : s.cur.loopIssued = false)
include h hr hl

theorem applyAll_moveOn_of_backEdge : applyAll (moveOn x s) s =
    let u := applyAll (backEdge x.key s.nextBundle (s.ctx x.key).order s) s
    u.movedTo x.key (u.cur.target.getD s.nextBundle) := by
  rw [applyAll_moveOn_of_last h hr, hl]
  rfl

/-- Every frame that ends where the bundle ends closes: the next bundle follows (R120). -/
theorem applyAll_moveOn_of_closes (hc : ∀ j ∈ (s.ctx x.key).order, (s.ctx x.key).closes s.nextBundle j) :
    ∃ d, (s.ctx x.key).ClosedAll s.nextBundle (s.ctx x.key).order d ∧
      applyAll (moveOn x s) s = { s with ctxs := s.ctxs.set x.key (d.movedTo s.nextBundle) } := by
  obtain ⟨u, hu, hclosed, happ⟩ := applyAll_backEdge_closes [] hc
  rw [List.append_nil] at happ
  refine ⟨_, hclosed, ?_⟩
  rw [applyAll_moveOn_of_backEdge h hr hl, happ]
  show u.movedTo x.key (u.cur.target.getD s.nextBundle) = _
  rw [hu.cur, h]
  exact hu.ctxs _

/-- The first frame that ends there with a count above 1 counts down and goes to its begin (R120). -/
theorem applyAll_moveOn_of_count {a b : List Nat} {k : Nat} (horder : (s.ctx x.key).order = a ++ k :: b) (hk : k ∉ a)
    (hc : ∀ j ∈ a, (s.ctx x.key).closes s.nextBundle j) (he : (s.ctx x.key).ends s.nextBundle k) (ho : ((s.ctx x.key).frame k).ow = false)
    (hn : 1 < ((s.ctx x.key).lpreg k).toNat) : ∃ d, (s.ctx x.key).ClosedAll s.nextBundle a d ∧
      applyAll (moveOn x s) s = { s with
        ctxs := s.ctxs.set x.key ({ d with lp := d.lp.set k (d.lpreg k - 1#64) }.movedTo ((s.ctx x.key).frame k).beg)
        cur := s.cur.goesTo ((s.ctx x.key).frame k).beg } := by
  obtain ⟨u, hu, hclosed, happ⟩ := applyAll_backEdge_closes (k :: b) hc
  obtain ⟨hframe, hlp⟩ := hclosed.others k fun hj => hk hj.1
  have he' : (u.ctx x.key).ends s.nextBundle k := by rwa [Ctx.ends, hframe]
  rw [← hframe] at ho ⊢
  rw [← hlp] at hn
  refine ⟨_, hclosed, ?_⟩
  rw [applyAll_moveOn_of_backEdge h hr hl, horder, happ, backEdge_of_count he' ho hn, applyAll_seq, applyAll_modCtx, applyAll_goTo]
  refine (State.movedTo_set u ..).trans ?_
  rw [hu.cur]
  exact congrArg (fun v : State => { v with cur := s.cur.goesTo ((u.ctx x.key).frame k).beg }) (hu.ctxs _)

end

/-! What the context and the state are after it, as the statement says it. -/

/-- The next issue of a context is the bundle at an address: only the context and the issue in progress have changed, and of the context the
place, the counts and the frames; of some frames those that ended at `next` are closed, every other stands (R120). -/
def GoesTo (key : Nat) (next : Word) (closed : List Nat) (a : Word) (s t : State) : Prop :=
  let c := s.ctx key
  let d := t.ctx key
  t = { s with ctxs := s.ctxs.set key d, cur := t.cur } ∧
  d = { c with pc := pcMask a, repleft := 0, fetched := [], lp := d.lp, frames := d.frames } ∧
  (∀ k, k ∈ closed → c.ends next k → d.frame k = { c.frame k with act := false } ∧ d.lpreg k = 0#64) ∧
  ∀ k, ¬ (k ∈ closed ∧ c.ends next k) → d.frame k = c.frame k

/-- A context that has passed the test of some frames, whatever counts are written after it, goes to an address. -/
theorem goesTo_of_closedAll {key : Nat} {next : Word} {l : List Nat} {s : State} {d : Ctx} (h : (s.ctx key).ClosedAll next l d) {lp : Sparse Word}
    (hlp : ∀ k, k ∈ l → (s.ctx key).ends next k → lp.get 0#64 k = 0#64) {a : Word} {t : State} {i : Issue}
    (ht : t = { s with ctxs := s.ctxs.set key ({ d with lp := lp }.movedTo a), cur := i }) : GoesTo key next l a s t ∧ (t.ctx key).lp = lp := by
  have hd : t.ctx key = { d with lp := lp }.movedTo a := by
    rw [ht]
    exact Sparse.get_set_self ..
  rw [GoesTo, hd]
  exact ⟨⟨by rw [ht], by rw [h.rest]; rfl, fun k hk he => ⟨(h.closed k hk he).1, hlp k hk he⟩, fun k hk => (h.others k hk).1⟩, rfl⟩

theorem goesTo_of_movedTo {key : Nat} {next a : Word} {s t : State} (ht : t = s.movedTo key a) :
    GoesTo key next [] a s t ∧ (t.ctx key).lp = (s.ctx key).lp :=
  goesTo_of_closedAll (.nil next _) (fun _ hk => absurd hk List.not_mem_nil) (i := s.cur) ht

section
variable {x : NextIssue} {s : State} (h : s.cur.target = none) (hr : x.remaining = 0) (hl : s.cur.loopIssued = false)
include h hr hl

theorem moveOn_of_count {a b : List Nat} {k : Nat} (horder : (s.ctx x.key).order = a ++ k :: b) (hk : k ∉ a)
    (hc : ∀ j ∈ a, (s.ctx x.key).closes s.nextBundle j) (he : (s.ctx x.key).ends s.nextBundle k) (ho : ((s.ctx x.key).frame k).ow = false)
    (hn : 1 < ((s.ctx x.key).lpreg k).toNat) :
    let c := s.ctx x.key
    let t := applyAll (moveOn x s) s
    let d := t.ctx x.key
    GoesTo x.key s.nextBundle a (c.frame k).beg s t ∧ d.lpreg k = c.lpreg k - 1#64 ∧
      ∀ j, j ≠ k → ¬ (j ∈ a ∧ c.ends s.nextBundle j) → d.lpreg j = c.lpreg j := by
  obtain ⟨d, hd, ht⟩ := applyAll_moveOn_of_count h hr hl horder hk hc he ho hn
  have hzero (j : Nat) (hj : j ∈ a) (hends : (s.ctx x.key).ends s.nextBundle j) : (d.lp.set k (d.lpreg k - 1#64)).get 0#64 j = 0#64 := by
    have hne : k ≠ j := fun heq => hk (heq ▸ hj)
    rw [Sparse.get_set_ne _ _ _ hne]
    exact (hd.closed j hj hends).2
  obtain ⟨hgoes, hlp⟩ := goesTo_of_closedAll hd hzero ht
  refine ⟨hgoes, ?_, fun j hjk hj => ?_⟩
  · rw [Ctx.lpreg, hlp, Sparse.get_set_self, (hd.others k fun hj => hk hj.1).2]
  · rw [Ctx.lpreg, hlp, Sparse.get_set_ne _ _ _ (Ne.symm hjk)]
    exact (hd.others j hj).2

theorem moveOn_of_closes (hc : ∀ j ∈ (s.ctx x.key).order, (s.ctx x.key).closes s.nextBundle j) :
    let c := s.ctx x.key
    let t := applyAll (moveOn x s) s
    GoesTo x.key s.nextBundle c.order s.nextBundle s t ∧ ∀ j, ¬ (j ∈ c.order ∧ c.ends s.nextBundle j) → (t.ctx x.key).lpreg j = c.lpreg j := by
  obtain ⟨d, hd, ht⟩ := applyAll_moveOn_of_closes h hr hl hc
  obtain ⟨hgoes, hlp⟩ := goesTo_of_closedAll hd (fun j hj hends => (hd.closed j hj hends).2) (i := s.cur) ht
  exact ⟨hgoes, fun j hj => (congrArg (Sparse.get 0#64 · j) hlp).trans (hd.others j hj).2⟩

/-- A walk's end test decides in the place of the back-edge test (R295). -/
theorem moveOn_of_walk {k : Nat} {b : List Nat} (horder : (s.ctx x.key).order = k :: b) (he : (s.ctx x.key).ends s.nextBundle k)
    (ho : ((s.ctx x.key).frame k).ow = true) (hn : (s.ctx x.key).lpreg k ≠ 0#64) :
    let u := applyAll (walkEndTest x.key true s) s
    applyAll (moveOn x s) s = u.movedTo x.key (u.cur.target.getD s.nextBundle) := by
  rw [applyAll_moveOn_of_backEdge h hr hl, horder, backEdge_of_walk he ho hn, applyAll_seq]
  rfl

end

/-- Settles O7: LOOP by its count and the active walk; the place of the next issue by the target, the repetitions left and the frames in their order. -/
theorem loops : Obligations.Loops :=
  ⟨loop_issues, fun _ _ => ⟨fun _ h => goesTo_of_movedTo (applyAll_moveOn_of_target h), applyAll_moveOn_of_remaining,
    fun h hr => ⟨fun hl => goesTo_of_movedTo (applyAll_moveOn_of_loopIssued h hr hl),
      fun hl => ⟨fun _ _ _ => moveOn_of_count h hr hl, moveOn_of_closes h hr hl, fun _ _ => moveOn_of_walk h hr hl⟩⟩⟩⟩

end Sys2Proof.Machine
end

section
/-!
The one element of a scalar memory operation: its checks (R93, R296), and the start of an access (R209, R255).
-/
namespace Sys2Proof.Machine

/-! The checks of one element: the handle's first, then what else the operation checks. -/

section
variable {i : Issue} {h : Handle} {perm : Nat} {more : Elem → Option Trap} {e : Elem}

theorem elemsTrap_of_handle {code : BitVec 16} (hc : checkHandle h e.off e.len perm = some code) :
    elemsTrap i h perm more [e] = some (accessTrap i code (h.address e.off) e.elem 0#8) := by
  simp only [elemsTrap, rangeTrap, hc, List.findSome?_cons, Option.map_some, Option.orElse_some]

theorem elemsTrap_of_no_handle (hc : checkHandle h e.off e.len perm = none) : elemsTrap i h perm more [e] = more e := by
  simp only [elemsTrap, rangeTrap, hc, List.findSome?_cons, List.findSome?_nil, Option.map_none, Option.orElse_none]
  cases more e <;> rfl

end

/-- The data of one element. -/
theorem dataLength_singleton (e : Elem) : dataLength [e] = e.len := Nat.zero_add _

/-! The start of an access. -/

/-- An issue that may have noted an access to the own scratchpad, and is otherwise as it was. -/
def Issue.noted (i j : Issue) : Prop := ∃ near, j = { i with near := near }

/-- The access that an operation starts is in flight, under the next identifier; the issue may have noted it. -/
theorem applyAll_startAccess (op : OpRec) (what : AccessOp) (h : Handle) (es : List Elem) (data cmp : List Byte) (scope : BitVec 3) (buffered : Bool)
    (f : Nat → Act) (s : State) : ∃ j, s.cur.noted j ∧
      applyAll (startAccess s.cur.key op what h.kind (layParts h 0 es) data cmp scope buffered f s) s =
        let u : State := { s.withAccess (s.accessFor op what h es data cmp scope buffered) with cur := j }
        applyAll (f s.nextId u) u := by
  by_cases hn : (layParts h 0 es).any (ownPart (coreOf s.cur.key) h.kind) = true
  · refine ⟨{ s.cur with near := s.cur.near ++ [s.nextId] }, ⟨_, rfl⟩, ?_⟩
    rw [startAccess, withId, applyAll_seq]
    dsimp only
    rw [applyAll_seqs_cons, applyAll_seqs_cons, noteNear, hn, applyAll_seqs_cons]
    rfl
  · refine ⟨s.cur, ⟨s.cur.near, rfl⟩, ?_⟩
    rw [startAccess, withId, applyAll_seq]
    dsimp only
    rw [applyAll_seqs_cons, applyAll_seqs_cons, noteNear, Bool.eq_false_iff.mpr hn, applyAll_seqs_cons]
    rfl

/-- A state is one but for the issue in progress. -/
theorem onlyCur_of_cur (u : State) {j : Issue} (h : j.key = u.cur.key) : OnlyCur u { u with cur := j } := ⟨rfl, h⟩

theorem applyAll_pend (r : OpRec) (ds : List Dest) (src : Source) (u : State) :
    applyAll (pend r ds src u) u = u.withIssuer (u.issuer.withPending r ds src) := rfl

/-- An operation issued alone that starts an access, and does more that stores and traps nothing (R209). -/
theorem becomes_of_startAccess {i : Instr} {s : State} (h : Issues i s) {op : SlotOp} (hx : exec i s = runOne i op s) {r : OpRec} {what : AccessOp}
    {hd : Handle} {es : List Elem} {data cmp : List Byte} {scope : BitVec 3} {buffered : Bool} {f : Nat → Act}
    (ho : op (issuedAt i s) = .ok (startAccess s.cur.key r what hd.kind (layParts hd 0 es) data cmp scope buffered f (issuedAt i s))) {v : State}
    (hv : ∀ near, let u : State := { s.withAccess (s.accessFor r what hd es data cmp scope buffered) with cur := { issueOf i s with near := near } }
      applyAll (f s.nextId u) u = { v with cur := { issueOf i s with near := near } })
    (hkey : v.cur.key = s.cur.key) : Becomes i s v := by
  obtain ⟨j, ⟨near, rfl⟩, hj⟩ := applyAll_startAccess r what hd es data cmp scope buffered f (issuedAt i s)
  have ht := hj.trans (hv near)
  refine answers_of_ok h hx ho ?_ ?_ ?_ <;> rw [show s.cur.key = (issuedAt i s).cur.key from rfl, ht]
  · exact h.stores
  · exact h.trapped
  · exact onlyCur_of_cur v hkey.symm

/-- An operation issued alone that starts an access and does no more. -/
theorem becomes_of_startAccess_skip {i : Instr} {s : State} (h : Issues i s) {op : SlotOp} (hx : exec i s = runOne i op s) {r : OpRec}
    {what : AccessOp} {hd : Handle} {es : List Elem} {data cmp : List Byte} {scope : BitVec 3} {buffered : Bool}
    (ho : op (issuedAt i s) =
      .ok (startAccess s.cur.key r what hd.kind (layParts hd 0 es) data cmp scope buffered (fun _ => Act.skip) (issuedAt i s))) :
    Becomes i s (s.withAccess (s.accessFor r what hd es data cmp scope buffered)) :=
  becomes_of_startAccess h hx ho (fun _ => rfl) rfl

/-- An operation issued alone that starts an access and waits for it: its destinations are empty (R87). -/
theorem becomes_of_startAccess_pend {i : Instr} {s : State} (h : Issues i s) {op : SlotOp} (hx : exec i s = runOne i op s) {r : OpRec}
    {what : AccessOp} {hd : Handle} {es : List Elem} {data cmp : List Byte} {scope : BitVec 3} {buffered : Bool} {ds : List Dest}
    (ho : op (issuedAt i s) = .ok (startAccess s.cur.key r what hd.kind (layParts hd 0 es) data cmp scope buffered
      (fun id => pend r ds (.access id)) (issuedAt i s))) :
    Becomes i s ((s.withAccess (s.accessFor r what hd es data cmp scope buffered)).withIssuer (s.issuer.withPending r ds (.access s.nextId))) :=
  becomes_of_startAccess h hx ho (fun _ => applyAll_pend ..) rfl

/-- An operation issued alone that has noted places of the own scratchpad and lands a result. -/
theorem lands_of_touch {i : Instr} {s : State} (h : Issues i s) {op : SlotOp} (hx : exec i s = runOne i op s) {core : Nat} {places : List Nat}
    {r : OpRec} {n : Nat} {d : Dest} {v : Result} (hr : r.isOf i s)
    (ho : op (issuedAt i s) = .ok (Act.seq (touch core places) (land r n d v) (issuedAt i s))) : Answers i s fun t => Lands i s t n d v := by
  have honly : OnlyCur s (applyAll (touch core places (issuedAt i s)) (issuedAt i s)) := ⟨rfl, rfl⟩
  refine answers_of_ok h hx ho ?_ ?_ ?_ <;> rw [applyAll_seq]
  · exact h.stores
  · exact h.trapped
  · exact lands_of_onlyCur honly hr n d v

end Sys2Proof.Machine
end

section
/-!
LD (R105, R106).
-/
namespace Sys2Proof.Machine

/-- The offset of LD and ST (R59, R106): B, the stepped stride, and the index C in elements. -/
def State.scalarOffset (s : State) (f : FmtX) : Word :=
  s.src f.b + BitVec.ofInt 64 (s.cur.step.toNat * f.stride.toInt * unitBytes f.sunit) +
    (if f.c = 0x80#8 then 0#64 else s.src f.c) * BitVec.ofNat 64 (tyBytes f.ty)

/-- The element of LD and ST (R106). -/
def State.scalarElem (s : State) (f : FmtX) : Elem := ⟨0, s.scalarOffset f, tyBytes f.ty⟩

theorem scalarElems_eq (f : FmtX) (s : State) : scalarElems s.issuer s.cur f = [s.scalarElem f] := rfl

/-- The record of LD: the address, the handle's kind and its permissions (R268). -/
def loadRec (f : FmtX) (s : State) : OpRec :=
  memRec s (s.issuer.handle f.h.toNat) ((s.issuer.handle f.h.toNat).address (s.scalarOffset f)) 0#64 0#64 []

section
variable {f : FmtX} {s : State}

/-- LD by its checks and the kind of its handle. -/
theorem opLd_eq (f : FmtX) (s : State) : opLd f s =
    let h := s.issuer.handle f.h.toNat
    let e := s.scalarElem f
    match elemsTrap s.cur h 0 (readTrap s.issuer s.cur h) [e] with
    | some t => .error t
    | none =>
      if h.kind = .spad then
        .ok (Act.seq (touch (coreOf s.cur.key) (elemPlaces (coreOf s.cur.key) h [e])) (land (loadRec f s) 6 (.s f.d.toNat)
          (.word (loadExtend f.ty (leNat ([e].flatMap (spadBytes s s.cur.key h)))))) s)
      else .ok (startAccess s.cur.key (loadRec f s) .load h.kind (layParts h 0 [e]) (List.replicate (dataLength [e]) 0#8) [] 3#3 false
        (fun id => pend (loadRec f s) [.s f.d.toNat] (.access id)) s) := by
  rw [opLd]
  rfl

theorem opLd_of_trap {t : Trap}
    (h : elemsTrap s.cur (s.issuer.handle f.h.toNat) 0 (readTrap s.issuer s.cur (s.issuer.handle f.h.toNat)) [s.scalarElem f] = some t) :
    opLd f s = .error t := by
  rw [opLd_eq]
  simp only [h]

section
variable (h : elemsTrap s.cur (s.issuer.handle f.h.toNat) 0 (readTrap s.issuer s.cur (s.issuer.handle f.h.toNat)) [s.scalarElem f] = none)
include h

theorem opLd_of_spad (hk : (s.issuer.handle f.h.toNat).kind = .spad) : opLd f s =
    .ok (Act.seq (touch (coreOf s.cur.key) (elemPlaces (coreOf s.cur.key) (s.issuer.handle f.h.toNat) [s.scalarElem f]))
      (land (loadRec f s) 6 (.s f.d.toNat)
        (.word (loadExtend f.ty (leNat (spadBytes s s.cur.key (s.issuer.handle f.h.toNat) (s.scalarElem f)))))) s) := by
  rw [opLd_eq]
  simp only [h, hk, if_true, List.flatMap_cons, List.flatMap_nil, List.append_nil]

theorem opLd_of_not_spad (hk : (s.issuer.handle f.h.toNat).kind ≠ .spad) : opLd f s =
    .ok (startAccess s.cur.key (loadRec f s) .load (s.issuer.handle f.h.toNat).kind (layParts (s.issuer.handle f.h.toNat) 0 [s.scalarElem f])
      (List.replicate (tyBytes f.ty) 0#8) [] 3#3 false (fun id => pend (loadRec f s) [.s f.d.toNat] (.access id)) s) := by
  rw [opLd_eq]
  simp only [h, hk, if_false, dataLength_singleton]
  rfl

end

end

@[simp] theorem issuedAt_issuer (i : Instr) (s : State) : (issuedAt i s).issuer = s.issuer := rfl
@[simp] theorem issuedAt_cur (i : Instr) (s : State) : (issuedAt i s).cur = issueOf i s := rfl
@[simp] theorem issuedAt_scalarElem (i : Instr) (s : State) (f : FmtX) : (issuedAt i s).scalarElem f = s.scalarElem f := rfl

theorem loads : Clause.Loads := by
  intro f s h
  have hchecks (hc : checkHandle (s.issuer.handle f.h.toNat) (s.scalarElem f).off (s.scalarElem f).len 0 = none) :=
    elemsTrap_of_no_handle (i := issueOf (.ld f) s) (more := readTrap s.issuer (issueOf (.ld f) s) (s.issuer.handle f.h.toNat)) hc
  refine ⟨fun code hc => traps_of_error h rfl (opLd_of_trap ?handle), fun tr hc hr => traps_of_error h rfl (opLd_of_trap ?walk),
    fun hfree hk => ?spad, fun hfree hk => ⟨loadRec f (issuedAt (.ld f) s), opRec_isOf (.ld f) s, ?away⟩⟩
  case handle => exact elemsTrap_of_handle (e := s.scalarElem f) hc
  case walk => exact (hchecks hc).trans hr
  case spad => exact lands_of_touch h rfl (r := loadRec f (issuedAt (.ld f) s)) (opRec_isOf (.ld f) s) (opLd_of_spad (s := issuedAt (.ld f) s) ((hchecks hfree.1).trans hfree.2) hk)
  case away => exact becomes_of_startAccess_pend h rfl (opLd_of_not_spad (s := issuedAt (.ld f) s) ((hchecks hfree.1).trans hfree.2) hk)

/-! The extensions of a load. -/

theorem signedOf_eq_toInt (w x : Nat) : signedOf w x = (BitVec.ofNat w x).toInt := by
  rw [signedOf, BitVec.toInt_eq_toNat_cond, BitVec.toNat_ofNat]
  push_cast
  rfl

/-- An integer type of at most 64 bits extends the sign (R105). -/
theorem toInt_ofInt_signedOf {w : Nat} (h : w ≤ 64) (x : Nat) : (BitVec.ofInt 64 (signedOf w x)).toInt = (BitVec.ofNat w x).toInt := by
  rw [signedOf_eq_toInt]
  exact BitVec.toInt_signExtend_of_le h

theorem toNat_ofInt_signedOf {x : Nat} (h : x < 2 ^ 64) : (BitVec.ofInt 64 (signedOf 64 x)).toNat = x := by
  rw [signedOf_eq_toInt, BitVec.ofInt_toInt, BitVec.toNat_ofNat, Nat.mod_eq_of_lt h]

theorem loadExtensions : Clause.LoadExtensions := by
  refine fun x => ⟨fun ty hty h => ?half, fun h => ?single, toNat_ofInt_signedOf, fun _ => toInt_ofInt_signedOf (by decide) x,
    fun _ => toInt_ofInt_signedOf (by decide) x, fun _ => toInt_ofInt_signedOf (by decide) x⟩
  case half =>
    have hfp : loadExtend ty x = BitVec.ofNat 64 x := by rcases hty with rfl | rfl <;> rfl
    rw [hfp, BitVec.toNat_ofNat, Nat.mod_eq_of_lt (by omega)]
  case single => exact (BitVec.toNat_ofNat x 64).trans (Nat.mod_eq_of_lt (by omega))

/-- Settles O9: what LD lands, what it starts and its traps; and the extensions of what it lands. -/
theorem scalarLoads : Obligations.ScalarLoads := ⟨loads, loadExtensions⟩

end Sys2Proof.Machine
end

section
/-!
Bytes stored one after another at places (R107).
-/
namespace Sys2Proof.Machine

/-- Memory after stores of single bytes, one after another. -/
def storedAll (m : List Host.Cell) (l : List (Nat × Byte)) : List Host.Cell := l.foldl (fun m x => Memory.set m x.1 x.2) m

theorem storedAll_cons (m : List Host.Cell) (x : Nat × Byte) (l : List (Nat × Byte)) : storedAll m (x :: l) = storedAll (Memory.set m x.1 x.2) l := rfl

theorem get_storedAll_of_not_mem {m : List Host.Cell} (w : Memory.wf m = true) {l : List (Nat × Byte)} {a : Nat} (h : a ∉ l.map (·.1)) :
    Memory.get (storedAll m l) a = Memory.get m a := by
  induction l generalizing m with
  | nil => rfl
  | cons x l ih =>
    rw [List.map_cons, List.mem_cons, not_or] at h
    rw [storedAll_cons, ih (Memory.wf_set w) h.2, Memory.get_set_ne m x.2 (Ne.symm h.1) w]

theorem get_storedAll_of_mem {m : List Host.Cell} (w : Memory.wf m = true) {l : List (Nat × Byte)} (hnd : (l.map (·.1)).Nodup) {a : Nat} {b : Byte}
    (h : (a, b) ∈ l) : Memory.get (storedAll m l) a = b := by
  induction l generalizing m with
  | nil => exact absurd h List.not_mem_nil
  | cons x l ih =>
    rw [List.map_cons, List.nodup_cons] at hnd
    rw [storedAll_cons]
    rcases List.mem_cons.mp h with rfl | h
    · rw [get_storedAll_of_not_mem (Memory.wf_set w) hnd.1, Memory.get_set_self m a b w]
    · exact ih (Memory.wf_set w) hnd.2 h

/-- The places of a store that have a byte are the first of its places. -/
theorem map_fst_zip_sublist {α β : Type} (l : List α) (r : List β) : ((l.zip r).map (·.1)).Sublist l := by
  induction l generalizing r with
  | nil => exact List.nil_sublist _
  | cons a l ih =>
    cases r with
    | nil => exact List.nil_sublist _
    | cons b r => exact (ih r).cons_cons a

/-- A store of bytes at places, in a memory in canonical form. -/
theorem get_storedAll_zip {m : List Host.Cell} (w : Memory.wf m = true) (places : List Nat) (data : List Byte) :
    (places.Nodup → ∀ (k p : Nat) (b : Byte), places[k]? = some p → data[k]? = some b → Memory.get (storedAll m (places.zip data)) p = b) ∧
    ∀ a, a ∉ places → Memory.get (storedAll m (places.zip data)) a = Memory.get m a := by
  have hsub := map_fst_zip_sublist places data
  refine ⟨fun hnd k p b hp hb => get_storedAll_of_mem w (hnd.sublist hsub) ?_, fun a ha => get_storedAll_of_not_mem w fun h => ha (hsub.subset h)⟩
  exact List.mem_of_getElem? (List.getElem?_zip_eq_some.mpr ⟨hp, hb⟩)

/-- An operation issued alone whose changes are stores of the issue to places of the own scratchpad: they are in memory after it (R107). -/
theorem answers_of_stores {i : Instr} {s : State} (h : Issues i s) {op : SlotOp} (hx : exec i s = runOne i op s) {e : List Effect}
    (ho : op (issuedAt i s) = .ok e) {x : Issue} (he : applyAll e (issuedAt i s) = { s with cur := x }) {places : List Nat} {data : List Byte}
    (hs : x.stores = places.zip data) (hkey : x.key = s.cur.key) (hn : x.near = s.cur.near) (ht : x.trapped = s.cur.trapped) :
    Answers i s fun t => Stores s t places data := by
  have hnear : (applyAll e (issuedAt i s)).cur.near = [] := by rw [he]; exact hn.trans h.near
  obtain ⟨hflushed, hkey', htrapped⟩ := flushed_eq hnear
  refine ⟨_, hx.trans (runOne_of_ok h ho ?_), ?_, ?_, fun w => ?_⟩
  · rw [htrapped, he]; exact ht.trans h.trapped
  · rw [hflushed, he]
  · rw [hkey', he]; exact hkey
  · rw [hflushed, he, hs]
    exact get_storedAll_zip w places data

end Sys2Proof.Machine
end

section
/-!
The store of elements through a handle (R106, R136, R137), and ST (R105, R106).
-/
namespace Sys2Proof.Machine

/-- The multicast store of elements that the issuer makes through a handle: it lands 24 cycles later (R91). -/
def State.mcastFor (s : State) (r : OpRec) (h : Handle) (es : List Elem) (data : List Byte) : Mcast where
  due := s.now + 24
  pos := s.issuer.pos.toNat
  key := s.cur.key
  op := r
  after := s.issuer.holdAll.map (·.id)
  cores := mcastCores s s.cur.key h.tgt
  bytes := (es.flatMap fun e => (List.range e.len).map fun b => (h.address e.off).toNat + b).zip data

section
variable {r : OpRec} {hd : Handle} {es : List Elem} {data : List Byte}

/-- Where no access of the issue reaches the own scratchpad, none is taken before a store to it (R138). -/
theorem foldNear_of_no_near {s : State} (key : Nat) (places : List Nat) (hn : s.cur.near = []) : foldNear key places s = [] := by
  rw [foldNear, nearParts, hn]
  rfl

theorem applyAll_storeElems_spad {s : State} (hk : hd.kind = .spad) (hn : s.cur.near = []) :
    applyAll (storeElems s.cur.key r hd es data s) s = { s with cur := { s.cur with
      stores := s.cur.stores ++ (reached (coreOf s.cur.key) hd es).zip data
      rmw := s.cur.rmw.filter fun a => decide (a ∉ reached (coreOf s.cur.key) hd es) } } := by
  unfold storeElems
  rw [hk]
  dsimp only
  rw [applyAll_seq, foldNear_of_no_near _ _ hn]
  rfl

theorem applyAll_storeElems_mcast {s : State} (hk : hd.kind = .mcast) : applyAll (storeElems s.cur.key r hd es data s) s =
    { s with nextId := s.nextId + 1, mcasts := s.mcasts.set s.nextId (s.mcastFor r hd es data) } := by
  unfold storeElems
  rw [hk]
  rfl

theorem storeElems_away (hs : hd.kind ≠ .spad) (hm : hd.kind ≠ .mcast) (key : Nat) (s : State) : storeElems key r hd es data s =
    if es = [] then [] else startAccess key r .store hd.kind (layParts hd 0 es) data [] 3#3 (hd.kind = .global) (fun _ => Act.skip) s := by
  unfold storeElems
  split
  next hk => exact absurd hk hs
  next hk => exact absurd hk hm
  next => rfl

variable {i : Instr} {s : State} (h : Issues i s) {op : SlotOp} (hx : exec i s = runOne i op s)
  (ho : op (issuedAt i s) = .ok (storeElems s.cur.key r hd es data (issuedAt i s)))
include h hx ho

theorem stores_of_storeElems (hk : hd.kind = .spad) : Answers i s fun t => Stores s t (reached (coreOf s.cur.key) hd es) data := by
  refine answers_of_stores h hx ho (applyAll_storeElems_spad (s := issuedAt i s) hk h.near) ?_ rfl rfl rfl
  rw [issuedAt_stores, h.stores]
  rfl

theorem becomes_of_storeElems_mcast (hk : hd.kind = .mcast) :
    Becomes i s { s with nextId := s.nextId + 1, mcasts := s.mcasts.set s.nextId (s.mcastFor r hd es data) } := by
  have ht := applyAll_storeElems_mcast (s := issuedAt i s) (r := r) (es := es) (data := data) hk
  refine answers_of_ok h hx ho ?_ ?_ ?_ <;> rw [show s.cur.key = (issuedAt i s).cur.key from rfl, ht]
  · exact h.stores
  · exact h.trapped
  · exact ⟨rfl, rfl⟩

theorem becomes_of_storeElems_nothing (hs : hd.kind ≠ .spad) (hm : hd.kind ≠ .mcast) (hes : es = []) : Becomes i s s := by
  rw [storeElems_away hs hm, if_pos hes] at ho
  exact answers_of_ok h hx ho h.stores h.trapped ⟨rfl, rfl⟩

theorem becomes_of_storeElems_away (hs : hd.kind ≠ .spad) (hm : hd.kind ≠ .mcast) (hes : es ≠ []) :
    Becomes i s (s.withAccess (s.accessFor r .store hd es data [] 3#3 (hd.kind = .global))) := by
  rw [storeElems_away hs hm, if_neg hes] at ho
  exact becomes_of_startAccess_skip h hx ho

end

/-- The record of ST: its datum, the address, the handle's kind and its permissions (R268). -/
def storeRec (f : FmtX) (s : State) : OpRec :=
  memRec s (s.issuer.handle f.h.toNat) ((s.issuer.handle f.h.toNat).address (s.scalarOffset f)) (s.src f.d) 0#64 []

/-- ST by its checks. -/
theorem opSt_eq (f : FmtX) (s : State) : opSt f s =
    let h := s.issuer.handle f.h.toNat
    match elemsTrap s.cur h 1 (writeTrap s.issuer s.cur h) [s.scalarElem f] with
    | some t => .error t
    | none => .ok (storeElems s.cur.key (storeRec f s) h (unsuppressed s.mem s.issuer s.cur.key h [s.scalarElem f])
        (leBytes (s.src f.d).toNat (tyBytes f.ty)) s) := by
  rw [opSt]
  rfl

theorem opSt_of_trap {f : FmtX} {s : State} {t : Trap}
    (h : elemsTrap s.cur (s.issuer.handle f.h.toNat) 1 (writeTrap s.issuer s.cur (s.issuer.handle f.h.toNat)) [s.scalarElem f] = some t) :
    opSt f s = .error t := by
  rw [opSt_eq]
  simp only [h]

theorem opSt_of_free {f : FmtX} {s : State}
    (h : elemsTrap s.cur (s.issuer.handle f.h.toNat) 1 (writeTrap s.issuer s.cur (s.issuer.handle f.h.toNat)) [s.scalarElem f] = none) :
    opSt f s = .ok (storeElems s.cur.key (storeRec f s) (s.issuer.handle f.h.toNat)
      (unsuppressed s.mem s.issuer s.cur.key (s.issuer.handle f.h.toNat) [s.scalarElem f]) (leBytes (s.src f.d).toNat (tyBytes f.ty)) s) := by
  rw [opSt_eq]
  simp only [h]

/-- Settles O10: ST by its checks and the kind of its handle. -/
theorem storesOfScalars : Obligations.StoresOfScalars := by
  intro f s h
  have hchecks (hc : checkHandle (s.issuer.handle f.h.toNat) (s.scalarElem f).off (s.scalarElem f).len 1 = none) :=
    elemsTrap_of_no_handle (i := issueOf (.st f) s) (more := writeTrap s.issuer (issueOf (.st f) s) (s.issuer.handle f.h.toNat)) hc
  have hop (hc : checkHandle (s.issuer.handle f.h.toNat) (s.scalarElem f).off (s.scalarElem f).len 1 = none)
      (hw : writeTrap s.issuer (issueOf (.st f) s) (s.issuer.handle f.h.toNat) (s.scalarElem f) = none) :
      opSt f (issuedAt (.st f) s) = .ok (storeElems s.cur.key (storeRec f (issuedAt (.st f) s)) (s.issuer.handle f.h.toNat)
        (unsuppressed s.mem s.issuer s.cur.key (s.issuer.handle f.h.toNat) [s.scalarElem f]) (leBytes (s.src f.d).toNat (tyBytes f.ty))
        (issuedAt (.st f) s)) :=
    opSt_of_free (s := issuedAt (.st f) s) ((hchecks hc).trans hw)
  have hr : (storeRec f (issuedAt (.st f) s)).isOf (.st f) s := opRec_isOf (.st f) s
  refine ⟨fun code hc => traps_of_error h rfl (opSt_of_trap ?handle), fun tr hc hr => traps_of_error h rfl (opSt_of_trap ?walk),
    fun hfree hk => stores_of_storeElems h rfl (hop hfree.1 hfree.2) hk,
    fun hfree hk => ⟨_, rfl, rfl, rfl, rfl, rfl, becomes_of_storeElems_mcast h rfl (hop hfree.1 hfree.2) hk⟩, fun hfree hs hm => ?away⟩
  case handle => exact elemsTrap_of_handle (e := s.scalarElem f) hc
  case walk => exact (hchecks hc).trans hr
  case away =>
    exact iteInduction (motive := id) (fun hes => becomes_of_storeElems_nothing h rfl (hop hfree.1 hfree.2) hs hm hes)
      fun hes => ⟨_, hr, becomes_of_storeElems_away h rfl (hop hfree.1 hfree.2) hs hm hes⟩

end Sys2Proof.Machine
end

section
/-!
SRMOV, QCFG, VTSEL, RDREC and WRREC (R111, R183, R281, R282).
-/
namespace Sys2Proof.Machine

/-! The moves of system registers and bindings. -/

/-- The fields of the binding that QCFG writes (R78, R183). -/
theorem qcfgValue_fields (f : FmtY) (tid : Word) : let v := qcfgValue f tid
    v.extractLsb' 32 32 = tid.extractLsb' 0 32 ∧ v.extractLsb' 8 4 = f.msk ∧ v.extractLsb' 4 4 = f.ty ∧ v.extractLsb' 0 3 = f.sf.extractLsb' 0 3 ∧
      v.extractLsb' 12 20 = 0#20 ∧ v.getLsbD 3 = false := by
  intro v
  refine ⟨?tid, ?_, ?_, ?low, ?_, ?bit⟩ <;> unfold v qcfgValue
  case tid =>
    repeat rw [BitVec.extractLsb'_append_eq_of_le (by decide)]
    exact BitVec.extractLsb'_eq_self
  case low => rw [BitVec.extractLsb'_append_eq_of_add_le (by decide), BitVec.extractLsb'_eq_self]
  case bit =>
    repeat rw [BitVec.getLsbD_append]
    simp
  all_goals
    repeat rw [BitVec.extractLsb'_append_eq_of_le (by decide)]
    rw [BitVec.extractLsb'_append_eq_of_add_le (by decide)]
    exact BitVec.extractLsb'_eq_self

theorem registerMoves : Clause.RegisterMoves := by
  refine ⟨fun f s h => ?read, fun f s h => lands_of_scalarAct h rfl, fun f s h => ?binding⟩
  case read =>
    have hr := opRec_isOf (.srmovRead f) s
    exact lands_of_land h (r := { opRec (issuedAt (.srmovRead f) s) with
      ca := sysReg (selectedCtx s) s.now (readCtx s (selectedCtx s)) (f.sf.extractLsb' 0 12).toNat }) hr rfl
  case binding =>
    obtain ⟨t, ht, hl⟩ := lands_of_scalarAct h (op := opQcfg f)
      (a := .qcfg (f.d.toNat % 8) (qcfgValue f (if f.a = 0x80#8 then 0#64 else s.src f.a))) rfl
    obtain ⟨htid, hrest⟩ := qcfgValue_fields f (if f.a = 0x80#8 then 0#64 else s.src f.a)
    refine ⟨t, ht, _, hl, ?_, hrest⟩
    rw [htid]
    split <;> rfl

/-! VTSEL. -/

/-- The condition of R282 on the value of a VTSEL that is not all ones. -/
theorem mayVtsel_iff {s : State} {v : Word} (hv : v ≠ ~~~0#64) : mayVtsel s v = true ↔
    (2304 ≤ coreOf s.cur.key ∧ v.toNat < 9216 ∧ (s.ctx (vtselKey v)).mode = .parked ∧
      (s.issuer.cid = 0xFF#8 ∨ (s.ctx (vtselKey v)).cid = s.issuer.cid)) ∨
    coreOf s.cur.key < 2304 ∧ v.toNat = 4 * coreOf s.cur.key + s.cur.key % 8 := by
  have hser : isService (coreOf s.cur.key) = true ↔ 2304 ≤ coreOf s.cur.key := decide_eq_true_iff
  by_cases hs : 2304 ≤ coreOf s.cur.key
  · have hlt : ¬ coreOf s.cur.key < 2304 := not_lt.mpr hs
    rw [mayVtsel, if_neg hv, if_pos (hser.mpr hs)]
    simp only [Bool.and_eq_true, Bool.or_eq_true, decide_eq_true_iff, hs, hlt, true_and, false_and, or_false, and_assoc]
    rfl
  · have hlt : coreOf s.cur.key < 2304 := not_le.mp hs
    rw [mayVtsel, if_neg hv, if_neg (mt hser.mp hs)]
    simp only [decide_eq_true_iff, hs, hlt, true_and, false_and, false_or]
    rfl

/-- The context that VTSEL's value leaves selected (R282). -/
def vtselTarget (s : State) (v : Word) : Option Nat := if v = ~~~0#64 ∨ vtselKey v = s.cur.key then none else some (vtselKey v)

theorem opVtsel_of_may {f : FmtY} {s : State} (h : mayVtsel s (s.src f.a) = true) :
    opVtsel f (issuedAt (.vtsel f) s) = .ok (scalarAct (.vtsel f) (.vtsel (vtselTarget s (s.src f.a))) (issuedAt (.vtsel f) s)) := by
  have hm : ¬ (!mayVtsel (issuedAt (.vtsel f) s) (s.src f.a)) = true := by rw [show mayVtsel (issuedAt (.vtsel f) s) = mayVtsel s from rfl, h]; decide
  exact if_neg hm

theorem opVtsel_of_not_may {f : FmtY} {s : State} (h : mayVtsel s (s.src f.a) ≠ true) :
    opVtsel f (issuedAt (.vtsel f) s) = .error { code := codeVtselDenied, slots := slotBit (slotFor s (.vtsel f)) } := by
  have hm : (!mayVtsel (issuedAt (.vtsel f) s) (s.src f.a)) = true := by
    rw [show mayVtsel (issuedAt (.vtsel f) s) = mayVtsel s from rfl, Bool.eq_false_iff.mpr h]
    rfl
  exact if_pos hm

theorem vtsel_lands {f : FmtY} {s : State} (h : Issues (.vtsel f) s) (hm : mayVtsel s (s.src f.a) = true) {t : Option Nat}
    (ht : vtselTarget s (s.src f.a) = t) : Answers (.vtsel f) s fun u => Lands (.vtsel f) s u 1 .none (.act (.vtsel t)) :=
  lands_of_scalarAct h (ht ▸ opVtsel_of_may hm)

theorem vtsel_issues (f : FmtY) (s : State) (h : Issues (.vtsel f) s) (hkey : coreOf s.cur.key < 2304 → s.cur.key % 8 < 4) :
    let v := s.src f.a
    let k := (v.toNat / 4) * 8 + v.toNat % 4
    let t := s.ctx k
    let own := v = ~~~0#64 ∨ (coreOf s.cur.key < 2304 ∧ v.toNat = 4 * coreOf s.cur.key + s.cur.key % 8)
    let other := 2304 ≤ coreOf s.cur.key ∧ v.toNat < 9216 ∧ t.mode = .parked ∧ (s.issuer.cid = 0xFF#8 ∨ t.cid = s.issuer.cid)
    (own → Answers (.vtsel f) s fun u => Lands (.vtsel f) s u 1 .none (.act (.vtsel none))) ∧
    (v ≠ ~~~0#64 → other → Answers (.vtsel f) s fun u => Lands (.vtsel f) s u 1 .none (.act (.vtsel (some k)))) ∧
    (¬ own → ¬ other → Traps (.vtsel f) s { code := codeVtselDenied, slots := slotBit (slotFor s (.vtsel f)) }) := by
  intro v k t own other
  refine ⟨fun ho => ?own, fun hv ho => ?other, fun hown hother => ?denied⟩
  case own =>
    by_cases hv : v = ~~~0#64
    · exact vtsel_lands h (if_pos hv) (if_pos (.inl hv))
    · obtain ⟨hc, hn⟩ := ho.resolve_left hv
      have hk : vtselKey v = s.cur.key := by
        have hlt := hkey hc
        simp only [vtselKey, keyOf, coreOf] at hn ⊢
        omega
      exact vtsel_lands h ((mayVtsel_iff hv).mpr (.inr ⟨hc, hn⟩)) (if_pos (.inr hk))
  case other =>
    have hk : vtselKey v ≠ s.cur.key := by
      obtain ⟨hc, hn, -⟩ := ho
      simp only [vtselKey, keyOf, coreOf] at hc ⊢
      omega
    exact vtsel_lands h ((mayVtsel_iff hv).mpr (.inl ho)) (if_neg (not_or.mpr ⟨hv, hk⟩))
  case denied =>
    obtain ⟨hv, hn⟩ := not_or.mp hown
    exact traps_of_error h rfl (opVtsel_of_not_may fun hm => ((mayVtsel_iff hv).mp hm).elim hother hn)

/-! RDREC and WRREC. -/

theorem leNat_leBytes (x n : Nat) : leNat (leBytes x n) = x % 256 ^ n := by
  induction n generalizing x with
  | zero => simp [leBytes, leNat, Nat.mod_one]
  | succ n ih =>
    rw [leBytes, leNat, ih, BitVec.toNat_ofNat, pow_succ' 256 n, Nat.mod_mul]

theorem ofNat_leNat_wordBytes (w : Word) : BitVec.ofNat 64 (leNat (wordBytes w 8)) = w := by
  rw [wordBytes, leNat_leBytes, Nat.mod_eq_of_lt (show w.toNat < 256 ^ 8 from w.isLt), BitVec.ofNat_toNat, BitVec.setWidth_eq]

/-- A word of a Vitrine is the one that was written there. -/
theorem vitrineWord_write {m : List Host.Cell} (hm : Memory.wf m = true) (key n : Nat) (w : Word) :
    vitrineWord (Memory.write m (vitrinePlace key n) (wordBytes w 8)) key n = w := by
  have hr := Tests.read_write_same m (vitrinePlace key n) (wordBytes w 8) hm
  rw [length_wordBytes] at hr
  rw [vitrineWord, hr, ofNat_leNat_wordBytes]

/-- The bits of a word of a Vitrine that WRREC writes (R267, R281). -/
def vitrineMask (n : Nat) : Word := if n < 2048 then recordMask (n % 8) else ~~~0#64

/-- The word that WRREC leaves where a word stands: the bits that it may write, and the others as they were. -/
def mergedWord (old v mask : Word) : Word := (old &&& ~~~mask) ||| (v &&& mask)

theorem getLsbD_mergedWord (old v mask : Word) {b : Nat} (hb : b < 64) :
    (mergedWord old v mask).getLsbD b = if mask.getLsbD b then v.getLsbD b else old.getLsbD b := by
  rw [mergedWord, BitVec.getLsbD_or, BitVec.getLsbD_and, BitVec.getLsbD_and, BitVec.getLsbD_not]
  cases mask.getLsbD b <;> simp [hb]

theorem writeVitrine_eq {key n : Nat} {v : Word} {s : State} (hn : n < 18432) :
    writeVitrine key n v s = [.mem (vitrinePlace key n) (wordBytes (mergedWord (vitrineWord s.mem key n) v (vitrineMask n)) 8)] :=
  if_neg (not_le.mpr hn)

/-- Whether WRREC may write a bit of a word of a unit's record (R267). -/
theorem recordMask_getLsbD (k : Fin 8) (b : Fin 64) : (recordMask k).getLsbD b = true ↔
    k.val ≠ 7 ∧ (k.val = 1 → b.val = 11) ∧ (k.val = 2 → b.val < 32 ∨ 48 ≤ b.val) ∧ (k.val = 3 → 18 ≤ b.val) := by
  fin_cases k <;> revert b <;> decide

theorem vitrineMask_getLsbD {n b : Nat} (hb : b < 64) : (vitrineMask n).getLsbD b = true ↔
    (n < 2048 → (n % 8 = 7 → False) ∧ (n % 8 = 1 → b = 11) ∧ (n % 8 = 2 → b < 32 ∨ 48 ≤ b) ∧ (n % 8 = 3 → 18 ≤ b)) := by
  by_cases hn : n < 2048
  · rw [vitrineMask, if_pos hn]
    exact (recordMask_getLsbD ⟨n % 8, Nat.mod_lt _ (by decide)⟩ ⟨b, hb⟩).trans ⟨fun h _ => h, fun h => h hn⟩
  · rw [vitrineMask, if_neg hn, BitVec.getLsbD_not]
    simp [hn, hb]

/-- The word that RDREC reads: 0 outside the Vitrine and of a context whose selection no longer stands (R281, R282). -/
theorem recordWord_eq (s : State) (n : Nat) :
    (if decide (18432 ≤ n) || !selectionStands s then 0#64 else vitrineWord s.mem (selectedCtx s) n) =
      if n < 18432 ∧ (selectedCtx s = s.cur.key ∨ (s.ctx (selectedCtx s)).mode = .parked) then vitrineWord s.mem (selectedCtx s) n else 0#64 := by
  have hiff : (decide (18432 ≤ n) || !selectionStands s) = true ↔
      ¬ (n < 18432 ∧ (selectedCtx s = s.cur.key ∨ (s.ctx (selectedCtx s)).mode = .parked)) := by
    simp only [selectionStands, Bool.or_eq_true, Bool.not_eq_true', Bool.or_eq_false_iff, decide_eq_true_eq, decide_eq_false_iff_not,
      not_and_or, not_or, not_lt]
  by_cases h : n < 18432 ∧ (selectedCtx s = s.cur.key ∨ (s.ctx (selectedCtx s)).mode = .parked)
  · rw [if_pos h, if_neg (fun hb => hiff.mp hb h)]
  · rw [if_neg h, if_pos (hiff.mpr h)]

theorem recordAccess : Clause.RecordAccess := by
  refine ⟨vtsel_issues, fun f s h => ?read, fun f s h => lands_of_scalarAct h rfl, fun s key n v hn hm => ?_⟩
  case read =>
    have hr := opRec_isOf (.rdrec f) s
    refine lands_of_land h (r := { opRec (issuedAt (.rdrec f) s) with ca := s.src f.a }) hr ?_
    exact congrArg (fun v => Except.ok (land _ 6 _ (.word v) (issuedAt (.rdrec f) s))) (recordWord_eq s _)
  intro t old may
  have ht : t = { s with mem := Memory.write s.mem (vitrinePlace key n) (wordBytes (mergedWord old v (vitrineMask n)) 8) } := by
    rw [show t = applyAll (writeVitrine key n v s) s from rfl, writeVitrine_eq hn]
    rfl
  have hword : vitrineWord t.mem key n = mergedWord old v (vitrineMask n) := by rw [ht]; exact vitrineWord_write hm ..
  refine ⟨by rw [ht], fun b hb => ?bits, fun a ha => ?others⟩
  case bits =>
    have hmask : (vitrineMask n).getLsbD b = true ↔ may b := vitrineMask_getLsbD hb
    rw [hword, getLsbD_mergedWord _ _ _ hb]
    exact ⟨fun h => if_pos (hmask.mpr h), fun h => if_neg (mt hmask.mp h)⟩
  case others =>
    rw [ht]
    refine Memory.get_write_of_outside hm ?_
    rwa [length_wordBytes]

/-- Settles O28: the moves and WRREC are results on their way; VTSEL's three outcomes are the cases of R282; the word that WRREC leaves is merged
of the old and the new one under the mask of R267. -/
theorem registerMovesAndRecords : Obligations.RegisterMovesAndRecords := ⟨registerMoves, recordAccess⟩

end Sys2Proof.Machine
end

section
/-!
The memory frame of the slot operations (R107, R201, R211, R271, R290).
-/
namespace Sys2Proof.Machine

/-! Parts of a meaning that leave memory, and the stores that wait for the end of the issue, as they are. -/

/-- Memory, and the stores of the issue in progress that its end performs (R107). -/
def stored (s : State) : List Host.Cell × List (Nat × Byte) := (s.mem, s.cur.stores)

/-- A part of a meaning stores nothing. -/
def Act.Frames (f : Act) : Prop := ∀ s, stored (applyAll (f s) s) = stored s

/-- An answer of an operation, a trap or its changes, stores nothing. -/
def FramesAnswer (s : State) (x : Except Trap (List Effect)) : Prop := ∀ e, x = .ok e → stored (applyAll e s) = stored s

/-- An operation stores nothing where it takes no trap. -/
def FramesOp (op : SlotOp) : Prop := ∀ s, FramesAnswer s (op s)

theorem FramesAnswer.error (s : State) (t : Trap) : FramesAnswer s (.error t) := fun _ he => nomatch he

theorem FramesAnswer.ite {s : State} {x y : Except Trap (List Effect)} {c : Prop} [Decidable c] (hx : FramesAnswer s x) (hy : FramesAnswer s y) :
    FramesAnswer s (if c then x else y) := by
  split
  · exact hx
  · exact hy

/-- A check that traps before an answer. -/
theorem FramesAnswer.check {s : State} {t : Trap} {y : Except Trap (List Effect)} {c : Prop} [Decidable c] (hy : FramesAnswer s y) :
    FramesAnswer s (if c then .error t else y) := (FramesAnswer.error s t).ite hy

/-- What an operation answers, by a part that stores nothing. -/
theorem Act.Frames.ok {f : Act} (h : f.Frames) (s : State) : FramesAnswer s (.ok (f s)) := fun _ he => Except.ok.inj he ▸ h s

theorem Act.Frames.op {f : Act} (h : f.Frames) : FramesOp (act f) := h.ok

section
variable {f g : Act}

theorem Act.Frames.of_keeps (h : ∀ s, Keeps stored (f s)) : f.Frames := fun s => (h s).applyAll s

theorem Act.frames_skip : Act.skip.Frames := fun _ => rfl

theorem Act.Frames.seq (hf : f.Frames) (hg : g.Frames) : (Act.seq f g).Frames := fun s => by rw [applyAll_seq, hg, hf]

theorem Act.frames_seqs {l : List Act} (h : ∀ f ∈ l, f.Frames) : (Act.seqs l).Frames := by
  induction l with
  | nil => exact Act.frames_skip
  | cons f r ih => exact (h f List.mem_cons_self).seq (ih fun g hg => h g (List.mem_cons_of_mem _ hg))

theorem Act.frames_each {α : Type} {l : List α} {f : α → Act} (h : ∀ x ∈ l, (f x).Frames) : (Act.each l f).Frames :=
  Act.frames_seqs (List.forall_mem_map.mpr h)

theorem Act.Frames.when (h : f.Frames) (b : Bool) : (Act.when b f).Frames := by
  cases b
  · exact Act.frames_skip
  · exact h

end

/-! The changes of one table. -/

theorem frames_modCtx (k : Nat) (f : Ctx → Ctx) : (modCtx k f).Frames := fun _ => rfl
theorem frames_modCore (k : Nat) (f : Core → Core) : (modCore k f).Frames := fun _ => rfl
theorem frames_modDie (k : Nat) (f : Die → Die) : (modDie k f).Frames := fun _ => rfl
theorem frames_modGang (k : Nat) (f : Gang → Gang) : (modGang k f).Frames := fun _ => rfl

theorem frames_modCopy (k : Nat) (f : Copy → Copy) : (modCopy k f).Frames := fun s => by
  unfold modCopy
  split <;> rfl

/-- A change of the issue in progress that leaves its stores. -/
theorem frames_modCur {f : Issue → Issue} (h : ∀ i, (f i).stores = i.stores) : (modCur f).Frames := fun s => congrArg (Prod.mk s.mem) (h s.cur)

section
variable {f : Nat → Act} (h : ∀ n, (f n).Frames)
include h

theorem frames_withId : (withId f).Frames := fun s => by rw [withId, applyAll_seq]; exact h _ _
theorem frames_withFree : (withFree f).Frames := fun s => by rw [withFree, applyAll_seq]; exact h _ _
theorem frames_withLatency (lo span : Nat) : (withLatency lo span f).Frames := fun s => frames_withFree (fun _ => h _) s

end

/-! What the operations share. -/

theorem frames_land (r : OpRec) (n : Nat) (d : Dest) (v : Result) : (land r n d v).Frames := fun s => frames_modCtx _ _ s
theorem frames_pend (r : OpRec) (ds : List Dest) (src : Source) : (pend r ds src).Frames := fun s => frames_modCtx _ _ s
theorem frames_scalarAct (i : Instr) (a : Action) : (scalarAct i a).Frames := fun s => frames_land _ _ _ _ s
theorem frames_goTo (a : Word) : (goTo a).Frames := frames_modCur fun _ => rfl
theorem frames_touch (core : Nat) (places : List Nat) : (touch core places).Frames := frames_modCur fun _ => rfl

theorem frames_branchCost (n : Nat) : (branchCost n).Frames := fun s => by
  unfold branchCost
  split_ifs <;> rfl

theorem frames_branchOn (f : FmtJ) (taken : Bool) : (branchOn f taken).Frames := fun s =>
  (((frames_goTo _).when taken).seq (frames_branchCost _)) s

theorem frames_noteNear (key id : Nat) (kind : HandleKind) (ps : List Part) : (noteNear key id kind ps).Frames :=
  (frames_modCur (f := fun i => { i with near := i.near ++ [id] }) fun _ => rfl).when _

theorem frames_startAccess (key : Nat) (op : OpRec) (what : AccessOp) (kind : HandleKind) (parts : List Part) (data cmp : List Byte) (scope : BitVec 3)
    (buffered : Bool) {f : Nat → Act} (h : ∀ n, (f n).Frames) : (startAccess key op what kind parts data cmp scope buffered f).Frames := by
  refine frames_withId fun id s => Act.frames_seqs ?_ s
  simp only [List.forall_mem_cons]
  exact ⟨fun _ => rfl, frames_noteNear _ _ _ _, h id, List.forall_mem_nil _⟩

/-! The S and B slots. -/

theorem framesOp_scalarOp (i : Instr) (d : OpName) (f : Word → Word → Word → Word) : FramesOp (scalarOp i d f) := by
  refine Act.Frames.op fun s => ?_
  split
  · exact frames_land _ _ _ _ s
  · rfl

theorem framesOp_dividerOp (i : Instr) (d : OpName) (f : Word → Word → Word → Word) : FramesOp (dividerOp i d f) :=
  Act.Frames.op fun s => frames_withLatency (fun _ => frames_pend _ _ _) 12 29 s

theorem framesOp_compareBranch (f : FmtJ) (cond : Word → Word → Bool) : FramesOp (compareBranch f cond) :=
  Act.Frames.op fun s => frames_branchOn _ _ s

theorem framesOp_maskBranch (f : FmtJ) (ones : Bool) : FramesOp (maskBranch f ones) := fun s =>
  .ite ((frames_branchOn _ _).ok s) (.ite ((frames_branchOn _ _).ok s) (.error s _))

theorem frames_callLink (d : OpName) (a : Word) : (callLink d a).Frames := fun s => ((frames_land _ _ _ _).seq (frames_modCtx _ _)) s

theorem framesOp_opLoop (f : FmtL) : FramesOp (opLoop f) := by
  have hmark : markLoop.Frames := frames_modCur fun _ => rfl
  exact fun s => .check <| .check <| .ite ((hmark.seq ((frames_modCtx _ _).seq ((frames_goTo _).seq Act.frames_skip))).ok s)
    ((hmark.seq ((frames_modCtx _ _).seq Act.frames_skip)).ok s)

/-! The V slots, loads and copies. -/

theorem framesOp_vectorOp (i : Instr) (d : Dest) (ty msk : BitVec 4) (f : Vec → Vec → Vec → MaskVal → Result) : FramesOp (vectorOp i d ty msk f) := by
  refine Act.Frames.op fun s => ?_
  split
  · exact frames_land _ _ _ _ s
  · rfl

theorem framesOp_opVdup (f : FmtR) : FramesOp (opVdup f) := by
  refine Act.Frames.op fun s => ?_
  split
  · rfl
  · dsimp only
    split
    · exact frames_land _ _ _ _ s
    · rfl

theorem framesOp_opLd (f : FmtX) : FramesOp (opLd f) := by
  intro s
  unfold opLd
  dsimp only
  split
  · exact .error s _
  · exact .ite (((frames_touch _ _).seq (frames_land _ _ _ _)).ok s) ((frames_startAccess _ _ _ _ _ _ _ _ _ fun _ => frames_pend _ _ _).ok s)

theorem frames_vectorLoad (d : OpName) (w : Nat) (h : Handle) (r : OpRec) (es : List Elem) (n : Nat) : (vectorLoad d w h r es n).Frames := by
  intro s
  unfold vectorLoad
  split_ifs
  · exact frames_land _ _ _ _ s
  · exact frames_pend _ _ _ s
  · exact ((frames_touch _ _).seq (frames_land _ _ _ _)) s
  · exact frames_startAccess _ _ _ _ _ _ _ _ _ (fun _ => frames_pend _ _ _) s

theorem framesOp_opVld (f : FmtX) : FramesOp (opVld f) := by
  intro s
  unfold opVld
  dsimp only
  split
  · exact .error s _
  · exact (frames_vectorLoad _ _ _ _ _ _).ok s

theorem framesOp_opVgath (f : FmtX) : FramesOp (opVgath f) := by
  intro s
  unfold opVgath
  dsimp only
  split
  · exact .error s _
  · exact (frames_vectorLoad _ _ _ _ _ _).ok s

theorem framesOp_copyOp (form : CopyForm) (at_ : Bool) (f : FmtC) : FramesOp (copyOp form at_ f) := by
  intro s
  unfold copyOp
  dsimp only
  split
  · exact .error s _
  · split
    · exact .error s _
    · refine .check ?_
      split
      · exact .error s _
      · refine (frames_withId fun id => Act.frames_seqs ?_).ok s
        simp only [List.forall_mem_cons]
        exact ⟨fun _ => rfl, frames_modCtx _ _, fun _ => rfl, List.forall_mem_nil _⟩

/-! Handles, queues, barriers, drains and waits. -/

theorem framesOp_opGrant (f : FmtY) : FramesOp (opGrant f) := by
  intro s
  unfold opGrant
  dsimp only
  split
  · exact .error s _
  · exact .check ((frames_land _ _ _ _).ok s)

theorem framesOp_opRevoke (f : FmtY) : FramesOp (opRevoke f) := fun s => .check ((frames_scalarAct _ _).ok s)

theorem framesOp_opPermld (f : FmtY) : FramesOp (opPermld f) := by
  refine Act.Frames.op fun s => Act.Frames.seq ?_ (frames_land _ _ _ _) s
  split
  · exact frames_land _ _ _ _
  · exact Act.frames_skip

theorem framesOp_opCmpt (f : FmtY) : FramesOp (opCmpt f) := fun s => .ite (Act.frames_skip.ok s) (.error s _)

theorem framesOp_opCmptV (f : FmtY) : FramesOp (opCmptV f) := by
  intro s
  unfold opCmptV
  dsimp only
  split
  · exact Act.frames_skip.ok s
  · exact .error s _

theorem framesOp_opQpush (f : FmtR) : FramesOp (opQpush f) := Act.Frames.op fun s => frames_modCtx _ _ s

theorem framesOp_opQpop (f : FmtR) : FramesOp (opQpop f) := Act.Frames.op fun s => ((frames_pend _ _ _).seq (frames_modCtx _ _)) s

theorem framesOp_opBarm (f : FmtY) : FramesOp (opBarm f) := fun s => .check ((frames_modCore _ _).ok s)
theorem framesOp_opBarrive (f : FmtY) : FramesOp (opBarrive f) := fun s => .check ((frames_modCore _ _).ok s)
theorem framesOp_opBwait (f : FmtY) : FramesOp (opBwait f) := fun s => .ite (Act.frames_skip.ok s) (.error s _)
theorem framesOp_opGbwait (f : FmtY) : FramesOp (opGbwait f) := fun s => .ite (Act.frames_skip.ok s) (.error s _)

theorem framesOp_opGbarrive (f : FmtY) : FramesOp (opGbarrive f) := by
  refine fun s => .check (Act.Frames.ok (Act.Frames.seq (frames_modCtx _ _) fun u => ?_) s)
  split
  · rfl
  · exact frames_modGang _ _ u

theorem frames_drainDemote (scope : BitVec 3) : (drainDemote scope).Frames := by
  intro s
  unfold drainDemote
  split_ifs <;> rfl

theorem frames_acquire (key : Nat) (scope : BitVec 3) : (acquire key scope).Frames := fun s =>
  Act.Frames.seq (fun u => frames_modCore _ _ u) (frames_modCtx _ _) s

theorem framesOp_opDrainR (f : FmtY) : FramesOp (opDrainR f) := Act.Frames.op fun s => ((frames_drainDemote _).seq (frames_modCtx _ _)) s
theorem framesOp_opDrainBoth (f : FmtY) : FramesOp (opDrainBoth f) := Act.Frames.op fun s => ((frames_drainDemote _).seq (frames_modCtx _ _)) s
theorem framesOp_opDrainA (f : FmtY) : FramesOp (opDrainA f) :=
  Act.Frames.op fun s => ((frames_drainDemote _).seq ((frames_acquire _ _).seq ((frames_modCtx _ _).seq Act.frames_skip))) s

theorem frames_maintainWait (scope : BitVec 3) : (maintainWait scope).Frames := fun s =>
  ((frames_drainDemote _).seq ((frames_withFree fun _ => frames_modCtx _ _).seq Act.frames_skip)) s

theorem frames_dropSlices (part : Nat) (cid : BitVec 8) (a n : Nat) : (dropSlices part cid a n).Frames := fun s =>
  Act.frames_each (fun _ _ => frames_modDie _ _) s

theorem framesOp_opCinv (f : FmtY) : FramesOp (opCinv f) := by
  refine Act.Frames.op fun s => ?_
  dsimp only
  split
  · exact frames_drainDemote _ s
  · exact ((frames_modCore _ _).seq (((frames_dropSlices _ _ _ _).when _).seq ((frames_maintainWait _).seq Act.frames_skip))) s

theorem framesOp_opCflush (f : FmtY) : FramesOp (opCflush f) := by
  refine Act.Frames.op fun s => ?_
  dsimp only
  split
  · exact frames_drainDemote _ s
  · exact frames_maintainWait _ s

/-! Children, the priority queue and the sequencer. -/

theorem framesOp_opFork (f : FmtY) : FramesOp (opFork f) := Act.Frames.op fun s => ((frames_modCore _ _).seq (frames_modCtx _ _)) s

theorem framesOp_opPqpush (f : FmtY) : FramesOp (opPqpush f) :=
  Act.Frames.op fun s => frames_withId (fun _ => (frames_modDie _ _).seq (frames_modCtx _ _)) s

theorem framesOp_opPqpop (f : FmtY) : FramesOp (opPqpop f) :=
  Act.Frames.op fun s => frames_withId (fun _ => (frames_pend _ _ _).seq (frames_modDie _ _)) s

theorem frames_enterSequencer (key : Nat) (m : MOp) (bytes skip : Nat) : (enterSequencer key m bytes skip).Frames := by
  intro s
  unfold enterSequencer
  dsimp only
  split
  · rfl
  · split
    · rfl
    · exact frames_startAccess _ _ _ _ _ _ _ _ _ (fun _ _ => rfl) s

theorem framesOp_mldwOp (sparse : Bool) (f : FmtM) : FramesOp (mldwOp sparse f) := by
  intro s
  unfold mldwOp
  dsimp only
  split
  · exact .error s _
  · refine .ite ?_ ((frames_enterSequencer _ _ _ _).ok s)
    split
    · exact .error s _
    · exact ((frames_enterSequencer _ _ _ _).seq (frames_modCtx _ _)).ok s

theorem framesOp_mmaOp (f : FmtM) : FramesOp (mmaOp f) := by
  intro s
  unfold mmaOp
  refine .check ?_
  dsimp only
  split
  · exact .error s _
  · exact (frames_enterSequencer _ _ _ _).ok s

theorem framesOp_mdrainOp (vec : Bool) (f : FmtM) : FramesOp (mdrainOp vec f) := fun s =>
  .check (((frames_enterSequencer _ _ _ _).seq (frames_modCtx _ _)).ok s)

theorem framesOp_opMfuse (f : FmtM) : FramesOp (opMfuse f) :=
  Act.Frames.op fun s => ((frames_enterSequencer _ _ _ _).seq (frames_scalarAct _ _)) s

/-! Phases, the end of a task, and what is left of the S slot. -/

theorem frames_addBarriers (c : Copy) : (addBarriers c).Frames := by
  intro s
  have hdiscard (core : Nat) : (discardCopied core c).Frames := fun u => frames_modCore _ _ u
  unfold addBarriers
  split
  · exact Act.frames_each (fun _ _ => (hdiscard _).seq (frames_modCore _ _)) s
  · rfl

theorem frames_deliverNow (c : Copy) : (deliverNow c).Frames := ((frames_modCtx _ _).when _).seq (frames_addBarriers c)

theorem frames_releaseHeld (key : Nat) : (releaseHeld key).Frames := by
  refine fun s => Act.frames_seqs ?_ s
  simp only [List.forall_mem_cons]
  exact ⟨Act.frames_each fun _ _ => frames_deliverNow _, frames_modCtx _ _, Act.frames_each fun _ _ => frames_modCopy _ _, List.forall_mem_nil _⟩

theorem frames_commitPhase (key : Nat) (off : Bool) : (commitPhase key off).Frames := fun s => ((frames_releaseHeld key).seq (frames_modCtx _ _)) s

theorem framesOp_opPhase (f : FmtY) : FramesOp (opPhase f) := by
  have hphased : (modCur fun i => { i with phased := true }).Frames := frames_modCur fun _ => rfl
  exact Act.Frames.op fun s => ((frames_commitPhase _ _).seq hphased) s

theorem framesOp_opPhaseOff (f : FmtY) : FramesOp (opPhaseOff f) := Act.Frames.op fun s => frames_commitPhase _ _ s

theorem frames_childDone (key : Nat) : (childDone key).Frames := by
  intro s
  unfold childDone
  split
  · rfl
  · exact ((frames_modCtx _ _).seq (frames_modCtx _ _)) s

theorem Keeps.stored {l : List Effect} (h : Keeps beyondAccesses l) : Keeps stored l := h.comp fun x => (x.2.1, x.2.2.1.stores)

theorem frames_unbind (key : Nat) : (unbind key).Frames := by
  refine .of_keeps fun s => (((Keeps.singleton fun _ => rfl).append ?_).append (Keeps.map fun _ _ => rfl)).append (Keeps.map fun _ _ => rfl)
  unfold dropClaims
  dsimp only
  split_ifs
  · exact Keeps.singleton fun _ => rfl
  · exact Keeps.nil

theorem frames_stopUnbind (key : Nat) : (stopUnbind key).Frames := by
  intro s
  unfold stopUnbind
  dsimp only
  split
  · rfl
  · exact frames_unbind key s
  · split
    · rfl
    · exact ((((keeps_freezeHeld key s).append (keeps_settleLines key s)).stored).append (Keeps.singleton fun _ => rfl)).applyAll s

theorem frames_endTask (t : Nat) (code : BitVec 16) : (endTask t code).Frames := by
  intro s
  unfold endTask
  split
  · rfl
  · refine Act.frames_seqs ?_ s
    simp only [List.forall_mem_cons]
    refine ⟨fun u => ?launch, Act.frames_each fun _ _ => frames_modCore _ _, .of_keeps fun u => Keeps.map fun _ _ => rfl,
      Act.frames_each fun _ _ => frames_stopUnbind _, List.forall_mem_nil _⟩
    case launch =>
      unfold modLaunch
      split <;> rfl

theorem framesOp_opHalt (f : FmtY) : FramesOp (opHalt f) := by
  refine Act.Frames.op fun s => ?_
  dsimp only
  split
  · split
    · exact frames_endTask _ _ s
    · exact frames_modCtx _ _ s
  · exact ((frames_commitPhase _ _).seq ((frames_childDone _).seq ((frames_modCtx _ _).seq Act.frames_skip))) s

theorem framesOp_opTrap (f : FmtY) : FramesOp (opTrap f) := Act.Frames.op fun _ => rfl

theorem framesOp_opVtsel (f : FmtY) : FramesOp (opVtsel f) := fun s => .check ((frames_scalarAct _ _).ok s)

theorem frames_walkEndTest_skipped (key : Nat) : (walkEndTest key false).Frames := fun s =>
  (Act.frames_skip.seq (Act.Frames.seq (fun _ => rfl) ((frames_goTo _).seq Act.frames_skip))) s

theorem framesOp_opWdecl (f : FmtY) : FramesOp (opWdecl f) := fun s =>
  .check <| .check <| .check <| .check <| .check <| ((frames_modCtx _ _).seq ((frames_walkEndTest_skipped _).when _)).ok s

theorem framesOp_opSnap (f : FmtY) : FramesOp (opSnap f) := by
  refine Act.Frames.op fun s => ?_
  dsimp only
  split
  · exact frames_land _ _ _ _ s
  · split
    · exact frames_land _ _ _ _ s
    · exact Act.Frames.seq (f := acceptSnap _ _ _) (fun _ => rfl) (frames_land _ _ _ _) s

theorem framesOp_opStep (f : FmtY) : FramesOp (opStep f) := by
  refine Act.Frames.op fun s => ?_
  split
  · exact frames_scalarAct _ _ s
  · rfl

/-! Every operation. -/

/-- Whether an operation may store at its issue: a store, a scatter, an atomic, a LOOPW or a RESUME (R107, R201, R271, R290). -/
def mayStore : Instr → Bool
  | .st _ | .amo _ | .vst _ | .vscat _ | .vamo _ | .loopw _ | .resume _ | .resumeServiceCore _ | .resumeEnd _ => true
  | _ => false

theorem framesOp_slotOp {i : Instr} (h : mayStore i = false) : FramesOp (slotOp i) := by
  cases i <;> dsimp only [slotOp]
  case add | sub | mul | mulh | and | or | xor | shl | shr | sar | min | max | clz | addi | andi | ori | xori | shli | shri | sari | movi | moviIns |
      cmp | cmpi | sel | popc | lea | fadd | fsub | fmul | fma | fdiv | fsqrt | fmin | fmax | fcmp | fcvt | fsgn =>
    exact framesOp_scalarOp _ _ _
  case div | rem => exact framesOp_dividerOp _ _ _
  case breq | brne | brlt | brge | brltu | brgeu => exact framesOp_compareBranch _ _
  case brall | brnone => exact framesOp_maskBranch _ _
  case vadd | vsub | vmul | vfma | vmin | vmax | vabs | vneg | vmulh | vavg | vshl | vshr | vsar | vand | vor | vxor | vcvt | vcmp | vsel | vshuf |
      vperm | vred | vclmul | vclmulh | vrcp | vrsq | vexp | vmov | vmovi =>
    exact framesOp_vectorOp _ _ _ _ _
  case mldw | mldwS => exact framesOp_mldwOp _ _
  case mma | mmas => exact framesOp_mmaOp _
  case mdrain | mdrainV => exact framesOp_mdrainOp _ _
  case cpy | cpy2 | cpy3 | cgath | cscat | cmcast | cfill | credI32 | credFp32 | credBf16 | cpyAt | cpy2At | cpy3At | cgathAt | cscatAt | cmcastAt |
      cfillAt | credI32At | credFp32At | credBf16At =>
    exact framesOp_copyOp _ _ _
  case st | amo | vst | vscat | vamo | loopw | resume | resumeServiceCore | resumeEnd => exact nomatch h
  case qcfg | wrrec | srmovWrite => exact Act.Frames.op fun s => frames_scalarAct _ _ s
  case rdrec | srmovRead | enrd | enrdIdle => exact Act.Frames.op fun s => frames_land _ _ _ _ s
  case enclr => exact Act.Frames.op fun s => ((frames_land _ _ _ _).seq (frames_modCtx _ _)) s
  case waitt | yield => exact Act.Frames.op fun s => frames_modCtx _ _ s
  case join => exact Act.Frames.op fun s => frames_pend _ _ _ s
  case mzero => exact Act.Frames.op fun s => frames_enterSequencer _ _ _ _ s
  case br => exact Act.Frames.op fun s => frames_goTo _ s
  case call => exact Act.Frames.op fun s => ((frames_callLink _ _).seq (frames_goTo _)) s
  case callRegister => exact Act.Frames.op fun s => ((frames_callLink _ _).seq ((frames_goTo _).seq ((frames_branchCost _).seq Act.frames_skip))) s
  case ret => exact Act.Frames.op fun s => ((frames_goTo _).seq ((frames_branchCost _).seq ((frames_modCtx _ _).seq Act.frames_skip))) s
  case jr => exact Act.Frames.op fun s => ((frames_goTo _).seq (frames_branchCost _)) s
  case ld => exact framesOp_opLd _
  case grant => exact framesOp_opGrant _
  case revoke => exact framesOp_opRevoke _
  case permld => exact framesOp_opPermld _
  case cmpt => exact framesOp_opCmpt _
  case cmptV => exact framesOp_opCmptV _
  case fork => exact framesOp_opFork _
  case pqpush => exact framesOp_opPqpush _
  case pqpop => exact framesOp_opPqpop _
  case barm => exact framesOp_opBarm _
  case barrive => exact framesOp_opBarrive _
  case bwait => exact framesOp_opBwait _
  case gbarrive => exact framesOp_opGbarrive _
  case gbwait => exact framesOp_opGbwait _
  case drainR => exact framesOp_opDrainR _
  case drainA => exact framesOp_opDrainA _
  case drainBoth => exact framesOp_opDrainBoth _
  case trap => exact framesOp_opTrap _
  case vtsel => exact framesOp_opVtsel _
  case cinv => exact framesOp_opCinv _
  case cflush => exact framesOp_opCflush _
  case snap => exact framesOp_opSnap _
  case step => exact framesOp_opStep _
  case phase => exact framesOp_opPhase _
  case phaseOff => exact framesOp_opPhaseOff _
  case wdecl => exact framesOp_opWdecl _
  case halt => exact framesOp_opHalt _
  case loop => exact framesOp_opLoop _
  case vld => exact framesOp_opVld _
  case vgath => exact framesOp_opVgath _
  case qpush => exact framesOp_opQpush _
  case qpop => exact framesOp_opQpop _
  case vdup => exact framesOp_opVdup _
  case mfuse => exact framesOp_opMfuse _
  all_goals exact Act.frames_skip.op

/-! The issue of one operation. -/

theorem mem_takePrecise {s : State} (h : ∀ k, beforeNow s k = none) (key : Nat) (tr : Trap) :
    (applyAll (takePrecise key tr s) s).mem = s.mem :=
  congrArg Prod.fst (applyAll_takePrecise (fun k _ hb => nomatch (h k).symm.trans hb) tr)

theorem frames_takeStop (key : Nat) (kind : StopKind) (tr : Trap) : (takeStop key kind tr).Frames := by
  refine .of_keeps fun s => ?_
  unfold takeStop
  refine ((keeps_freezeHeld key s).append (keeps_settleLines key s)).stored.append (List.forall_mem_cons.mpr ⟨fun _ => rfl, ?_⟩)
  split_ifs
  · exact Keeps.nil
  · exact Keeps.flatMap fun p _ => (keeps_settleLines p s).stored.append (Keeps.singleton fun _ => rfl)

theorem frames_softwareStop : softwareStop.Frames := by
  intro s
  unfold softwareStop
  split
  · exact Act.Frames.seq (frames_modCur (f := fun i => { i with trapped := none }) fun _ => rfl) (frames_takeStop _ _ _) s
  · rfl

/-- The state in which an operation that is alone in its issue runs. -/
def issuedAs (x : SlotIssue) (others : Ops) (s : State) : State :=
  { s with cur := { (withPartner s (opsOf [x] ++ others)).cur with slot := x.slot, sw := x.sw, step := x.step } }

/-- An issue of one operation that commits has made the changes of the operation, and performed its stores. -/
theorem applyAll_of_commits {engines : Nat → Bool} {p q : BitVec 7} {others : Ops} {x : SlotIssue} {op : SlotOp} {s : State} {e : List Effect}
    (h : judge engines p q others [(x, op)] s = .commits e) :
    ∃ e1, op (issuedAs x others s) = .ok e1 ∧ applyAll e s = flushed (applyAll e1 (issuedAs x others s)) := by
  unfold judge at h
  dsimp only at h
  split at h
  · exact nomatch h
  split at h
  · exact nomatch h
  split at h
  · exact nomatch h
  split at h
  · exact nomatch h
  split at h
  · exact nomatch h
  next e' he =>
    unfold runSlots at he
    dsimp only at he
    split at he
    · exact nomatch he
    next e1 ho =>
      have he' := (Except.ok.inj he).symm
      have hmade : applyAll (.cur (withPartner s (opsOf [x] ++ others)).cur :: e') s = applyAll e1 (issuedAs x others s) := by
        rw [he', List.append_nil, applyAll_cons, applyAll_append]
        rfl
      refine ⟨e1, ho, ?_⟩
      rw [← Verdict.commits.inj h, applyAll_append]
      exact congrArg (fun t => applyAll (flushStores t) t) hmade

/-- The changes of an operation that stores nothing, alone in its issue. -/
theorem stored_of_commits {engines : Nat → Bool} {p q : BitVec 7} {others : Ops} {x : SlotIssue} {op : SlotOp} {s : State} {e : List Effect}
    (hop : FramesOp op) (hs : s.cur.stores = []) (h : judge engines p q others [(x, op)] s = .commits e) : stored (applyAll e s) = stored s := by
  obtain ⟨e1, ho, he⟩ := applyAll_of_commits h
  have hframe := hop _ _ ho
  have hstores : (applyAll e1 (issuedAs x others s)).cur.stores = [] := (congrArg Prod.snd hframe).trans hs
  rw [he, flushed_of_empty hstores]
  exact hframe

theorem mem_runOne {i : Instr} {op : SlotOp} {s t : State} (ho : FramesOp op) (hs : s.cur.stores = []) (hb : ∀ k, beforeNow s k = none)
    (h : runOne i op s = .next t) : t.mem = s.mem := by
  unfold runOne at h
  dsimp only at h
  split at h
  · split at h
    · cases h; rfl
    · cases h; exact mem_takePrecise hb _ _
    next e he =>
      cases h
      have hstored := stored_of_commits ho hs he
      rw [applyAll_seq]
      exact congrArg Prod.fst ((frames_softwareStop _).trans hstored)
  · cases h; rfl

/-- Settles O60: an operation that may not store makes its changes by parts that store nothing, and neither the stop of a TRAP nor a precise trap
with nothing to take back touches memory. -/
theorem memoryFrame : Obligations.MemoryFrame := by
  intro i s t henc hs _ hb hx hst hamo hvst hvscat hvamo hloopw hresume hserviceCore hend
  have hno : mayStore i = false := by
    unfold mayStore
    split <;> simp_all
  exact mem_runOne (framesOp_slotOp hno) hs hb ((exec_eq_runOne henc s).symm.trans hx)

end Sys2Proof.Machine
end

section
/-!
Accesses in flight: their table, and what ends with a part (R198, R201, R215, R255).
-/
namespace Sys2Proof

theorem Sparse.find_set {α : Type} (t : Sparse α) (i j : Nat) (v : α) : Sparse.find (t.set i v) j = if i = j then some v else Sparse.find t j := by
  induction t with
  | nil => grind [Sparse.set, Sparse.find]
  | cons x r ih => grind [Sparse.set, Sparse.find]

@[simp] theorem Sparse.find_set_self {α : Type} (t : Sparse α) (i : Nat) (v : α) : Sparse.find (t.set i v) i = some v := by
  rw [Sparse.find_set, if_pos rfl]

theorem Sparse.get_mem_or_default {α : Type} (d : α) (t : Sparse α) (k : Nat) : Sparse.get d t k = d ∨ ∃ x ∈ t, Sparse.get d t k = x.2 := by
  induction t with
  | nil => exact .inl rfl
  | cons x r ih =>
    obtain ⟨j, v⟩ := x
    simp only [Sparse.get]
    split_ifs
    · exact .inr ⟨_, List.mem_cons_self, rfl⟩
    · exact .inl rfl
    · rcases ih with h | ⟨y, hy, h⟩
      · exact .inl h
      · exact .inr ⟨y, List.mem_cons_of_mem _ hy, h⟩

/-- What a test that no value of a key passes keeps of a table does not depend on the key. -/
theorem Sparse.filter_set {α : Type} {p : Nat × α → Bool} (t : Sparse α) {i : Nat} (v : α) (h : ∀ w, p (i, w) = false) :
    (t.set i v).filter p = t.filter p := by
  induction t with
  | nil => simp [Sparse.set, h]
  | cons x r ih =>
    obtain ⟨k, w⟩ := x
    simp only [Sparse.set]
    split
    · simp [h]
    · split
      next hk => subst hk; simp [h]
      next => simp only [List.filter_cons, ih]

namespace Machine

/-- Every change keeps the keys of the accesses rising. -/
theorem accs_wf_applyAll {s : State} (h : s.accs.wf = true) (l : List Effect) : (applyAll l s).accs.wf = true := by
  induction l generalizing s with
  | nil => exact h
  | cons e r ih =>
    apply ih
    cases e
    case acc k a => exact Sparse.wf_put h
    case clear p => rfl
    all_goals exact h

/-! The end of a part. -/

/-- Nothing of the contexts has changed but how fresh their reads must be (R215). -/
def CtxsStand (s t : State) : Prop := ∀ k, t.ctx k = { s.ctx k with fresh := (t.ctx k).fresh, freshC := (t.ctx k).freshC }

theorem CtxsStand.of_ctxs_eq {s t : State} (h : t.ctxs = s.ctxs) : CtxsStand s t := fun k => by rw [State.ctx, State.ctx, h]

theorem CtxsStand.trans_ctxs {s u t : State} (hu : u.ctxs = s.ctxs) (h : CtxsStand u t) : CtxsStand s t := fun k => by
  have hk := h k
  rwa [show u.ctx k = s.ctx k by rw [State.ctx, State.ctx, hu]] at hk

/-- The state beyond the accesses and the contexts. -/
def beyondParts (s : State) : State := { s with accs := [], ctxs := [], free := 0 }

theorem keeps_releaseHolds (key id : Nat) (s : State) : Keeps beyondParts (releaseHolds key id s) := by
  refine (Keeps.map fun _ _ => rfl).append ?_
  split_ifs
  · exact Keeps.nil
  · exact Keeps.singleton fun _ => rfl

/-- A write of how fresh the reads of a context must be. -/
theorem CtxsStand.of_fresh {s u : State} (hu : u.ctxs = s.ctxs) (key x y : Nat) :
    CtxsStand s (applyAll [.ctx key { s.ctx key with fresh := x, freshC := y }] u) := by
  intro k
  have hget : (applyAll [.ctx key { s.ctx key with fresh := x, freshC := y }] u).ctx k =
      if key = k then { s.ctx key with fresh := x, freshC := y } else s.ctx k := by
    rw [applyAll_cons, applyAll_nil, applyEffect_ctx, State.ctx, hu, Sparse.get_set]
    rfl
  rw [hget]
  split
  next hk => subst hk; rfl
  next => rfl

theorem ctxsStand_releaseHolds (key id : Nat) (s : State) : CtxsStand s (applyAll (releaseHolds key id s) s) := by
  unfold releaseHolds
  dsimp only
  rw [applyAll_append]
  generalize hl : List.map _ _ = l
  have hctxs : (applyAll l s).ctxs = s.ctxs := (hl ▸ Keeps.map fun _ _ => rfl : Keeps State.ctxs l).applyAll s
  split_ifs
  · exact .of_ctxs_eq hctxs
  · exact .of_fresh hctxs _ _ _

/-- An access with a part over, and with the bytes that it brought (R198). -/
def Access.finished (a : Access) (p : Part) (bytes : Option (List Byte)) : Access :=
  { a with
    parts := a.parts.map fun q => if q.elem = p.elem ∧ q.pos = p.pos then { q with done := true } else q
    data := match bytes with
      | some b => putBytes a.data p.pos b
      | none => a.data }

theorem Access.done_of_finished {a : Access} {p q : Part} {bytes : Option (List Byte)} (h : q ∈ (a.finished p bytes).parts) (he : q.elem = p.elem)
    (hp : q.pos = p.pos) : q.done = true := by
  obtain ⟨r, -, hr⟩ := List.mem_map.mp h
  split_ifs at hr with hp'
  · rw [← hr]
  · rw [hr] at hp'
    exact absurd ⟨he, hp⟩ hp'

section
variable {u : State} {id : Nat} {b : Access} (h : u.accs.find id = some b) (p : Part) (bytes : Option (List Byte))
include h

/-- What the end of a part does: its access is kept, or, where that was the last part of a store that has not faulted, leaves (R255). -/
theorem finishPart_cases : finishPart id p bytes u = [.acc id (some (b.finished p bytes))] ∨
    ∃ l x, finishPart id p bytes u = l ++ [.free, .acc id x] ∧ (l = [] ∨ l = releaseHolds b.key id u ∧ b.faulted = none) ∧
      ((x = none ∧ b.what = .store ∧ b.faulted = none) ∨ ∃ at_ ack, x = some { b.finished p bytes with performed := at_, ack := ack }) := by
  unfold finishPart
  rw [h]
  dsimp only
  split
  · by_cases hf : b.faulted = none
    · rw [if_neg (show ¬ b.faulted.isSome = true by simp [hf])]
      split
      next hx =>
        simp only [Bool.and_eq_true, decide_eq_true_eq] at hx
        obtain ⟨⟨-, hw⟩, -⟩ := hx
        exact .inr ⟨_, none, rfl, .inr ⟨rfl, hf⟩, .inl ⟨rfl, hw, hf⟩⟩
      next => exact .inr ⟨_, _, rfl, .inr ⟨rfl, hf⟩, .inr ⟨_, _, rfl⟩⟩
    · rw [if_pos (Option.isSome_iff_ne_none.mpr hf)]
      split
      next hx => simp [hf] at hx
      next => exact .inr ⟨_, _, rfl, .inl rfl, .inr ⟨_, _, rfl⟩⟩
  · exact .inl rfl

/-- The end of a part changes nothing beyond the accesses and the contexts. -/
theorem beyondParts_finishPart : beyondParts (applyAll (finishPart id p bytes u) u) = beyondParts u := by
  refine Keeps.applyAll (p := beyondParts) ?_ u
  rcases finishPart_cases h p bytes with he | ⟨l, x, he, hl, -⟩ <;> rw [he]
  · exact Keeps.singleton fun _ => rfl
  · have htail : Keeps beyondParts [.free, .acc id x] := (Keeps.singleton fun _ => rfl).append (Keeps.singleton fun _ => rfl)
    rcases hl with rfl | ⟨rfl, -⟩
    · exact htail
    · exact (keeps_releaseHolds _ _ _).append htail

theorem ctxsStand_finishPart : CtxsStand u (applyAll (finishPart id p bytes u) u) := by
  rcases finishPart_cases h p bytes with he | ⟨l, x, he, hl, -⟩ <;> rw [he]
  · exact .of_ctxs_eq rfl
  · rw [applyAll_append]
    rcases hl with rfl | ⟨rfl, -⟩
    · exact .of_ctxs_eq rfl
    · exact ctxsStand_releaseHolds _ _ _

/-- A part of an access that has faulted changes no context (R256). -/
theorem ctxs_finishPart_of_faulted (hf : b.faulted ≠ none) : (applyAll (finishPart id p bytes u) u).ctxs = u.ctxs := by
  rcases finishPart_cases h p bytes with he | ⟨l, x, he, hl | ⟨-, hn⟩, -⟩
  · rw [he]; rfl
  · rw [he, hl]; rfl
  · exact absurd hn hf

/-- What stands of an access after a part of it, where it is not a store that leaves. -/
theorem find_finishPart (hs : b.what ≠ .store ∨ b.faulted ≠ none) : ∃ y, (applyAll (finishPart id p bytes u) u).accs.find id = some y ∧
    y.parts = (b.finished p bytes).parts ∧ y.data = (b.finished p bytes).data ∧ y.faulted = b.faulted := by
  rcases finishPart_cases h p bytes with he | ⟨l, x, he, -, ⟨-, hw, hf⟩ | ⟨at_, ack, rfl⟩⟩
  · exact ⟨_, by rw [he]; exact Sparse.find_set_self _ _ _, rfl, rfl, rfl⟩
  · exact absurd hs (by simp [hw, hf])
  · exact ⟨{ b.finished p bytes with performed := at_, ack := ack }, by rw [he, applyAll_append]; exact Sparse.find_set_self _ _ _, rfl, rfl, rfl⟩

/-- The part is over wherever its access still stands. -/
theorem done_finishPart (hw : u.accs.wf = true) {y : Access} (hy : (applyAll (finishPart id p bytes u) u).accs.find id = some y) {q : Part}
    (hq : q ∈ y.parts) (he : q.elem = p.elem) (hp : q.pos = p.pos) : q.done = true := by
  suffices hparts : y.parts = (b.finished p bytes).parts from Access.done_of_finished (hparts ▸ hq) he hp
  rcases finishPart_cases h p bytes with hx | ⟨l, x, hx, -, ⟨rfl, -⟩ | ⟨at_, ack, rfl⟩⟩
  · rw [hx] at hy
    cases (Sparse.find_set_self _ _ _).symm.trans hy
    rfl
  · rw [hx, applyAll_append] at hy
    have hnone : Sparse.find ((applyAll l u).accs.erase id) id = none := by rw [Sparse.find_erase (accs_wf_applyAll hw l), if_pos rfl]
    exact nomatch hnone.symm.trans hy
  · rw [hx, applyAll_append] at hy
    cases (Sparse.find_set_self _ _ _).symm.trans hy
    rfl

end

end Machine
end Sys2Proof
end

section
/-!
The check of an access as its first part comes due (R256): what it leaves where no part faults, and where one does.
-/
namespace Sys2Proof.Machine

/-! Faults. -/

theorem worse_or (x y : FaultMsg) : worse x y = x ∨ worse x y = y := by
  unfold worse
  split_ifs
  · exact .inr rfl
  · exact .inl rfl

/-- The fault that is reported is one of those that were found. -/
theorem foldl_worse_mem (m : FaultMsg) (r : List FaultMsg) : r.foldl worse m ∈ m :: r := by
  induction r generalizing m with
  | nil => exact List.mem_singleton_self m
  | cons x r ih =>
    rcases worse_or m x with h | h
    all_goals
      have hm := ih (worse m x)
      rw [h] at hm
      simp only [List.foldl_cons, h, List.mem_cons] at hm ⊢
      tauto

theorem applyAll_modAcc {u : State} {id : Nat} {b : Access} (h : u.accs.find id = some b) (f : Access → Access) :
    applyAll (modAcc id f u) u = { u with accs := u.accs.set id (f b) } := by
  rw [modAcc, h]
  rfl

/-- Whether a fault takes a part of an access: every part that is not over, where its elements do not fault alone (R256). -/
def Access.hitBy (a : Access) (els : List Nat) (p : Part) : Bool := !p.done && (!elementwise a.op || decide (p.elem ∈ els))

/-- An access in flight that has faulted (R220, R256); `a` is as its fault was found. -/
def Access.faultedWith (b a : Access) (els : List Nat) (m : FaultMsg) (now : Nat) : Access :=
  { b with
    checked := true, faulted := some ((b.faulted.map fun n => worse n m).getD m), ack := now + 1, heldSince := none, heldOn := [], sent := none, mute := []
    failed := if b.what = .store then b.failed ++ b.parts.filter (a.hitBy els) else b.failed
    parts := b.parts.map fun p => if a.hitBy els p then { p with done := true } else p }

theorem Access.done_of_faultedWith {a b : Access} {els : List Nat} {m : FaultMsg} {now : Nat} (he : elementwise a.op = false) {q : Part}
    (h : q ∈ (b.faultedWith a els m now).parts) : q.done = true := by
  obtain ⟨p, -, hp⟩ := List.mem_map.mp h
  rw [← hp]
  split
  · rfl
  next hn => simpa [Access.hitBy, he] using hn

/-- An access faults for the first time: a message of one of the faults is on its way, and the access has faulted with it; where its elements do not
fault alone all of it is over. -/
theorem applyAll_faultAccess {u : State} {id : Nat} {a b : Access} (h : u.accs.find id = some b) (hb : b.faulted = none) (ha : a.faulted = none)
    {bad : List (Part × Why × BitVec 8)} (hbad : bad ≠ []) (soon : Bool) : ∃ at_ m y,
      applyAll (faultAccess id a bad soon u) u =
        { u with free := u.free + 1, faults := u.faults ++ [(at_, { m with found := u.now })], accs := u.accs.set id y } ∧
      u.now ≤ at_ ∧ (∃ x ∈ bad, m = faultMsg id a x.1 x.2.1 x.2.2) ∧ y.faulted = some m ∧
      (elementwise a.op = false → ∀ q ∈ y.parts, q.done = true) := by
  obtain ⟨x, r, rfl⟩ := List.exists_cons_of_ne_nil hbad
  set m := (r.map fun x => faultMsg id a x.1 x.2.1 x.2.2).foldl worse (faultMsg id a x.1 x.2.1 x.2.2) with hm
  have hmem : ∃ y ∈ x :: r, m = faultMsg id a y.1 y.2.1 y.2.2 := by
    have hin := foldl_worse_mem (faultMsg id a x.1 x.2.1 x.2.2) (r.map fun x => faultMsg id a x.1 x.2.1 x.2.2)
    rw [← List.map_cons (f := fun x : Part × Why × BitVec 8 => faultMsg id a x.1 x.2.1 x.2.2)] at hin
    obtain ⟨y, hy, he⟩ := List.mem_map.mp hin
    exact ⟨y, hy, he.symm⟩
  have hsend (at_ : Nat) (v : State) : applyAll ([.free] ++ if a.faulted.isNone then sendFault at_ m v else []) v =
      { v with free := v.free + 1, faults := v.faults ++ [(at_, { m with found := v.now })] } := by
    rw [if_pos (by rw [ha]; rfl)]
    rfl
  refine ⟨if soon then u.now else u.now + Config.freeNat u.free, m,
    b.faultedWith a ((x :: r).map (·.1.elem)) m u.now, ?_, ?_, hmem, ?_, fun he q => Access.done_of_faultedWith he⟩
  · rw [faultAccess, List.map_cons]
    dsimp only
    rw [← hm, applyAll_seqs_cons, hsend, applyAll_seqs_cons, applyAll_modAcc (b := b)]
    · rfl
    · exact h
  · split <;> omega
  · simp [Access.faultedWith, hb]

/-! The check. -/

/-- The parts of an access that fault as it is checked, each with its fault (R249, R256); `n` is the number of the free choices made. -/
def badParts (s : State) (id : Nat) (a : Access) (n : Nat) : List (Part × Why × BitVec 8) :=
  (a.parts.filter fun p => !p.done).filterMap fun p => match partFault s id a p (Config.freeOrder n 4 % 2 = 0) with
    | some w => some (faultyPart s a p w.1, w)
    | none => if farRefuses a p n then some (p, (codeNotPresent, 0x3B#8), 0xFF#8) else none

/-- The writes of an access that stand beside its faults: those of its other elements where its elements fault alone (R256). -/
def standingSpots (s : State) (id : Nat) (a : Access) (n : Nat) : List (Part × Spot) :=
  (writeSpots s a).filter fun x => if elementwise a.op then !((badParts s id a n).any fun y => y.1.elem = x.1.elem) else badParts s id a n = []

/-- The elements of an access that a host never answers, beside its faults (R249). -/
def standingMute (s : State) (id : Nat) (a : Access) (n : Nat) : List Nat :=
  (farMute s a n).filter fun e => !((badParts s id a n).any fun x => x.1.elem = e)

/-- The access as its check leaves it, bound to the places of its writes (R252). -/
def Access.checkedAt (a : Access) (spots : List (Part × Spot)) : Access :=
  { a with checked := true, heldSince := none, heldOn := [], bound := spots.map fun x => ⟨x.1.pos, x.2.die, x.2.loc⟩ }

theorem checkAccess_eq (id : Nat) (a : Access) (n : Nat) (s : State) : checkAccess id a n s =
    if badParts s id a n = [] && farSilent s a n then modAcc id (fun a => { a with checked := true, sent := some s.now }) s
    else if standingSpots s id a n ≠ [] && reserveHolds s id a then holdAccess id s
    else Act.seqs [faultAccess id a (badParts s id a n) ((badParts s id a n).any fun x => foundAtCore s a x.1),
      Act.each (standingSpots s id a n) (fun x s => redirectFrame (x.2.current s) s), modAcc id (·.checkedAt (standingSpots s id a n)),
      Act.when (standingMute s id a n ≠ []) (modAcc id fun b => { b with sent := some s.now, mute := standingMute s id a n })] s := rfl

section
variable {u : State} {id n : Nat} {a : Access} (h : u.accs.find id = some a)

theorem farSilent_of_no_path (hp : ∀ p ∈ a.parts, routeOf a p ≠ .path) : farSilent u a n = false := by
  simp only [farSilent, Bool.and_eq_false_iff, List.any_eq_false]
  exact .inr fun p hm => by simp [hp p hm]

theorem farMute_of_no_path (hp : ∀ p ∈ a.parts, routeOf a p ≠ .path) : farMute u a n = [] := by
  unfold farMute
  split
  · have hnone : (a.parts.filter fun p => !p.done && routeOf a p = .path && pathToHost (accessQuarter u a) p.va &&
        Config.freeOrder n (8 + p.elem) % 3 = 2) = [] := List.filter_eq_nil_iff.mpr fun p hm => by simp [hp p hm]
    rw [hnone]
    rfl
  · rfl

theorem farMute_of_not_elementwise (he : elementwise a.op = false) : farMute u a n = [] := by simp [farMute, he]

theorem badParts_eq_nil (hf : ∀ p ∈ a.parts, p.done = false → ∀ sliced, partFault u id a p sliced = none)
    (hr : ∀ p ∈ a.parts, p.done = false → farRefuses a p n = false) : badParts u id a n = [] := by
  refine List.filterMap_eq_nil_iff.mpr fun p hp => ?_
  obtain ⟨hm, hd⟩ := List.mem_filter.mp hp
  have hd' : p.done = false := by simpa using hd
  rw [hf p hm hd', hr p hm hd']
  rfl

include h

/-- An access none of whose parts faults, and that a host answers, goes on: its writes are bound to their places, which no snapshot redirects. -/
theorem applyAll_checkAccess_clear (hbad : badParts u id a n = []) (hsilent : farSilent u a n = false) (hmute : farMute u a n = [])
    (hres : writeSpots u a ≠ [] → reserveHolds u id a = false) (hsnap : ∀ x ∈ writeSpots u a, redirectFrame (x.2.current u) u = []) :
    applyAll (checkAccess id a n u) u = { u with accs := u.accs.set id (a.checkedAt (writeSpots u a)) } := by
  have hspots : standingSpots u id a n = writeSpots u a := List.filter_eq_self.mpr fun x _ => by simp [hbad]
  have hmute' : standingMute u id a n = [] := by rw [standingMute, hmute]; rfl
  rw [checkAccess_eq, hbad, hspots, hmute', hsilent, if_neg (by simp), if_neg (by simpa using hres)]
  have hfault (soon : Bool) : faultAccess id a [] soon u = [] := rfl
  have hredirect : Act.each (writeSpots u a) (fun x s => redirectFrame (x.2.current s) s) u = [] := Act.each_eq_nil hsnap
  rw [applyAll_seqs_cons, hfault, applyAll_nil, applyAll_seqs_cons, hredirect, applyAll_nil, applyAll_seqs_cons, applyAll_modAcc h]
  rfl

/-- An access whose elements do not fault alone faults as a whole. -/
theorem applyAll_checkAccess_bad (ha : a.faulted = none) (he : elementwise a.op = false) (hbad : badParts u id a n ≠ []) : ∃ at_ m y,
    applyAll (checkAccess id a n u) u =
      { u with free := u.free + 1, faults := u.faults ++ [(at_, { m with found := u.now })], accs := u.accs.set id y } ∧
    u.now ≤ at_ ∧ (∃ x ∈ badParts u id a n, m = faultMsg id a x.1 x.2.1 x.2.2) ∧ y.faulted = some m ∧ ∀ q ∈ y.parts, q.done = true := by
  have hspots : standingSpots u id a n = [] := List.filter_eq_nil_iff.mpr fun x _ => by simp [he, hbad]
  have hmute : standingMute u id a n = [] := by rw [standingMute, farMute_of_not_elementwise he]; rfl
  obtain ⟨at_, m, y, hstate, hat, hm, hy, hdone⟩ := applyAll_faultAccess h ha ha hbad ((badParts u id a n).any fun x => foundAtCore u a x.1)
  refine ⟨at_, m, y.checkedAt [], ?_, hat, hm, hy, hdone he⟩
  rw [checkAccess_eq, hspots, hmute, if_neg (by simp [hbad]), if_neg (by simp), applyAll_seqs_cons, hstate, applyAll_seqs_cons, applyAll_seqs_cons]
  have hnone (v : State) : applyAll (Act.each [] (fun (x : Part × Spot) s => redirectFrame (x.2.current s) s) v) v = v := rfl
  rw [hnone, applyAll_modAcc (b := y) (Sparse.find_set_self _ _ _), Sparse.set_set]
  rfl

end

end Sys2Proof.Machine
end

section
/-!
The registers that accesses of the control window and the hypervisor reach (R6, R344, R346).
-/
namespace Sys2Proof.Machine

/-! The next part of an access. -/

theorem routedPart_some {s : State} {id : Nat} {r : PartRoute} {a : Access} {p : Part} (h : routedPart s id r = some (a, p)) :
    s.accs.find id = some a ∧ p ∈ a.parts ∧ p.done = false ∧ routeOf a p = r := by
  unfold routedPart at h
  split at h
  · exact nomatch h
  next b hb =>
    obtain ⟨q, hq, hx⟩ := Option.bind_eq_some_iff.mp h
    split_ifs at hx with hroute
    cases hx
    simp only [Bool.and_eq_true, decide_eq_true_eq] at hroute
    have hdue := List.find?_some hq
    simp only [Bool.and_eq_true, Bool.not_eq_true'] at hdue
    exact ⟨hb, List.mem_of_find?_eq_some hq, hdue.1.1.1.1, hroute.1.1⟩

theorem farRefuses_of_route {a : Access} {p : Part} (h : routeOf a p ≠ .path) (n : Nat) : farRefuses a p n = false := by simp [farRefuses, h]

theorem writeSpots_of_no_home {s : State} {a : Access} (h : ∀ p ∈ a.parts, p.done = false → routeOf a p ≠ .home) : writeSpots s a = [] := by
  unfold writeSpots
  split
  · rfl
  · refine List.filterMap_eq_nil_iff.mpr fun p hp => if_pos ?_
    by_cases hd : p.done <;> simp [hd, h p hp]

/-! The control window. -/

section
variable {id : Nat} {s : State} {a : Access} {p : Part} (h : routedPart s id .control = some (a, p)) (hs : heldByShootDown s id = false)
include h hs

theorem controlAccess_of_unchecked (hc : a.checked = false) :
    controlAccess id s = Act.seq (fun _ => [.free]) (checkAccess id a s.free) s := by
  rw [controlAccess, h]
  dsimp only
  rw [if_neg (by simp [hs]), if_pos (by simp [hc])]

theorem controlAccess_load (hc : a.checked = true) (hw : a.what = .load) : controlAccess id s =
    finishPart id p (some (leBytes (readReg s (p.va / 2 ^ 24 % 256) (p.va % 2 ^ 24)).toNat p.len)) s := by
  rw [controlAccess, h]
  dsimp only
  rw [if_neg (by simp [hs]), if_neg (by simp [hc]), hw]

/-- A store writes its register, but in a unit that the host alone reaches (R346, log entry 39), and but for a TCSD that a shoot-down holds. -/
theorem controlAccess_store (hc : a.checked = true) (hw : a.what = .store) : controlAccess id s =
    let unit := p.va / 2 ^ 24 % 256
    let off := p.va % 2 ^ 24
    let w : Word := BitVec.ofNat 64 (leNat ((a.data.drop p.pos).take p.len))
    if unit = 0x80 then finishPart id p none s
    else if unit < 24 && dieReg unit off = .tcsd && w.getLsbD 63 && (s.die unit).shoot.isSome then tcsdWrite unit w id s
    else Act.seq (writeReg unit off w a.cid id) (finishPart id p none) s := by
  rw [controlAccess, h]
  dsimp only
  rw [if_neg (by simp [hs]), if_neg (by simp [hc]), hw]

end

theorem controlWindow (id : Nat) (s : State) (a : Access) (p : Part) (h : routedPart s id .control = some (a, p)) (hs : heldByShootDown s id = false) :
    let unit := p.va / 2 ^ 24 % 256
    let off := p.va % 2 ^ 24
    let w : Word := BitVec.ofNat 64 (leNat ((a.data.drop p.pos).take p.len))
    let ctxsStand (t : State) := ∀ k, t.ctx k = { s.ctx k with fresh := (t.ctx k).fresh, freshC := (t.ctx k).freshC }
    (a.checked = false → (∀ q, q ∈ a.parts → routeOf a q = .control ∧ ∀ sliced, partFault s id a q sliced = none) →
      exec (.controlWindowAccess id) s =
        .next { s with free := s.free + 1, accs := s.accs.set id { a with checked := true, heldSince := none, heldOn := [], bound := [] } }) ∧
    (a.checked = true → a.what = .load → Answers (.controlWindowAccess id) s fun t => t.mem = s.mem ∧ ctxsStand t ∧ t.dies = s.dies ∧
      t.quarters = s.quarters ∧ ∃ y, t.accs.find id = some y ∧ y.data = putBytes a.data p.pos (leBytes (readReg s unit off).toNat p.len)) ∧
    (a.checked = true → a.what = .store → unit = 0x20 → off = 0x20 → Answers (.controlWindowAccess id) s fun t =>
      t.pkg = { s.pkg with pkgid := w.extractLsb' 0 22 } ∧ t.mem = s.mem ∧ ctxsStand t ∧ t.dies = s.dies ∧ t.quarters = s.quarters) ∧
    (a.checked = true → a.what = .store → unit = 0x80 → Answers (.controlWindowAccess id) s fun t =>
      t.pkg = s.pkg ∧ t.mem = s.mem ∧ ctxsStand t ∧ t.vfs = s.vfs ∧ t.dies = s.dies ∧ t.quarters = s.quarters) := by
  obtain ⟨hfind, -, -, -⟩ := routedPart_some h
  intro unit off w ctxsStand
  refine ⟨fun hc hclear => ?check, fun hc hw => ?load, fun hc hw hunit hoff => ?identity, fun hc hw hunit => ?host⟩
  case check =>
    have hroute (q : Part) (hq : q ∈ a.parts) : routeOf a q ≠ .path ∧ routeOf a q ≠ .home := by rw [(hclear q hq).1]; decide
    set u : State := { s with free := s.free + 1 } with hu
    have hbad : badParts u id a s.free = [] :=
      badParts_eq_nil (fun q hq _ sliced => (hclear q hq).2 sliced) fun q hq _ => farRefuses_of_route (hroute q hq).1 _
    have hspots : writeSpots u a = [] := writeSpots_of_no_home fun q hq _ => (hroute q hq).2
    have ht := applyAll_checkAccess_clear (u := u) hfind hbad (farSilent_of_no_path fun q hq => (hroute q hq).1)
      (farMute_of_no_path fun q hq => (hroute q hq).1) (fun hne => absurd hspots hne) (by rw [hspots]; exact List.forall_mem_nil _)
    rw [hspots] at ht
    refine congrArg Host.Outcome.next ?_
    rw [controlAccess_of_unchecked h hs hc, applyAll_seq]
    exact ht
  case load =>
    refine ⟨_, rfl, ?_⟩
    rw [controlAccess_load h hs hc hw]
    have hbeyond := beyondParts_finishPart hfind p (some (leBytes (readReg s unit off).toNat p.len))
    obtain ⟨y, hy, -, hdata, -⟩ := find_finishPart hfind p (some (leBytes (readReg s unit off).toNat p.len)) (.inl (by rw [hw]; decide))
    exact ⟨(congrArg State.mem hbeyond :), ctxsStand_finishPart hfind _ _, (congrArg State.dies hbeyond :),
      (congrArg State.quarters hbeyond :), y, hy, hdata⟩
  case identity =>
    refine ⟨_, rfl, ?_⟩
    have hx : controlAccess id s = Act.seq (modPkg fun p => { p with pkgid := w.extractLsb' 0 22 }) (finishPart id p none) s := by
      rw [controlAccess_store h hs hc hw]
      dsimp only
      rw [show p.va / 2 ^ 24 % 256 = 0x20 from hunit, show p.va % 2 ^ 24 = 0x20 from hoff, if_neg (by decide), if_neg (by simp)]
      rfl
    rw [hx, applyAll_seq]
    set u : State := applyAll (modPkg (fun p => { p with pkgid := w.extractLsb' 0 22 }) s) s with hu
    have hfind' : u.accs.find id = some a := hfind
    have hbeyond := beyondParts_finishPart hfind' p none
    exact ⟨(congrArg State.pkg hbeyond :), (congrArg State.mem hbeyond :), ctxsStand_finishPart hfind' _ _, (congrArg State.dies hbeyond :),
      (congrArg State.quarters hbeyond :)⟩
  case host =>
    refine ⟨_, rfl, ?_⟩
    have hx : controlAccess id s = finishPart id p none s := (controlAccess_store h hs hc hw).trans (if_pos hunit)
    rw [hx]
    have hbeyond := beyondParts_finishPart hfind p none
    exact ⟨(congrArg State.pkg hbeyond :), (congrArg State.mem hbeyond :), ctxsStand_finishPart hfind _ _,
      (congrArg State.vfs hbeyond :), (congrArg State.dies hbeyond :),
      (congrArg State.quarters hbeyond :)⟩

/-! The writes of the hypervisor. -/

section
variable {s : State} {v : Word} {unit : BitVec 8} {off : BitVec 24}

/-- A write of a register of a die that the start did not fence. -/
theorem exec_registerWrite_die (h8 : off.toNat % 8 = 0) (hu : unit.toNat < 24) (hf : s.pkg.fenced.getLsbD unit.toNat = false) :
    exec (.registerWrite unit off v) s = done ((dieReg unit.toNat off.toNat).write unit.toNat v 0) s := by
  refine congrArg (fun e => Host.Outcome.next (applyAll e s)) ?_
  rw [writeReg, if_neg (by omega), if_pos hu, if_neg (by simp [hf])]

/-- A write of a register of the lowest quarter of a partition. -/
theorem exec_registerWrite_quarter (h8 : off.toNat % 8 = 0) {q : Nat} (hq : q < 4) (hu : unit.toNat = 0x30 + q) (hl : lowest s.pkg q = q) :
    exec (.registerWrite unit off v) s = done ((quarterReg off.toNat).write q v 0xFF#8) s := by
  refine congrArg (fun e => Host.Outcome.next (applyAll e s)) ?_
  have hsub : unit.toNat - 0x30 = q := by omega
  rw [writeReg, if_neg (by omega), if_neg (by omega), if_neg (by omega), if_neg (by omega), if_pos (by omega), hsub, if_pos hl]

theorem dieReg_ptroot (die : Nat) {off c : Nat} (hc : c < 256) (h : off = 0x1000 + 8 * c) : dieReg die off = .ptroot c := by
  rw [dieReg, if_neg (by omega), if_neg (by omega), if_neg (by omega), if_pos (by omega)]
  exact congrArg DieReg.ptroot (by omega)

theorem quarterReg_ilbase {off n : Nat} (hn : n < 16) (h : off = 0x100 + 16 * n) : quarterReg off = .ilbase n := by
  rw [quarterReg, if_neg (by omega), if_neg (by omega), if_neg (by omega), if_neg (by omega), if_neg (by omega), if_pos (by omega), if_pos (by omega)]
  exact congrArg QuarterReg.ilbase (by omega)

theorem quarterReg_illim {off n : Nat} (hn : n < 16) (h : off = 0x108 + 16 * n) : quarterReg off = .illim n := by
  rw [quarterReg, if_neg (by omega), if_neg (by omega), if_neg (by omega), if_neg (by omega), if_neg (by omega), if_pos (by omega), if_neg (by omega)]
  exact congrArg QuarterReg.illim (by omega)

theorem quarterReg_block {off c k : Nat} (hc : c < 256) (hk : k < 128) (h : off = 0x10000 + 128 * c + k) : quarterReg off = .block c k := by
  rw [quarterReg, if_neg (by omega), if_neg (by omega), if_neg (by omega), if_neg (by omega), if_neg (by omega), if_neg (by omega), if_neg (by omega),
    if_neg (by omega), if_pos (by omega)]
  exact congrArg₂ QuarterReg.block (by omega) (by omega)

end

theorem registerWrites (s : State) (v : Word) (unit : BitVec 8) (off : BitVec 24) :
    let i := Instr.registerWrite unit off v
    let die (d : Die) : State := { s with dies := s.dies.set unit.toNat d }
    let old := s.die unit.toNat
    (off.toNat % 8 ≠ 0 → exec i s = .next s) ∧
    (unit.toNat < 24 → s.pkg.fenced.getLsbD unit.toNat = true → exec i s = .next s) ∧
    (unit.toNat < 24 → s.pkg.fenced.getLsbD unit.toNat = false → off = 0x20#24 → exec i s = .next (die { old with wstat := v.extractLsb' 0 16 })) ∧
    (∀ c : Nat, c < 256 → unit.toNat < 24 → s.pkg.fenced.getLsbD unit.toNat = false → off.toNat = 0x1000 + 8 * c →
      exec i s = .next (die { old with rootNew := old.rootNew.set c (v &&& 0xFFFFF8001#64) })) ∧
    (unit = 0x20#8 → off = 0x18#24 → exec i s = .next { s with pkg := { s.pkg with hostmgd := v.getLsbD 0 } }) ∧
    (unit = 0x20#8 → off = 0x20#24 → exec i s = .next { s with pkg := { s.pkg with pkgid := v.extractLsb' 0 22 } }) ∧
    (∀ q n : Nat, q < 4 → n < 16 → unit.toNat = 0x30 + q → lowest s.pkg q = q →
      let x := s.quarter q
      let new (w : Interleave) := exec i s = .next { s with quarters := s.quarters.set q { x with ilNew := some w } }
      (off.toNat = 0x100 + 16 * n → new { x.ilWritten with base := x.ilWritten.base.set n (v &&& 0xFFFFFFE000003#64) }) ∧
      (off.toNat = 0x108 + 16 * n → new { x.ilWritten with lim := x.ilWritten.lim.set n (v &&& 0xFFFFFFEFFFFFF#64) })) ∧
    (∀ q c : Nat, q < 4 → c < 256 → unit.toNat = 0x30 + q → lowest s.pkg q = q → off.toNat = 0x10030 + 128 * c →
      exec i s = .next { s with blocks := s.blocks.set (q * 256 + c) { s.block q c with pqshare := v.extractLsb' 0 17 } }) := by
  intro i die old
  refine ⟨fun h8 => ?odd, fun hu hf => ?fenced, fun hu hf ho => ?wstat, fun c hc hu hf ho => ?root, ?_, ?_, fun q n hq hn hu hl => ⟨fun ho => ?base,
    fun ho => ?lim⟩, fun q c hq hc hu hl ho => ?share⟩
  case odd => exact congrArg (fun e => Host.Outcome.next (applyAll e s)) (if_pos h8 : writeReg unit.toNat off.toNat v 0xFF#8 0 s = [])
  case fenced =>
    refine congrArg (fun e => Host.Outcome.next (applyAll e s)) (?_ : writeReg unit.toNat off.toNat v 0xFF#8 0 s = [])
    rw [writeReg, if_pos hu, if_pos hf, ite_self]
  case wstat =>
    subst ho
    exact exec_registerWrite_die (by decide) hu hf
  case root =>
    rw [exec_registerWrite_die (by omega) hu hf, dieReg_ptroot _ hc ho]
    rfl
  case base =>
    refine (exec_registerWrite_quarter (by omega) hq hu hl).trans ?_
    rw [quarterReg_ilbase hn ho]
    rfl
  case lim =>
    refine (exec_registerWrite_quarter (by omega) hq hu hl).trans ?_
    rw [quarterReg_illim hn ho]
    rfl
  case share =>
    rw [exec_registerWrite_quarter (by omega) hq hu hl, quarterReg_block (k := 0x30) hc (by decide) (by omega)]
    rfl
  all_goals
    rintro rfl rfl
    rfl

theorem registerAccesses : Clause.RegisterAccesses := ⟨controlWindow, registerWrites⟩

end Sys2Proof.Machine
end

section
/-!
Accesses from another package and of a host through its decoder (R249, R252, R312, R363).
-/
namespace Sys2Proof.Machine

/-! Whose access is accepted, and where it leads. -/

/-- Whether the port of a function is up as CXL, and the function mapped (R363). -/
def State.hdmUp (s : State) (f : Nat) : Prop :=
  (s.vf f).map.getLsbD 8 = true ∧ (if (s.vf f).map.getLsbD 9 then 1 else 0) ∈ s.pkg.hostUp ∧ s.pkg.pcieOnly = false

/-- Whether an access from outside is an atomic. -/
def farAtomic (a : FarAccess) : Prop := ∃ aop m x cmp, a.op = .atomic aop m x cmp

section
variable {s : State} {a : FarAccess}

theorem farTarget_of_package (h : a.hdm = none) : farTarget s a =
    if farAccepted s a then (partOfCid s a.rcid).map fun part => (part, effectiveCid a.rcid a.va.toNat, a.va.toNat) else none := by
  rw [farTarget, h]

theorem farTarget_of_host {f : Nat} (h : a.hdm = some f) (hup : s.hdmUp f) (ha : ¬ farAtomic a) : farTarget s a =
    (partOfCid s ((s.vf f).map.extractLsb' 0 8)).map fun part => (part, 0#8, 0xF * 2 ^ 48 + a.va.toNat % 2 ^ 48) := by
  obtain ⟨hmap, hport, hcxl⟩ := hup
  rw [farTarget, h]
  dsimp only
  rw [if_pos]
  cases hop : a.op with
  | atomic aop n x cmp => exact absurd ⟨aop, n, x, cmp, hop⟩ ha
  | read n => simp only [hmap, hport, hcxl, decide_true, Bool.not_false, Bool.and_self]
  | write d => simp only [hmap, hport, hcxl, decide_true, Bool.not_false, Bool.and_self]

theorem farTarget_none_of_package (h : a.hdm = none) (hn : farAccepted s a = false ∨ partOfCid s a.rcid = none) : farTarget s a = none := by
  rw [farTarget_of_package h]
  rcases hn with hn | hn <;> simp [hn]

theorem farTarget_none_of_host {f : Nat} (h : a.hdm = some f)
    (hn : ¬ s.hdmUp f ∨ farAtomic a ∨ partOfCid s ((s.vf f).map.extractLsb' 0 8) = none) : farTarget s a = none := by
  rw [farTarget, h]
  dsimp only
  refine ite_eq_right_iff.mpr fun hc => ?_
  simp only [Bool.and_eq_true, decide_eq_true_eq, Bool.not_eq_true'] at hc
  obtain ⟨⟨⟨hmap, hport⟩, hcxl⟩, hplain⟩ := hc
  rcases hn with hn | ⟨aop, n, x, cmp, hop⟩ | hn
  · exact absurd ⟨hmap, hport, hcxl⟩ hn
  · simp [hop] at hplain
  · rw [hn]; rfl

end

/-! What becomes of it. -/

/-- A refusal: what was held of the access is held no longer, and its answer is none. -/
def farRefuse (a : FarAccess) : Act := Act.seq (releaseDevice (.far a)) fun _ => [.answer a none]

theorem applyAll_releaseDevice (who : Holder) (s : State) :
    applyAll (releaseDevice who s) s = { s with held := s.held.filter fun h => decide (h.who ≠ who) } := by
  unfold releaseDevice
  split
  · rfl
  next h =>
    have hall : s.held.filter (fun h => decide (h.who ≠ who)) = s.held := List.filter_eq_self.mpr fun x hx => by
      have hnone := List.find?_eq_none.mp (Option.not_isSome_iff_eq_none.mp h) x hx
      simpa using hnone
    rw [hall]
    rfl

section
variable {s : State} {a : FarAccess}

theorem exec_farRefuse (h : farArrival a s = farRefuse a s) : exec (.farAccessArrival a) s =
    .next { s with held := s.held.filter fun h => decide (h.who ≠ .far a), answers := s.answers ++ [(a, none)] } := by
  refine congrArg Host.Outcome.next ?_
  rw [h, farRefuse, applyAll_seq, applyAll_releaseDevice]
  rfl

theorem farArrival_of_no_target (h : farTarget s a = none) : farArrival a s = farRefuse a s := by
  rw [farArrival, h]
  rfl

variable {part : Nat} {cid : BitVec 8} {va : Nat} (ht : farTarget s a = some (part, cid, va))
include ht

theorem farArrival_of_out (h : inPathWindow va = true ∨ inControlWindow va = true ∨ heldOut s (.far a) = true) : farArrival a s = farRefuse a s := by
  rw [farArrival, ht]
  exact if_pos (by simpa [or_assoc] using h)

variable (hpath : inPathWindow va = false) (hcontrol : inControlWindow va = false) (hout : heldOut s (.far a) = false)
include hpath hcontrol hout

theorem farArrival_of_shot (h : piecesShot s part (pieces (farLength a.op + 1) va (List.replicate (farLength a.op) 0#8)) = true) :
    farArrival a s = [.inputs (s.inputs ++ [(s.now + 1, .farAccessArrival a)])] := by
  rw [farArrival, ht]
  dsimp only
  rw [if_neg (by simp [hpath, hcontrol, hout]), if_pos h]

variable (hshot : piecesShot s part (pieces (farLength a.op + 1) va (List.replicate (farLength a.op) 0#8)) = false)
include hshot

theorem farArrival_of_no_act (h : (farReads s part cid va a.op).bind (farAct a.op va) = none) : farArrival a s = farRefuse a s := by
  rw [farArrival, ht]
  dsimp only
  rw [if_neg (by simp [hpath, hcontrol, hout]), if_neg (by simp [hshot]), h]
  rfl

variable {new reply : List Byte} (hact : (farReads s part cid va a.op).bind (farAct a.op va) = some (new, reply))
include hact

theorem farArrival_of_no_spots {w : Why × BitVec 8} (h : pieceSpots s part cid (pieces (new.length + 1) va new) = .error w) :
    farArrival a s = farRefuse a s := by
  rw [farArrival, ht]
  dsimp only
  rw [if_neg (by simp [hpath, hcontrol, hout]), if_neg (by simp [hshot]), hact]
  dsimp only
  rw [h]
  rfl

variable {l : List (Spot × Nat × List Byte)} (hl : pieceSpots s part cid (pieces (new.length + 1) va new) = .ok l)
include hl

theorem farArrival_of_waits (h : deviceWaits s (.far a) (l.map fun x => x.1.current s) = true) : farArrival a s =
    Act.seq (holdDevice (.far a) (l.map fun x => x.1.current s)) (fun s => [.inputs (s.inputs ++ [(s.now + 1, .farAccessArrival a)])]) s := by
  rw [farArrival, ht]
  dsimp only
  rw [if_neg (by simp [hpath, hcontrol, hout]), if_neg (by simp [hshot]), hact]
  dsimp only
  rw [hl]
  exact if_pos h

theorem farArrival_of_performs (h : deviceWaits s (.far a) (l.map fun x => x.1.current s) = false) : farArrival a s =
    Act.seqs [releaseDevice (.far a), writePlaced cid l, fun _ => [.answer a (some reply)]] s := by
  rw [farArrival, ht]
  dsimp only
  rw [if_neg (by simp [hpath, hcontrol, hout]), if_neg (by simp [hshot]), hact]
  dsimp only
  rw [hl]
  exact if_neg (by simp [h])

end

/-! What it reads and writes. -/

section
variable {s : State} {part : Nat} {cid : BitVec 8} {va : Nat} {op : FarOp} (hw : ∀ d, op ≠ .write d)
include hw

theorem farReads_of_error {w : Why × BitVec 8} (h : deviceRead s part cid va (farLength op) = .error w) : farReads s part cid va op = none := by
  cases op with
  | write d => exact absurd rfl (hw d)
  | read n => rw [farReads, h]; exact hw
  | atomic aop n x cmp => rw [farReads, h]; exact hw

theorem farReads_of_ok {old : List Byte} (h : deviceRead s part cid va (farLength op) = .ok old) : farReads s part cid va op = some old := by
  cases op with
  | write d => exact absurd rfl (hw d)
  | read n => rw [farReads, h]; exact hw
  | atomic aop n x cmp => rw [farReads, h]; exact hw

end

/-- A write of nothing waits for no frame (R312). -/
theorem deviceWaits_nil (s : State) (who : Holder) : deviceWaits s who [] = false := by
  simp [deviceWaits, mustWait, reserveShort, behindHeld, reserveWants, distinct]

/-- What the answer of a read is: its bytes, with nothing to write. -/
theorem exec_farAccess_of_performs {s : State} {a : FarAccess} {cid : BitVec 8} {l : List (Spot × Nat × List Byte)} {reply : List Byte}
    (h : farArrival a s = Act.seqs [releaseDevice (.far a), writePlaced cid l, fun _ => [.answer a (some reply)]] s) :
    let free : State := { s with held := s.held.filter fun h => decide (h.who ≠ .far a) }
    exec (.farAccessArrival a) s = .next
      { applyAll (writePlaced cid l free) free with answers := (applyAll (writePlaced cid l free) free).answers ++ [(a, some reply)] } := by
  intro free
  refine congrArg Host.Outcome.next ?_
  rw [h, applyAll_seqs_cons, applyAll_releaseDevice, applyAll_seqs_cons]
  rfl

theorem farAccesses : Clause.FarAccesses := by
  intro a s n i free answer refuses again atomic up
  have hrefuse (h : farArrival a s = farRefuse a s) : refuses := exec_farRefuse h
  refine ⟨fun hd hn => hrefuse (farArrival_of_no_target (farTarget_none_of_package hd hn)),
    fun f hd hn => hrefuse (farArrival_of_no_target (farTarget_none_of_host hd hn)), fun part cid va hwho => ?_⟩
  have ht : farTarget s a = some (part, cid, va) := by
    rcases hwho with ⟨hd, hacc, hpart, rfl, rfl⟩ | ⟨f, hd, hup, ha, hpart, rfl, rfl⟩
    · rw [farTarget_of_package hd, if_pos hacc, hpart]; rfl
    · rw [farTarget_of_host hd hup ha, hpart]; rfl
  refine ⟨fun hout => hrefuse (farArrival_of_out ht hout), fun hpath hcontrol hout => ?_⟩
  intro shot
  refine ⟨fun hshot => ?shot, fun w hshot hw hread => ?unread, fun aop m x cmp hshot hop hm => ?misaligned, fun m old hshot hop hread => ?read,
    fun new reply hshot hop hwrite => ?write⟩
  case shot => exact congrArg (fun e => Host.Outcome.next (applyAll e s)) (farArrival_of_shot ht hpath hcontrol hout hshot)
  case unread =>
    have hnone := farReads_of_error hw hread
    exact hrefuse (farArrival_of_no_act ht hpath hcontrol hout hshot (by rw [hnone]; rfl))
  case misaligned =>
    refine hrefuse (farArrival_of_no_act ht hpath hcontrol hout hshot (Option.bind_eq_none_iff.mpr fun old _ => ?_))
    rw [hop]
    exact if_pos hm
  case read =>
    have hact : (farReads s part cid va a.op).bind (farAct a.op va) = some ([], old) := by
      rw [farReads_of_ok (fun d hd => by simp [hop] at hd) hread, hop]
      rfl
    have hx := farArrival_of_performs ht hpath hcontrol hout hshot hact (l := []) rfl (deviceWaits_nil _ _)
    exact exec_farAccess_of_performs hx
  case write =>
    have hact : (farReads s part cid va a.op).bind (farAct a.op va) = some (new, reply) := by
      rcases hwrite with ⟨hop', rfl⟩ | ⟨aop, m, x, cmp, hop', hm, hread, rfl⟩
      · rw [hop']; rfl
      · rw [farReads_of_ok (by simp [hop']) (by rw [hop']; exact hread), hop']
        exact if_neg (by simp [hm])
    refine ⟨fun w hspots => hrefuse (farArrival_of_no_spots ht hpath hcontrol hout hshot hact hspots), fun l hl => ?_⟩
    intro waits
    refine ⟨fun hwaits => ?waits, fun hwaits => ?performs⟩
    case performs => exact exec_farAccess_of_performs (farArrival_of_performs ht hpath hcontrol hout hshot hact hl hwaits)
    case waits =>
      refine ⟨_, congrArg (fun e => Host.Outcome.next (applyAll e s)) (farArrival_of_waits ht hpath hcontrol hout hshot hact hl hwaits), ?_⟩
      rw [applyAll_seq]
      unfold holdDevice
      split <;> exact ⟨rfl, rfl, rfl, rfl⟩

end Sys2Proof.Machine
end

section
/-!
What a part of an access does at its place (R107, R199, R210, R213, R252).
-/
namespace Sys2Proof.Machine

/-! What follows a write or a read, and leaves memory, the contexts and the accesses. -/

/-- The state beyond the caches, the dies, the copies and the multicast stores. -/
def beyondCaches (s : State) : State := { s with cores := [], dies := [], copies := [], mcasts := [] }

/-- Memory, the contexts and one access. -/
def memCtxsAcc (id : Nat) (s : State) : List Host.Cell × Sparse Ctx × Option Access := (s.mem, s.ctxs, s.accs.find id)

theorem Keeps.memCtxsAcc {l : List Effect} (h : Keeps beyondCaches l) (id : Nat) : Keeps (memCtxsAcc id) l :=
  h.comp fun u => (u.mem, u.ctxs, u.accs.find id)

theorem Keeps.ite {α : Type} {p : State → α} {l r : List Effect} {c : Prop} [Decidable c] (hl : Keeps p l) (hr : Keeps p r) :
    Keeps p (if c then l else r) := by
  split
  · exact hl
  · exact hr

theorem Keeps.when {α : Type} {p : State → α} {f : Act} {s : State} (h : Keeps p (f s)) (b : Bool) : Keeps p (Act.when b f s) := h.ite Keeps.nil

theorem keeps_writeThrough (core : Nat) (cid : BitVec 8) (window : Bool) (va : Nat) (bytes : List Byte) (s : State) :
    Keeps beyondCaches (writeThrough core cid window va bytes s) := by
  unfold writeThrough
  exact .ite (.singleton fun _ => rfl) .nil

theorem keeps_markMissed (cluster : Nat) (writer : Option Nat) (cid : BitVec 8) (va n : Nat) (s : State) :
    Keeps beyondCaches (markMissed cluster writer cid va n s) := Keeps.each (fun _ _ _ => Keeps.singleton fun _ => rfl) s

theorem keeps_supersede (id : Nat) (a : Access) (p : Part) (s : State) : Keeps (memCtxsAcc id) (supersede id a p s) := by
  refine List.forall_mem_map.mpr fun x hx u => ?_
  have hne : x.1 ≠ id := by
    have hx' := (List.mem_filter.mp hx).2
    simp only [Bool.and_eq_true, decide_eq_true_eq] at hx'
    exact hx'.1.1.1.1
  exact congrArg (fun y => (u.mem, u.ctxs, y)) ((Sparse.find_set ..).trans (if_neg hne))

theorem keeps_fillLine (core : Nat) (cid : BitVec 8) (window : Bool) (va : Nat) (src : Nat → Byte) (s : State) :
    Keeps beyondCaches (fillLine core cid window va src s) := Keeps.singleton fun _ => rfl

theorem keeps_fillSlice (cid : BitVec 8) (va : Nat) (sp : Spot) (s : State) : Keeps beyondCaches (fillSlice cid va sp s) := by
  unfold fillSlice
  exact .ite .nil (.singleton fun _ => rfl)

theorem keeps_fillTlb (s : State) (part : Nat) (cid : BitVec 8) (va : Nat) (u : State) : Keeps beyondCaches (fillTlb s part cid va u) := by
  unfold fillTlb
  split
  · exact Keeps.nil
  · refine .ite .nil ?_
    split
    · exact Keeps.singleton fun _ => rfl
    · exact Keeps.nil

theorem keeps_keepPlaces (places : List Nat) (s : State) : Keeps beyondCaches (keepPlaces places s) := by
  unfold keepPlaces
  exact .ite .nil (.map fun _ _ => rfl)

theorem keeps_keepSources (core : Nat) (earlier : Copy → Bool) (places : List Nat) (s : State) :
    Keeps beyondCaches (keepSources core earlier places s) := Keeps.map fun _ _ => rfl

/-! A write of a part. -/

/-- A part of a write: its bytes at the place, and what the caches and earlier faulted stores make of them (R107, R213, R215). -/
def writePart (id : Nat) (a : Access) (p : Part) (store : List Byte → Act) (bytes : List Byte) : Act :=
  Act.seqs [store bytes, writeThrough (coreOf a.key) (effectiveCid a.cid p.va) (a.kind = .cluster) p.va bytes,
    Act.when (!decide (a.kind = .cluster)) (markMissed (clusterOf (coreOf a.key)) (some (coreOf a.key)) (effectiveCid a.cid p.va) p.va p.len),
    supersede id a p]

theorem memCtxsAcc_writePart (id : Nat) (a : Access) (p : Part) (store : List Byte → Act) (bytes : List Byte) (s : State) :
    memCtxsAcc id (applyAll (writePart id a p store bytes s) s) = memCtxsAcc id (applyAll (store bytes s) s) := by
  rw [writePart, applyAll_seqs_cons]
  refine Keeps.applyAll (Keeps.seqs ?_ _) _
  simp only [List.forall_mem_cons]
  exact ⟨fun u => (keeps_writeThrough _ _ _ _ _ u).memCtxsAcc id, fun u => ((keeps_markMissed _ _ _ _ _ u).memCtxsAcc id).when _,
    fun u => keeps_supersede id a p u, List.forall_mem_nil _⟩

/-- The bytes that stand at the place of a part. -/
def placeBytes (p : Part) (src : Nat → Byte) : List Byte := (List.range p.len).map fun i => src (p.va + i)

section
variable {id : Nat} {a : Access} {p : Part} {src : Nat → Byte} {store : List Byte → Act} {served : Bool} {s : State}

theorem performAt_store (hw : a.what = .store) : performAt id a p src store served s =
    Act.seq (writePart id a p store ((a.data.drop p.pos).take p.len)) (finishPart id p none) s := by
  rw [performAt, hw]
  simp only [carried_eq, ite_self]
  rfl

theorem performAt_atomic {aop : BitVec 4} {fp : Bool} (hw : a.what = .atomic aop fp) : performAt id a p src store served s =
    Act.seq (writePart id a p store (atomicBytes a p (placeBytes p src))) (finishPart id p (some (placeBytes p src))) s := by
  rw [performAt, hw]
  simp only [carried_eq, ite_self]
  rfl

/-- What a read of a part sees of bytes: the latest earlier stores of its context before what stands there (R107, R220). -/
def seenBytes (s : State) (id : Nat) (a : Access) (p : Part) (bytes : List Byte) : List Byte :=
  bytes.zipIdx.map fun x => (forwarded s id a (p.va + x.2)).getD x.1

theorem length_seenBytes (bytes : List Byte) : (seenBytes s id a p bytes).length = bytes.length := by simp [seenBytes]

theorem getElem?_seenBytes (bytes : List Byte) (k : Nat) :
    (seenBytes s id a p bytes)[k]? = bytes[k]?.map fun b => (forwarded s id a (p.va + k)).getD b := by
  simp [seenBytes, List.getElem?_zipIdx, Function.comp_def]

/-- The bytes of a line that a part reads. -/
def lineBytesOf (l : CacheLine) (p : Part) : List Byte := (List.range p.len).map fun i => l.data.getD ((p.va + i) % 128) 0#8

theorem performAt_load_cached (hw : a.what = .load) {l : CacheLine} (hl : cachedLine s a p served = some l) :
    performAt id a p src store served s = finishPart id p (some (seenBytes s id a p (lineBytesOf l p))) s := by
  rw [performAt, hw]
  dsimp only
  rw [hl]
  rfl

theorem performAt_load_uncached (hw : a.what = .load) (hl : cachedLine s a p served = none) :
    performAt id a p src store served s = Act.seq (fillLine (coreOf a.key) (effectiveCid a.cid p.va) (a.kind = .cluster) p.va src)
      (finishPart id p (some (seenBytes s id a p (placeBytes p src)))) s := by
  rw [performAt, hw]
  dsimp only
  rw [hl]
  simp only [carried_eq, ite_self]
  rfl

/-- A line serves a part only where it may: one that serves it while no choice is made against it serves it where one is. -/
theorem cachedLine_of_served {l : CacheLine} (h : cachedLine s a p served = some l) : cachedLine s a p true = some l := by
  cases served
  · exact nomatch h
  · exact h

end

/-! The outcomes. -/

/-- A part of an access is over wherever the access still stands. -/
def PartOver (id : Nat) (p : Part) (t : State) : Prop :=
  ∀ y, t.accs.find id = some y → ∀ q, q ∈ y.parts → q.elem = p.elem → q.pos = p.pos → q.done = true

/-- Memory has bytes at a place, and every other byte as before. -/
def MemPuts (place : Nat) (bytes : List Byte) (s t : State) : Prop :=
  (∀ k x, bytes[k]? = some x → Memory.get t.mem (place + k) = x) ∧
    ∀ q, (q < place ∨ place + bytes.length ≤ q) → Memory.get t.mem q = Memory.get s.mem q

/-- Bytes are what a load of a part takes: of each the latest earlier store of its context, or else, where no line serves it, what stands at the
place (R107, R213). -/
def LoadSees (s : State) (id : Nat) (a : Access) (p : Part) (place : Nat) (bytes : List Byte) : Prop :=
  bytes.length = p.len ∧ ∀ k, k < p.len → (∀ x, forwarded s id a (p.va + k) = some x → bytes[k]? = some x) ∧
    (forwarded s id a (p.va + k) = none → cachedLine s a p true = none → bytes[k]? = some (Memory.get s.mem (place + k)))

/-- The bytes of a part of an access are in its data, and memory, the contexts and the rest of it stand. -/
def LoadDone (s : State) (id : Nat) (a : Access) (p : Part) (place : Nat) (t : State) : Prop :=
  t.mem = s.mem ∧ CtxsStand s t ∧ (s.accs.wf = true → PartOver id p t) ∧
    ∃ y bytes, t.accs.find id = some y ∧ y.data = putBytes a.data p.pos bytes ∧ LoadSees s id a p place bytes

theorem memPuts_of_write {place : Nat} {bytes : List Byte} {s t : State} (w : Memory.wf s.mem = true) (h : t.mem = Memory.write s.mem place bytes) :
    MemPuts place bytes s t := by
  rw [MemPuts, h]
  refine ⟨fun k x hx => ?_, fun q hq => Memory.get_write_of_outside w hq⟩
  obtain ⟨hk, rfl⟩ := List.getElem?_eq_some_iff.mp hx
  exact Memory.get_write_of_inside w hk

section
variable {s : State} {id : Nat} {a : Access} {p : Part} {place : Nat}

/-- What a read sees, by the bytes that stand there or in the line that serves it. -/
theorem loadSees_seenBytes {bytes : List Byte} (hlen : bytes.length = p.len)
    (h : cachedLine s a p true = none → ∀ k, k < p.len → bytes[k]? = some (Memory.get s.mem (place + k))) :
    LoadSees s id a p place (seenBytes s id a p bytes) := by
  refine ⟨(length_seenBytes bytes).trans hlen, fun k hk => ⟨fun x hx => ?_, fun hn hl => ?_⟩⟩
  · have hget : bytes[k]? = some bytes[k] := List.getElem?_eq_getElem (by omega)
    rw [getElem?_seenBytes, hget, hx]
    rfl
  · rw [getElem?_seenBytes, h hl k hk, hn]
    rfl

theorem getElem?_placeBytes (src : Nat → Byte) {k : Nat} (hk : k < p.len) : (placeBytes p src)[k]? = some (src (p.va + k)) := by
  simp [placeBytes, hk]

theorem seenFrom_add (s : State) (va place k : Nat) : seenFrom s va place (va + k) = Memory.get s.mem (place + k) := by
  rw [seenFrom, show place + (va + k) - va = place + k by omega]

theorem placeBytes_seenFrom (s : State) (p : Part) (place : Nat) : placeBytes p (seenFrom s p.va place) = Memory.read s.mem place p.len := by
  have hlen : (placeBytes p (seenFrom s p.va place)).length = p.len := by simp [placeBytes]
  rw [← hlen]
  refine (Tests.read_eq s.mem place _ fun i hi => ?_).symm
  have hget := getElem?_placeBytes (seenFrom s p.va place) (hlen ▸ hi)
  rw [seenFrom_add] at hget
  exact (List.getElem?_eq_some_iff.mp hget).2.symm

theorem loadSees_of_line {l : CacheLine} (h : cachedLine s a p true = some l) : LoadSees s id a p place (seenBytes s id a p (lineBytesOf l p)) :=
  loadSees_seenBytes (by simp [lineBytesOf]) fun hn => nomatch hn.symm.trans h

theorem loadSees_of_place : LoadSees s id a p place (seenBytes s id a p (placeBytes p (seenFrom s p.va place))) :=
  loadSees_seenBytes (by simp [placeBytes]) fun _ k hk => by rw [getElem?_placeBytes _ hk, seenFrom_add]

/-- A load all of whose bytes its context has stored takes those (R107). -/
theorem loadSees_of_allForwarded (h : allForwarded s id a p = true) :
    LoadSees s id a p place ((List.range p.len).map fun i => (forwarded s id a (p.va + i)).getD 0#8) := by
  simp only [allForwarded, Bool.and_eq_true, List.all_eq_true, List.mem_range] at h
  refine ⟨by simp, fun k hk => ⟨fun x hx => by simp [hk, hx], fun hn => ?_⟩⟩
  have hsome := h.2 k hk
  rw [hn] at hsome
  exact nomatch hsome

end

section
variable {id : Nat} {a b : Access} {p : Part} {s u : State} {bytes : List Byte} {place : Nat} {r : Option (List Byte)}

/-- A write of a part: memory takes its bytes at the place, the part is over, and the contexts stand. -/
theorem outcome_of_write (hu : memCtxsAcc id u = (Memory.write s.mem place bytes, s.ctxs, some a)) :
    let t := applyAll (finishPart id p r u) u
    t.mem = Memory.write s.mem place bytes ∧ CtxsStand s t ∧ (u.accs.wf = true → PartOver id p t) ∧
      (a.what ≠ .store → ∃ y, t.accs.find id = some y ∧ y.data = (a.finished p r).data) := by
  simp only [memCtxsAcc, Prod.mk.injEq] at hu
  obtain ⟨hmem, hctxs, hfind⟩ := hu
  refine ⟨(congrArg State.mem (beyondParts_finishPart hfind p r) :).trans hmem, .trans_ctxs hctxs (ctxsStand_finishPart hfind p r),
    fun hw y hy q hq => done_finishPart hfind p r hw hy hq, fun hw => ?_⟩
  obtain ⟨y, hy, -, hdata, -⟩ := find_finishPart hfind p r (.inl hw)
  exact ⟨y, hy, hdata⟩

/-- A load of a part: the bytes that it takes are in the data of its access. -/
theorem outcome_of_load (hmem : u.mem = s.mem) (hctxs : u.ctxs = s.ctxs) (hfind : u.accs.find id = some b) (hdata : b.data = a.data) (hb : b.what = .load)
    (hwf : s.accs.wf = true → u.accs.wf = true) (hsees : LoadSees s id a p place bytes) :
    LoadDone s id a p place (applyAll (finishPart id p (some bytes) u) u) := by
  obtain ⟨y, hy, -, hd, -⟩ := find_finishPart hfind p (some bytes) (.inl (by rw [hb]; decide))
  exact ⟨(congrArg State.mem (beyondParts_finishPart hfind p (some bytes)) :).trans hmem, .trans_ctxs hctxs (ctxsStand_finishPart hfind p _),
    fun hw y hy q hq => done_finishPart hfind p _ (hwf hw) hy hq, y, bytes, hy, hd.trans (by rw [Access.finished, hdata]), hsees⟩

/-- A load of a part at its place, from a state in which its access may have been bound. -/
theorem loadDone_performAt (hmem : u.mem = s.mem) (hctxs : u.ctxs = s.ctxs) (hfind : u.accs.find id = some b) (hdata : b.data = a.data)
    (hb : b.what = .load) (ha : a.what = .load) (hwf : s.accs.wf = true → u.accs.wf = true) (hfor : forwarded u id a = forwarded s id a)
    {served : Bool} (hline : cachedLine u a p served = cachedLine s a p served) (store : List Byte → Act) :
    LoadDone s id a p place (applyAll (performAt id a p (seenFrom s p.va place) store served u) u) := by
  have hseen (l : List Byte) : seenBytes u id a p l = seenBytes s id a p l := by rw [seenBytes, seenBytes, hfor]
  cases hl : cachedLine s a p served with
  | some l =>
    rw [performAt_load_cached ha (hline.trans hl), hseen]
    exact outcome_of_load hmem hctxs hfind hdata hb hwf (loadSees_of_line (cachedLine_of_served hl))
  | none =>
    rw [performAt_load_uncached ha (hline.trans hl), hseen, applyAll_seq]
    have hfill := (keeps_fillLine (coreOf a.key) (effectiveCid a.cid p.va) (a.kind = .cluster) p.va (seenFrom s p.va place) u).applyAll u
    exact outcome_of_load ((congrArg State.mem hfill :).trans hmem) ((congrArg State.ctxs hfill :).trans hctxs)
      ((congrArg (fun v => v.accs.find id) hfill :).trans hfind) hdata hb (fun hw => accs_wf_applyAll (hwf hw) _) loadSees_of_place

end

end Sys2Proof.Machine
end

section
/-!
Accesses over a path (R200, R249, R256).
-/
namespace Sys2Proof.Machine

/-! The faults of a path. -/

section
variable {a : Access} (hf : a.what ≠ .fetch) (hm : a.what ≠ .metaFetch)
include hf hm

theorem faultCode_of_data (w : Why) : faultCode a w = w := by
  unfold faultCode
  dsimp only
  split
  · contradiction
  · contradiction
  · rfl

theorem faultVa_of_data (p : Part) : faultVa a p = BitVec.ofNat 52 p.va := by
  unfold faultVa
  split
  · contradiction
  · contradiction
  · rfl

/-- The message of a fault that is not of a fetch names its code and its address (R256). -/
theorem faultMsg_of_data (id : Nat) (p : Part) (w : Why) (home : BitVec 8) : let m := faultMsg id a p w home
    m.key = a.key ∧ m.access = id ∧ m.bseq = a.op.bseq ∧ m.code = w.1 ∧ m.why = w.2 ∧ m.va = BitVec.ofNat 52 p.va := by
  rw [faultMsg, faultCode_of_data hf hm, faultVa_of_data hf hm]
  exact ⟨rfl, rfl, rfl, rfl, rfl, rfl⟩

end

/-- A path's own faults are no uncorrectable errors. -/
theorem pathFault_code {s : State} {q : Quarter} {a : Access} {p : Part} {w : Why} (h : pathFault s q a p = some w) : w.1 ≠ codeUncorrectable := by
  have hcode : w.1 = codeAtomicPath ∨ w.1 = codeNotPresent := by
    unfold pathFault pathDown at h
    dsimp only at h
    split_ifs at h <;> cases h <;> simp
  rcases hcode with h | h <;> rw [h] <;> decide

theorem faultyPart_of_path {s u : State} {q : Quarter} {a : Access} {p : Part} {w : Why} (h : pathFault s q a p = some w) : faultyPart u a p w = p :=
  if_neg (pathFault_code h)

/-- The parts that a check finds faulting, where no part meets a fault on its way: those whose far side answers with an error. -/
theorem mem_badParts {s : State} {id n : Nat} {a : Access} (hnone : ∀ p ∈ a.parts, p.done = false → ∀ sliced, partFault s id a p sliced = none)
    {x : Part × Why × BitVec 8} (hx : x ∈ badParts s id a n) : x.2 = ((codeNotPresent, 0x3B#8), 0xFF#8) := by
  obtain ⟨p, hp, hpx⟩ := List.mem_filterMap.mp hx
  obtain ⟨hm, hd⟩ := List.mem_filter.mp hp
  rw [hnone p hm (by simpa using hd)] at hpx
  dsimp only at hpx
  split_ifs at hpx
  cases hpx
  rfl

/-- A fault found after the check of an access: its message is on its way, and the part is over (R256). -/
theorem applyAll_lateFault {u : State} {id : Nat} {a : Access} (h : u.accs.find id = some a) (ha : a.faulted = none) (p : Part) (w : Why × BitVec 8) :
    let m := faultMsg id a (faultyPart u a p w.1) w.1 w.2
    let t := applyAll (lateFault id a p w u) u
    t.mem = u.mem ∧ t.ctxs = u.ctxs ∧ (∃ at_, t.faults = u.faults ++ [(at_, { m with found := u.now })] ∧ u.now ≤ at_) ∧
      ∃ y, t.accs.find id = some y ∧ y.faulted = some m := by
  intro m t
  let v : State := { u with free := u.free + 1, faults := u.faults ++ [(u.now + Config.freeNat u.free, { m with found := u.now })]
                            accs := u.accs.set id { a with faulted := some m } }
  have ht : t = applyAll (finishPart id p none v) v := by
    have hsend : applyAll ([.free] ++ if a.faulted.isNone then sendFault (u.now + Config.freeNat u.free) m u else []) u =
        { u with free := u.free + 1, faults := u.faults ++ [(u.now + Config.freeNat u.free, { m with found := u.now })] } := by
      rw [if_pos (by rw [ha]; rfl)]
      rfl
    have hmark := applyAll_modAcc (u := { u with free := u.free + 1, faults := u.faults ++ [(u.now + Config.freeNat u.free, { m with found := u.now })] })
      h fun a => { a with faulted := some ((a.faulted.map fun n => worse n m).getD m) }
    rw [ha] at hmark
    change applyAll (lateFault id a p w u) u = _
    rw [lateFault, applyAll_seqs_cons, hsend, applyAll_seqs_cons, hmark, applyAll_seqs_cons]
    rfl
  have hfind : v.accs.find id = some { a with faulted := some m } := Sparse.find_set_self _ _ _
  have hbeyond := beyondParts_finishPart hfind p none
  obtain ⟨y, hy, -, -, hyf⟩ := find_finishPart hfind p none (.inr (Option.some_ne_none m))
  rw [ht]
  exact ⟨(congrArg State.mem hbeyond :), ctxs_finishPart_of_faulted hfind p none (Option.some_ne_none m),
    ⟨_, (congrArg State.faults hbeyond :), Nat.le_add_right _ _⟩, y, hy, hyf⟩

/-! What becomes of an access over a path. -/

section
variable {id : Nat} {s : State} {a : Access} {p : Part} (h : routedPart s id .path = some (a, p))
include h

theorem pathAccess_of_unchecked (hc : a.checked = false) : pathAccess id s = Act.seq (fun _ => [.free]) (checkAccess id a s.free) s := by
  rw [pathAccess, h]
  dsimp only [Act.seq]
  rw [if_pos (by simp [hc])]

theorem pathAccess_of_fault (hc : a.checked = true) (hr : a.what.writes = false) {w : Why} (hw : pathFault s (accessQuarter s a) a p = some w) :
    pathAccess id s = Act.seq (fun _ => [.free]) (lateFault id a p (w, 0xFF#8)) s := by
  rw [pathAccess, h]
  dsimp only [Act.seq]
  rw [if_neg (by simp [hc]), if_neg (by simp [hr]), hw]

theorem pathAccess_of_performs (hc : a.checked = true) (hw : a.what.writes = true ∨ pathFault s (accessQuarter s a) a p = none) :
    pathAccess id s = Act.seq (fun _ => [.free]) (performFar id a p (Config.freeOrder s.free 1 % 2 = 0)) s := by
  have hnone : (if a.what.writes then none else pathFault s (accessQuarter s a) a p) = none := by
    rcases hw with hw | hw <;> simp [hw]
  rw [pathAccess, h]
  dsimp only [Act.seq]
  rw [if_neg (by simp [hc]), hnone]

end

/-- An access that its host never answers goes on, and is not answered (R249). -/
theorem applyAll_checkAccess_silent {u : State} {id n : Nat} {a : Access} (h : u.accs.find id = some a) (hbad : badParts u id a n = [])
    (hsilent : farSilent u a n = true) :
    applyAll (checkAccess id a n u) u = { u with accs := u.accs.set id { a with checked := true, sent := some u.now } } := by
  rw [checkAccess_eq, hbad, hsilent, if_pos (by simp), applyAll_modAcc h]

theorem pathToHost_of_farSilent {u : State} {a : Access} {n : Nat} (h : farSilent u a n = true) :
    ∃ x, x ∈ a.parts ∧ x.done = false ∧ pathToHost (accessQuarter u a) x.va = true := by
  simp only [farSilent, Bool.and_eq_true, List.any_eq_true] at h
  obtain ⟨-, x, hx, ⟨hd, -⟩, hhost⟩ := h
  exact ⟨x, hx, by simpa using hd, hhost⟩

/-- An access that is not answered faults 2^30 cycles after it was sent (R249). -/
theorem unansweredAccesses (id at_ : Nat) (s : State) (a : Access) (p : Part) (h : s.accs.find id = some a) (hsent : a.sent = some at_)
    (ha : a.faulted = none) (hp : p ∈ a.parts) (hd : p.done = false) (hsilent : a.silent p = true) (hroute : routeOf a p = .path)
    (hlate : at_ + 2 ^ 30 ≤ s.now) (hfetch : a.what ≠ .fetch) (hmeta : a.what ≠ .metaFetch) :
    Answers (.pathResponseTimeout id) s fun t => t.mem = s.mem ∧ t.ctxs = s.ctxs ∧ ∃ n m, t.faults = s.faults ++ [(n, m)] ∧ s.now ≤ n ∧ m.key = a.key ∧
      m.access = id ∧ m.code = codeNotPresent ∧ m.why = 0x3B#8 := by
  let bad : List (Part × Why × BitVec 8) := (a.parts.filter fun p => !p.done && a.silent p && routeOf a p = .path).map fun p =>
    (p, (codeNotPresent, 0x3B#8), 0xFF#8)
  have hbad : bad ≠ [] := List.ne_nil_of_mem (List.mem_map_of_mem (List.mem_filter.mpr ⟨hp, by simp [hd, hsilent, hroute]⟩))
  have hx : pathTimeout id s = faultAccess id { a with sent := none } bad false s := by
    rw [pathTimeout, h]
    dsimp only
    rw [hsent]
    dsimp only
    exact if_neg (by omega)
  obtain ⟨n, m, y, ht, hn, ⟨x, hxbad, hm⟩, -⟩ := applyAll_faultAccess (a := { a with sent := none }) h ha ha hbad false
  obtain ⟨r, -, rfl⟩ := List.mem_map.mp hxbad
  obtain ⟨hkey, haccess, -, hcode, hwhy, -⟩ := faultMsg_of_data (a := { a with sent := none }) hfetch hmeta id r (codeNotPresent, 0x3B#8) 0xFF#8
  refine ⟨_, rfl, ?_⟩
  rw [hx, ht]
  subst hm
  exact ⟨rfl, rfl, n, _, rfl, hn, hkey, haccess, hcode, hwhy⟩

theorem pathAccesses : Clause.PathAccesses := by
  refine ⟨fun id s a p h hwf => ?_, unansweredAccesses⟩
  obtain ⟨hfind, -, -, -⟩ := routedPart_some h
  let u : State := { s with free := s.free + 1 }
  have hu : applyAll [.free] s = u := rfl
  intro i q place bytes ctxsStand faults
  refine ⟨fun hc ha he hfetch hmeta hclear => ⟨_, rfl, ?check⟩, fun w hc ha hr hw hfetch hmeta => ⟨_, rfl, ?fault⟩, fun hc hw => ⟨_, rfl, ?store⟩,
    fun hc hw hn => ⟨_, rfl, ?load⟩⟩
  case check =>
    rw [pathAccess_of_unchecked h hc, applyAll_seq, hu]
    by_cases hbad : badParts u id a s.free = []
    · cases hsilent : farSilent u a s.free with
      | true => exact .inr (.inl ⟨pathToHost_of_farSilent hsilent, applyAll_checkAccess_silent hfind hbad hsilent⟩)
      | false =>
        have hspots : writeSpots u a = [] := writeSpots_of_no_home fun x hx hd => by rw [(hclear x hx hd).1]; decide
        have ht := applyAll_checkAccess_clear (u := u) hfind hbad hsilent (farMute_of_not_elementwise he) (fun hne => absurd hspots hne)
          (by rw [hspots]; exact List.forall_mem_nil _)
        rw [hspots] at ht
        exact .inr (.inr ht)
    · obtain ⟨at_, m, y, ht, hat, ⟨x, hx, hm⟩, hy, hdone⟩ := applyAll_checkAccess_bad (u := u) hfind ha he hbad
      obtain ⟨hkey, haccess, -, -, hwhy, -⟩ := faultMsg_of_data hfetch hmeta id x.1 x.2.1 x.2.2
      rw [← hm] at hkey haccess hwhy
      rw [mem_badParts (fun x hx hd => (hclear x hx hd).2) hx] at hwhy
      rw [ht]
      refine .inl ⟨m, ⟨rfl, rfl, hkey, haccess, hwhy, ⟨at_, rfl, hat⟩, y, Sparse.find_set_self _ _ _, hy⟩, fun z hz => ?_⟩
      cases (Sparse.find_set_self _ _ _).symm.trans hz
      exact hdone
  case fault =>
    rw [pathAccess_of_fault h hc hr hw, applyAll_seq, hu]
    obtain ⟨hmem, hctxs, hsent, hy⟩ := applyAll_lateFault (u := u) hfind ha p (w, 0xFF#8)
    rw [faultyPart_of_path hw] at hsent hy
    obtain ⟨hkey, haccess, -, hcode, hwhy, hva⟩ := faultMsg_of_data hfetch hmeta id p w 0xFF#8
    exact ⟨_, ⟨hmem, hctxs, hkey, haccess, hwhy, hsent, hy⟩, hcode, hva⟩
  case store =>
    rw [pathAccess_of_performs h hc (.inl (by rw [hw]; rfl)), applyAll_seq, hu]
    change ctxsStand (applyAll (performFar id a p _ u) u) ∧ MemPuts place bytes s (applyAll (performFar id a p _ u) u)
    rw [performFar, performAt_store hw, applyAll_seq]
    have hwrite := memCtxsAcc_writePart id a p (storeBytes place) bytes u
    obtain ⟨hmem, hctxs, -, -⟩ := outcome_of_write (s := s) (a := a) (p := p) (place := place) (bytes := bytes) (r := none)
      (hwrite.trans (congrArg (fun y => (Memory.write s.mem place bytes, s.ctxs, y)) hfind))
    exact ⟨hctxs, memPuts_of_write hwf hmem⟩
  case load =>
    rw [pathAccess_of_performs h hc (.inr hn), applyAll_seq, hu]
    obtain ⟨hmem, hctxs, -, y, r, hy, hdata, hsees⟩ := loadDone_performAt (s := s) (u := u) (place := place) rfl rfl hfind rfl hw hw (fun w => w) rfl
      (served := Config.freeOrder s.free 1 % 2 = 0) rfl (storeBytes place)
    exact ⟨hmem, hctxs, y, r, hy, hdata, hsees⟩

end Sys2Proof.Machine
end

section
/-!
Accesses at a home or in a scratchpad (R107, R200, R210, R252, R256, R309, R312).
-/
namespace Sys2Proof.Machine

/-! Frames outside the snapshot sets (R309, R312). -/

/-- Where no snapshot has a frame to do, no frame is in a snapshot set. -/
theorem inSnapshot_of_no_todo {s : State} (h : ∀ x, x ∈ s.blocks → x.2.snap.todo = []) (die loc : Nat) : inSnapshot s die loc = none := by
  have htodo (q c : Nat) : (s.block q c).snap.todo = [] := by
    rcases Sparse.get_mem_or_default {} s.blocks (q * 256 + c) with hx | ⟨x, hm, hx⟩
    · rw [State.block, hx]
    · rw [State.block, hx]
      exact h x hm
  simp [inSnapshot, htodo]

theorem redirectFrame_of_not_inSnapshot {s : State} {sp : Spot} (h : inSnapshot s sp.die sp.loc = none) : redirectFrame sp s = [] := by
  rw [redirectFrame, h]

theorem mustWait_of_not_inSnapshot {s : State} {l : List Spot} (h : ∀ sp ∈ l, inSnapshot s sp.die sp.loc = none) (order : Option (Nat × Nat)) :
    mustWait s order l = false := by
  have hnone {β : Type} (f : Spot → BitVec 8 → β) : l.filterMap (fun sp => (inSnapshot s sp.die sp.loc).map (f sp)) = [] :=
    List.filterMap_eq_nil_iff.mpr fun sp hsp => by rw [h sp hsp]; rfl
  simp [mustWait, reserveShort, reserveWants, behindHeld, hnone, distinct]

theorem applyAll_applyWrite {s : State} {sp : Spot} (h : inSnapshot s sp.die sp.loc = none) (bytes : List Byte) (id : Nat) :
    memCtxsAcc id (applyAll (applyWrite sp bytes s) s) = (Memory.write s.mem (hbmPlace sp.die sp.loc) bytes, s.ctxs, s.accs.find id) := by
  have hloc : sp.loc / 65536 * 65536 + sp.loc % 65536 = sp.loc := by omega
  rw [applyWrite, applyAll_seq, redirectFrame_of_not_inSnapshot h, h]
  simp only [Option.isSome_none, Bool.false_eq_true, if_false, hloc]
  rfl

theorem applyAll_homeWrite {s : State} {sp : Spot} (h : inSnapshot s sp.die sp.loc = none) (cid : BitVec 8) (va : Nat) (bytes : List Byte) (id : Nat) :
    memCtxsAcc id (applyAll (homeWrite cid va sp bytes s) s) = (Memory.write s.mem (hbmPlace sp.die sp.loc) bytes, s.ctxs, s.accs.find id) := by
  rw [homeWrite, applyAll_seq]
  refine (Keeps.applyAll (p := memCtxsAcc id) (Keeps.when ?_ _) _).trans (applyAll_applyWrite h bytes id)
  exact Keeps.singleton fun _ => rfl

/-! The place of a part. -/

/-- Where a part of an access has its place: in its home's memory, outside a snapshot set, in the window, or in the own scratchpad. -/
def PlaceOf (s : State) (a : Access) (p : Part) (place : Nat) : Prop :=
  match a.kind with
  | .global => ∃ sp, (homeSpot s a p = .ok sp) ∧ place = hbmPlace sp.die sp.loc ∧ inSnapshot s sp.die sp.loc = none
  | .cluster => place = windowPlace (coreOf a.key) p.va
  | _ => place = spadPlace (coreOf a.key) p.va

/-! A write of a part at its place. -/

/-- A write of a part has its bytes at the place, and the part is over; an atomic has the old bytes. -/
def WriteDone (s : State) (id : Nat) (a : Access) (p : Part) (place : Nat) (bytes : List Byte) (r : Option (List Byte)) (t : State) : Prop :=
  t.mem = Memory.write s.mem place bytes ∧ CtxsStand s t ∧ (s.accs.wf = true → PartOver id p t) ∧
    (a.what ≠ .store → ∃ y, t.accs.find id = some y ∧ y.data = (a.finished p r).data)

/-- A store of bytes that puts them at a place and leaves the contexts and one access. -/
def StoresAt (id place : Nat) (store : List Byte → Act) (s : State) : Prop :=
  ∀ bytes, memCtxsAcc id (applyAll (store bytes s) s) = (Memory.write s.mem place bytes, s.ctxs, s.accs.find id)

theorem storesAt_storeBytes (id place : Nat) (s : State) : StoresAt id place (storeBytes place) s := fun _ => rfl

section
variable {s u : State} {id : Nat} {a : Access} {p : Part} {place : Nat} {bytes : List Byte} {r : Option (List Byte)} {l : List Effect}

/-- What a step does to the caches afterwards does not undo a write. -/
theorem WriteDone.of_keeps (hl : Keeps beyondCaches l) (h : WriteDone s id a p place bytes r u) : WriteDone s id a p place bytes r (applyAll l u) := by
  obtain ⟨hmem, hctxs, hover, hdata⟩ := h
  have hk := hl.applyAll u
  have haccs : (applyAll l u).accs = u.accs := (congrArg State.accs hk :)
  refine ⟨(congrArg State.mem hk :).trans hmem, fun k => ?_, fun hw y hy => hover hw y (haccs ▸ hy), fun hw => haccs ▸ hdata hw⟩
  rw [State.ctx, show (applyAll l u).ctxs = u.ctxs from (congrArg State.ctxs hk :)]
  exact hctxs k

theorem LoadDone.of_keeps (hl : Keeps beyondCaches l) (h : LoadDone s id a p place u) : LoadDone s id a p place (applyAll l u) := by
  obtain ⟨hmem, hctxs, hover, hdata⟩ := h
  have hk := hl.applyAll u
  have haccs : (applyAll l u).accs = u.accs := (congrArg State.accs hk :)
  refine ⟨(congrArg State.mem hk :).trans hmem, fun k => ?_, fun hw y hy => hover hw y (haccs ▸ hy), haccs ▸ hdata⟩
  rw [State.ctx, show (applyAll l u).ctxs = u.ctxs from (congrArg State.ctxs hk :)]
  exact hctxs k

theorem writeDone_writePart {store : List Byte → Act} (hu : beyondCaches u = beyondCaches s) (hfind : s.accs.find id = some a)
    (hstore : StoresAt id place store u) :
    WriteDone s id a p place bytes r (applyAll (Act.seq (writePart id a p store bytes) (finishPart id p r) u) u) := by
  have hfree : (u.mem, u.ctxs, u.accs.find id) = (s.mem, s.ctxs, some a) :=
    hfind ▸ (congrArg (fun v : State => (v.mem, v.ctxs, v.accs.find id)) hu :)
  simp only [Prod.mk.injEq] at hfree
  obtain ⟨hmem, hctxs, hacc⟩ := hfree
  rw [applyAll_seq]
  obtain ⟨htmem, htctxs, hover, hdata⟩ := outcome_of_write (s := s) (p := p) (r := r)
    ((memCtxsAcc_writePart id a p store bytes u).trans ((hstore bytes).trans (by rw [hmem, hctxs, hacc])))
  have haccs : u.accs = s.accs := (congrArg State.accs hu :)
  exact ⟨htmem, htctxs, fun hw => hover (accs_wf_applyAll (haccs ▸ hw) _), hdata⟩

end

/-! The steps of HOME_ACCESS. -/

section
variable {id : Nat} {s : State} {a : Access} {p : Part} (h : routedPart s id .home = some (a, p))
include h

theorem homeAccess_of_unchecked (hc : a.checked = false) : homeAccess id s = Act.seq (fun _ => [.free]) (checkAccess id a s.free) s := by
  rw [homeAccess, h]
  dsimp only [Act.seq]
  rw [if_pos (by simp [hc])]

variable (hc : a.checked = true)
include hc

theorem homeAccess_of_held (hres : reserveHolds s id a = true) : homeAccess id s = Act.seq (fun _ => [.free]) (holdAccess id) s := by
  have hres' : reserveHolds (applyAll [.free] s) id a = true := hres
  rw [homeAccess, h]
  dsimp only [Act.seq]
  rw [if_neg (by simp [hc]), if_pos hres']

theorem homeAccess_of_performs (hres : reserveHolds s id a = false) (hsince : a.heldSince = none)
    (hf : a.what.writes = true ∨ ∀ sliced, partFault s id a p sliced = none) : homeAccess id s = Act.seq (fun _ => [.free])
      (performPart id a p (Config.freeOrder s.free 1 % 2 = 0) (Config.freeOrder s.free 4 % 2 = 0)) s := by
  let u : State := applyAll [.free] s
  have hnone : (if a.what.writes then none else partFault u id a p (Config.freeOrder s.free 4 % 2 = 0)) = none := by
    rcases hf with hf | hf
    · rw [if_pos hf]
    · rw [show partFault u id a p _ = none from hf _, ite_self]
  have hres' : reserveHolds u id a = false := hres
  rw [homeAccess, h]
  dsimp only [Act.seq]
  rw [if_neg (by simp [hc]), if_neg (Bool.not_eq_true _ ▸ hres'), if_neg (by simp [hsince]), hnone]

end

/-! A part at its place. -/

section
variable {s : State} {id : Nat} {a : Access} {p : Part} {place : Nat}

theorem allForwarded_of_writes (hw : a.what.writes = true) : allForwarded s id a p = false := by
  cases hx : a.what <;> simp_all [allForwarded, AccessOp.writes]

theorem bindPage_of_writes (hw : a.what.writes = true) : bindPage id a p s = [] := if_pos (by rw [hw]; rfl)

/-- Binding the rest of a page to its places changes the places alone that its access is bound to. -/
theorem applyAll_bindPage (h : s.accs.find id = some a) : applyAll (bindPage id a p s) s = s ∨
    ∃ l, applyAll (bindPage id a p s) s = { s with accs := s.accs.set id { a with bound := l } } := by
  unfold bindPage
  dsimp only
  split_ifs
  · exact .inl rfl
  · split
    · exact .inl rfl
    · exact .inr ⟨_, applyAll_modAcc h _⟩

/-- What a read forwards from earlier stores does not depend on its own access in the table (R107). -/
theorem forwarded_set (b c : Access) : forwarded { s with accs := s.accs.set id b } id c = forwarded s id c := by
  funext va
  unfold forwarded forwardFrom
  rw [Sparse.filter_set _ _ fun w => by simp]

theorem performPart_global (hk : a.kind = .global) {served sliced : Bool} (hf : allForwarded s id a p = false)
    (hl : (if a.what.onlyReads then sliceLine s (partOf s.pkg (coreOf a.key)) (effectiveCid a.cid p.va) p.va sliced else none) = none) {sp : Spot}
    (hspot : homeSpot s a p = .ok sp) : performPart id a p served sliced s =
      Act.seqs [bindPage id a p, performAt id a p (seenFrom s p.va (hbmPlace sp.die sp.loc)) (homeWrite (effectiveCid a.cid p.va) p.va sp) served,
        Act.when a.what.onlyReads (fillSlice (effectiveCid a.cid p.va) p.va sp),
        fillTlb s (partOf s.pkg (coreOf a.key)) (effectiveCid a.cid p.va) p.va] s := by
  unfold performPart
  rw [hk]
  dsimp only
  rw [if_neg (by simp [hf]), hl]
  dsimp only
  rw [hspot]

theorem performPart_allForwarded (hk : a.kind = .global) (served sliced : Bool) (hf : allForwarded s id a p = true) : performPart id a p served sliced s =
    finishPart id p (some ((List.range p.len).map fun i => (forwarded s id a (p.va + i)).getD 0#8)) s := by
  unfold performPart
  rw [hk]
  exact if_pos hf

/-- The bytes of a part in the window. -/
def windowPlaces (a : Access) (p : Part) : List Nat := (List.range p.len).map fun i => windowPlace (coreOf a.key) p.va + i

theorem performPart_cluster (hk : a.kind = .cluster) (served sliced : Bool) : performPart id a p served sliced s =
    Act.seqs [Act.when (a.what.writes && ownPart (coreOf a.key) a.kind p) (keepSources (coreOf a.key) (fun _ => true) (windowPlaces a p)),
      performAt id a p (seenFrom s p.va (windowPlace (coreOf a.key) p.va)) (storeBytes (windowPlace (coreOf a.key) p.va)) served,
      Act.when (a.what.reads && a.what.writes) (keepPlaces (windowPlaces a p))] s := by
  unfold performPart
  simp only [hk]
  rfl

theorem performPart_spad (hg : a.kind ≠ .global) (hc : a.kind ≠ .cluster) (served sliced : Bool) : performPart id a p served sliced s =
    performAt id a p (seenFrom s p.va (spadPlace (coreOf a.key) p.va)) (storeBytes (spadPlace (coreOf a.key) p.va)) served s := by
  unfold performPart
  split
  · contradiction
  · contradiction
  · rfl

theorem placeOf_spad (hg : a.kind ≠ .global) (hc : a.kind ≠ .cluster) (h : PlaceOf s a p place) : place = spadPlace (coreOf a.key) p.va := by
  unfold PlaceOf at h
  split at h
  · contradiction
  · contradiction
  · exact h

/-- A write of a part puts its bytes at its place, between changes of the caches. -/
theorem performPart_of_writes (hplace : PlaceOf s a p place) (hw : a.what.writes = true) (served sliced : Bool) : ∃ u store l,
    applyAll (performPart id a p served sliced s) s = applyAll l (applyAll (performAt id a p (seenFrom s p.va place) store served u) u) ∧
    beyondCaches u = beyondCaches s ∧ StoresAt id place store u ∧ Keeps beyondCaches l := by
  by_cases hg : a.kind = .global
  · simp only [PlaceOf, hg] at hplace
    obtain ⟨sp, hspot, rfl, hsnap⟩ := hplace
    rw [performPart_global hg (allForwarded_of_writes hw) (if_neg (by simp [AccessOp.onlyReads, hw])) hspot, applyAll_seqs_cons, bindPage_of_writes hw,
      applyAll_nil, applyAll_seqs_cons]
    refine ⟨s, _, _, rfl, rfl, fun bytes => applyAll_homeWrite hsnap _ _ bytes id, Keeps.seqs ?_ _⟩
    simp only [List.forall_mem_cons]
    exact ⟨fun v => (keeps_fillSlice _ _ _ v).when _, fun v => keeps_fillTlb _ _ _ _ v, List.forall_mem_nil _⟩
  by_cases hc : a.kind = .cluster
  · simp only [PlaceOf, hc] at hplace
    subst hplace
    rw [performPart_cluster hc, applyAll_seqs_cons, applyAll_seqs_cons]
    refine ⟨_, _, _, rfl, ((keeps_keepSources _ _ _ s).when _).applyAll s, storesAt_storeBytes _ _ _, Keeps.seqs ?_ _⟩
    simp only [List.forall_mem_cons]
    exact ⟨fun v => (keeps_keepPlaces _ v).when _, List.forall_mem_nil _⟩
  · obtain rfl := placeOf_spad hg hc hplace
    rw [performPart_spad hg hc]
    exact ⟨s, _, [], rfl, rfl, storesAt_storeBytes _ _ _, Keeps.nil⟩

variable (hfind : s.accs.find id = some a) (hplace : PlaceOf s a p place)
include hfind hplace

theorem writeDone_performPart_store (hw : a.what = .store) (served sliced : Bool) :
    WriteDone s id a p place ((a.data.drop p.pos).take p.len) none (applyAll (performPart id a p served sliced s) s) := by
  obtain ⟨u, store, l, ht, hu, hstore, hl⟩ := performPart_of_writes (id := id) hplace (by rw [hw]; rfl) served sliced
  rw [ht, performAt_store hw]
  exact (writeDone_writePart hu hfind hstore).of_keeps hl

theorem writeDone_performPart_atomic {aop : BitVec 4} {fp : Bool} (hw : a.what = .atomic aop fp) (served sliced : Bool) :
    WriteDone s id a p place (atomicBytes a p (Memory.read s.mem place p.len)) (some (Memory.read s.mem place p.len))
      (applyAll (performPart id a p served sliced s) s) := by
  obtain ⟨u, store, l, ht, hu, hstore, hl⟩ := performPart_of_writes (id := id) hplace (by rw [hw]; rfl) served sliced
  rw [ht, performAt_atomic hw, placeBytes_seenFrom]
  exact (writeDone_writePart hu hfind hstore).of_keeps hl

/-- A load of a part takes its bytes at its place, where the slice of its home holds no line of them (R107, R210). -/
theorem loadDone_performPart (hw : a.what = .load)
    (hline : sliceLine s (partOf s.pkg (coreOf a.key)) (effectiveCid a.cid p.va) p.va true = none) (served sliced : Bool) :
    LoadDone s id a p place (applyAll (performPart id a p served sliced s) s) := by
  by_cases hg : a.kind = .global
  · simp only [PlaceOf, hg] at hplace
    obtain ⟨sp, hspot, rfl, -⟩ := hplace
    cases hf : allForwarded s id a p with
    | true =>
      rw [performPart_allForwarded hg served sliced hf]
      exact outcome_of_load rfl rfl hfind rfl hw (fun w => w) (loadSees_of_allForwarded hf)
    | false =>
      have hl : sliceLine s (partOf s.pkg (coreOf a.key)) (effectiveCid a.cid p.va) p.va sliced = none := by
        cases sliced
        · rfl
        · exact hline
      rw [performPart_global hg hf (by rw [hl, ite_self]) hspot, applyAll_seqs_cons, applyAll_seqs_cons]
      refine LoadDone.of_keeps (Keeps.seqs ?_ _) ?_
      · simp only [List.forall_mem_cons]
        exact ⟨fun v => (keeps_fillSlice _ _ _ v).when _, fun v => keeps_fillTlb _ _ _ _ v, List.forall_mem_nil _⟩
      rcases applyAll_bindPage (p := p) hfind with hu | ⟨l, hu⟩
      · rw [hu]
        exact loadDone_performAt rfl rfl hfind rfl hw hw (fun w => w) rfl rfl _
      · let v : State := { s with accs := s.accs.set id { a with bound := l } }
        rw [show applyAll (bindPage id a p s) s = v from hu]
        exact loadDone_performAt (s := s) (a := a) (u := v) rfl rfl (Sparse.find_set_self _ _ _) rfl hw hw (Sparse.wf_put (v := some _)) (forwarded_set _ _) rfl _
  by_cases hc : a.kind = .cluster
  · simp only [PlaceOf, hc] at hplace
    subst hplace
    rw [performPart_cluster hc, hw, applyAll_seqs_cons, applyAll_seqs_cons]
    exact loadDone_performAt rfl rfl hfind rfl hw hw (fun w => w) rfl rfl _
  · obtain rfl := placeOf_spad hg hc hplace
    rw [performPart_spad hg hc]
    exact loadDone_performAt rfl rfl hfind rfl hw hw (fun w => w) rfl rfl _

end

/-! The places of a write. -/

theorem writeSpots_eq_nil {s : State} {a : Access} (h : a.kind ≠ .global ∨ a.what.writes = false) : writeSpots s a = [] := by
  unfold writeSpots
  exact if_pos (by rcases h with h | h <;> simp [h])

/-- A write that is bound to no place yet has those that its homes translate (R252). -/
theorem mem_writeSpots {s : State} {a : Access} (hb : a.bound = []) {x : Part × Spot} (hx : x ∈ writeSpots s a) : x.1 ∈ a.parts ∧
    locateRaw s (partOf s.pkg (coreOf a.key)) (effectiveCid a.cid x.1.va) x.1.va useData (effectiveCid a.cid x.1.va) = .ok x.2 := by
  unfold writeSpots at hx
  split_ifs at hx
  · exact nomatch hx
  obtain ⟨p, hp, hpx⟩ := List.mem_filterMap.mp hx
  split_ifs at hpx
  rw [hb, List.find?_nil] at hpx
  dsimp only at hpx
  split at hpx
  next sp hsp =>
    cases hpx
    exact ⟨hp, hsp⟩
  · exact nomatch hpx

/-- A part that faults is among those that the check finds. -/
theorem badParts_ne_nil {u : State} {id n : Nat} {a : Access} {q : Part} (hq : q ∈ a.parts) (hd : q.done = false)
    (hf : ∀ sliced, partFault u id a q sliced ≠ none) : badParts u id a n ≠ [] := by
  obtain ⟨w, hw⟩ := Option.ne_none_iff_exists'.mp (hf (Config.freeOrder n 4 % 2 = 0))
  refine List.ne_nil_of_mem (a := (faultyPart u a q w.1, w)) (List.mem_filterMap.mpr ⟨q, List.mem_filter.mpr ⟨hq, by simp [hd]⟩, ?_⟩)
  rw [hw]

theorem homeAccesses : Clause.HomeAccesses := by
  intro id s a p h
  obtain ⟨hfind, hp, -, -⟩ := routedPart_some h
  let u : State := { s with free := s.free + 1 }
  have hu : applyAll [.free] s = u := rfl
  intro i core cid clear isDone ctxsStand
  refine ⟨fun hc hb hclear htodo => ⟨_, rfl, ?check⟩, fun q hc ha hq hd hfault he => ⟨_, rfl, ?fault⟩, fun hc hres => congrArg Host.Outcome.next ?held,
    fun place hc hres hsince hplace hwf haccs => ⟨fun hw => ⟨_, rfl, ?store⟩, fun aop fp hw => ⟨_, rfl, ?atomic⟩,
      fun hw hclear hline => ⟨_, rfl, ?load⟩⟩⟩
  case check =>
    have hroute (q : Part) (hq : q ∈ a.parts) : routeOf a q ≠ .path := (hclear q false hq).2
    have hsnap := inSnapshot_of_no_todo (s := u) htodo
    have ht := applyAll_checkAccess_clear (u := u) (n := s.free) hfind
      (badParts_eq_nil (fun q hq _ sliced => (hclear q sliced hq).1) fun q hq _ => farRefuses_of_route (hroute q hq) _)
      (farSilent_of_no_path hroute) (farMute_of_no_path hroute) (fun _ => mustWait_of_not_inSnapshot (fun sp _ => hsnap _ _) _)
      (fun x _ => redirectFrame_of_not_inSnapshot (hsnap _ _))
    rw [homeAccess_of_unchecked h hc, applyAll_seq, hu, ht]
    refine ⟨_, rfl, fun hk => by rw [writeSpots_eq_nil hk]; rfl, fun b hbm => ?_⟩
    obtain ⟨x, hx, rfl⟩ := List.mem_map.mp hbm
    obtain ⟨hxp, hloc⟩ := mem_writeSpots hb hx
    exact ⟨x.1, hxp, rfl, hloc⟩
  case fault =>
    have hbad : badParts u id a s.free ≠ [] := badParts_ne_nil hq hd hfault
    obtain ⟨at_, m, y, ht, hat, ⟨x, -, rfl⟩, hy, hdone⟩ := applyAll_checkAccess_bad (u := u) hfind ha he hbad
    rw [homeAccess_of_unchecked h hc, applyAll_seq, hu, ht]
    exact ⟨rfl, rfl, at_, _, rfl, hat, rfl, rfl, rfl, y, Sparse.find_set_self _ _ _, hy, hdone⟩
  case held =>
    rw [homeAccess_of_held h hc hres, applyAll_seq, hu]
    exact applyAll_modAcc (u := u) hfind _
  case store =>
    rw [homeAccess_of_performs h hc hres hsince (.inl (by rw [hw]; rfl)), applyAll_seq, hu]
    obtain ⟨hmem, hctxs, hover, -⟩ := writeDone_performPart_store (s := u) hfind hplace hw (Config.freeOrder s.free 1 % 2 = 0)
      (Config.freeOrder s.free 4 % 2 = 0)
    exact ⟨hctxs, hover haccs, memPuts_of_write hwf hmem⟩
  case atomic =>
    rw [homeAccess_of_performs h hc hres hsince (.inl (by rw [hw]; rfl)), applyAll_seq, hu]
    obtain ⟨hmem, hctxs, hover, hdata⟩ := writeDone_performPart_atomic (s := u) hfind hplace hw (Config.freeOrder s.free 1 % 2 = 0)
      (Config.freeOrder s.free 4 % 2 = 0)
    simp only [atomicBytes, hw] at hmem
    exact ⟨⟨hctxs, hover haccs, memPuts_of_write hwf hmem⟩, hdata (by rw [hw]; exact nofun)⟩
  case load =>
    rw [homeAccess_of_performs h hc hres hsince (.inr fun sliced => (hclear p sliced hp).1), applyAll_seq, hu]
    obtain ⟨hmem, hctxs, hover, hbytes⟩ := loadDone_performPart (s := u) hfind hplace hw hline (Config.freeOrder s.free 1 % 2 = 0)
      (Config.freeOrder s.free 4 % 2 = 0)
    obtain ⟨y, bytes, hy, hdata, hlen, hsees⟩ := hbytes
    exact ⟨hmem, hctxs, hover haccs, y, bytes, hy, hdata, hlen, hsees⟩

/-- Settles O41: the step at a home, over a path, from outside the package and to a register, each by the rules of its check, of the end of a part and of
what a part does at its place. -/
theorem memoryAccesses : Obligations.MemoryAccesses := ⟨homeAccesses, pathAccesses, farAccesses, registerAccesses⟩

end Sys2Proof.Machine
end

section
/-!
Numbers in base 2^w, and the vector values that are made of elements (R121, R122).
-/
namespace Sys2Proof.Machine

/-- Digit k of a number in base 2^w: element k of a vector value under width w is that digit. -/
def digit (w n k : Nat) : Nat := n / 2 ^ (w * k) % 2 ^ w

theorem elem_eq_digit (w : Nat) (x : Vec) (k : Nat) : elem w x k = digit w x.toNat k := rfl

theorem digit_lt (w n k : Nat) : digit w n k < 2 ^ w := Nat.mod_lt _ (Nat.two_pow_pos w)

theorem elem_lt (w : Nat) (x : Vec) (k : Nat) : elem w x k < 2 ^ w := digit_lt ..

theorem testBit_digit {w b : Nat} (h : b < w) (n k : Nat) : (digit w n k).testBit b = n.testBit (w * k + b) := by
  rw [digit, Nat.testBit_mod_two_pow, Nat.testBit_div_two_pow, decide_eq_true h, Bool.true_and, Nat.add_comm]

/-- A digit is put where there is none: it stands in its place, and the other digits stand. -/
theorem digit_add {w n i v : Nat} (h : digit w n i = 0) (hv : v < 2 ^ w) (k : Nat) :
    digit w (n + v * 2 ^ (w * i)) k = if k = i then v else digit w n k := by
  have hpow (a b : Nat) : 2 ^ (w * (a + b)) = 2 ^ (w * a) * 2 ^ (w * b) := by rw [Nat.mul_add, pow_add]
  rcases Nat.lt_trichotomy k i with hk | rfl | hk
  · obtain ⟨j, rfl⟩ := Nat.exists_eq_add_of_lt hk
    have hmul : v * 2 ^ (w * (k + j + 1)) = 2 ^ (w * k) * (2 ^ w * (v * 2 ^ (w * j))) := by
      rw [show k + j + 1 = k + (1 + j) by omega, hpow, hpow, Nat.mul_one]; ring
    rw [if_neg (by omega), digit, digit, hmul, Nat.add_mul_div_left _ _ (Nat.two_pow_pos _), Nat.add_mul_mod_self_left]
  · rw [if_pos rfl, digit, Nat.add_mul_div_right _ _ (Nat.two_pow_pos _), Nat.add_mod, show n / 2 ^ (w * k) % 2 ^ w = 0 from h, Nat.zero_add,
      Nat.mod_mod, Nat.mod_eq_of_lt hv]
  · obtain ⟨j, rfl⟩ := Nat.exists_eq_add_of_lt hk
    have hdiv (m : Nat) : m / 2 ^ (w * (i + j + 1)) = m / 2 ^ (w * i) / 2 ^ w / 2 ^ (w * j) := by
      rw [show i + j + 1 = i + (1 + j) by omega, hpow, hpow, Nat.mul_one, Nat.div_div_eq_div_mul, Nat.div_div_eq_div_mul]
    have hlow : (n / 2 ^ (w * i) + v) / 2 ^ w = n / 2 ^ (w * i) / 2 ^ w := by
      have hmod : n / 2 ^ (w * i) % 2 ^ w = 0 := h
      rw [Nat.add_div_eq_of_add_mod_lt (by rw [hmod, Nat.zero_add, Nat.mod_eq_of_lt hv]; exact hv), Nat.div_eq_of_lt hv, Nat.add_zero]
    rw [if_neg (by omega), digit, digit, hdiv, hdiv, Nat.add_mul_div_right _ _ (Nat.two_pow_pos _), hlow]

/-- A number made of digits, each at its place. -/
def placed (w : Nat) (e : Nat → Nat) (l : List Nat) (n : Nat) : Nat := l.foldl (fun a k => a + e k % 2 ^ w * 2 ^ (w * k)) n

theorem digit_placed {w : Nat} {e : Nat → Nat} {l : List Nat} {n : Nat} (hnd : l.Nodup) (hz : ∀ j ∈ l, digit w n j = 0) (k : Nat) :
    digit w (placed w e l n) k = if k ∈ l then e k % 2 ^ w else digit w n k := by
  induction l generalizing n with
  | nil => exact (if_neg List.not_mem_nil).symm
  | cons j l ih =>
    rw [List.nodup_cons] at hnd
    have hadd := digit_add (hz j List.mem_cons_self) (Nat.mod_lt (e j) (Nat.two_pow_pos w))
    rw [placed, List.foldl_cons, ← placed, ih hnd.2 fun i hi => ?_]
    · by_cases hk : k = j
      · rw [hk, if_neg hnd.1, hadd, if_pos rfl, if_pos List.mem_cons_self]
      · rw [hadd, if_neg hk]
        exact if_congr (by rw [List.mem_cons, or_iff_right hk]) rfl rfl
    · rw [hadd, if_neg (ne_of_mem_of_not_mem hi hnd.1), hz i (List.mem_cons_of_mem j hi)]

theorem digit_placed_zero {l : List Nat} (hnd : l.Nodup) (w : Nat) (e : Nat → Nat) (k : Nat) :
    digit w (placed w e l 0) k = if k ∈ l then e k % 2 ^ w else 0 := by
  have hz (j : Nat) : digit w 0 j = 0 := by rw [digit, Nat.zero_div, Nat.zero_mod]
  rw [digit_placed hnd (fun j _ => hz j), hz]

/-- Bits above a digit do not change it. -/
theorem digit_mod {w k b : Nat} (h : w * (k + 1) ≤ b) (n : Nat) : digit w (n % 2 ^ b) k = digit w n k :=
  Nat.eq_of_testBit_eq fun i => by
    by_cases hi : i < w
    · rw [testBit_digit hi, testBit_digit hi, Nat.testBit_mod_two_pow, decide_eq_true (by rw [Nat.mul_succ] at h; omega), Bool.true_and]
    · rw [digit, digit, Nat.testBit_mod_two_pow, Nat.testBit_mod_two_pow, decide_eq_false hi, Bool.false_and, Bool.false_and]

theorem elem_ofNat {w k : Nat} (h : w * (k + 1) ≤ 1024) (n : Nat) : elem w (BitVec.ofNat 1024 n) k = digit w n k := by
  exact (congrArg (digit w · k) (BitVec.toNat_ofNat n 1024)).trans (digit_mod (b := 1024) h n)

theorem ones_mod (w : Nat) : (2 ^ w - 1) % 2 ^ w = 2 ^ w - 1 := Nat.mod_eq_of_lt (Nat.sub_one_lt (Nat.two_pow_pos w).ne')

/-- The write mask of elements is the number that has every bit of those elements. -/
theorem ofElems_map (w : Nat) (e : Nat → Nat) (l : List Nat) : ofElems w (l.map fun k => (k, e k)) =
    (BitVec.ofNat 1024 (placed w e l 0), BitVec.ofNat 1024 (placed w (fun _ => 2 ^ w - 1) l 0)) := by
  simp only [ofElems, placed, List.foldl_map, ones_mod]

/-- A vector value and a write mask hold the elements at some places: there the value has them and the mask is all ones, and elsewhere the mask is
0 (R122). -/
def HoldsElems (w n : Nat) (x m : Vec) (at_ : Nat → Prop) (v : Nat → Nat) : Prop :=
  ∀ k, k < n → (at_ k → elem w x k = v k % 2 ^ w ∧ elem w m k = 2 ^ w - 1) ∧ (¬ at_ k → elem w m k = 0)

/-- The value and the mask that `ofElems` makes of elements at distinct places. -/
theorem holdsElems_ofElems {w n : Nat} (hn : w * n ≤ 1024) {l : List Nat} (hnd : l.Nodup) {at_ : Nat → Prop}
    (hat : ∀ k, k < n → (k ∈ l ↔ at_ k)) {e v : Nat → Nat} (he : ∀ k ∈ l, e k = v k) :
    HoldsElems w n (ofElems w (l.map fun k => (k, e k))).1 (ofElems w (l.map fun k => (k, e k))).2 at_ v := by
  intro k hk
  have hfit : w * (k + 1) ≤ 1024 := (Nat.mul_le_mul_left w hk).trans hn
  rw [← hat k hk, ofElems_map, elem_ofNat hfit, elem_ofNat hfit, digit_placed_zero hnd, digit_placed_zero hnd]
  exact ⟨fun h => by rw [if_pos h, if_pos h, he k h, ones_mod]; exact ⟨rfl, rfl⟩, fun h => if_neg h⟩

/-! The widths of the element types (R121). -/

theorem tyWidth_pos (ty : BitVec 4) : 0 < tyWidth ty := by revert ty; decide
theorem elemCount_le (ty : BitVec 4) : elemCount ty ≤ 128 := by revert ty; decide
theorem tyWidth_mul_elemCount_le (ty : BitVec 4) : tyWidth ty * elemCount ty ≤ 1024 := Nat.mul_div_le 1024 (tyWidth ty)
theorem tyWidth_eq_eight_mul (ty : BitVec 4) : tyWidth ty = 8 * tyBytes ty := by revert ty; decide

/-! The active elements (R122). -/

theorem mem_activeElems {m : MaskVal} {n k : Nat} : k ∈ activeElems m n ↔ k < n ∧ m.getLsbD k = true := by
  rw [activeElems, List.mem_filter, List.mem_range]

theorem nodup_activeElems (m : MaskVal) (n : Nat) : (activeElems m n).Nodup := List.nodup_range.filter _

/-- The mask value that MSK names has the bits of the active elements. -/
theorem State.active_iff (s : State) (msk : BitVec 4) {k : Nat} (h : k < 128) : s.active msk k ↔ (maskOf s.issuer msk).getLsbD k = true := by
  rw [State.active, maskOf]
  cases msk.getLsbD 3
  · exact iff_of_true (.inl rfl) (by rw [if_neg Bool.false_ne_true, BitVec.getLsbD_not, decide_eq_true h, BitVec.getLsbD_zero]; rfl)
  · simp

end Sys2Proof.Machine
end

section
/-!
The element-wise operations of a V slot (R122, R126): each lands the value of its captures, and writes the active elements.
-/
namespace Sys2Proof.Machine

/-- A value given by elements, with those elements as its write mask (R122). -/
def elemsResult (w : Nat) (l : List Nat) (v : Nat → Nat) : Result :=
  .vec (ofElems w (l.map fun k => (k, v k))).1 (ofElems w (l.map fun k => (k, v k))).2

theorem eachElem_eq (ty : BitVec 4) (m : MaskVal) (v : Nat → Nat) :
    eachElem ty m v = elemsResult (tyWidth ty) (activeElems m (elemCount ty)) v := rfl

/-- An operation that lands a value given by elements writes those elements. -/
theorem landsElems_of_lands {i : Instr} {d : OpName} {n : Nat} {ty : BitVec 4} {writes : State → Nat → Prop} {v : State → Nat → Nat}
    (l : State → List Nat) (hnd : ∀ s, (l s).Nodup) (hl : ∀ s k, k < elemCount ty → (k ∈ l s ↔ writes s k))
    (h : ∀ s, Issues i s → ∃ e : Nat → Nat, (∀ k ∈ l s, e k = v s k) ∧
      Answers i s fun t => Lands i s t n (vectorDest d) (elemsResult (tyWidth ty) (l s) e)) :
    LandsElems i d n ty writes v := by
  intro s hs
  obtain ⟨e, he, t, ht, hlands⟩ := h s hs
  exact ⟨t, ht, _, _, hlands, holdsElems_ofElems (tyWidth_mul_elemCount_le ty) (hnd s) (hl s) he⟩

/-- Source j of an operation of a V slot, as the issuer reads it. -/
def State.vimage (s : State) (ty : BitVec 4) (i : Instr) (j : Nat) : Vec := (vectorSources s ty i).getD j 0#1024

section
variable {i : Instr} {ty msk : BitVec 4} {n : Nat}

/-- A fixed-latency operation of a V slot lands the result of its captures, wherever it issues (R86, R122). -/
theorem answers_of_vectorOp {d : Dest} {g : Vec → Vec → Vec → MaskVal → Result} (hl : latency i = .fixed n)
    (hx : ∀ s, exec i s = runOne i (vectorOp i d ty msk g) s) {s : State} (h : Issues i s) :
    Answers i s fun t => Lands i s t n d (g (s.vimage ty i 0) (s.vimage ty i 1) (s.vimage ty i 2) (maskOf s.issuer msk)) := by
  obtain ⟨t, ht, hlands⟩ := lands_of_vectorOp h (d := d) (ty := ty) (msk := msk) (f := g) hl
  exact ⟨t, (hx s).trans ht, hlands⟩

/-- An operation whose result is one value for each active element writes the active elements. -/
theorem landsElems_of_vectorOp {d : OpName} {dty : BitVec 4} {g : Vec → Vec → Vec → MaskVal → Result} {e : Vec → Vec → Vec → Nat → Nat}
    {v : State → Nat → Nat} (hl : latency i = .fixed n) (hx : ∀ s, exec i s = runOne i (vectorOp i (vectorDest d) ty msk g) s)
    (hg : ∀ a b c m, g a b c m = eachElem dty m (e a b c))
    (hv : ∀ s k, k < elemCount dty → e (s.vimage ty i 0) (s.vimage ty i 1) (s.vimage ty i 2) k = v s k) :
    LandsElems i d n dty (fun s k => s.active msk k) v := by
  refine landsElems_of_lands (fun s => activeElems (maskOf s.issuer msk) (elemCount dty)) (fun s => nodup_activeElems ..) (fun s k hk => ?_)
    fun s h => ⟨_, fun k hk => hv s k (mem_activeElems.mp hk).1, ?_⟩
  · rw [mem_activeElems, s.active_iff msk (hk.trans_le (elemCount_le dty))]
    exact and_iff_right hk
  · have h := answers_of_vectorOp hl hx h
    rwa [hg, eachElem_eq] at h

/-- The same, where the operation is written as one value for each active element. -/
theorem landsElems_of_eachElem {d : OpName} {dty : BitVec 4} {e : Vec → Vec → Vec → Nat → Nat} {v : State → Nat → Nat} (hl : latency i = .fixed n)
    (hx : ∀ s, exec i s = runOne i (vectorOp i (vectorDest d) ty msk fun a b c m => eachElem dty m (e a b c)) s)
    (hv : ∀ s k, k < elemCount dty → e (s.vimage ty i 0) (s.vimage ty i 1) (s.vimage ty i 2) k = v s k) :
    LandsElems i d n dty (fun s k => s.active msk k) v :=
  landsElems_of_vectorOp hl hx (fun _ _ _ _ => rfl) hv

end

end Sys2Proof.Machine
end

section
/-!
The integer operations of the V slots (R124, R126).
-/
namespace Sys2Proof.Machine

/-! The OVF field (R124). -/

theorem intBits_lt (w : Nat) (x : Int) : intBits w x < 2 ^ w := by
  have := Int.emod_lt_of_pos x (show (0 : Int) < 2 ^ w by positivity)
  have : ((2 ^ w : Nat) : Int) = 2 ^ w := by push_cast; rfl
  rw [intBits]
  omega

theorem cast_intBits (w : Nat) (x : Int) : (intBits w x : Int) = x % 2 ^ w :=
  Int.toNat_of_nonneg (Int.emod_nonneg x (by positivity))

theorem intBits_natCast {w n : Nat} (h : n < 2 ^ w) : intBits w n = n := by
  have hw : ((n : Int) < 2 ^ w) := by exact_mod_cast h
  rw [intBits, Int.emod_eq_of_lt (Int.natCast_nonneg n) hw, Int.toNat_natCast]

theorem intBits_signedOf {w n : Nat} (h : n < 2 ^ w) : intBits w (signedOf w n) = n := by
  rw [signedOf, Nat.mod_eq_of_lt h]
  split
  · exact intBits_natCast h
  · rw [intBits, Int.sub_emod_right]
    exact intBits_natCast h

/-- A number in the signed range of w bits is the one that its pattern holds. -/
theorem signedOf_intBits {w : Nat} (hw : 0 < w) {x : Int} (hlo : -(2 ^ (w - 1)) ≤ x) (hhi : x < 2 ^ (w - 1)) : signedOf w (intBits w x) = x := by
  have hofNat : BitVec.ofNat w (intBits w x) = BitVec.ofInt w x := by
    apply BitVec.eq_of_toNat_eq
    rw [BitVec.toNat_ofNat, Nat.mod_eq_of_lt (intBits_lt w x), BitVec.toNat_ofInt, intBits]
    push_cast
    rfl
  rw [signedOf_eq_toInt, hofNat]
  exact BitVec.toInt_ofInt_eq_self hw hlo hhi

theorem clampInt_eq {x lo hi : Int} (h : lo ≤ hi) : clampInt x lo hi = max lo (min x hi) := by
  unfold clampInt
  split_ifs <;> omega

theorem overflowTreatment : Clause.OverflowTreatment := by
  intro w x hw
  have hpos : (0 : Int) < 2 ^ (w - 1) := by positivity
  have hbits : (1 : Int) ≤ 2 ^ w := one_le_pow₀ (by decide)
  have hclamp : clampInt x (intLo w) (intHi w) = max (-(2 ^ (w - 1))) (min x (2 ^ (w - 1) - 1)) := clampInt_eq (by rw [intLo, intHi]; omega)
  refine ⟨cast_intBits w x, ?sat, ?usat, intBits_lt w _⟩
  case sat =>
    rw [overflow, hclamp]
    exact signedOf_intBits hw (by omega) (by omega)
  case usat =>
    rw [overflow, cast_intBits, clampInt_eq (by omega)]
    exact Int.emod_eq_of_lt (by omega) (by omega)

/-! One element. -/

section
variable {f : FmtR}

theorem readInt_unsigned_asOvf (f : FmtR) (x : Nat) : readInt (decide (f.var.extractLsb' 0 2 = 2#2)) (tyWidth f.ty) x = asOvf f x := by
  rw [readInt, asOvf]
  exact if_congr decide_eq_true_iff rfl rfl

theorem addElem_of_int (h : isFpTy f.ty = false) (int : Int → Int → Int) (fp : Nat → Nat → Nat) (x y : Nat) :
    addElem f int fp x y = ovf f (int (asOvf f x) (asOvf f y)) := by
  rw [addElem, h, if_neg Bool.false_ne_true]
  dsimp only
  rw [readInt_unsigned_asOvf, readInt_unsigned_asOvf]
  rfl

theorem minElem_of_int (h : isFpTy f.ty = false) (x y : Nat) : minMaxElem f false x y = if asU f x < asU f y then x else y := by
  rw [minMaxElem, h, if_neg Bool.false_ne_true]
  exact if_congr (by rw [Bool.bne_false, decide_eq_true_iff]; rfl) rfl rfl

theorem maxElem_of_int (h : isFpTy f.ty = false) (x y : Nat) : minMaxElem f true x y = if asU f x < asU f y then y else x := by
  rw [minMaxElem, h, if_neg Bool.false_ne_true, ← ite_not]
  exact if_congr (by rw [Bool.bne_true, Bool.not_eq_true', decide_eq_false_iff_not, not_not]; rfl) rfl rfl

/-- Where the VAR field holds OVF alone, the field is OVF. -/
theorem ovf_of_var (h : f.var = 0#8 ∨ f.var = 1#8 ∨ f.var = 2#8) (x : Int) : overflow f.var.toNat (tyWidth f.ty) x = ovf f x := by
  rw [ovf]
  rcases h with h | h | h <;> rw [h] <;> rfl

theorem readInt_usat_of_var (h : f.var = 0#8 ∨ f.var = 1#8 ∨ f.var = 2#8) (x : Nat) :
    readInt (decide (f.var = 2#8)) (tyWidth f.ty) x = asOvf f x := by
  rw [readInt, asOvf]
  rcases h with h | h | h <;> rw [h] <;> rfl

/-- A shift by no bits leaves the element (R126). -/
theorem shifted_eq {w k n : Nat} {x : Int} (hx : intBits w x = n) :
    intBits w ((x + roundBit f k) / 2 ^ k) = if k = 0 then n else intBits w ((x + roundBit f k) / 2 ^ k) := by
  split
  next hk => rw [roundBit, if_neg (fun h => h.2 hk), hk, pow_zero, Int.ediv_one, Int.add_zero, hx]
  next => rfl

end

theorem vectorIntegers : Clause.VectorIntegers := by
  intro f hty a b w r bits
  have hlat : (if isFpTy f.ty then 4 else 2) = 2 := by rw [hty]; rfl
  have hlt (s : State) (n : OpName) (k : Nat) : s.velem f.ty n k < 2 ^ w := elem_lt ..
  refine ⟨landsElems_of_eachElem (congrArg Latency.fixed hlat) (fun _ => rfl) fun s k _ => addElem_of_int hty ..,
    landsElems_of_eachElem (congrArg Latency.fixed hlat) (fun _ => rfl) fun s k _ => addElem_of_int hty ..,
    landsElems_of_eachElem rfl (fun _ => rfl) fun s k _ => addElem_of_int hty ..,
    fun hvar => landsElems_of_eachElem rfl (fun _ => rfl) fun s k _ => ?abs,
    fun hvar => landsElems_of_eachElem rfl (fun _ => rfl) fun s k _ => ?neg,
    landsElems_of_eachElem rfl (fun _ => rfl) fun s k _ => minElem_of_int hty ..,
    landsElems_of_eachElem rfl (fun _ => rfl) fun s k _ => maxElem_of_int hty ..,
    landsElems_of_eachElem rfl (fun _ => rfl) fun s k _ => rfl,
    landsElems_of_eachElem rfl (fun _ => rfl) fun s k _ => rfl,
    fun hvar => landsElems_of_eachElem rfl (fun _ => rfl) fun s k _ => ?shl,
    landsElems_of_eachElem rfl (fun _ => rfl) fun s k _ => ?shr,
    landsElems_of_eachElem rfl (fun _ => rfl) fun s k _ => ?sar⟩
  case abs => exact (if_neg (by rw [hty]; exact Bool.false_ne_true)).trans (ovf_of_var (hvar.imp_right .inl) _)
  case neg => exact (if_neg (by rw [hty]; exact Bool.false_ne_true)).trans (ovf_of_var (hvar.imp_right .inl) _)
  case shl => exact (ovf_of_var hvar _).trans (by rw [readInt_usat_of_var hvar]; rfl)
  case shr => exact shifted_eq (intBits_natCast (hlt s f.a k))
  case sar => exact shifted_eq (intBits_signedOf (hlt s f.a k))

/-- Settles O15: OVF clamps or wraps an exact number, and each integer form is its exact result under OVF or cut to w bits, element by element. -/
theorem vectorIntegerOperations : Obligations.VectorIntegerOperations := ⟨overflowTreatment, vectorIntegers⟩

end Sys2Proof.Machine
end

section
/-!
The floating-point operations of the V slots, and VRCP, VRSQ and VEXP (R125, R126, R135).
-/
namespace Sys2Proof.Machine

section
variable {f : FmtR} (h : isFpTy f.ty = true)
include h

theorem addElem_of_float (int : Int → Int → Int) (fp : Nat → Nat → Nat) (x y : Nat) : addElem f int fp x y = fp x y := by
  rw [addElem, if_pos h]

theorem minMaxElem_of_float (isMax : Bool) (x y : Nat) : minMaxElem f isMax x y = fpMinMax (fpOf f.ty) isMax x y := by
  rw [minMaxElem, if_pos h]

end

/-! The sign bit is the top bit. -/

section
variable {w x : Nat} (hw : 0 < w) (h : x < 2 ^ w)
include hw h

theorem mod_signBit : x % 2 ^ (w - 1) = if 2 ^ (w - 1) ≤ x then x - 2 ^ (w - 1) else x := by
  have htwo : 2 ^ w = 2 * 2 ^ (w - 1) := by rw [← pow_succ', Nat.sub_add_cancel hw]
  split
  next hx => rw [Nat.mod_eq_sub_mod hx, Nat.mod_eq_of_lt (by omega)]
  next hx => exact Nat.mod_eq_of_lt (not_le.mp hx)

theorem xor_signBit : x ^^^ 2 ^ (w - 1) = if 2 ^ (w - 1) ≤ x then x - 2 ^ (w - 1) else x + 2 ^ (w - 1) := by
  have htwo : 2 ^ w = 2 * 2 ^ (w - 1) := by rw [← pow_succ', Nat.sub_add_cancel hw]
  have hlow {y : Nat} (hy : y < 2 ^ (w - 1)) : y ^^^ 2 ^ (w - 1) = y + 2 ^ (w - 1) := by
    have hsum := Nat.two_pow_add_eq_or_of_lt hy 1
    rw [Nat.mul_one] at hsum
    rw [Nat.add_comm, hsum]
    refine Nat.eq_of_testBit_eq fun i => ?_
    rw [Nat.testBit_xor, Nat.testBit_or, Nat.testBit_two_pow]
    by_cases hi : w - 1 = i
    · rw [← hi, Nat.testBit_lt_two_pow hy]; simp
    · simp [hi]
  split
  next hx =>
    obtain ⟨y, rfl⟩ := Nat.exists_eq_add_of_le' hx
    rw [← hlow (by omega), Nat.xor_assoc, Nat.xor_self, Nat.xor_zero, hlow (by omega), Nat.add_sub_cancel]
  next hx => exact hlow (not_le.mp hx)

end

theorem vectorFloats : Clause.VectorFloats := by
  intro f hty a b c w fmt rnd
  have hlat : (if isFpTy f.ty then 4 else 2) = 4 := if_pos hty
  have hlt (s : State) (n : OpName) (k : Nat) : s.velem f.ty n k < 2 ^ w := elem_lt ..
  refine ⟨landsElems_of_eachElem (congrArg Latency.fixed hlat) (fun _ => rfl) fun s k _ => addElem_of_float hty ..,
    landsElems_of_eachElem (congrArg Latency.fixed hlat) (fun _ => rfl) fun s k _ => addElem_of_float hty ..,
    landsElems_of_eachElem rfl (fun _ => rfl) fun s k _ => addElem_of_float hty ..,
    landsElems_of_eachElem rfl (fun _ => rfl) fun s k _ => rfl,
    landsElems_of_eachElem rfl (fun _ => rfl) fun s k _ => minMaxElem_of_float hty ..,
    landsElems_of_eachElem rfl (fun _ => rfl) fun s k _ => minMaxElem_of_float hty ..,
    landsElems_of_eachElem rfl (fun _ => rfl) fun s k _ => ?abs,
    landsElems_of_eachElem rfl (fun _ => rfl) fun s k _ => ?neg⟩
  case abs => exact (if_pos hty).trans (mod_signBit (tyWidth_pos f.ty) (hlt s f.a k))
  case neg => exact (if_pos hty).trans (xor_signBit (tyWidth_pos f.ty) (hlt s f.a k))

/-! The patterns of a format (R143, R144). -/

section
variable (f : FpFmt)

/-- The value of a sign, an exponent field and a fraction. -/
theorem ofBits_fields {s e m : Nat} (he : e < 2 ^ f.eb) (hm : m < 2 ^ f.mb) : Fp.ofBits f ((s * 2 ^ f.eb + e) * 2 ^ f.mb + m) =
    if e = 2 ^ f.eb - 1 then (if m = 0 then .inf (decide (s % 2 = 1)) else .nan)
    else if e = 0 then .num (decide (s % 2 = 1)) m (f.emin - f.mb) else .num (decide (s % 2 = 1)) (m + 2 ^ f.mb) ((e : Int) - f.bias - f.mb) := by
  have hfrac : ((s * 2 ^ f.eb + e) * 2 ^ f.mb + m) % 2 ^ f.mb = m := by rw [Nat.mul_comm, Nat.mul_add_mod, Nat.mod_eq_of_lt hm]
  have hdiv : ((s * 2 ^ f.eb + e) * 2 ^ f.mb + m) / 2 ^ f.mb = s * 2 ^ f.eb + e := by
    rw [Nat.mul_comm, Nat.mul_add_div (Nat.two_pow_pos _), Nat.div_eq_of_lt hm, Nat.add_zero]
  have hexp : (s * 2 ^ f.eb + e) % 2 ^ f.eb = e := by rw [Nat.mul_comm, Nat.mul_add_mod, Nat.mod_eq_of_lt he]
  have hsign : ((s * 2 ^ f.eb + e) * 2 ^ f.mb + m) / 2 ^ (f.eb + f.mb) = s := by
    rw [Nat.add_comm f.eb, pow_add, ← Nat.div_div_eq_div_mul, hdiv, Nat.mul_comm s, Nat.mul_add_div (Nat.two_pow_pos _), Nat.div_eq_of_lt he, Nat.add_zero]
  simp only [Fp.ofBits, hfrac, hdiv, hexp, hsign]

/-- A pattern above infinity, and below the sign bit, is a NaN. -/
theorem ofBits_eq_nan {x : Nat} (hlo : f.infBits false < x) (hhi : x < 2 ^ (f.eb + f.mb)) : Fp.ofBits f x = .nan := by
  have hmul : (2 ^ f.eb - 1) * 2 ^ f.mb + 2 ^ f.mb = 2 ^ (f.eb + f.mb) := by
    rw [← Nat.succ_mul, Nat.succ_eq_add_one, Nat.sub_add_cancel (Nat.two_pow_pos _), pow_add]
  have hinf : f.infBits false = (2 ^ f.eb - 1) * 2 ^ f.mb := Nat.zero_add _
  obtain ⟨m, rfl⟩ := Nat.exists_eq_add_of_lt hlo
  have h := ofBits_fields f (s := 0) (Nat.sub_one_lt (Nat.two_pow_pos f.eb).ne') (show m + 1 < 2 ^ f.mb by omega)
  rwa [Nat.zero_mul, Nat.zero_add, if_pos rfl, if_neg (by omega), ← hinf] at h

/-- A pattern above the negative zero, and below the negative infinity, is a negative number and not zero. -/
theorem ofBits_negative {x : Nat} (hlo : 2 ^ (f.eb + f.mb) < x) (hhi : x < 2 ^ (f.eb + f.mb) + f.infBits false) :
    ∃ m e, m ≠ 0 ∧ Fp.ofBits f x = .num true m e := by
  obtain ⟨y, rfl⟩ := Nat.exists_eq_add_of_lt hlo
  have hinf : f.infBits false = (2 ^ f.eb - 1) * 2 ^ f.mb := Nat.zero_add _
  have he : (y + 1) / 2 ^ f.mb < 2 ^ f.eb - 1 := Nat.div_lt_of_lt_mul (by rw [Nat.mul_comm]; omega)
  have hsplit : 2 ^ (f.eb + f.mb) + y + 1 = (1 * 2 ^ f.eb + (y + 1) / 2 ^ f.mb) * 2 ^ f.mb + (y + 1) % 2 ^ f.mb := by
    rw [Nat.add_mul, Nat.one_mul, ← pow_add, Nat.add_assoc, Nat.add_assoc, Nat.div_add_mod']
  have h := ofBits_fields f (s := 1) (he.trans_le (Nat.sub_le _ _)) (Nat.mod_lt (y + 1) (Nat.two_pow_pos f.mb))
  rw [← hsplit, if_neg he.ne] at h
  split_ifs at h with hz
  · refine ⟨_, _, fun hm => ?_, h⟩
    have := Nat.div_add_mod (y + 1) (2 ^ f.mb)
    rw [hz, hm] at this
    omega
  · exact ⟨_, _, by have := Nat.two_pow_pos f.mb; omega, h⟩

end

/-- The estimates of a NaN are the NaN of the format (R135). -/
theorem estimates_of_nan {f : FpFmt} {x : Nat} (h : Fp.ofBits f x = .nan) :
    estimateRcp f x = f.nan ∧ estimateRsq f x = f.nan ∧ estimateExp f x = f.nan := by
  simp only [estimateRcp, estimateRsq, estimateExp, h, and_self]

/-- The reciprocal square root of a negative number is the NaN of the format (R135). -/
theorem estimateRsq_of_negative {f : FpFmt} {x m : Nat} {e : Int} (hm : m ≠ 0) (h : Fp.ofBits f x = .num true m e) : estimateRsq f x = f.nan := by
  simp only [estimateRsq, h, if_neg hm, if_true]

theorem estimates : Clause.Estimates := by
  refine ⟨fun f => ⟨landsElems_of_eachElem rfl (fun _ => rfl) fun _ _ _ => rfl,
    landsElems_of_eachElem rfl (fun _ => rfl) fun _ _ _ => rfl,
    landsElems_of_eachElem rfl (fun _ => rfl) fun _ _ _ => rfl⟩, fun f hf => ?_⟩
  have hspecial : let inf := f.infBits false
      let neg := 2 ^ (f.eb + f.mb)
      (estimateRcp f 0 = inf ∧ estimateRcp f neg = neg + inf ∧ estimateRcp f inf = 0 ∧ estimateRcp f (neg + inf) = neg) ∧
      (estimateRsq f 0 = inf ∧ estimateRsq f neg = neg + inf ∧ estimateRsq f inf = 0 ∧ estimateRsq f (neg + inf) = f.nan) ∧
      estimateExp f 0 = f.bias * 2 ^ f.mb ∧ estimateExp f neg = f.bias * 2 ^ f.mb ∧ estimateExp f inf = inf ∧ estimateExp f (neg + inf) = 0 := by
    rcases hf with rfl | rfl | rfl <;> decide
  obtain ⟨⟨h1, h2, h3, h4⟩, ⟨h5, h6, h7, h8⟩, h9, h10, h11, h12⟩ := hspecial
  exact ⟨h1, h2, h3, h4, h5, h6, h7, h8, h9, h10, h11, h12, fun x hlo hhi => estimates_of_nan (ofBits_eq_nan f hlo hhi), fun x hlo hhi =>
    let ⟨_, _, hm, h⟩ := ofBits_negative f hlo hhi
    estimateRsq_of_negative hm h⟩

/-- Settles O16: each form is its exact result rounded once, element by element; VABS and VNEG by the top bit; the estimates of the special inputs. -/
theorem vectorFloatOperations : Obligations.VectorFloatOperations := ⟨vectorFloats, estimates⟩

end Sys2Proof.Machine
end

section
/-!
The moves of the V slots (R126, R127, R130 to R132).
-/
namespace Sys2Proof.Machine

/-- The elements of A and B in turn (R132). -/
theorem elem_interleaved (w : Nat) (a b : Vec) (k off : Nat) : elem w (if k % 2 = 0 then a else b) (k / 2 + off) =
    if k % 2 = 0 then elem w a (k / 2 + off) else elem w b ((k - 1) / 2 + off) := by
  split
  · rfl
  · rw [show (k - 1) / 2 = k / 2 by omega]

/-- VPERM reads B, but in the form that reverses A (R132). -/
theorem vimage_vperm (f : FmtR) (s : State) (h : f.var ≠ 5#8) : s.vimage f.ty (.vperm f) 1 = s.vsrc f.ty f.b := by
  simp only [State.vimage, vectorSources, sources, if_neg h]
  rfl

/-- A form of VPERM lands the pattern of its VAR (R132). -/
theorem elementWise_vperm {f : FmtR} {v : BitVec 8} {p : State → Nat → Nat}
    (hp : ∀ s b k, (v ≠ 5#8 → b = s.vsrc f.ty f.b) → permElem f.ty v.toNat (s.vsrc f.ty f.a) b k = p s k) (h : f.var = v) :
    ElementWise (.vperm f) f 3 p :=
  landsElems_of_eachElem rfl (fun _ => rfl) fun s k _ => by
    rw [h]
    exact hp s _ k fun hv => vimage_vperm f s (h ▸ hv)

/-- A form of VPERM that reads both sources. -/
theorem elementWise_vperm_pair {f : FmtR} {v : BitVec 8} (hv : v ≠ 5#8) {p : State → Nat → Nat}
    (hp : ∀ s k, permElem f.ty v.toNat (s.vsrc f.ty f.a) (s.vsrc f.ty f.b) k = p s k) (h : f.var = v) : ElementWise (.vperm f) f 3 p :=
  elementWise_vperm (fun s _ k hb => hb hv ▸ hp s k) h

/-- VSEL writes every element, of A where the mask has its bit and of B elsewhere (R130). -/
theorem vsel_lands (f : FmtR) : LandsElems (.vsel f) f.d 2 f.ty (fun _ _ => True)
    (fun s k => if (maskOf s.issuer f.msk).getLsbD k then s.velem f.ty f.a k else s.velem f.ty f.b k) := by
  refine landsElems_of_lands (fun _ => activeElems (~~~0#128) (elemCount f.ty)) (fun _ => nodup_activeElems ..) (fun s k hk => ?_) fun s h =>
    ⟨_, fun k _ => ?_, answers_of_vectorOp (g := resVsel f) rfl (fun _ => rfl) h⟩
  · have h128 := hk.trans_le (elemCount_le f.ty)
    rw [mem_activeElems, BitVec.getLsbD_not, decide_eq_true h128, BitVec.getLsbD_zero]
    exact iff_of_true ⟨hk, rfl⟩ trivial
  · exact apply_ite (elem (tyWidth f.ty) · k) ..

/-- Settles O17: each is one value for each element that it writes. -/
theorem vectorMoves : Obligations.VectorMoves := by
  refine ⟨fun f => ⟨landsElems_of_eachElem rfl (fun _ => rfl) fun _ _ _ => rfl,
    landsElems_of_eachElem rfl (fun _ => rfl) fun _ _ _ => rfl,
    landsElems_of_eachElem rfl (fun _ => rfl) fun _ _ _ => rfl,
    landsElems_of_eachElem rfl (fun _ => rfl) fun _ _ _ => rfl, vsel_lands f,
    landsElems_of_eachElem rfl (fun _ => rfl) fun _ _ _ => rfl, elementWise_vperm_pair (by decide) fun _ _ => rfl,
    elementWise_vperm_pair (by decide) fun _ k => elem_interleaved _ _ _ k 0, elementWise_vperm_pair (by decide) fun _ k => elem_interleaved _ _ _ k _,
    elementWise_vperm_pair (by decide) fun _ _ => rfl, elementWise_vperm_pair (by decide) fun _ _ => rfl, elementWise_vperm fun _ _ _ _ => rfl,
    elementWise_vperm_pair (by decide) fun _ _ => rfl⟩,
    fun f => landsElems_of_eachElem rfl (fun _ => rfl) fun _ _ _ => rfl⟩

end Sys2Proof.Machine
end

section
/-!
VCVT and VCMP (R128, R129).
-/
namespace Sys2Proof.Machine

/-! The elements that VCVT writes (R128). -/

/-- Element j of A converted, as the fields of VCVT say. -/
def convertedElem (f : FmtR) (a : Vec) (j : Nat) : Nat :=
  convertElem (cvtSource f) f.ty (f.var.getLsbD 7) f.rnd.toNat (elem (tyWidth (cvtSource f)) a j)

/-- The first element of the part of A, or of D, that PART names. -/
def partStart (f : FmtR) (n : Nat) : Nat := (f.var.extractLsb' 4 3).toNat * n

section
variable {f : FmtR} (a b c : Vec) (m : MaskVal)

theorem resVcvt_of_wider (h : tyWidth (cvtSource f) < tyWidth f.ty) :
    resVcvt f a b c m = eachElem f.ty m fun k => convertedElem f a (partStart f (elemCount f.ty) + k) := by
  simp only [resVcvt, convertElems, if_neg h.not_gt, if_pos h]
  rfl

theorem resVcvt_of_equal (h : tyWidth (cvtSource f) = tyWidth f.ty) : resVcvt f a b c m = eachElem f.ty m (convertedElem f a) := by
  simp only [resVcvt, convertElems, if_neg h.not_gt, if_neg h.not_lt, Nat.mul_zero, Nat.zero_add]
  rfl

/-- The elements of D in the part that PART names (R128). -/
def narrowedElems (f : FmtR) (m : MaskVal) : List Nat := (activeElems m (elemCount f.ty)).filter fun k =>
  decide (partStart f (elemCount (cvtSource f)) ≤ k) && decide (k < ((f.var.extractLsb' 4 3).toNat + 1) * elemCount (cvtSource f))

theorem resVcvt_of_narrower (h : tyWidth f.ty < tyWidth (cvtSource f)) : resVcvt f a b c m =
    elemsResult (tyWidth f.ty) (narrowedElems f m) fun k => convertedElem f a (k - partStart f (elemCount (cvtSource f))) := by
  simp only [resVcvt, convertElems, if_pos h]
  rfl

end

/-! The conversions between integers (R128). -/

theorem signedOf_bounds (w x : Nat) : -(2 ^ (w - 1)) ≤ signedOf w x ∧ signedOf w x < 2 ^ (w - 1) := by
  rw [signedOf_eq_toInt]
  exact ⟨BitVec.le_toInt _, BitVec.toInt_lt⟩

section
variable {src dst : BitVec 4} (hs : isFpTy src = false) (hd : isFpTy dst = false) (rnd : Nat)
include hs hd

theorem convertElem_unsigned {x : Nat} (hx : x < 2 ^ tyWidth src) : convertElem src dst true rnd x = min x (2 ^ tyWidth dst - 1) := by
  simp only [convertElem, hs, hd, Bool.false_eq_true, if_false, if_true]
  split_ifs with h
  · obtain ⟨_, _, husat, _⟩ := overflowTreatment (tyWidth dst) x (tyWidth_pos dst)
    have hpos := Nat.two_pow_pos (tyWidth dst)
    have hcast : ((2 ^ tyWidth dst : Nat) : Int) = 2 ^ tyWidth dst := by push_cast; rfl
    exact Int.natCast_inj.mp (husat.trans (by omega))
  · have hle : x < 2 ^ tyWidth dst := hx.trans_le (Nat.pow_le_pow_right (by decide) (not_lt.mp h))
    rw [min_eq_left (by omega)]
    exact intBits_natCast hle

theorem convertElem_signed (x : Nat) : signedOf (tyWidth dst) (convertElem src dst false rnd x) =
    max (-(2 ^ (tyWidth dst - 1))) (min (signedOf (tyWidth src) x) (2 ^ (tyWidth dst - 1) - 1)) := by
  simp only [convertElem, hs, hd, Bool.false_eq_true, if_false]
  split_ifs with h
  · obtain ⟨_, hsat, _, _⟩ := overflowTreatment (tyWidth dst) (signedOf (tyWidth src) x) (tyWidth_pos dst)
    exact hsat
  · obtain ⟨hlo, hhi⟩ := signedOf_bounds (tyWidth src) x
    have hpow : (2 : Int) ^ (tyWidth src - 1) ≤ 2 ^ (tyWidth dst - 1) := pow_le_pow_right₀ (by decide) (by omega)
    rw [max_eq_right (by omega), min_eq_left (by omega)]
    exact signedOf_intBits (x := signedOf (tyWidth src) x) (tyWidth_pos dst) (by omega) (by omega)

end

/-- A NaN converts to 0, or to the NaN of the destination (R128). -/
theorem convertElem_of_nan {x : Nat} (h : isNan32 x) (dst : BitVec 4) (u : Bool) (rnd : Nat) :
    convertElem 6#4 dst u rnd x = if isFpTy dst then (fpOf dst).nan else 0 := by
  have hnan : Fp.ofBits (fpOf 6#4) x = .nan := (ofBits_eq_nan_iff x).mpr h
  rw [convertElem, if_pos (by decide), hnan]
  rfl

theorem vectorConversions : Clause.VectorConversions := by
  refine ⟨fun f => ⟨fun h => ?wider, fun h => ?equal, fun h => ?narrower⟩, fun src dst u rnd x hs hd _ _ hx => ?integers, fun dst u rnd x h => ?nan⟩
  case wider => exact landsElems_of_vectorOp (g := resVcvt f) rfl (fun _ => rfl) (fun a b c m => resVcvt_of_wider a b c m h) fun _ _ _ => rfl
  case equal => exact landsElems_of_vectorOp (g := resVcvt f) rfl (fun _ => rfl) (fun a b c m => resVcvt_of_equal a b c m h) fun _ _ _ => rfl
  case narrower =>
    refine landsElems_of_lands (fun s => narrowedElems f (maskOf s.issuer f.msk)) (fun s => (nodup_activeElems ..).filter _) (fun s k hk => ?_)
      fun s hi => ⟨_, fun _ _ => rfl, ?_⟩
    · rw [narrowedElems, List.mem_filter, mem_activeElems, s.active_iff f.msk (hk.trans_le (elemCount_le f.ty)), Bool.and_eq_true, decide_eq_true_iff,
        decide_eq_true_iff]
      exact and_congr_left' (and_iff_right hk)
    · have hlands := answers_of_vectorOp (i := .vcvt f) (d := vectorDest f.d) (g := resVcvt f) rfl (fun _ => rfl) hi
      rwa [resVcvt_of_narrower _ _ _ _ h] at hlands
  case integers =>
    cases u
    · exact convertElem_signed hs hd rnd x
    · exact convertElem_unsigned hs hd rnd hx
  case nan => exact ⟨fun hd => (convertElem_of_nan h dst u rnd).trans (by rw [hd]; rfl), convertElem_of_nan h .., convertElem_of_nan h ..⟩

/-! The condition of VCMP (R129). -/

/-- A mask made of the bits of distinct numbers has those bits. -/
theorem testBit_foldl_two_pow {l : List Nat} (hnd : l.Nodup) (p : Nat → Bool) (k : Nat) :
    (l.foldl (fun x i => if p i then x + 2 ^ i else x) 0).testBit k = decide (k ∈ l ∧ p k = true) := by
  have hplaced : l.foldl (fun x i => if p i then x + 2 ^ i else x) 0 = placed 1 (fun _ => 1) (l.filter p) 0 := by
    simp only [placed, List.foldl_filter, Nat.one_mul, Nat.reducePow, Nat.reduceMod]
  have hbit (n : Nat) : n.testBit k = decide (digit 1 n k = 1) := by rw [Nat.testBit_eq_decide_div_mod_eq, digit, Nat.one_mul, pow_one]
  rw [hplaced, hbit, decide_eq_decide, ← List.mem_filter, digit_placed_zero (hnd.filter p)]
  split <;> simp [*]

/-- The condition of VCMP on integers: the conditions of R129 by their codes. -/
theorem elemCondition_of_int {f : FmtR} (h : isFpTy f.ty = false) (x y : Nat) : elemCondition f.var.toNat f.ty x y = true ↔
    if f.var = 0#8 then x = y else if f.var = 1#8 then x ≠ y
    else if f.var = 2#8 then signedOf (tyWidth f.ty) x < signedOf (tyWidth f.ty) y
    else if f.var = 3#8 then signedOf (tyWidth f.ty) y ≤ signedOf (tyWidth f.ty) x
    else if f.var = 4#8 then x < y else y ≤ x := by
  have hcode (n : Nat) (hn : n < 256) : f.var = BitVec.ofNat 8 n ↔ f.var.toNat = n := by
    rw [← BitVec.toNat_inj, BitVec.toNat_ofNat, Nat.mod_eq_of_lt (by omega)]
  rw [elemCondition, h, if_neg Bool.false_ne_true]
  simp only [hcode 0 (by decide), hcode 1 (by decide), hcode 2 (by decide), hcode 3 (by decide), hcode 4 (by decide)]
  split <;> simp_all

theorem vectorCompares : Clause.VectorCompares := by
  intro f w cond s h
  obtain ⟨t, ht, hlands⟩ := answers_of_vectorOp (i := .vcmp f) (g := resVcmp f) rfl (fun _ => rfl) h
  refine ⟨t, ht, _, hlands, fun k hk => ?_⟩
  have hcond (x y : Nat) : elemCondition f.var.toNat f.ty x y = true ↔ cond x y := by
    by_cases hty : isFpTy f.ty = true
    · simp only [cond, elemCondition, if_pos hty]
    · exact (elemCondition_of_int (Bool.not_eq_true _ ▸ hty) x y).trans (by simp only [cond, if_neg hty]; rfl)
  rw [BitVec.getLsbD_ofNat, decide_eq_true hk, Bool.true_and, testBit_foldl_two_pow (nodup_activeElems ..), decide_eq_true_iff, mem_activeElems,
    s.active_iff f.msk hk, hcond, and_assoc]
  rfl

/-- Settles O18: VCVT by the widths of its types, between integers by the clamp of R124; VCMP bit by bit. -/
theorem vectorConversionAndCompare : Obligations.VectorConversionAndCompare := ⟨vectorConversions, vectorCompares⟩

end Sys2Proof.Machine
end

section
/-!
VRED, VCLMUL and VCLMULH (R133, R134).
-/
namespace Sys2Proof.Machine

/-! The integer reductions: a sum, and the least or the greatest of a bound and some values. -/

/-- The least of a bound and the members of a list is one of them, and none of them is less. -/
theorem foldl_min_spec {α : Type} [LinearOrder α] (b : α) (l : List α) :
    l.foldl min b ≤ b ∧ (∀ x ∈ l, l.foldl min b ≤ x) ∧ (l.foldl min b = b ∨ l.foldl min b ∈ l) := by
  induction l generalizing b with
  | nil => exact ⟨le_rfl, List.forall_mem_nil _, .inl rfl⟩
  | cons y l ih =>
    obtain ⟨hb, hl, hmem⟩ := ih (min b y)
    refine ⟨hb.trans (min_le_left b y), List.forall_mem_cons.mpr ⟨hb.trans (min_le_right b y), hl⟩, ?_⟩
    rcases hmem with h | h
    · exact (min_choice b y).imp (fun e => h.trans e) fun e => List.mem_cons.mpr (.inl (h.trans e))
    · exact .inr (List.mem_cons_of_mem y h)

/-- The greatest of a bound and the members of a list: the same in the order turned round. -/
theorem foldl_max_spec {α : Type} [LinearOrder α] (b : α) (l : List α) :
    b ≤ l.foldl max b ∧ (∀ x ∈ l, x ≤ l.foldl max b) ∧ (l.foldl max b = b ∨ l.foldl max b ∈ l) :=
  foldl_min_spec (α := αᵒᵈ) b l

/-- A member of a list of values of the active numbers below n, and of a bound for the others. -/
theorem eq_or_exists_of_mem_map {n : Nat} {p : Nat → Prop} [DecidablePred p] {x : Nat → Int} {b r : Int}
    (h : r ∈ (List.range n).map fun k => if p k then x k else b) : r = b ∨ ∃ k, k < n ∧ p k ∧ r = x k := by
  obtain ⟨k, hk, rfl⟩ := List.mem_map.mp h
  by_cases hp : p k
  · exact .inr ⟨k, List.mem_range.mp hk, hp, if_pos hp⟩
  · exact .inl (if_neg hp)

section
variable (n w : Nat) (u : Bool) (p : Nat → Prop) [DecidablePred p] (a : Nat → Nat)

/-- The elements of a reduction: those that are active. -/
def reduced : List (Option Nat) := (List.range n).map fun k => if p k then some (a k) else none

theorem reduced_congr {q : Nat → Prop} [DecidablePred q] (h : ∀ k, k < n → (p k ↔ q k)) : reduced n p a = reduced n q a :=
  List.map_congr_left fun k hk => if_congr (h k (List.mem_range.mp hk)) rfl rfl

/-- The values of a reduction, with a bound for the elements that are not active. -/
theorem foldl_reduced (op : Int → Int → Int) (b z : Int) :
    ((reduced n p a).map fun x => x.map (readInt u w)).foldl (fun r x => op r (x.getD b)) z =
      ((List.range n).map fun k => if p k then readInt u w (a k) else b).foldl op z := by
  simp only [reduced, List.map_map, List.foldl_map, Function.comp_apply]
  congr 1
  funext r k
  split <;> rfl

theorem reduceInt_sum : reduceInt 0 u w (reduced n p a) = ((List.range n).map fun k => if p k then readInt u w (a k) else 0).sum := by
  rw [List.sum_eq_foldl]
  exact foldl_reduced n w u p a (· + ·) 0 0

theorem reduceInt_min : let hi : Int := if u then 2 ^ w - 1 else 2 ^ (w - 1) - 1
    let r := reduceInt 1 u w (reduced n p a)
    r ≤ hi ∧ (∀ k, k < n → p k → r ≤ readInt u w (a k)) ∧ (r = hi ∨ ∃ k, k < n ∧ p k ∧ r = readInt u w (a k)) := by
  intro hi r
  have hr : r = ((List.range n).map fun k => if p k then readInt u w (a k) else hi).foldl min hi := foldl_reduced n w u p a min hi hi
  obtain ⟨hle, hall, hmem⟩ := foldl_min_spec hi ((List.range n).map fun k => if p k then readInt u w (a k) else hi)
  rw [hr]
  exact ⟨hle, fun k hk hp => hall _ (List.mem_map.mpr ⟨k, List.mem_range.mpr hk, if_pos hp⟩), hmem.elim .inl eq_or_exists_of_mem_map⟩

theorem reduceInt_max : let lo : Int := if u then 0 else -(2 ^ (w - 1))
    let r := reduceInt 2 u w (reduced n p a)
    lo ≤ r ∧ (∀ k, k < n → p k → readInt u w (a k) ≤ r) ∧ (r = lo ∨ ∃ k, k < n ∧ p k ∧ r = readInt u w (a k)) := by
  intro lo r
  have hr : r = ((List.range n).map fun k => if p k then readInt u w (a k) else lo).foldl max lo := foldl_reduced n w u p a max lo lo
  obtain ⟨hle, hall, hmem⟩ := foldl_max_spec lo ((List.range n).map fun k => if p k then readInt u w (a k) else lo)
  rw [hr]
  exact ⟨hle, fun k hk hp => hall _ (List.mem_map.mpr ⟨k, List.mem_range.mpr hk, if_pos hp⟩), hmem.elim .inl eq_or_exists_of_mem_map⟩

end

/-! The pairwise tree (R133). -/

/-- The nodes of a pairwise tree by level: each joins the two below it. -/
def treeNode (op : Nat → Nat → Nat) (leaf : Nat → Nat) : Nat → Nat → Nat
  | 0, j => leaf j
  | l + 1, j => op (treeNode op leaf l (2 * j)) (treeNode op leaf l (2 * j + 1))

theorem pairs_map_range (op : Nat → Nat → Nat) (leaf : Nat → Nat) (n : Nat) :
    pairs op ((List.range (2 * n)).map leaf) = (List.range n).map fun j => op (leaf (2 * j)) (leaf (2 * j + 1)) := by
  induction n generalizing leaf with
  | zero => rfl
  | succ n ih =>
    rw [show 2 * (n + 1) = 2 * n + 1 + 1 by omega, List.range_succ_eq_map, List.range_succ_eq_map, List.range_succ_eq_map]
    simp only [List.map_cons, List.map_map]
    exact congrArg _ (ih fun k => leaf (k + 1 + 1))

theorem treeNode_succ (op : Nat → Nat → Nat) (leaf : Nat → Nat) (l j : Nat) :
    treeNode op leaf (l + 1) j = treeNode op (fun j => op (leaf (2 * j)) (leaf (2 * j + 1))) l j := by
  induction l generalizing j with
  | zero => rfl
  | succ l ih => rw [treeNode, ih, ih]; rfl

/-- The reduction of 2^l values is the top of their pairwise tree. -/
theorem reduceTree_map_range (op : Nat → Nat → Nat) (leaf : Nat → Nat) (l : Nat) :
    reduceTree op l ((List.range (2 ^ l)).map leaf) = treeNode op leaf l 0 := by
  induction l generalizing leaf with
  | zero => rfl
  | succ l ih => rw [reduceTree, pow_succ', pairs_map_range, ih, treeNode_succ]

/-- The floating-point types have a power of two of elements (R121). -/
theorem elemCount_of_float {ty : BitVec 4} (h : isFpTy ty = true) : elemCount ty = 2 ^ Nat.log2 (elemCount ty) := by
  revert h; revert ty; decide

section
variable {f : FmtR} (a : Vec) (m : MaskVal)

theorem reduceElems_of_int (h : isFpTy f.ty = false) : reduceElems f a m =
    .vec (BitVec.ofNat 1024 (intBits 64 (reduceInt (f.var.extractLsb' 0 3).toNat (f.var.getLsbD 3) (tyWidth f.ty)
      (reduced (elemCount f.ty) (fun k => k ∈ activeElems m (elemCount f.ty)) (elem (tyWidth f.ty) a))))) (~~~0#1024) := by
  rw [reduceElems, h]
  rfl

/-- The join of two values in the tree of VRED. -/
def joinPair (f : FmtR) (x y : Nat) : Nat :=
  if (f.var.extractLsb' 0 3).toNat = 0 then fpAdd fp32 f.rnd.toNat x y else fpMinMax fp32 (decide ((f.var.extractLsb' 0 3).toNat = 2)) x y

/-- A leaf of the tree of VRED: an active element widened to FP32, or what leaves the others as they are. -/
def reduceLeaf (f : FmtR) (a : Vec) (m : MaskVal) (k : Nat) : Nat :=
  if k ∈ activeElems m (elemCount f.ty) then (Fp.ofBits (fpOf f.ty) (elem (tyWidth f.ty) a k)).toBits fp32 0 0
  else if (f.var.extractLsb' 0 3).toNat = 0 then 0 else if (f.var.extractLsb' 0 3).toNat = 1 then 0x7F800000 else 0xFF800000

theorem reduceElems_of_float (h : isFpTy f.ty = true) (hop : (f.var.extractLsb' 0 3).toNat < 3) : reduceElems f a m =
    .vec (BitVec.ofNat 1024 (treeNode (joinPair f) (reduceLeaf f a m) (Nat.log2 (elemCount f.ty)) 0)) (~~~0#1024) := by
  have hcases : (f.var.extractLsb' 0 3).toNat = 0 ∨ (f.var.extractLsb' 0 3).toNat = 1 ∨ (f.var.extractLsb' 0 3).toNat = 2 := by omega
  have hleaf : (List.range (elemCount f.ty)).map (reduceLeaf f a m) = (List.range (2 ^ Nat.log2 (elemCount f.ty))).map (reduceLeaf f a m) := by
    rw [← elemCount_of_float h]
  rw [← reduceTree_map_range, ← hleaf, reduceElems, if_pos h]
  unfold joinPair reduceLeaf
  rcases hcases with h | h | h <;> rw [h] <;> rfl

end

theorem vectorReductions : Clause.VectorReductions := by
  intro f s h w n a u x hi lo op writes
  have hlands := answers_of_vectorOp (i := .vred f) (d := vectorDest f.d) (g := resVred f) rfl (fun _ => rfl) h
  have hact (k : Nat) (hk : k < n) : k ∈ activeElems (maskOf s.issuer f.msk) n ↔ s.active f.msk k := by
    rw [mem_activeElems, s.active_iff f.msk (hk.trans_le (elemCount_le f.ty))]
    exact and_iff_right hk
  refine ⟨fun hty => ?int, fun hty hop => ?float⟩
  case int =>
    classical
    have hint : isFpTy f.ty = false := by revert hty; generalize f.ty = ty; revert ty; decide
    rw [resVred, reduceElems_of_int _ _ hint, reduced_congr n _ _ hact] at hlands
    refine ⟨reduceInt op u w (reduced n (fun k => s.active f.msk k) a), hlands, fun hop => ?_, fun hop => ?_, fun hop => ?_⟩ <;> rw [hop]
    · exact ⟨fun k => if s.active f.msk k then x k else 0, fun k => ⟨fun ha => if_pos ha, fun ha => if_neg ha⟩, reduceInt_sum ..⟩
    · exact reduceInt_min ..
    · exact reduceInt_max ..
  case float =>
    rw [resVred, reduceElems_of_float _ _ hty hop] at hlands
    exact ⟨treeNode (joinPair f) (reduceLeaf f _ _), hlands, fun k hk => ⟨fun ha => if_pos ((hact k hk).mpr ha), fun ha => if_neg (mt (hact k hk).mp ha)⟩,
      fun _ _ => rfl⟩

/-! The carry-less product (R134). -/

theorem odd_length_filter_cons (q : Nat → Bool) (i : Nat) (l : List Nat) :
    decide (((i :: l).filter q).length % 2 = 1) = (q i ^^ decide ((l.filter q).length % 2 = 1)) := by
  rw [List.filter_cons]
  cases q i
  · simp
  · rcases Nat.mod_two_eq_zero_or_one (l.filter q).length with h | h <;> simp [h, Nat.add_mod]

/-- A bit of a sum without carries of shifted copies of a: whether an odd number of them has it. -/
theorem testBit_foldl_xor (a : Nat) (p : Nat → Prop) [DecidablePred p] (l : List Nat) (z k : Nat) :
    (l.foldl (fun r i => if p i then r ^^^ (a * 2 ^ i) else r) z).testBit k =
      (z.testBit k ^^ decide ((l.filter fun i => decide (p i) && decide (i ≤ k) && a.testBit (k - i)).length % 2 = 1)) := by
  induction l generalizing z with
  | nil => exact (Bool.xor_false _).symm
  | cons i l ih =>
    have hbit : (if p i then z ^^^ (a * 2 ^ i) else z).testBit k = (z.testBit k ^^ (decide (p i) && decide (i ≤ k) && a.testBit (k - i))) := by
      by_cases hp : p i
      · rw [if_pos hp, Nat.testBit_xor, Nat.testBit_mul_two_pow, decide_eq_true hp, Bool.true_and]
      · rw [if_neg hp, decide_eq_false hp, Bool.false_and, Bool.false_and, Bool.xor_false]
    rw [List.foldl_cons, ih, hbit, odd_length_filter_cons, Bool.xor_assoc]

theorem testBit_clmul (a b k : Nat) : (clmul a b).testBit k =
    decide (((List.range 64).filter fun p => b.testBit p && decide (p ≤ k) && a.testBit (k - p)).length % 2 = 1) := by
  rw [clmul, testBit_foldl_xor, Nat.zero_testBit, Bool.false_xor]
  simp only [Nat.testBit_eq_decide_div_mod_eq]

theorem clmul_lt {a : Nat} (ha : a < 2 ^ 64) (b : Nat) : clmul a b < 2 ^ 128 := by
  refine List.foldlRecOn (motive := (· < 2 ^ 128)) _ _ (Nat.two_pow_pos 128) fun r hr i hi => ?_
  have hshift : a * 2 ^ i < 2 ^ 64 * 2 ^ 64 :=
    Nat.mul_lt_mul_of_lt_of_le ha (Nat.pow_le_pow_right (by decide) (List.mem_range.mp hi).le) (Nat.two_pow_pos _)
  split
  · exact Nat.xor_lt_two_pow hr (hshift.trans_eq (pow_add 2 64 64).symm)
  · exact hr

/-- The value of a carry-less product of lanes. -/
def lanesProduct (e : Nat) (a b : Vec) : Vec := BitVec.ofNat 1024 ((List.range 8).foldl (fun x j =>
  x + clmul (elem 64 a (2 * j + e)) (elem 64 b (2 * j + e)) * 2 ^ (128 * j)) 0)

/-- Each lane is the product of its halves (R134). -/
theorem elem_lanesProduct (e : Nat) (a b : Vec) {j : Nat} (hj : j < 8) :
    elem 128 (lanesProduct e a b) j = clmul (elem 64 a (2 * j + e)) (elem 64 b (2 * j + e)) := by
  have hmod (j : Nat) : clmul (elem 64 a (2 * j + e)) (elem 64 b (2 * j + e)) % 2 ^ 128 = clmul (elem 64 a (2 * j + e)) (elem 64 b (2 * j + e)) :=
    Nat.mod_eq_of_lt (clmul_lt (elem_lt ..) _)
  have hplaced : lanesProduct e a b =
      BitVec.ofNat 1024 (placed 128 (fun j => clmul (elem 64 a (2 * j + e)) (elem 64 b (2 * j + e))) (List.range 8) 0) := by
    simp only [lanesProduct, placed, hmod]
  rw [hplaced, elem_ofNat (by omega), digit_placed_zero List.nodup_range, if_pos (List.mem_range.mpr hj), hmod]

theorem carrylessProducts : Clause.CarrylessProducts := by
  intro f e i he s h
  have hlands : Answers i s fun t => Lands i s t 4 (vectorDest f.d) (.vec (lanesProduct e (s.vsrc f.ty f.a) (s.vsrc f.ty f.b)) (~~~0#1024)) := by
    obtain rfl | rfl : e = 0 ∨ e = 1 := by omega
    · exact answers_of_vectorOp (i := .vclmul f) (g := resVclmul f) rfl (fun _ => rfl) h
    · exact answers_of_vectorOp (i := .vclmulh f) (g := resVclmulh f) rfl (fun _ => rfl) h
  obtain ⟨t, ht, hlands⟩ := hlands
  refine ⟨t, ht, _, hlands, fun j k hj hk => ?_⟩
  rw [BitVec.getLsbD, ← testBit_digit hk, ← elem_eq_digit, elem_lanesProduct e _ _ hj, testBit_clmul]

/-- Settles O19: VRED by the folds and the tree of its elements; the carry-less products bit by bit. -/
theorem vectorReductionAndCarryless : Obligations.VectorReductionAndCarryless := ⟨vectorReductions, carrylessProducts⟩

end Sys2Proof.Machine
end

section
/-!
VDUP (R140).
-/
namespace Sys2Proof.Machine

/-- The operations that may be the partner of a VDUP, opcodes 0x01 to 0x1C of the V map (R70), have a fixed latency and a result of their images
and their mask. -/
theorem fixed_of_isPartner {p : Instr} (h : isPartner p = true) :
    ∃ n, latency p = .fixed n ∧ ∀ a b x m, ∃ v, vectorResult p a b x m = some v := by
  cases p
  -- An operation of another class, and an event, is no partner.
  all_goals try exact absurd h Bool.false_ne_true
  all_goals try exact ⟨_, rfl, fun _ _ _ _ => ⟨_, rfl⟩⟩
  -- What is left of the V map, the accesses and the queues, has a higher opcode.
  all_goals simp [isPartner, encodeSlot] at h

/-- The operation of a VDUP whose partner has a fixed latency and a result (R140). -/
theorem opVdup_of_partner {f : FmtR} {p : Instr} {s : State} (hp : s.cur.partner = some p) {n : Nat} (hn : latency p = .fixed n) {v : Result}
    (hv : vectorResult p (s.vimage (sourceType p) p 0) (s.vimage (sourceType p) p 1) (s.vimage (sourceType p) p 2) (maskOf s.issuer (maskField p)) = some v) :
    opVdup f s = .ok (land (vectorRec s (maskOf s.issuer (maskField p)) (vectorSources s (sourceType p) p)) n (vdupDest p f.d) v s) := by
  rw [State.vimage, State.vimage, State.vimage, State.issuer] at hv
  simp only [opVdup, act, hp, hn, hv]
  rfl

/-- Settles O20: the partner's latency and result are those of its images and its mask, as the issuer reads them. -/
theorem duplication : Obligations.Duplication := by
  intro f p s h hp hpart
  obtain ⟨n, hn, hres⟩ := fixed_of_isPartner hpart
  obtain ⟨v, hv⟩ := hres (s.vimage (sourceType p) p 0) (s.vimage (sourceType p) p 1) (s.vimage (sourceType p) p 2) (maskOf s.issuer (maskField p))
  exact ⟨n, v, hn, hv, lands_of_land h (r := vectorRec _ (maskOf s.issuer (maskField p)) (vectorSources s (sourceType p) p)) (opRec_isOf _ s)
    (opVdup_of_partner (s := issuedAt (.vdup f) s) hp hn hv)⟩

end Sys2Proof.Machine
end

section
/-!
QPUSH and QPOP (R139, R161, R162, R182).
-/
namespace Sys2Proof.Machine

theorem leNat_leBytes_of_lt {x n : Nat} (h : x < 2 ^ (8 * n)) : leNat (leBytes x n) = x := by
  rw [leNat_leBytes, show (256 : Nat) = 2 ^ 8 from rfl, ← pow_mul, Nat.mod_eq_of_lt h]

/-- The entry of a push holds the elements of its source that both formats have room for (R161). -/
theorem leNat_makeEntry (src : BitVec 4) (n now : Nat) (x : Vec) :
    leNat (makeEntry src n x.toNat now).image = x.toNat % 2 ^ imageBits src n :=
  leNat_leBytes_of_lt ((Nat.mod_le _ _).trans_lt x.isLt)

/-- A context written twice is the one written last. -/
theorem applyAll_modCtx_withIssuer (s : State) (c : Ctx) (f : Ctx → Ctx) :
    applyAll (modCtx s.cur.key f (s.withIssuer c)) (s.withIssuer c) = s.withIssuer (f c) := by
  rw [applyAll_modCtx, show (s.withIssuer c).ctx s.cur.key = c from State.withIssuer_issuer s c]
  simp only [State.withIssuer, Sparse.set_set]

/-- The record of a pop: its claim, the binding and the ordinal (R268). -/
def popRec (s : State) (q : Nat) : OpRec :=
  { opRec s with ca := BitVec.ofNat 64 ((s.issuer.queue q).base + (s.issuer.queue q).claimed), cb := s.issuer.qbind q,
                 cc := (s.issuer.queue q).ordinal.setWidth 64 }

/-- The context of a pop: the operation is under way with its claim, and the queue has given it (R162, R182). -/
def Ctx.pops (c : Ctx) (now : Nat) (r : OpRec) (q : Nat) (d : Dest) : Ctx :=
  { c.withPending r [d] (.claim q ((c.queue q).base + (c.queue q).claimed) (c.queue q).ordinal (c.qbind q) now) with
    queues := c.queues.set q (c.queue q).claim }

theorem applyAll_opQpop (f : FmtR) (s : State) : ∃ e, opQpop f s = .ok e ∧
    applyAll e s = s.withIssuer (s.issuer.pops s.now (popRec s (f.var.extractLsb' 0 3).toNat) (f.var.extractLsb' 0 3).toNat (.v f.d.toNat)) := by
  refine ⟨_, rfl, ?_⟩
  rw [applyAll_seq, applyAll_pend]
  exact applyAll_modCtx_withIssuer s _ _

/-- Settles O24: a push appends its entry, and a pop is under way with its claim, each by a change of the issuing context. -/
theorem queues : Obligations.Queues := by
  refine ⟨fun f s h => ?push, fun f s h => ?pop⟩
  case push =>
    exact ⟨makeEntry _ _ (s.vsrc 0#4 f.a).toNat s.now, rfl, rfl, rfl, rfl, leNat_makeEntry ..,
      answers_of_ok h rfl rfl h.stores h.trapped ⟨rfl, rfl⟩⟩
  case pop =>
    obtain ⟨e, he, ht⟩ := applyAll_opQpop f (issuedAt (.qpop f) s)
    exact ⟨popRec (issuedAt (.qpop f) s) (f.var.extractLsb' 0 3).toNat, opRec_isOf (.qpop f) s,
      answers_of_withIssuer h rfl he ht rfl rfl rfl fun _ hc _ honly => by rw [hc] at honly; exact honly⟩

end Sys2Proof.Machine
end

section
/-!
The vector loads and stores: their elements, their checks and what they do (R136 to R138).
-/
namespace Sys2Proof.Machine

/-- The answer of an operation that takes the trap of its checks, or else does something. -/
def checkedBy (check : Option Trap) (done : Except Trap (List Effect)) : Except Trap (List Effect) :=
  match check with
  | some t => .error t
  | none => done

section
variable {check : Option Trap} {done x : Except Trap (List Effect)} (h : x = checkedBy check done)
include h

theorem checkedBy_of_trap {t : Trap} (hc : check = some t) : x = .error t := by rw [h, hc]; rfl
theorem checkedBy_of_free (hc : check = none) : x = done := by rw [h, hc]; rfl

end

/-- The elements of a vector memory operation: the active ones, each with its offset (R136, R137). -/
def elemsAt (m : MaskVal) (ty : BitVec 4) (at_ : Nat → Word) : List Elem :=
  (activeElems m (elemCount ty)).map fun k => ⟨k, at_ k, tyBytes ty⟩

theorem map_elem_elemsAt (m : MaskVal) (ty : BitVec 4) (at_ : Nat → Word) : (elemsAt m ty at_).map (·.elem) = activeElems m (elemCount ty) := by
  rw [elemsAt, List.map_map]
  exact List.map_id _

theorem len_of_mem_elemsAt {m : MaskVal} {ty : BitVec 4} {at_ : Nat → Word} {e : Elem} (h : e ∈ elemsAt m ty at_) : e.len = tyBytes ty := by
  obtain ⟨k, _, rfl⟩ := List.mem_map.mp h
  rfl

theorem dataLength_elemsAt (m : MaskVal) (ty : BitVec 4) (at_ : Nat → Word) :
    dataLength (elemsAt m ty at_) = tyBytes ty * (elemsAt m ty at_).length := by
  rw [dataLength, ← List.sum_eq_foldl, List.sum_eq_card_nsmul _ (tyBytes ty) fun x hx => ?_, List.length_map, smul_eq_mul, Nat.mul_comm]
  obtain ⟨e, he, rfl⟩ := List.mem_map.mp hx
  exact len_of_mem_elemsAt he

/-! Elements from bytes laid end to end. -/

theorem length_read (m : List Host.Cell) (a n : Nat) : (Memory.read m a n).length = n := by
  induction n generalizing a with
  | zero => rfl
  | succ n ih => rw [Memory.read, List.length_cons, ih]

theorem leNat_lt (bs : List Byte) : leNat bs < 2 ^ (8 * bs.length) := by
  induction bs with
  | nil => exact Nat.one_pos
  | cons b bs ih =>
    have hb : b.toNat < 256 := b.isLt
    have hpow : 2 ^ (8 * (bs.length + 1)) = 256 * 2 ^ (8 * bs.length) := by rw [Nat.mul_succ, Nat.add_comm, pow_add]; rfl
    rw [leNat, List.length_cons, hpow]
    omega

theorem drop_flatMap {α β : Type} {f : α → List β} {n : Nat} (h : ∀ x, (f x).length = n) (l : List α) (j : Nat) :
    (l.flatMap f).drop (j * n) = (l.drop j).flatMap f := by
  induction j generalizing l with
  | zero => rw [Nat.zero_mul, List.drop_zero, List.drop_zero]
  | succ j ih =>
    cases l with
    | nil => rw [List.drop_nil, List.flatMap_nil, List.drop_nil]
    | cons x l =>
      rw [List.flatMap_cons, List.drop_succ_cons, ← ih l, Nat.succ_mul, Nat.add_comm, ← List.drop_drop, List.drop_left' (h x)]

/-- Elements whose bytes are laid end to end are placed from their own bytes. -/
theorem placeElems_flatMap {w n : Nat} (hw : w = 8 * n) {bytes : Nat → List Byte} (h : ∀ k, (bytes k).length = n) (l : List Nat) :
    placeElems w l (l.flatMap bytes) = ofElems w (l.map fun k => (k, leNat (bytes k))) := by
  have hn : w / 8 = n := by omega
  rw [placeElems, hn]
  congr 1
  refine List.ext_getElem (by simp) fun j hj _ => ?_
  have hj' : j < l.length := by simpa using hj
  simp only [List.getElem_map, List.getElem_zipIdx, Nat.zero_add]
  rw [drop_flatMap h, List.drop_eq_getElem_cons hj', List.flatMap_cons, List.take_left' (h _)]

/-! Loads (R136, R137). -/

section
variable {i : Instr} {s : State} (h : Issues i s) {op : SlotOp} (hx : exec i s = runOne i op s) {d : OpName} {w : Nat} {hd : Handle} {r : OpRec}
  {es : List Elem} {n : Nat} (hr : r.isOf i s) (ho : op (issuedAt i s) = .ok (vectorLoad d w hd r es n (issuedAt i s)))
include h hx hr ho

/-- A load with no active element makes no access, and delivers a result that writes nothing. -/
theorem answers_of_vectorLoad_nothing (hes : es = []) :
    if hd.v ∧ hd.kind = .spad then Answers i s fun t => Lands i s t n (.v d.toNat) (.vec 0#1024 0#1024)
    else Answers i s fun t => Pends i s t [.v d.toNat] (.value (s.now + 1) [.vec 0#1024 0#1024]) := by
  have hown : hd.ownSpad = true ↔ hd.v ∧ hd.kind = .spad := by rw [Handle.ownSpad, Bool.and_eq_true, decide_eq_true_iff]
  rw [vectorLoad, if_pos hes] at ho
  split
  next hk =>
    rw [if_pos (hown.mpr hk)] at ho
    obtain ⟨t, ht, hlands⟩ := lands_of_land h hr ho
    exact ⟨t, hx.trans ht, hlands⟩
  next hk =>
    rw [if_neg (mt hown.mp hk)] at ho
    obtain ⟨t, ht, hpends⟩ := pends_of_pend h hr ho
    exact ⟨t, hx.trans ht, hpends⟩

/-- A load through a SPAD handle lands its elements, each from its own bytes. -/
theorem lands_of_vectorLoad_spad (hes : es ≠ []) (hk : hd.kind = .spad) : Answers i s fun t => Lands i s t n (.v d.toNat)
    (.vec (placeElems w (es.map (·.elem)) (es.flatMap (spadBytes s s.cur.key hd))).1
      (placeElems w (es.map (·.elem)) (es.flatMap (spadBytes s s.cur.key hd))).2) := by
  rw [vectorLoad, if_neg hes, if_pos hk] at ho
  exact lands_of_touch h hx hr ho

omit hr in
/-- A load through any other handle starts an access. -/
theorem becomes_of_vectorLoad_away (hes : es ≠ []) (hk : hd.kind ≠ .spad) : Becomes i s
    ((s.withAccess (s.accessFor r .load hd es (List.replicate (dataLength es) 0#8) [] 3#3 false)).withIssuer
      (s.issuer.withPending r [.v d.toNat] (.access s.nextId))) := by
  rw [vectorLoad, if_neg hes, if_neg hk] at ho
  exact becomes_of_startAccess_pend h hx ho

end

/-- What a load through a SPAD handle lands: of the active elements the bytes as they stand, and no other element (R136, R137). -/
theorem holdsElems_of_load (s : State) (hd : Handle) (m : MaskVal) (ty : BitVec 4) (at_ : Nat → Word) :
    let es := elemsAt m ty at_
    let x := placeElems (tyWidth ty) (es.map (·.elem)) (es.flatMap (spadBytes s s.cur.key hd))
    HoldsElems (tyWidth ty) (elemCount ty) x.1 x.2 (fun k => m.getLsbD k = true)
      (fun k => leNat (Memory.read s.mem (spadPlace (coreOf s.cur.key) (hd.base + at_ k).toNat) (tyBytes ty))) := by
  intro es x
  have hx : x = ofElems (tyWidth ty) ((activeElems m (elemCount ty)).map fun k =>
      (k, leNat (Memory.read s.mem (spadPlace (coreOf s.cur.key) (hd.base + at_ k).toNat) (tyBytes ty)))) := by
    rw [← placeElems_flatMap (tyWidth_eq_eight_mul ty) fun k => length_read s.mem (spadPlace (coreOf s.cur.key) (hd.base + at_ k).toNat) (tyBytes ty)]
    simp only [x, es, map_elem_elemsAt]
    rw [elemsAt, List.flatMap_map]
    rfl
  rw [hx]
  refine holdsElems_ofElems (tyWidth_mul_elemCount_le ty) (nodup_activeElems ..) (fun k hk => ?_) fun _ _ => rfl
  rw [mem_activeElems]
  exact and_iff_right hk

/-- Settles O21: VLD and VGATH by their checks, their elements and the kind of their handle. -/
theorem vectorLoads : Obligations.VectorLoads := by
  intro f s gather i hd size off at_ es check free h
  obtain ⟨op, r, hx, hr, ho⟩ : ∃ op r, exec i s = runOne i op s ∧ r.isOf i s ∧ op (issuedAt i s) = checkedBy check
      (.ok (vectorLoad f.d (tyWidth f.ty) hd r (elemsAt (maskOf s.issuer f.msk) f.ty at_) (if gather then 8 else 6) (issuedAt i s))) := by
    cases gather
    · exact ⟨opVld f, vectorMemRec (issuedAt i s) hd off (maskOf s.issuer f.msk) [], rfl, opRec_isOf _ s, rfl⟩
    · exact ⟨opVgath f, vectorMemRec (issuedAt i s) hd off (maskOf s.issuer f.msk) [s.vsrc f.ty f.c], rfl, opRec_isOf _ s, rfl⟩
  refine ⟨fun tr hc => traps_of_error h hx (checkedBy_of_trap ho hc), fun hes => ?nothing, fun hes hfree hk => ?spad, fun hes hfree hk => ?away⟩
  case nothing =>
    have hc : check = none := by cases gather <;> simp only [check, hes] <;> rfl
    exact answers_of_vectorLoad_nothing h hx hr (checkedBy_of_free ho hc) hes
  case spad =>
    obtain ⟨t, ht, hlands⟩ := lands_of_vectorLoad_spad h hx hr (checkedBy_of_free ho hfree) hes hk
    refine ⟨t, ht, _, _, hlands, fun k hkn => ?_⟩
    obtain ⟨hin, hout⟩ := holdsElems_of_load s hd (maskOf s.issuer f.msk) f.ty at_ k hkn
    split
    next hm =>
      obtain ⟨hval, hmask⟩ := hin hm
      refine ⟨hmask, hval.trans (Nat.mod_eq_of_lt ?_)⟩
      have hlt := leNat_lt (Memory.read s.mem (spadPlace (coreOf s.cur.key) (hd.base + at_ k).toNat) (tyBytes f.ty))
      rwa [length_read, ← tyWidth_eq_eight_mul] at hlt
    next hm => exact hout hm
  case away =>
    have haccess := becomes_of_vectorLoad_away h hx (checkedBy_of_free ho hfree) hes hk
    rw [dataLength_elemsAt] at haccess
    exact ⟨r, hr, haccess⟩

end Sys2Proof.Machine
end

section
/-!
VST and VSCAT (R136 to R138).
-/
namespace Sys2Proof.Machine

/-- An element that a store leaves is one of its elements (R296). -/
theorem mem_of_mem_unsuppressed {m : List Host.Cell} {c : Ctx} {key : Nat} {h : Handle} {es : List Elem} {e : Elem}
    (he : e ∈ unsuppressed m c key h es) : e ∈ es := by
  rw [unsuppressed] at he
  split at he
  · exact List.mem_of_mem_filter he
  · exact he

/-- The bytes of elements of one size. -/
theorem elemBytes_eq {es : List Elem} {n : Nat} (h : ∀ e ∈ es, e.len = n) (w : Nat) (x : Vec) :
    elemBytes w x es = es.flatMap fun e => leBytes (elem w x e.elem) n :=
  List.flatMap_congr fun e he => by rw [h e he]

/-- The changes of a vector store: those of the elements that are left, and none where no element is. -/
def storeLeft (key : Nat) (r : OpRec) (h : Handle) (left : List Elem) (data : List Byte) : Act := fun s =>
  if left = [] then [] else storeElems key r h left data s

section
variable {i : Instr} {s : State} (h : Issues i s) {op : SlotOp} (hx : exec i s = runOne i op s) {r : OpRec} {hd : Handle} {left : List Elem}
  {data : List Byte} (ho : op (issuedAt i s) = .ok (storeLeft s.cur.key r hd left data (issuedAt i s)))
include h hx ho

theorem becomes_of_storeLeft_nothing (hl : left = []) : Becomes i s s := by
  rw [storeLeft, if_pos hl] at ho
  exact answers_of_ok h hx ho h.stores h.trapped ⟨rfl, rfl⟩

theorem stores_of_storeLeft_spad (hk : hd.kind = .spad) (hdata : left = [] → data = []) :
    Answers i s fun t => Stores s t (reached (coreOf s.cur.key) hd left) data := by
  by_cases hl : left = []
  · rw [storeLeft, if_pos hl] at ho
    rw [hdata hl, hl]
    exact answers_of_stores h hx ho (x := issueOf i s) rfl h.stores rfl rfl rfl
  · rw [storeLeft, if_neg hl] at ho
    exact stores_of_storeElems h hx ho hk

theorem becomes_of_storeLeft_mcast (hl : left ≠ []) (hk : hd.kind = .mcast) :
    Becomes i s { s with nextId := s.nextId + 1, mcasts := s.mcasts.set s.nextId (s.mcastFor r hd left data) } := by
  rw [storeLeft, if_neg hl] at ho
  exact becomes_of_storeElems_mcast h hx ho hk

theorem becomes_of_storeLeft_away (hl : left ≠ []) (hs : hd.kind ≠ .spad) (hm : hd.kind ≠ .mcast) :
    Becomes i s (s.withAccess (s.accessFor r .store hd left data [] 3#3 (hd.kind = .global))) := by
  rw [storeLeft, if_neg hl] at ho
  exact becomes_of_storeElems_away h hx ho hs hm hl

end

/-- Settles O22: VST and VSCAT by their checks, the elements that are left and the kind of their handle. -/
theorem vectorStores : Obligations.VectorStores := by
  intro f s scatter i hd size off at_ es check free left data h
  have hdata : elemBytes (tyWidth f.ty) (s.vsrc f.ty f.d) left = data :=
    elemBytes_eq (fun e he => len_of_mem_elemsAt (mem_of_mem_unsuppressed he)) ..
  obtain ⟨op, r, hx, hr, ho⟩ : ∃ op r, exec i s = runOne i op s ∧ r.isOf i s ∧
      op (issuedAt i s) = checkedBy check (if left = [] then .ok [] else .ok (storeElems s.cur.key r hd left data (issuedAt i s))) := by
    rw [← hdata]
    cases scatter
    · exact ⟨opVst f, vectorMemRec (issuedAt i s) hd off (maskLess (maskOf s.issuer f.msk) es left) [s.vsrc f.ty f.d], rfl, opRec_isOf _ s, rfl⟩
    · exact ⟨opVscat f, vectorMemRec (issuedAt i s) hd off (maskLess (maskOf s.issuer f.msk) es left) [s.vsrc f.ty f.d, s.vsrc f.ty f.c], rfl,
        opRec_isOf _ s, rfl⟩
  have hfree (hc : free) : op (issuedAt i s) = .ok (storeLeft s.cur.key r hd left data (issuedAt i s)) :=
    (checkedBy_of_free ho hc).trans (apply_ite Except.ok ..).symm
  exact ⟨fun tr hc => traps_of_error h hx (checkedBy_of_trap ho hc), fun hc hl => becomes_of_storeLeft_nothing h hx (hfree hc) hl,
    fun hc hk => stores_of_storeLeft_spad h hx (hfree hc) hk fun hl => by rw [← hdata, hl]; rfl,
    fun hc hl hk => ⟨_, rfl, rfl, rfl, rfl, rfl, becomes_of_storeLeft_mcast h hx (hfree hc) hl hk⟩,
    fun hc hl hs hm => ⟨r, hr, becomes_of_storeLeft_away h hx (hfree hc) hl hs hm⟩⟩

end Sys2Proof.Machine
end

section
/-!
How an M operation enters the sequencer of its context: the range of memory that it reads, and what it asks for (R168, R169).
-/
namespace Sys2Proof.Machine

/-! The check of one range: its handle's, then what else the operation checks (R93, R296). -/

theorem elemsTrap_singleton (i : Issue) (h : Handle) (perm : Nat) (more : Elem → Option Trap) (e : Elem) :
    elemsTrap i h perm more [e] = (rangeTrap i h e.off e.len perm e.elem).orElse fun _ => more e := by
  rw [elemsTrap, List.findSome?_cons, List.findSome?_nil]
  cases (rangeTrap i h e.off e.len perm e.elem).orElse fun _ => more e <;> rfl

section
variable {i : Instr} {s : State} {op : SlotOp} {hd : Handle} {off : Word} {n : Nat} {done : Except Trap (List Effect)}
  (ho : op (issuedAt i s) = checkedBy (elemsTrap (issueOf i s) hd 0 (readTrap s.issuer (issueOf i s) hd) [⟨0, off, n⟩]) done)
include ho

theorem traps_of_range (h : Issues i s) (hx : exec i s = runOne i op s) {code : BitVec 16} (hc : checkHandle hd off n 0 = some code) :
    Traps i s (accessTrap (issueOf i s) code (hd.base + off) 0 0#8) :=
  traps_of_error h hx (checkedBy_of_trap ho (elemsTrap_of_handle (e := ⟨0, off, n⟩) hc))

theorem traps_of_readTrap (h : Issues i s) (hx : exec i s = runOne i op s) {tr : Trap} (hc : checkHandle hd off n 0 = none)
    (hr : readTrap s.issuer (issueOf i s) hd ⟨0, off, n⟩ = some tr) : Traps i s tr :=
  traps_of_error h hx (checkedBy_of_trap ho ((elemsTrap_of_no_handle (e := ⟨0, off, n⟩) hc).trans hr))

theorem answer_of_range_free (hc : checkHandle hd off n 0 = none) (hr : readTrap s.issuer (issueOf i s) hd ⟨0, off, n⟩ = none) :
    op (issuedAt i s) = done :=
  checkedBy_of_free ho ((elemsTrap_of_no_handle (e := ⟨0, off, n⟩) hc).trans hr)

end

/-! The parts of a range. -/

/-- Each byte of a range lies in the part of its line. -/
theorem exists_mem_lineParts (addr : Nat) {len b : Nat} (h : b < len) : ∃ p ∈ lineParts addr 0 len,
    p.done = false ∧ p.pos ≤ b ∧ b < p.pos + p.len ∧ p.va + (b - p.pos) = addr + b := by
  have hline : (addr + b) / 128 - addr / 128 < len / 128 + 2 := by omega
  refine ⟨_, List.mem_filter.mpr ⟨List.mem_map.mpr ⟨_, List.mem_range.mpr hline, rfl⟩, decide_eq_true ?_⟩, rfl, ?_⟩ <;> dsimp only <;> omega

/-- An access has every part that was laid out, with its cycle. -/
theorem exists_mem_timeParts {ps : List Part} {p : Part} (h : p ∈ ps) (s : State) (core : Nat) (cid : BitVec 8) (kind : HandleKind) (op : OpRec) :
    ∃ due, { p with due := due } ∈ timeParts s core cid kind op ps := by
  obtain ⟨k, hk⟩ := List.mem_iff_getElem?.mp h
  exact ⟨_, List.mem_map.mpr ⟨(p, k), List.mk_mem_zipIdx_iff_getElem?.mpr hk, rfl⟩⟩

/-! What an operation asks for as it enters. -/

/-- A context whose sequencer has taken an operation as its last. -/
def Ctx.enqueue (c : Ctx) (m : MOp) : Ctx := { c with mops := c.mops ++ [m] }

/-- An M operation as it enters: what of the machine it takes with it. -/
def MOp.entering (m : MOp) (ready : Nat) (data : List Byte) (access : Option Nat) : MOp :=
  { m with ready := ready, data := data, access := access }

/-- The access that asks for the n bytes of an M operation of the issuer. -/
def State.matrixAccess (s : State) (m : MOp) (n : Nat) : Access :=
  { key := s.cur.key, cid := s.issuer.cid, op := m.op, kind := m.kind, what := .matrix,
    parts := timeParts { s with nextId := s.nextId + 1 } (coreOf s.cur.key) s.issuer.cid m.kind m.op (lineParts m.addr 0 n),
    data := List.replicate n 0#8, cmp := [], scope := 3#3, after := heldBehind s.issuer true, fresh := s.issuer.fresh, freshC := s.issuer.freshC,
    paths := pathsMet { s with nextId := s.nextId + 1 } (coreOf s.cur.key) m.kind (lineParts m.addr 0 n), buffered := false }

theorem State.exists_mem_matrixAccess (s : State) (m : MOp) {n b : Nat} (h : b < n) : ∃ p, p ∈ (s.matrixAccess m n).parts ∧
    p.done = false ∧ p.pos ≤ b ∧ b < p.pos + p.len ∧ p.va + (b - p.pos) = m.addr + b := by
  obtain ⟨p, hp, hbyte⟩ := exists_mem_lineParts m.addr h
  obtain ⟨due, hdue⟩ := exists_mem_timeParts hp _ _ _ _ _
  exact ⟨_, hdue, hbyte⟩

/-- The cycle from which an M operation of the issue may start: a free one from issue + 1 on (log entry 2). -/
def State.matrixStart (s : State) : Nat := s.now + 1 + Config.freeNat s.free

theorem applyAll_enterSequencer_nothing (m : MOp) (s : State) : applyAll (enterSequencer s.cur.key m 0 0 s) s =
    { s with free := s.free + 1 }.withIssuer (s.issuer.enqueue (m.entering s.matrixStart m.data m.access)) := rfl

theorem applyAll_enterSequencer_spad {m : MOp} {n : Nat} (hn : n ≠ 0) (hk : m.kind = .spad) (s : State) :
    applyAll (enterSequencer s.cur.key m n 0 s) s = { s with free := s.free + 1 }.withIssuer
      (s.issuer.enqueue (m.entering s.matrixStart (Memory.read s.mem (spadPlace (coreOf s.cur.key) m.addr) n) m.access)) := by
  rw [enterSequencer]
  dsimp only
  rw [if_neg hn, if_pos hk]
  rfl

theorem applyAll_noteNear (key id : Nat) (kind : HandleKind) (ps : List Part) (s : State) :
    ∃ j, s.cur.noted j ∧ applyAll (noteNear key id kind ps s) s = { s with cur := j } := by
  cases hn : ps.any (ownPart (coreOf key) kind)
  · exact ⟨s.cur, ⟨s.cur.near, rfl⟩, by rw [noteNear, hn]; rfl⟩
  · exact ⟨{ s.cur with near := s.cur.near ++ [id] }, ⟨_, rfl⟩, by rw [noteNear, hn]; rfl⟩

theorem applyAll_enterSequencer_away {m : MOp} {n : Nat} (hn : n ≠ 0) (hk : m.kind ≠ .spad) (s : State) : ∃ j, s.cur.noted j ∧
    applyAll (enterSequencer s.cur.key m n 0 s) s =
      { s with nextId := s.nextId + 1, free := s.free + 2, accs := s.accs.set s.nextId (s.matrixAccess m n), cur := j }.withIssuer
        (s.issuer.enqueue (m.entering s.matrixStart m.data (some s.nextId))) := by
  obtain ⟨_, ⟨near, rfl⟩, hj⟩ := applyAll_noteNear s.cur.key s.nextId m.kind (lineParts m.addr 0 n)
    { s with nextId := s.nextId + 1, free := s.free + 1, accs := s.accs.set s.nextId (s.matrixAccess m n) }
  refine ⟨_, ⟨near, rfl⟩, ?_⟩
  rw [enterSequencer]
  dsimp only
  rw [if_neg hn, if_neg hk, startAccess, withId, applyAll_seq]
  dsimp only
  rw [applyAll_seqs_cons, applyAll_seqs_cons]
  refine (congrArg (fun t => applyAll (Act.seqs [_] t) t) hj).trans ?_
  rfl

@[simp] theorem Act.seq_skip (f : Act) (s : State) : Act.seq f Act.skip s = f s := List.append_nil _

/-! An operation that enters, and does more to its context. -/

/-- What follows the entry changes the issuing context alone, whatever the operation took with it. -/
def EntersThen (i : Instr) (s : State) (m : MOp) (after : Act) (more : MOp → Ctx → Ctx) : Prop :=
  ∀ (v : State) (ready : Nat) (data : List Byte) (access : Option Nat), (issueOf i s).noted v.cur → v.now = s.now →
    applyAll (after (v.withIssuer (s.issuer.enqueue (m.entering ready data access)))) (v.withIssuer (s.issuer.enqueue (m.entering ready data access))) =
      v.withIssuer (more (m.entering ready data access) (s.issuer.enqueue (m.entering ready data access)))

theorem entersThen_skip (i : Instr) (s : State) (m : MOp) : EntersThen i s m Act.skip fun _ c => c := fun _ _ _ _ _ _ => rfl

theorem entersThen_modCtx {i : Instr} {s : State} {m : MOp} {g : Ctx → Ctx} {more : MOp → Ctx → Ctx} (h : ∀ ready data access,
    g (s.issuer.enqueue (m.entering ready data access)) = more (m.entering ready data access) (s.issuer.enqueue (m.entering ready data access))) :
    EntersThen i s m (modCtx s.cur.key g) more := by
  rintro v ready data access ⟨near, hj⟩ _
  have hkey : s.cur.key = v.cur.key := by rw [hj]; rfl
  rw [hkey, applyAll_modCtx_withIssuer, h]

section
variable {i : Instr} {s : State} (h : Issues i s) {op : SlotOp} (hx : exec i s = runOne i op s) {m : MOp} {n : Nat} {after : Act}
  {what : MOp → Prop} {more : MOp → Ctx → Ctx} (hafter : EntersThen i s m after more)
  (ho : op (issuedAt i s) = .ok (Act.seq (enterSequencer s.cur.key m n 0) after (issuedAt i s)))
include h hx hafter ho

/-- The state that the entry leads to, and what follows it, is the next one but for the issue in progress. -/
theorem becomes_of_enterSequencer {v : State} {ready : Nat} {data : List Byte} {access : Option Nat} (hnow : v.now = s.now)
    (hkey : v.cur.key = s.cur.key) (henter : ∃ j, (issueOf i s).noted j ∧
      applyAll (enterSequencer s.cur.key m n 0 (issuedAt i s)) (issuedAt i s) =
        { v with cur := j }.withIssuer (s.issuer.enqueue (m.entering ready data access))) :
    Becomes i s (v.withIssuer (more (m.entering ready data access) (s.issuer.enqueue (m.entering ready data access)))) := by
  obtain ⟨j, hj, ht⟩ := henter
  have hmore := hafter { v with cur := j } ready data access hj hnow
  obtain ⟨near, rfl⟩ := hj
  rw [← ht, ← applyAll_seq] at hmore
  refine answers_of_ok h hx ho ?_ ?_ ?_ <;> rw [hmore]
  · exact h.stores
  · exact h.trapped
  · refine ⟨?_, hkey.symm⟩
    rw [State.withIssuer, State.withIssuer, hkey]
    rfl

/-- An M operation enters with what it asks for: nothing, the bytes of the own scratchpad, or an access. -/
theorem enters_of_enterSequencer (hrec : m.op.isOf i s) (hbegun : m.begun = false) (hprog : m.prog = 0) (haccess : m.access = none)
    (hwhat : ∀ ready data access, what (m.entering ready data access)) : Enters i s n what more := by
  have henters (data : List Byte) (access : Option Nat) : let x := m.entering s.matrixStart data access
      x.op.isOf i s ∧ what x ∧ x.begun = false ∧ x.prog = 0 ∧ s.now + 1 ≤ x.ready :=
    ⟨hrec, hwhat _ _ _, hbegun, hprog, Nat.le_add_right ..⟩
  have hnoted : (issueOf i s).noted (issueOf i s) := ⟨(issueOf i s).near, rfl⟩
  rcases Nat.eq_zero_or_pos n with rfl | hn
  · obtain ⟨hop, hw, hb, hp, hready⟩ := henters m.data m.access
    exact ⟨_, hop, hw, hb, hp, hready, fun _ => becomes_of_enterSequencer h hx hafter ho (v := { s with free := s.free + 1 }) rfl rfl
      ⟨_, hnoted, applyAll_enterSequencer_nothing m (issuedAt i s)⟩, fun h0 => absurd rfl h0, fun h0 => absurd rfl h0⟩
  · have hn : n ≠ 0 := hn.ne'
    by_cases hk : m.kind = .spad
    · obtain ⟨hop, hw, hb, hp, hready⟩ := henters (Memory.read s.mem (spadPlace (coreOf s.cur.key) m.addr) n) m.access
      exact ⟨_, hop, hw, hb, hp, hready, fun h0 => absurd h0 hn, fun _ _ => ⟨haccess, rfl, becomes_of_enterSequencer h hx hafter ho
        (v := { s with free := s.free + 1 }) rfl rfl ⟨_, hnoted, applyAll_enterSequencer_spad hn hk (issuedAt i s)⟩⟩, fun _ h0 => absurd hk h0⟩
    · obtain ⟨hop, hw, hb, hp, hready⟩ := henters m.data (some s.nextId)
      exact ⟨_, hop, hw, hb, hp, hready, fun h0 => absurd h0 hn, fun _ h0 => absurd h0 hk, fun _ _ => ⟨rfl, (issuedAt i s).matrixAccess m n,
        rfl, rfl, rfl, rfl, rfl, rfl, List.length_replicate, fun b hbn => State.exists_mem_matrixAccess _ m hbn,
        becomes_of_enterSequencer h hx hafter ho rfl rfl (applyAll_enterSequencer_away hn hk (issuedAt i s))⟩⟩

end

end Sys2Proof.Machine
end

section
/-!
MLDW and MLDW.S, and the shapes of the matrix units (R161, R164, R172 to R177).
-/
namespace Sys2Proof.Machine

/-! The metadata word (R174, R175). -/

/-- The positions of a group of a metadata word rise. -/
def GroupRises (w : BitVec 256) (g : Nat) : Prop :=
  let pos (t : Nat) := w.toNat / 2 ^ (12 * g + 3 * t) % 8
  pos 0 < pos 1 ∧ pos 1 < pos 2 ∧ pos 2 < pos 3

/-- The group that the check of a metadata word finds first. -/
def firstFallingGroup (w : BitVec 256) : Option Nat :=
  let pos (g t : Nat) := (w.toNat / 2 ^ (12 * g + 3 * t)) % 8
  (List.range 16).find? fun g => !(decide (pos g 0 < pos g 1) && decide (pos g 1 < pos g 2) && decide (pos g 2 < pos g 3))

theorem metaFault_eq (w : BitVec 256) :
    metaFault w = (firstFallingGroup w).orElse fun _ => if w.extractLsb' 192 64 ≠ 0#64 then some 16 else none := rfl

theorem firstFallingGroup_eq_some_iff (w : BitVec 256) (g : Nat) :
    firstFallingGroup w = some g ↔ ¬ GroupRises w g ∧ g < 16 ∧ ∀ k < g, GroupRises w k := by
  simp only [firstFallingGroup, GroupRises, List.find?_range_eq_some, Bool.not_eq_true', ← Bool.not_eq_true, Bool.and_eq_true, decide_eq_true_iff,
    not_not, List.mem_range, and_assoc]

theorem metaFault_of_group {w : BitVec 256} {g : Nat} (hg : g < 16) (hno : ¬ GroupRises w g) (hlow : ∀ k < g, GroupRises w k) :
    metaFault w = some g := by
  rw [metaFault_eq, (firstFallingGroup_eq_some_iff w g).mpr ⟨hno, hg, hlow⟩]
  rfl

theorem metaFault_of_rising {w : BitVec 256} (h : ∀ g < 16, GroupRises w g) :
    metaFault w = if w.extractLsb' 192 64 ≠ 0#64 then some 16 else none := by
  rw [metaFault_eq]
  cases hg : firstFallingGroup w with
  | none => rfl
  | some g =>
    obtain ⟨hno, hlt, _⟩ := (firstFallingGroup_eq_some_iff w g).mp hg
    exact absurd (h g hlt) hno

/-! The operation. -/

/-- MPC moves on to the next metadata word (R173). -/
def Ctx.nextMeta (c : Ctx) : Ctx := { c with mpc := (c.mpc + 32#64) &&& 0x000FFFFFFFFFFFE0#64 }

/-- METADATA_ORDER with an index (R175). -/
def metaTrap (s : State) (g : Nat) : Trap :=
  { code := codeMetadataOrder, idx := BitVec.ofNat 16 g, slots := slotBit s.cur.slot, va := s.issuer.mpc.setWidth 52 }

/-- MLDW and MLDW.S answer their checks: the range's, and then the metadata word's. -/
theorem mldwOp_eq (sparse : Bool) (f : FmtM) (s : State) : mldwOp sparse f s =
    let h := s.issuer.handle (f.a.toNat % 16)
    let n := tileBytes (unitShape s.issuer.fuse (selectedQuads s.issuer f.qsel)) f.ty
    let w := (fetchedMeta s s.cur.key).getD 0#256
    checkedBy (elemsTrap s.cur h 0 (readTrap s.issuer s.cur h) [⟨0, matrixOffset f s, n⟩])
      (if sparse then checkedBy ((metaFault w).map (metaTrap s)) (.ok (Act.seq
          (enterSequencer s.cur.key { memMOp s f (matrixOffset f s) s.issuer.mpc 0#64 with words := w } n 0) (modCtx s.cur.key Ctx.nextMeta) s))
      else .ok (Act.seq (enterSequencer s.cur.key (memMOp s f (matrixOffset f s) 0#64 0#64) n 0) Act.skip s)) := by
  have hmap : ∀ (x : Option Nat) (done : Except Trap (List Effect)), checkedBy (x.map (metaTrap s)) done =
    match x with
    | some g => .error (metaTrap s g)
    | none => done := fun x _ => by cases x <;> rfl
  dsimp only
  rw [elemsTrap_singleton, hmap, Act.seq_skip]
  rfl

theorem weightLoads : Clause.WeightLoads := by
  intro f s sparse w i q hd off n free pos rises orderTrap entry h hmeta
  have hx : exec i s = runOne i (mldwOp sparse f) s := by cases sparse <;> rfl
  have ho : mldwOp sparse f (issuedAt i s) = checkedBy (elemsTrap (issueOf i s) hd 0 (readTrap s.issuer (issueOf i s) hd) [⟨0, off, n⟩]) _ :=
    mldwOp_eq sparse f (issuedAt i s)
  refine ⟨fun _ => traps_of_range ho h hx, fun _ => traps_of_readTrap ho h hx, ?_⟩
  have hpass (hfree : free) := answer_of_range_free ho hfree.1 hfree.2
  cases sparse with
  | false =>
    exact ⟨fun _ hfree => enters_of_enterSequencer h hx (entersThen_skip i s _) (hpass hfree) (opRec_isOf i s) rfl rfl rfl
      fun _ _ _ => ⟨rfl, rfl, rfl, rfl⟩, nofun, nofun, nofun⟩
  | true =>
    have hw : (fetchedMeta (issuedAt i s) s.cur.key).getD 0#256 = w := congrArg (Option.getD · 0#256) (hmeta rfl)
    have hword (hfree : free) : mldwOp true f (issuedAt i s) = checkedBy ((metaFault w).map (metaTrap (issuedAt i s))) _ :=
      (hpass hfree).trans (by rw [← hw]; rfl)
    refine ⟨nofun, fun _ hfree g hg hno hlow => ?_, fun _ hfree hrise hres => ?_, fun _ hfree hrise hres => ?_⟩
    · have hf : metaFault w = some g := metaFault_of_group hg hno hlow
      exact traps_of_error h hx (checkedBy_of_trap (hword hfree) (by rw [hf]; rfl))
    · have hf : metaFault w = some 16 := (metaFault_of_rising hrise).trans (if_pos hres)
      exact traps_of_error h hx (checkedBy_of_trap (hword hfree) (by rw [hf]; rfl))
    · have hf : metaFault w = none := (metaFault_of_rising hrise).trans (if_neg (not_not.mpr hres))
      exact enters_of_enterSequencer h hx (entersThen_modCtx fun _ _ _ => rfl) (checkedBy_of_free (hword hfree) (by rw [hf]; rfl)) (opRec_isOf i s) rfl rfl rfl
        fun _ _ _ => ⟨⟨rfl, rfl, rfl, rfl⟩, hw⟩

/-! The units and their lines (R161, R164). -/

theorem lineBytes_of_plain {fmt : BitVec 4} (h : isSe fmt = false) (n : Nat) : lineBytes fmt n = tyWidth fmt / 8 * n := by
  rw [lineBytes, h, if_neg Bool.false_ne_true, Nat.mul_comm]

theorem lineBytes_of_blocks {fmt : BitVec 4} (h : isSe fmt = true) (n : Nat) : lineBytes fmt (16 * n) = seBlock fmt / 8 * n := by
  rw [lineBytes, h, if_pos rfl, Nat.mul_div_cancel_left n (by decide), Nat.mul_comm]

theorem matrixShapes : Clause.MatrixShapes :=
  ⟨fun _ => ⟨rfl, rfl, rfl, rfl, rfl, rfl, rfl, rfl, rfl⟩,
   fun n => ⟨(lineBytes_of_plain rfl n).trans (Nat.one_mul n), lineBytes_of_plain rfl n, lineBytes_of_plain rfl n, lineBytes_of_blocks rfl n,
     lineBytes_of_blocks rfl n, lineBytes_of_blocks rfl n⟩,
   fun _ _ => ⟨rfl, rfl, rfl⟩⟩

/-- Settles O25: MLDW by its checks, of the range and of the metadata word, and by its entry into the sequencer; the shapes by their tables. -/
theorem weightsAndShapes : Obligations.WeightsAndShapes := ⟨weightLoads, matrixShapes⟩

end Sys2Proof.Machine
end

section
/-!
MMA, MMAS, MZERO, MFUSE, MDRAIN and MDRAIN.V at their issue (R171, R177 to R181).
-/
namespace Sys2Proof.Machine

theorem toNat_low_two (x : BitVec 3) : (x.extractLsb' 0 2).toNat = x.toNat % 4 := by
  rw [BitVec.extractLsb'_toNat, Nat.shiftRight_zero]

/-! MMA and MMAS. -/

/-- MMA and MMAS answer their checks: that of the row count, and then the range's. -/
theorem mmaOp_eq (f : FmtM) (s : State) : mmaOp f s =
    let q := selectedQuads s.issuer f.qsel
    let u := unitShape s.issuer.fuse q
    let nr := s.src f.c
    let fmt := pendingFormat s.issuer q (f.tgt.toNat % 4)
    let h := s.issuer.handle (f.a.toNat % 16)
    let n := nr.toNat * rowBytes u f.ty fmt.2
    if 1 ≤ nr.toInt ∧ nr.toInt ≤ u.rows then
      checkedBy (elemsTrap s.cur h 0 (readTrap s.issuer s.cur h) [⟨0, matrixOffset f s, n⟩]) (.ok (Act.seq (enterSequencer s.cur.key
        { memMOp s f (matrixOffset f s) 0#64 nr with rows := nr.toNat, lfmt := fmt.1, lsparse := fmt.2 } n 0) Act.skip s))
    else .error (matrixTrap s.cur) := by
  have hin (x rows : Int) : (1 ≤ x ∧ x ≤ rows) ↔ ¬ (x < 1 ∨ rows < x) := by omega
  dsimp only
  rw [elemsTrap_singleton, Act.seq_skip, ← toNat_low_two, if_congr (hin _ _) rfl rfl, ite_not]
  rfl

/-! MFUSE. -/

theorem opRec_withIssuer (s : State) (c : Ctx) : opRec (s.withIssuer c) =
    { bseq := c.issueBseq, ino := c.ino, slot := s.cur.slot, sw := s.cur.sw, step := s.cur.step, svc := c.mode = .service, fuse := c.fuse } := by
  rw [opRec, show (s.withIssuer c).ctx (s.withIssuer c).cur.key = c from State.withIssuer_issuer s c]
  rfl

theorem Ctx.enqueue_fields (c : Ctx) (m : MOp) : (c.enqueue m).issueBseq = c.issueBseq ∧ (c.enqueue m).ino = c.ino ∧
    (c.enqueue m).mode = c.mode ∧ (c.enqueue m).fuse = c.fuse := ⟨rfl, rfl, rfl, rfl⟩

theorem Issue.noted.fields {i j : Issue} (h : i.noted j) : j.slot = i.slot ∧ j.sw = i.sw ∧ j.step = i.step := by
  obtain ⟨_, rfl⟩ := h
  exact ⟨rfl, rfl, rfl⟩

theorem applyAll_land_withIssuer (s : State) (c : Ctx) (r : OpRec) (n : Nat) (d : Dest) (x : Result) :
    applyAll (land r n d x (s.withIssuer c)) (s.withIssuer c) = s.withIssuer { c with landings := c.landings ++ [⟨r, s.now + n, d, x⟩] } :=
  applyAll_modCtx_withIssuer s c _

/-- An action on issue + 1 of an operation without sources follows its entry (R86). -/
theorem entersThen_scalarAct {i : Instr} (hsrc : sources i = []) (s : State) (m : MOp) (a : Action) : EntersThen i s m (scalarAct i a) fun _ c =>
    { c with landings := c.landings ++ [⟨{ opRec (issuedAt i s) with ca := 0#64, cb := 0#64, cc := 0#64 }, s.now + 1, .none, .act a⟩] } := by
  rintro v ready data access hj hnow
  have hnone (u : State) : scalarSources u i = [] := by rw [scalarSources, hsrc]; rfl
  have hrec : opRec (v.withIssuer (s.issuer.enqueue (m.entering ready data access))) = opRec (issuedAt i s) := by
    obtain ⟨hslot, hsw, hstep⟩ := hj.fields
    obtain ⟨hbseq, hino, hmode, hfuse⟩ := s.issuer.enqueue_fields (m.entering ready data access)
    rw [opRec_withIssuer, hslot, hsw, hstep, hbseq, hino, hmode, hfuse]
    rfl
  rw [scalarAct, hnone, hrec, ← hnow]
  exact applyAll_land_withIssuer ..

theorem matrixProducts : Clause.MatrixProducts := by
  refine ⟨?mma, fun f s h => ?mzero, fun f s h => ?mfuse⟩
  case mma =>
    intro f s i hi q u hd off fmt nr n inside free h
    have hx : exec i s = runOne i (mmaOp f) s := by rcases hi with rfl | rfl <;> rfl
    have ho : mmaOp f (issuedAt i s) = if inside then
        checkedBy (elemsTrap (issueOf i s) hd 0 (readTrap s.issuer (issueOf i s) hd) [⟨0, off, n⟩]) _ else _ := mmaOp_eq f (issuedAt i s)
    refine ⟨fun hout => traps_of_error h hx (ho.trans (if_neg hout)), fun _ hin => traps_of_range (ho.trans (if_pos hin)) h hx,
      fun _ hin => traps_of_readTrap (ho.trans (if_pos hin)) h hx, fun ⟨hin, hc, hr⟩ => ?_⟩
    exact enters_of_enterSequencer h hx (entersThen_skip i s _) (answer_of_range_free (ho.trans (if_pos hin)) hc hr) (opRec_isOf i s) rfl rfl rfl
      fun _ _ _ => ⟨rfl, rfl, rfl, rfl, rfl, rfl, rfl⟩
  case mzero =>
    exact enters_of_enterSequencer h rfl (entersThen_skip _ s _) (congrArg Except.ok (Act.seq_skip ..).symm) (opRec_isOf (.mzero f) s) rfl rfl rfl
      fun _ _ _ => rfl
  case mfuse =>
    exact ⟨_, opRec_isOf (.mfuse f) s, enters_of_enterSequencer h rfl (entersThen_scalarAct rfl s _ _) rfl (opRec_isOf (.mfuse f) s) rfl rfl rfl
      fun _ _ _ => trivial⟩

/-! MDRAIN and MDRAIN.V. -/

theorem matrixDrains : Clause.MatrixDrains := by
  intro f s vec i q u st nr cap k inside entry h
  have hx : exec i s = runOne i (mdrainOp vec f) s := by cases vec <;> rfl
  have hout : ¬ inside ↔ nr.toInt < 1 ∨ st.toInt < 0 ∨ (u.rows : Int) < st.toInt + nr.toInt ∨ (vec = true ∧ 16 < k) := by
    simp only [inside, not_and_or, not_le, Classical.not_imp]
  have ho (hin : inside) : mdrainOp vec f (issuedAt i s) = .ok (Act.seq (enterSequencer s.cur.key _ 0 0) (modCtx s.cur.key _) (issuedAt i s)) :=
    if_neg fun hno => hout.mpr hno hin
  refine ⟨fun hno => traps_of_error h hx (if_pos (hout.mp hno)), fun hin hv => ?queue, fun hin hv => ?registers⟩ <;> subst hv
  case queue =>
    exact enters_of_enterSequencer h hx (entersThen_modCtx fun _ _ _ => rfl) (ho hin) (opRec_isOf i s) rfl rfl rfl fun _ _ _ => ⟨rfl, rfl, rfl, rfl⟩
  case registers =>
    exact enters_of_enterSequencer h hx (entersThen_modCtx fun _ _ _ => rfl) (ho hin) (opRec_isOf i s) rfl rfl rfl
      fun _ _ _ => ⟨⟨rfl, rfl, rfl, rfl⟩, rfl⟩

/-- Settles O26: the operations by their checks of row counts and ranges, and by their entry into the sequencer. -/
theorem matrixOperations : Obligations.MatrixOperations := ⟨matrixProducts, matrixDrains⟩

end Sys2Proof.Machine
end

section
/-!
The starts of the matrix sequencer (R166 to R169, R173, R178, R179).
-/
namespace Sys2Proof

theorem Sparse.get_of_lt {α : Type} (d : α) {t : Sparse α} {a k : Nat} (w : Sparse.risingFrom a t = true) (h : k < a) : Sparse.get d t k = d := by
  cases t with
  | nil => rfl
  | cons x r =>
    obtain ⟨j, v⟩ := x
    simp only [Sparse.risingFrom, Bool.and_eq_true, decide_eq_true_eq] at w
    rw [Sparse.get, if_neg (by omega), if_pos (by omega)]

/-- In a table without the keys that fail a test, they read as absent and every other as before. -/
theorem Sparse.get_filter_of_rising {α : Type} (d : α) (p : Nat → Bool) {t : Sparse α} {a : Nat} (w : Sparse.risingFrom a t = true) (k : Nat) :
    Sparse.get d (t.filter fun x => p x.1) k = if p k = true then Sparse.get d t k else d := by
  induction t generalizing a with
  | nil => exact (ite_self _).symm
  | cons x r ih =>
    obtain ⟨j, v⟩ := x
    simp only [Sparse.risingFrom, Bool.and_eq_true, decide_eq_true_eq] at w
    have hlow : k < j → Sparse.get d r k = d := fun h => Sparse.get_of_lt d w.2 (by omega)
    rw [List.filter_cons]
    cases hj : p j
    · rw [if_neg Bool.false_ne_true, ih w.2, Sparse.get]
      grind
    · rw [if_pos rfl, Sparse.get, ih w.2, Sparse.get]
      grind

theorem Sparse.get_filter {α : Type} (d : α) (p : Nat → Bool) {t : Sparse α} (w : t.wf = true) (k : Nat) :
    Sparse.get d (t.filter fun x => p x.1) k = if p k = true then Sparse.get d t k else d :=
  Sparse.get_filter_of_rising d p w k

namespace Machine

theorem exec_sequencerOpStart (key : Nat) (s : State) :
    exec (.sequencerOpStart key) s = done (Act.when (sequencerReady s key) (startNextMOp key)) s := rfl

/-- A state with a free value drawn and a context written. -/
def State.drawn (s : State) (key : Nat) (d : Ctx) : State := { s with free := s.free + 1, ctxs := s.ctxs.set key d }

@[simp] theorem State.drawn_ctx (s : State) (key : Nat) (d : Ctx) : (s.drawn key d).ctx key = d := Sparse.get_set_self ..

/-! The weight buffer (R169). -/

/-- Of the cores, the buffer of one alone may have changed. -/
def WbufOf (core : Nat) (s t : State) : Prop :=
  t.core core = { s.core core with wbuf := (t.core core).wbuf } ∧ ∀ k, k ≠ core → t.core k = s.core k

theorem applyAll_fillWeights_nil (key : Nat) (m : MOp) (s : State) : applyAll (fillWeights key m [] s) s = s := rfl

theorem applyAll_fillWeights_cases (key : Nat) (m : MOp) (tile : List Byte) (s : State) : applyAll (fillWeights key m tile s) s = s ∨
    ∃ l, applyAll (fillWeights key m tile s) s = { s with cores := s.cores.set (coreOf key) { s.core (coreOf key) with wbuf := l } } := by
  by_cases h : tile = []
  · exact .inl (by rw [h]; rfl)
  · exact .inr ⟨_, by rw [fillWeights]; dsimp only; rw [if_neg h]; rfl⟩

theorem wbufOf_fillWeights (key : Nat) (m : MOp) (tile : List Byte) (s : State) :
    let t := applyAll (fillWeights key m tile s) s
    t = { s with cores := t.cores } ∧ WbufOf (coreOf key) s t := by
  rcases applyAll_fillWeights_cases key m tile s with h | ⟨l, h⟩ <;> rw [h]
  · exact ⟨rfl, rfl, fun _ _ => rfl⟩
  · exact ⟨rfl, by rw [WbufOf, State.core_set]; exact ⟨rfl, fun k hk => State.core_set_ne s _ hk.symm⟩⟩

/-! The operation at the head. -/

/-- The accesses of the operations that leave a sequencer. -/
def Ctx.leftAccesses (c : Ctx) (now : Nat) : List Nat :=
  (c.mops.take (c.mops.length - (c.retired now).length)).flatMap fun m => m.access.toList ++ m.metaAccess.toList

/-- The context in which the head of a sequencer has begun. -/
def headBegun (key : Nat) (m : MOp) (r : List MOp) (s : State) (c : Ctx) : Ctx :=
  { (beginMOp key m s c).1 with mops := { m with begun := true, ready := s.now + (beginMOp key m s c).2 } :: r }

/-- The head of those that are left begins, where it can. -/
def startHead (key : Nat) (c : Ctx) (l : List MOp) : Act := fun s =>
  match l with
  | m :: r =>
    if !m.begun && decide (m.ready ≤ s.now) && m.startable s then
      Act.seq (fun _ => [.free, .ctx key (headBegun key m r s c)]) (fillWeights key m (m.tile s key)) s
    else [.ctx key { c with mops := l }]
  | [] => [.ctx key { c with mops := [] }]

theorem startNextMOp_eq (key : Nat) (s : State) : startNextMOp key s =
    Act.seq (fun _ => ((s.ctx key).leftAccesses s.now).map fun id => .acc id none) (startHead key (s.ctx key) ((s.ctx key).retired s.now)) s := by
  rw [startNextMOp]
  rfl

theorem exec_sequencerOpStart_of_ready {key : Nat} {s : State} (h : sequencerReady s key = true) (hleft : (s.ctx key).leftAccesses s.now = []) :
    exec (.sequencerOpStart key) s = .next (applyAll (startHead key (s.ctx key) ((s.ctx key).retired s.now) s) s) := by
  rw [exec_sequencerOpStart, done, Act.when, h, if_pos rfl, startNextMOp_eq, applyAll_seq, hleft]
  rfl

theorem startHead_of_waits (key : Nat) (c : Ctx) {l : List MOp} {s : State} (h : (l.head?.all fun x => x.begun = false ∧ s.now < x.ready) = true) :
    startHead key c l s = [.ctx key { c with mops := l }] := by
  cases l with
  | nil => rfl
  | cons m r =>
    obtain ⟨_, hlater⟩ := of_decide_eq_true h
    rw [startHead, decide_eq_false (not_le.mpr hlater), Bool.and_false, Bool.false_and, if_neg Bool.false_ne_true]

section
variable {s : State} {key : Nat} {m : MOp} {r : List MOp} (hflows : (s.ctx key).flows = true) (hmops : (s.ctx key).mops = m :: r)
include hflows hmops

/-- A completed operation leaves, where the next is not ready. -/
theorem exec_sequencerOpStart_retires (hbegun : m.begun = true) (hdone : m.steps ≤ m.prog) (hready : m.ready ≤ s.now)
    (hnext : (r.head?.all fun x => x.begun = false ∧ s.now < x.ready) = true) (haccess : m.access = none) (hmeta : m.metaAccess = none) :
    exec (.sequencerOpStart key) s = .next { s with ctxs := s.ctxs.set key { s.ctx key with mops := r } } := by
  have hretired : (s.ctx key).retired s.now = r := by
    rw [Ctx.retired, hmops]
    dsimp only
    rw [hbegun, decide_eq_true hdone, decide_eq_true hready]
    rfl
  have hsequencer : sequencerReady s key = true := by
    rw [sequencerReady, hflows, hretired, hmops, decide_eq_true (List.cons_ne_self m r).symm]
    rfl
  have hleft : (s.ctx key).leftAccesses s.now = [] := by
    have hone : (m :: r).length - r.length = 1 := by rw [List.length_cons]; omega
    rw [Ctx.leftAccesses, hretired, hmops, hone, List.take_one, List.head?_cons, Option.toList_some, List.flatMap_singleton, haccess, hmeta]
    rfl
  rw [exec_sequencerOpStart_of_ready hsequencer hleft, hretired, startHead_of_waits key _ hnext]
  rfl

/-- An operation at the head that is ready and has its data begins, and its tile goes to the weight buffer. -/
theorem exec_sequencerOpStart_begins (hbegun : m.begun = false) (hready : m.ready ≤ s.now) (hdata : m.startable s = true) :
    let u := s.drawn key (headBegun key m r s (s.ctx key))
    exec (.sequencerOpStart key) s = .next (applyAll (fillWeights key m (m.tile s key) u) u) := by
  have hretired : (s.ctx key).retired s.now = m :: r := by
    rw [Ctx.retired, hmops]
    dsimp only
    rw [hbegun]
    rfl
  have hstarts : (!m.begun && decide (m.ready ≤ s.now) && m.startable s) = true := by
    rw [hbegun, decide_eq_true hready, hdata]
    rfl
  have hsequencer : sequencerReady s key = true := by
    rw [sequencerReady, hflows, hmops]
    dsimp only
    rw [hstarts, Bool.or_true]
    rfl
  have hleft : (s.ctx key).leftAccesses s.now = [] := by rw [Ctx.leftAccesses, hretired, hmops, Nat.sub_self]; rfl
  rw [exec_sequencerOpStart_of_ready hsequencer hleft, hretired, startHead, if_pos hstarts, applyAll_seq]
  rfl

end

/-! What an operation does as it begins (R168, R173, R178, R179). -/

section
variable {s : State} {key : Nat} {m : MOp} {r : List MOp} (hflows : (s.ctx key).flows = true) (hmops : (s.ctx key).mops = m :: r)
  (hbegun : m.begun = false) (hready : m.ready ≤ s.now) {d : Ctx} (hd : headBegun key m r s (s.ctx key) = d)
include hflows hmops hbegun hready hd

theorem answers_of_headBegun (hdata : m.startable s = true) : Answers (.sequencerOpStart key) s fun t =>
    t = { s with free := s.free + 1, ctxs := s.ctxs.set key d, cores := t.cores } ∧ WbufOf (coreOf key) s t := by
  subst hd
  exact ⟨_, exec_sequencerOpStart_begins hflows hmops hbegun hready hdata, wbufOf_fillWeights ..⟩

theorem exec_of_headBegun_of_no_tile (hdata : m.startable s = true) (htile : m.tile s key = []) :
    exec (.sequencerOpStart key) s = .next (s.drawn key d) := by
  subst hd
  exact (exec_sequencerOpStart_begins hflows hmops hbegun hready hdata).trans (by rw [htile, applyAll_fillWeights_nil])

end

section
variable (key : Nat) {m : MOp} (r : List MOp) (s : State) (c : Ctx) {f : FmtM}

/-- The sequencer once its head has begun, and occupies it for some cycles. -/
def startedFor (m : MOp) (r : List MOp) (s : State) (cycles : Nat) : List MOp := { m with begun := true, ready := s.now + cycles } :: r

theorem headBegun_mldw (hi : m.instr = some (.mldw f)) : headBegun key m r s c =
    { c with mops := startedFor m r s ((tileBytes m.unit f.ty + 127) / 128 + 4),
             latches := c.latches.set (latchKey m.quads (m.fields.tgt.toNat % 4)) ⟨m.bytes s key 0 (tileBytes m.unit f.ty), f.ty, false, 0#256⟩ } := by
  rw [headBegun, beginMOp, hi, toNat_low_two]
  rfl

theorem headBegun_mldwS (hi : m.instr = some (.mldwS f)) (hmeta : m.metaAccess = none) : headBegun key m r s c =
    { c with mops := startedFor m r s ((tileBytes m.unit f.ty + 127) / 128 + 4),
             latches := c.latches.set (latchKey m.quads (m.fields.tgt.toNat % 4)) ⟨m.bytes s key 0 (tileBytes m.unit f.ty), f.ty, true, m.words⟩ } := by
  have hlatch : m.latch s key f.ty true = ⟨m.bytes s key 0 (tileBytes m.unit f.ty), f.ty, true, m.words⟩ := by
    rw [MOp.latch, if_pos rfl, MOp.metadata, hmeta]
  rw [headBegun, beginMOp, hi, toNat_low_two, ← hlatch]
  rfl

theorem headBegun_mfuse (hi : m.instr = some (.mfuse f)) : headBegun key m r s c = { c with mops := startedFor m r s 1, latches := [] } := by
  rw [headBegun, beginMOp, hi]
  rfl

theorem headBegun_steps (hi : m.instr = some (.mdrain f) ∨ m.instr = some (.mdrainV f) ∨ m.instr = some (.mma f) ∨ m.instr = some (.mmas f)) :
    headBegun key m r s c = { c with mops := startedFor m r s 0 } := by
  rw [headBegun, beginMOp]
  rcases hi with hi | hi | hi | hi <;> rw [hi] <;> rfl

/-- Whether MZERO leaves an element of the accumulators, by its key (R178). -/
def zeroLeaves (n : Nat) (quads : BitVec 4) (k : Nat) : Bool :=
  !(k / 4096 = n && quads.getLsbD (k / 64 % 64 / 32 * 2 + k % 64 / 32))

theorem zeroLeaves_accKey {n row col : Nat} (hrow : row < 64) (hcol : col < 64) (k : Nat) (quads : BitVec 4) :
    zeroLeaves k quads (accKey n row col) = !(decide (n = k) && quads.getLsbD (row / 32 * 2 + col / 32)) := by
  have hn : accKey n row col / 4096 = n := by rw [accKey]; omega
  have hr : accKey n row col / 64 % 64 = row := by rw [accKey]; omega
  have hc : accKey n row col % 64 = col := by rw [accKey]; omega
  rw [zeroLeaves, hn, hr, hc]

theorem headBegun_mzero (hi : m.instr = some (.mzero f)) : ∃ tags, headBegun key m r s c =
    { c with mops := startedFor m r s 1, tags := tags, acc := c.acc.filter fun x => zeroLeaves (m.fields.tgt.toNat % 4) m.quads x.1 } := by
  rw [headBegun, beginMOp, hi, toNat_low_two]
  exact ⟨_, rfl⟩

theorem accElem_zeroed (hacc : c.acc.wf = true) (k : Nat) (quads : BitVec 4) {n row col : Nat} (hrow : row < 64) (hcol : col < 64) :
    Sparse.get 0#32 (c.acc.filter fun x => zeroLeaves k quads x.1) (accKey n row col) =
      if n = k ∧ quads.getLsbD (row / 32 * 2 + col / 32) = true then 0#32 else c.accElem n row col := by
  have hleaves : zeroLeaves k quads (accKey n row col) = true ↔ ¬ (n = k ∧ quads.getLsbD (row / 32 * 2 + col / 32) = true) := by
    rw [zeroLeaves_accKey hrow hcol, Bool.not_eq_true', ← Bool.not_eq_true, Bool.and_eq_true, decide_eq_true_iff]
  rw [Sparse.get_filter _ _ hacc, if_congr hleaves rfl rfl, ite_not]
  rfl

end

theorem sequencerStarts : Clause.SequencerStarts := by
  intro key s m r c goes loads latch taken started hflows hmops
  refine ⟨fun hbegun hdone hready hnext haccess hmeta =>
    ⟨_, exec_sequencerOpStart_retires hflows hmops hbegun hdone hready hnext haccess hmeta, rfl⟩, fun hbegun hready => ?_⟩
  refine ⟨fun f hi hpresent => ?mldw, fun f hi hpresent hmeta => ?mldwS, fun f hi => ?mfuse, fun f hi => ?steps, fun f hi hacc => ?mzero⟩
  case mldw =>
    exact answers_of_headBegun hflows hmops hbegun hready (headBegun_mldw key r s c hi) (by rw [MOp.startable, hi]; exact hpresent)
  case mldwS =>
    refine answers_of_headBegun hflows hmops hbegun hready (headBegun_mldwS key r s c hi hmeta) ?_
    rw [MOp.startable, hi]
    dsimp only
    rw [hpresent, MOp.metadataHere, hmeta]
    rfl
  case mfuse =>
    exact ⟨_, exec_of_headBegun_of_no_tile hflows hmops hbegun hready (headBegun_mfuse key r s c hi) (by rw [MOp.startable, hi]) (by rw [MOp.tile, hi]), rfl⟩
  case steps =>
    refine ⟨_, exec_of_headBegun_of_no_tile hflows hmops hbegun hready (headBegun_steps key r s c hi) ?_ ?_, rfl⟩
    · rw [MOp.startable]
      rcases hi with hi | hi | hi | hi <;> rw [hi]
    · rw [MOp.tile]
      rcases hi with hi | hi | hi | hi <;> rw [hi]
  case mzero =>
    obtain ⟨tags, hd⟩ := headBegun_mzero key r s c hi
    refine ⟨_, exec_of_headBegun_of_no_tile hflows hmops hbegun hready hd (by rw [MOp.startable, hi]) (by rw [MOp.tile, hi]), ?_⟩
    dsimp only
    rw [State.drawn_ctx]
    exact ⟨rfl, fun n row col _ hrow hcol => accElem_zeroed c hacc _ m.quads hrow hcol⟩

end Machine
end Sys2Proof
end

section
/-!
The row steps and the drain steps of the matrix sequencer (R168, R171, R177, R181).
-/
namespace Sys2Proof

section
variable {α : Type} (d : α) (t : Sparse α)

/-- Values changed at keys leave the value of every other key. -/
theorem Sparse.get_foldl_update_of_ne {key : Nat → Nat} (g : Nat → α → α) {n k : Nat} (h : ∀ j < n, key j ≠ k) :
    Sparse.get d ((List.range n).foldl (fun t j => t.set (key j) (g j (t.get d (key j)))) t) k = Sparse.get d t k := by
  induction n with
  | zero => rfl
  | succ n ih =>
    rw [List.range_succ, List.foldl_concat, Sparse.get_set_ne d _ _ (h n (Nat.lt_succ_self n)), ih fun j hj => h j (Nat.lt_succ_of_lt hj)]

/-- Values changed at distinct keys are each changed once. -/
theorem Sparse.get_foldl_update {key : Nat → Nat} (hkey : ∀ i j, key i = key j → i = j) (g : Nat → α → α) {n j : Nat} (h : j < n) :
    Sparse.get d ((List.range n).foldl (fun t j => t.set (key j) (g j (t.get d (key j)))) t) (key j) = g j (Sparse.get d t (key j)) := by
  induction n with
  | zero => exact absurd h (Nat.not_lt_zero j)
  | succ n ih =>
    rw [List.range_succ, List.foldl_concat]
    rcases Nat.lt_succ_iff_lt_or_eq.mp h with hlt | rfl
    · rw [Sparse.get_set_ne d _ _ fun he => hlt.ne' (hkey _ _ he), ih hlt]
    · rw [Sparse.get_set_self, Sparse.get_foldl_update_of_ne d t g fun i hi he => hi.ne (hkey _ _ he)]

end

namespace Machine

theorem exec_mmaRowStep (key : Nat) (s : State) : exec (.mmaRowStep key) s = done (rowStep key) s := rfl
theorem exec_mdrainEntryStep (key : Nat) (s : State) : exec (.mdrainEntryStep key) s = done (drainStep key) s := rfl

/-! The elements and the tags of a unit (R164, R167). -/

theorem unitShape_bounds (fuse : BitVec 2) (q : BitVec 4) :
    (unitShape fuse q).row0 + (unitShape fuse q).rows ≤ 64 ∧ (unitShape fuse q).col0 + (unitShape fuse q).nw ≤ 64 := by
  have hquad : firstQuad q < 4 := by rw [firstQuad]; split_ifs <;> decide
  rw [unitShape]
  split <;> dsimp only <;> omega

theorem accKey_col_injective (n row col0 i j : Nat) (h : accKey n row (col0 + i) = accKey n row (col0 + j)) : i = j := by
  rw [accKey, accKey] at h
  omega

theorem accKey_ne {k n row row' col col' : Nat} (hrow : row < 64) (hcol : col < 64) (hrow' : row' < 64) (hcol' : col' < 64)
    (h : n ≠ k ∨ row ≠ row' ∨ col ≠ col') : accKey k row' col' ≠ accKey n row col := by
  rw [accKey, accKey]
  omega

/-- The tags of the sections that quadrants hold (R167). -/
theorem Ctx.setTags_get (c : Ctx) (k : Nat) (quads : BitVec 4) (int : Bool) {n q : Nat} (hq : q < 4) :
    (c.setTags k quads int).tags.get false (tagKey n q) = if n = k ∧ quads.getLsbD q = true then int else c.tags.get false (tagKey n q) := by
  have htags : (c.setTags k quads int).tags = (((List.range 4).filter fun j => quads.getLsbD j).map (tagKey k)).foldl
      (fun t x => t.set x int) c.tags := by rw [List.foldl_map, List.foldl_filter]; rfl
  have hmem : tagKey n q ∈ ((List.range 4).filter fun j => quads.getLsbD j).map (tagKey k) ↔ n = k ∧ quads.getLsbD q = true := by
    simp only [List.mem_map, List.mem_filter, List.mem_range, tagKey]
    constructor
    · rintro ⟨j, ⟨hj, hset⟩, he⟩
      obtain rfl : j = q := by omega
      exact ⟨by omega, hset⟩
    · rintro ⟨rfl, hset⟩
      exact ⟨q, ⟨hq, hset⟩, rfl⟩
  rw [htags, Sparse.get_foldl_set false _ fun _ => int, if_congr hmem rfl rfl]

/-! A row step (R177). -/

/-- The order in which a row step adds under the reference profile (log entry 2). -/
def State.rowDraw (s : State) (j n k : Nat) : Nat := Config.freeOrder s.free ((((j + 1) * 256 + n) * 4096) + k)

/-- The activations of the row that the head takes next: of twice the rows of the unit where its latch is sparse. -/
def State.rowActs (s : State) (key : Nat) (m : MOp) : List Fp :=
  let l := (s.ctx key).latch (latchKey m.quads (m.fields.tgt.toNat % 4))
  imageValues m.fields.ty (leNat (m.bytes s key (m.prog * m.rowBytes) m.rowBytes)) (if l.sparse then 2 * m.unit.kc else m.unit.kc)

/-- What the row step of the head makes of what column j of the row holds. -/
def State.rowValue (s : State) (key : Nat) (m : MOp) (set : Bool) (j : Nat) (x : W32) : W32 :=
  let l := (s.ctx key).latch (latchKey m.quads (m.fields.tgt.toNat % 4))
  combine m.fields.np.toNat (l.fmt = 0#4 ∧ m.fields.ty = 0#4) (s.rowDraw j) (if set then 0#32 else x) (l.column m.unit.kc j) (s.rowActs key m)

/-- The key of column j of the row that the head takes next. -/
def MOp.rowKey (m : MOp) (j : Nat) : Nat := accKey (m.fields.tgt.toNat % 4) (m.unit.row0 + m.prog) (m.unit.col0 + j)

/-- The accumulators after the row step of the head. -/
def State.rowAcc (s : State) (key : Nat) (m : MOp) (set : Bool) : Sparse W32 :=
  (List.range m.unit.nw).foldl (fun t j => t.set (m.rowKey j) (s.rowValue key m set j (t.get 0#32 (m.rowKey j)))) (s.ctx key).acc

/-- Whether the pair of formats of an operation accumulates in INT32 (R153). -/
def MOp.isInt (m : MOp) : Bool := decide (m.lfmt = 0#4 ∧ m.fields.ty = 0#4)

section
variable (s : State) (key : Nat) (m : MOp) (set : Bool)

theorem Ctx.rowStep_eq : (s.ctx key).rowStep m.unit m.quads m.fields set m.prog (m.bytes s key (m.prog * m.rowBytes) m.rowBytes) s.rowDraw =
    { s.ctx key with acc := s.rowAcc key m set } := by
  rw [Ctx.rowStep, toNat_low_two, State.rowAcc]
  simp only [State.rowValue, Bool.decide_and]
  rfl

theorem rowAcc_get {j : Nat} (h : j < m.unit.nw) :
    (s.rowAcc key m set).get 0#32 (m.rowKey j) = s.rowValue key m set j ((s.ctx key).acc.get 0#32 (m.rowKey j)) :=
  Sparse.get_foldl_update _ _ (accKey_col_injective _ _ _) _ h

theorem rowAcc_get_of_ne (hrow : m.unit.row0 + m.prog < 64) {n row col : Nat} (hr : row < 64) (hc : col < 64)
    (h : n ≠ m.fields.tgt.toNat % 4 ∨ row ≠ m.unit.row0 + m.prog ∨ col < m.unit.col0 ∨ m.unit.col0 + m.unit.nw ≤ col) :
    (s.rowAcc key m set).get 0#32 (accKey n row col) = (s.ctx key).accElem n row col := by
  refine Sparse.get_foldl_update_of_ne _ _ _ fun j hj => accKey_ne hr hc hrow ?_ ?_
  · have hcols : m.unit.col0 + m.unit.nw ≤ 64 := (unitShape_bounds m.fuse m.quads).2
    omega
  · omega

end

section
variable {s : State} {key : Nat} {m : MOp} {r : List MOp} {set : Bool} {f : FmtM}

theorem rowReady_of_head (hflows : (s.ctx key).flows = true) (hmops : (s.ctx key).mops = m :: r) (hi : m.instr = some (if set then .mmas f else .mma f))
    (hbegun : m.begun = true) (hprog : m.prog < m.rows) (hready : m.ready ≤ s.now)
    (hpresent : m.present s (m.prog * m.rowBytes) m.rowBytes = true) : rowReady s key = some (m, set) := by
  rw [rowReady, hmops]
  dsimp only
  rw [hi, hflows, hbegun, decide_eq_true hprog, decide_eq_true hready, hpresent]
  cases set <;> rfl

/-- The cycles from the last row step to the drain steps: two row steps of SE3 with SE3 share a cycle (R168). -/
def MOp.lastWait (m : MOp) : Nat :=
  if decide (m.prog + 1 = m.rows) && m.lfmt = 8#4 && m.fields.ty = 8#4 && m.prog % 2 = 0 then 1 else rowCycles m.lfmt m.fields.ty m.prog

/-- What a row step makes of the context whose row it has done: the tags after the last row, and the sequencer. -/
def State.rowNext (s : State) (m : MOp) (c : Ctx) : Ctx :=
  let last := m.prog + 1 = m.rows
  let d := if last then c.setTags (m.fields.tgt.extractLsb' 0 2).toNat m.quads (m.lfmt = 0#4 && m.fields.ty = 0#4) else c
  { d with mops := { m with prog := m.prog + 1, ready := s.now + (if last then m.lastWait + 12 else rowCycles m.lfmt m.fields.ty m.prog) } :: d.mops.drop 1 }

variable (hmops : (s.ctx key).mops = m :: r)

theorem applyAll_rowStep (hhead : rowReady s key = some (m, set)) :
    applyAll (rowStep key s) s = s.drawn key (s.rowNext m { s.ctx key with acc := s.rowAcc key m set }) := by
  have hstep : rowStep key s = [.free, .ctx key (s.rowNext m ((s.ctx key).rowStep m.unit m.quads m.fields set m.prog
      (m.bytes s key (m.prog * m.rowBytes) m.rowBytes) s.rowDraw))] := by
    rw [rowStep, hhead]
    rfl
  rw [hstep, Ctx.rowStep_eq]
  rfl

include hmops

theorem rowNext_of_more (hmore : m.prog + 1 ≠ m.rows) (acc : Sparse W32) : s.rowNext m { s.ctx key with acc := acc } =
    { s.ctx key with mops := { m with prog := m.prog + 1, ready := s.now + rowCycles m.lfmt m.fields.ty m.prog } :: r, acc := acc } := by
  have hrest : (s.ctx key).mops.drop 1 = r := by rw [hmops]; rfl
  rw [State.rowNext]
  dsimp only
  rw [if_neg hmore, if_neg hmore, ← hrest]

theorem rowNext_of_last (hlast : m.prog + 1 = m.rows) (acc : Sparse W32) : s.rowNext m { s.ctx key with acc := acc } =
    { s.ctx key with
      mops := { m with prog := m.prog + 1, ready := s.now + (m.lastWait + 12) } :: r, acc := acc,
      tags := ((s.ctx key).setTags (m.fields.tgt.toNat % 4) m.quads m.isInt).tags } := by
  have hrest : (s.ctx key).mops.drop 1 = r := by rw [hmops]; rfl
  rw [State.rowNext, MOp.isInt, ← toNat_low_two, Bool.decide_and]
  dsimp only
  rw [if_pos hlast, if_pos hlast, ← hrest]
  rfl

end

theorem matrixRowSteps : Clause.MatrixRowSteps := by
  intro key s m r set f c u wait k l row acts hflows hmops hi hbegun hprog hrows hready hpresent hacc
  have hhead := rowReady_of_head hflows hmops hi hbegun hprog hready hpresent
  have hrow : m.unit.row0 + m.prog < 64 := by
    have hunit : m.unit.row0 + m.unit.rows ≤ 64 := (unitShape_bounds m.fuse m.quads).1
    have hrows : m.rows ≤ m.unit.rows := hrows
    omega
  have hexec := applyAll_rowStep hhead
  rcases Nat.lt_or_eq_of_le (Nat.succ_le_of_lt hprog) with hmore | hlast
  · rw [rowNext_of_more hmops hmore.ne] at hexec
    refine ⟨s.drawn key _, (exec_mmaRowStep key s).trans (congrArg Host.Outcome.next hexec), ?_⟩
    dsimp only
    rw [State.drawn_ctx]
    exact ⟨_, rfl, fun _ => ⟨rfl, rfl⟩, fun h => absurd h hmore.ne, ⟨s.rowDraw, fun j hj => rowAcc_get s key m set hj⟩,
      fun n row col _ hr hc h => rowAcc_get_of_ne s key m set hrow hr hc h⟩
  · have hcycles : s.now + 12 ≤ s.now + (m.lastWait + 12) := by omega
    rw [rowNext_of_last hmops hlast] at hexec
    refine ⟨s.drawn key _, (exec_mmaRowStep key s).trans (congrArg Host.Outcome.next hexec), ?_⟩
    dsimp only
    rw [State.drawn_ctx]
    exact ⟨_, rfl, fun h => absurd hlast h.ne, fun _ => ⟨hcycles, fun n q _ hq => Ctx.setTags_get _ _ _ _ hq⟩,
      ⟨s.rowDraw, fun j hj => rowAcc_get s key m set hj⟩, fun n row col _ hr hc h => rowAcc_get_of_ne s key m set hrow hr hc h⟩

/-! A drain step (R181). -/

theorem mem_insertPending (p : Pending) (l : List Pending) : p ∈ insertPending p l := by
  induction l with
  | nil => exact List.mem_singleton_self p
  | cons x r ih =>
    rw [insertPending]
    split
    · exact List.mem_cons_self
    · exact List.mem_cons_of_mem x ih

/-- An entry of a drain holds its elements in 4 bytes each. -/
theorem drainEntry_image_length (c : Ctx) (m : MOp) (e now : Nat) : (drainEntry c m e now).image.length = 4 * (drainEntry c m e now).n := by
  dsimp only [drainEntry]
  rw [List.length_flatMap, List.map_congr_left fun x _ => length_leBytes x.toNat 4, List.map_const', List.sum_replicate, smul_eq_mul, Nat.mul_comm]

/-- The entry that the drain at the head moves, on its way to its vector register (R181). -/
def MOp.drained (m : MOp) (e : QEntry) (now : Nat) : Pending :=
  ⟨m.op, [.v ((4 * (m.fields.mstr.toNat % 16) + m.prog) % 64)], .value (now + 3) [claimValue e (m.ordinal + BitVec.ofNat 40 m.prog) m.qb]⟩

section
variable {s : State} {key : Nat} {m : MOp} {r : List MOp} (hflows : (s.ctx key).flows = true) (hmops : (s.ctx key).mops = m :: r)
  (hbegun : m.begun = true) (hprog : m.prog < m.steps) (hready : m.ready ≤ s.now) {f : FmtM}
include hflows hmops hbegun hprog hready

theorem drainReady_of_mdrain (hi : m.instr = some (.mdrain f)) (hroom : ((s.ctx key).queue m.fields.tgt.toNat).full = false) :
    drainReady s key = some (m, false) := by
  rw [drainReady, hmops]
  dsimp only
  rw [hi, hflows, hbegun, decide_eq_true hprog, decide_eq_true hready, hroom]
  rfl

theorem drainReady_of_mdrainV (hi : m.instr = some (.mdrainV f)) : drainReady s key = some (m, true) := by
  rw [drainReady, hmops]
  dsimp only
  rw [hi, hflows, hbegun, decide_eq_true hprog, decide_eq_true hready]
  rfl

end

section
variable {s : State} {key : Nat} {m : MOp} {r : List MOp} (hmops : (s.ctx key).mops = m :: r)
include hmops

theorem drainStep_of_mdrain (hhead : drainReady s key = some (m, false)) : drainStep key s = [.ctx key { s.ctx key with
    mops := { m with prog := m.prog + 1, ready := s.now + 1 } :: r
    queues := (s.ctx key).queues.set m.fields.tgt.toNat
      (((s.ctx key).queue m.fields.tgt.toNat).append (drainEntry (s.ctx key) m m.prog s.now)) }] := by
  have hrest : (s.ctx key).mops.drop 1 = r := by rw [hmops]; rfl
  rw [drainStep, hhead, ← hrest]
  rfl

theorem drainStep_of_mdrainV (hhead : drainReady s key = some (m, true)) : drainStep key s = [.ctx key { s.ctx key with
    mops := { m with prog := m.prog + 1, ready := s.now + 1 } :: r
    pending := insertPending (m.drained (drainEntry (s.ctx key) m m.prog s.now) s.now) (s.ctx key).pending }] := by
  have hrest : (s.ctx key).mops.drop 1 = r := by rw [hmops]; rfl
  have hlow : (m.fields.mstr.extractLsb' 0 4).toNat = m.fields.mstr.toNat % 16 := by rw [BitVec.extractLsb'_toNat, Nat.shiftRight_zero]
  rw [drainStep, hhead, ← hrest, MOp.drained, ← hlow]
  rfl

end

theorem matrixDrainSteps : Clause.MatrixDrainSteps := by
  intro key s m r c e l q hflows hmops hbegun hprog hready
  refine ⟨fun f hi hroom => ?queue, fun f hi => ?registers, ?_, rfl, rfl⟩
  case queue =>
    have hfull : (c.queue q).full = false := decide_eq_false (not_le.mpr hroom)
    rw [exec_mdrainEntryStep, done, drainStep_of_mdrain hmops (drainReady_of_mdrain hflows hmops hbegun hprog hready hi hfull)]
    rfl
  case registers =>
    rw [Answers, exec_mdrainEntryStep, done, drainStep_of_mdrainV hmops (drainReady_of_mdrainV hflows hmops hbegun hprog hready hi)]
    refine ⟨_, rfl, ?_⟩
    rw [applyAll_cons, applyAll_nil, applyEffect_ctx, State.ctx_set]
    exact ⟨rfl, m.drained e s.now, rfl, rfl, rfl, mem_insertPending .., rfl⟩
  · rw [drainEntry_image_length, Nat.mul_div_cancel_left _ (by decide)]

/-- Settles O39: what the head of the sequencer does as it starts, at a row step and at a drain step. -/
theorem matrixSequencer : Obligations.MatrixSequencer := ⟨sequencerStarts, matrixRowSteps, matrixDrainSteps⟩

end Machine
end Sys2Proof
end

section
/-!
FORK, JOIN, PQPUSH and PQPOP as they issue (R203, R205 to R207, R233).
-/
namespace Sys2Proof.Machine

/-- An operation issued alone whose changes leave its issue alone: the state that they lead to is the next one. -/
theorem becomes_of_act {i : Instr} {s : State} (h : Issues i s) {f : Act} (hx : exec i s = runOne i (act f) s) {u : State}
    (hu : applyAll (f (issuedAt i s)) (issuedAt i s) = { u with cur := issueOf i s }) (hkey : u.cur.key = s.cur.key) : Becomes i s u :=
  answers_of_act h hx hu rfl rfl (onlyCur_of_cur u hkey.symm)

theorem forkAndJoin : Clause.ForkAndJoin := by
  refine ⟨fun f s h => ?fork, fun f s h => ?join⟩
  case fork => exact becomes_of_act h rfl rfl rfl
  case join => exact pends_of_pend h (opRec_isOf (.join f) s) rfl

theorem priorityQueue : Clause.PriorityQueue := by
  refine ⟨fun f s h => ?push, fun f s h => ⟨_, opRec_isOf (.pqpop f) s, ?claim⟩⟩
  case push => exact becomes_of_act h rfl rfl rfl
  case claim => exact becomes_of_act h rfl rfl rfl

/-- Settles O13: the changes that FORK, JOIN, PQPUSH and PQPOP make as they issue. -/
theorem workCreation : Obligations.WorkCreation := ⟨forkAndJoin, priorityQueue⟩

end Sys2Proof.Machine
end

section
/-!
The issuing context as the scope of an operation leaves it (R80, R201, R221), and the three forms of DRAIN (R198).
-/
namespace Sys2Proof

/-- A value other than what an absent key reads as is in the table. -/
theorem Sparse.mem_of_get_ne {α : Type} {d : α} {t : Sparse α} {k : Nat} (h : t.get d k ≠ d) : (k, t.get d k) ∈ t := by
  induction t with
  | nil => exact absurd rfl h
  | cons x t ih =>
    obtain ⟨j, v⟩ := x
    by_cases hj : j = k
    · simp [Sparse.get, hj]
    · by_cases hlt : k < j
      · simp [Sparse.get, hj, hlt] at h
      · simp only [Sparse.get, hj, hlt, if_false] at h ⊢
        exact List.mem_cons_of_mem _ (ih h)

/-- A table whose key is set to what it reads as, where the key is present, stands. -/
theorem Sparse.set_get_of_ne {α : Type} {d : α} {t : Sparse α} {k : Nat} (h : t.get d k ≠ d) : t.set k (t.get d k) = t := by
  induction t with
  | nil => exact absurd rfl h
  | cons x t ih =>
    obtain ⟨j, v⟩ := x
    by_cases hj : j = k
    · simp [Sparse.get, Sparse.set, hj]
    · by_cases hlt : k < j
      · simp [Sparse.get, hj, hlt] at h
      · simp only [Sparse.get, Sparse.set, hj, hlt, if_false] at h ⊢
        rw [ih h]

namespace Machine

/-- The context of an issue is in the table: to write it as it stands changes nothing. -/
theorem State.withIssuer_self {s : State} (h : s.issuer ≠ {}) : s.withIssuer s.issuer = s := by
  rw [State.withIssuer, show s.ctxs.set s.cur.key s.issuer = s.ctxs from Sparse.set_get_of_ne h]

theorem Issues.issuer_ne {i : Instr} {s : State} (h : Issues i s) : s.issuer ≠ {} := by
  intro he
  rcases h.mode with hm | hm <;> rw [he] at hm <;> cases hm

/-- A context after an operation at a scope: where SYS is not allowed, SYS has set SCDEM (R80). -/
def Ctx.demoted (c : Ctx) (scope : BitVec 3) : Ctx := if scope = 4#3 ∧ c.sysok = false then { c with scdem := true } else c

theorem Ctx.demoted_cases (c : Ctx) (scope : BitVec 3) : c.demoted scope = c ∨ c.demoted scope = { c with scdem := true } :=
  (ite_eq_or_eq ..).symm

theorem Ctx.demoted_cid (c : Ctx) (scope : BitVec 3) : (c.demoted scope).cid = c.cid := by
  rcases c.demoted_cases scope with h | h <;> rw [h]

theorem Ctx.demoted_sysok (c : Ctx) (scope : BitVec 3) : (c.demoted scope).sysok = c.sysok := by
  rcases c.demoted_cases scope with h | h <;> rw [h]

theorem Ctx.demoted_holdLoads (c : Ctx) (scope : BitVec 3) : (c.demoted scope).holdLoads = c.holdLoads := by
  rcases c.demoted_cases scope with h | h <;> rw [h]

theorem effectiveScope_eq (c : Ctx) (scope : BitVec 3) : effectiveScope c scope = if scope = 4#3 ∧ c.sysok = false then 3#3 else scope := by
  rw [effectiveScope]
  simp only [Bool.not_eq_true']

theorem demotes_iff (c : Ctx) (scope : BitVec 3) : demotes c scope = true ↔ scope = 4#3 ∧ c.sysok = false := by
  rw [demotes, Bool.and_eq_true, decide_eq_true_iff, Bool.not_eq_true']

theorem applyAll_drainDemote_withIssuer (s : State) (c : Ctx) (scope : BitVec 3) :
    applyAll (drainDemote scope (s.withIssuer c)) (s.withIssuer c) = s.withIssuer (c.demoted scope) := by
  rw [drainDemote, Ctx.demoted, show (s.withIssuer c).ctx (s.withIssuer c).cur.key = c from s.withIssuer_issuer c]
  by_cases hd : scope = 4#3 ∧ c.sysok = false
  · rw [if_pos ((demotes_iff c scope).mpr hd), if_pos hd]
    exact applyAll_modCtx_withIssuer s c _
  · rw [if_neg (mt (demotes_iff c scope).mp hd), if_neg hd]
    rfl

/-- A state whose issuer is in the table, after the scope of its operation has been judged. -/
theorem applyAll_drainDemote {s : State} (h : s.issuer ≠ {}) (scope : BitVec 3) :
    applyAll (drainDemote scope s) s = s.withIssuer (s.issuer.demoted scope) := by
  have hd := applyAll_drainDemote_withIssuer s s.issuer scope
  rwa [State.withIssuer_self h] at hd

/-- A change of the issuing context after the scope of its operation has been judged. -/
theorem applyAll_demote_modCtx {s : State} (h : s.issuer ≠ {}) (scope : BitVec 3) (g : Ctx → Ctx) :
    applyAll (Act.seq (drainDemote scope) (modCtx s.cur.key g) s) s = s.withIssuer (g (s.issuer.demoted scope)) := by
  rw [applyAll_seq, applyAll_drainDemote h, applyAll_modCtx_withIssuer]

/-- The writes that a DRAIN.R at a scope waits for (R198). -/
def drainedWrites (s : State) (scope : BitVec 3) : List Nat := if scope = 0#3 then [] else openWrites s s.cur.key

/-- A state whose issuer's core has dropped the lines that a DRAIN.A at a scope discards (R198). -/
def State.discarded (s : State) (scope : BitVec 3) : State :=
  { s with cores := s.cores.set (coreOf s.cur.key) { s.core (coreOf s.cur.key) with
      vcache := (s.core (coreOf s.cur.key)).vcache.filter fun l => !drainsLine s.issuer.cid scope l } }

theorem applyAll_discardLines_withIssuer (s : State) {c : Ctx} (scope : BitVec 3) (hcid : c.cid = s.issuer.cid) :
    applyAll (discardLines s.cur.key scope (s.withIssuer c)) (s.withIssuer c) = (s.discarded scope).withIssuer c := by
  have hc : (s.withIssuer c).ctx s.cur.key = c := s.withIssuer_issuer c
  rw [discardLines, hc, hcid]
  rfl

/-- The issuer takes the effect of a DRAIN.A at a scope: its lines go, and its later reads are held behind those in flight (R198, R214). -/
theorem applyAll_acquire_withIssuer (s : State) {c : Ctx} (scope : BitVec 3) (hcid : c.cid = s.issuer.cid) (hh : c.holdLoads = s.issuer.holdLoads) :
    applyAll (acquire s.cur.key scope (s.withIssuer c)) (s.withIssuer c) =
      (s.discarded scope).withIssuer { c with holdLoads := openReads s s.cur.key scope } := by
  have hreads : openReads (s.withIssuer c) s.cur.key scope = openReads s s.cur.key scope := by
    rw [openReads, openReads, show (s.withIssuer c).ctx s.cur.key = c from s.withIssuer_issuer c, hh]
    rfl
  rw [acquire, applyAll_seq, hreads, applyAll_discardLines_withIssuer s scope hcid]
  exact applyAll_modCtx_withIssuer (s.discarded scope) c _

/-- The issuer takes the effect of a DRAIN.A after the scope of its operation has been judged, and changes. -/
theorem applyAll_demote_acquire {s : State} (h : s.issuer ≠ {}) (scope : BitVec 3) (g : Ctx → Ctx) :
    let acts := effectiveScope s.issuer scope
    applyAll (Act.seqs [drainDemote scope, acquire s.cur.key acts, modCtx s.cur.key g] s) s =
      (s.discarded acts).withIssuer (g { s.issuer.demoted scope with holdLoads := openReads s s.cur.key acts }) := by
  intro acts
  rw [applyAll_seqs_cons, applyAll_drainDemote h, applyAll_seqs_cons,
    applyAll_acquire_withIssuer s acts (Ctx.demoted_cid ..) (Ctx.demoted_holdLoads ..), applyAll_seqs_cons]
  exact applyAll_modCtx_withIssuer (s.discarded acts) _ g

/-- An operation that judges its scope and then changes its context. -/
theorem becomes_of_demote_modCtx {i : Instr} {s : State} (h : Issues i s) (scope : BitVec 3) (g : State → Ctx → Ctx)
    (hx : exec i s = runOne i (act fun s => Act.seq (drainDemote scope) (modCtx s.cur.key (g s)) s) s) :
    Becomes i s (s.withIssuer (g (issuedAt i s) (s.issuer.demoted scope))) :=
  becomes_of_act h hx (applyAll_demote_modCtx (s := issuedAt i s) h.issuer_ne scope _) rfl

/-- An operation that judges its scope, takes the effect of a DRAIN.A and changes its context. -/
theorem becomes_of_demote_acquire {i : Instr} {s : State} (h : Issues i s) (scope : BitVec 3) (g : State → Ctx → Ctx)
    (hx : exec i s = runOne i (act fun s => Act.seqs [drainDemote scope, acquire s.cur.key (effectiveScope s.issuer scope), modCtx s.cur.key (g s)] s) s) :
    let acts := effectiveScope s.issuer scope
    Becomes i s ((s.discarded acts).withIssuer
      (g (issuedAt i s) { s.issuer.demoted scope with holdLoads := openReads s s.cur.key acts })) :=
  becomes_of_act h hx (applyAll_demote_acquire (s := issuedAt i s) h.issuer_ne scope _) rfl

/-- A context that waits for a DRAIN (R198). -/
def Ctx.drains (c : Ctx) (r : OpRec) (scope : BitVec 3) (both : Bool) (writes : List Nat) (at_ : Nat) : Ctx :=
  { c with wait := some (.drain r scope both writes at_) }

theorem drains : Clause.Drains := by
  intro f s scope acts c writes core kept
  have hacts : scopeIn f s.issuer = acts := effectiveScope_eq s.issuer scope
  refine ⟨fun h => ⟨_, opRec_isOf (.drainR f) s, ?before⟩, fun h => ⟨_, opRec_isOf (.drainA f) s, ?after⟩,
    fun h => ⟨_, opRec_isOf (.drainBoth f) s, ?both⟩⟩
  case before =>
    have hb := becomes_of_demote_modCtx h scope
      (fun s c => c.drains (opRec s) (scopeIn f s.issuer) false (drainedWrites s (scopeIn f s.issuer)) s.now) rfl
    rw [issuedAt_issuer, hacts] at hb
    exact hb
  case both =>
    have hb := becomes_of_demote_modCtx h scope
      (fun s c => c.drains (opRec s) (scopeIn f s.issuer) true (drainedWrites s (scopeIn f s.issuer)) (s.now + 3)) rfl
    rw [issuedAt_issuer, hacts] at hb
    exact hb
  case after =>
    have hb := becomes_of_demote_acquire h scope (fun s c => c.drains (opRec s) (scopeIn f c) false [] (s.now + 3)) rfl
    have hs (l : List Hold) : scopeIn f { s.issuer.demoted scope with holdLoads := l } = acts := by
      rw [scopeIn, effectiveScope_eq, show Ctx.sysok { s.issuer.demoted scope with holdLoads := l } = s.issuer.sysok from Ctx.demoted_sysok ..]
    rw [show effectiveScope s.issuer scope = acts from hacts] at hb
    simp only [hs] at hb
    exact hb

end Machine
end Sys2Proof
end

section
/-!
WAITT, YIELD, CINV and CFLUSH (R284 to R286).
-/
namespace Sys2Proof

/-- A table with some keys changed one after another, each by its own idempotent change. -/
theorem Sparse.get_foldl_modify {α : Type} {d : α} {g : Nat → α → α} (hg : ∀ k v, g k (g k v) = g k v) (l : List Nat) (t : Sparse α) (k : Nat) :
    (l.foldl (fun t k => t.set k (g k (t.get d k))) t).get d k = if k ∈ l then g k (t.get d k) else t.get d k := by
  induction l generalizing t with
  | nil => rfl
  | cons j l ih =>
    rw [List.foldl_cons, ih, Sparse.get_set]
    by_cases hj : j = k
    · subst hj
      simp only [if_true, hg, ite_self, List.mem_cons_self]
    · simp only [if_neg hj, List.mem_cons, Ne.symm hj, false_or]

namespace Machine

/-- The record of WAITT: its target (R268). -/
def waitRec (f : FmtY) (s : State) : OpRec := { opRec s with ca := s.src f.a }

theorem exec_waittRelease (key : Nat) (s : State) : exec (.waittRelease key) s = done (releaseWaitt key) s := rfl

theorem timedWaits : Clause.TimedWaits := by
  refine ⟨fun f s h => ⟨waitRec f (issuedAt (.waitt f) s), opRec_isOf (.waitt f) s, ?wait⟩, fun f s h => ?turn, fun key t r s hw => ?release⟩
  case wait => exact becomes_of_act h rfl rfl rfl
  case turn => exact becomes_of_act h rfl rfl rfl
  case release =>
    rw [exec_waittRelease, done_eq, releaseWaitt, hw]
    dsimp only
    refine ⟨fun ht => ?_, fun ht => ?_⟩
    · rw [if_pos ht, applyAll_modCtx]
    · rw [if_neg (not_le.mpr ht), applyAll_nil]

/-! The lines of a range, and the slices of the dies. -/

/-- A line of a tenant that overlaps the 128-byte lines of a range (R284). -/
def CacheLine.Meets (l : CacheLine) (cid : BitVec 8) (size a n : Nat) : Prop :=
  l.cid = cid ∧ l.window = false ∧ l.va * size < (a + n + 127) / 128 * 128 ∧ a / 128 * 128 < (l.va + 1) * size

theorem lineIn_iff (cid : BitVec 8) (size a : Nat) {n : Nat} (hn : n ≠ 0) (l : CacheLine) :
    (l.cid = cid && lineIn size l a n) = true ↔ l.Meets cid size a n := by
  simp only [lineIn, CacheLine.Meets, hn, Bool.and_eq_true, decide_eq_true_iff, Bool.not_eq_true', ne_eq, not_false_eq_true, true_and]
  tauto

theorem mem_filter_not_lineIn {cid : BitVec 8} {size a n : Nat} (hn : n ≠ 0) (l : CacheLine) (ls : List CacheLine) :
    l ∈ ls.filter (fun l => !(l.cid = cid && lineIn size l a n)) ↔ l ∈ ls ∧ ¬ l.Meets cid size a n := by
  rw [List.mem_filter, Bool.not_eq_true', ← Bool.not_eq_true, lineIn_iff cid size a hn]

/-- A die whose slice has lost the lines that satisfy a condition. -/
def Die.without (d : Die) (gone : CacheLine → Bool) : Die := { d with slice := d.slice.filter fun l => !gone l }

theorem Die.without_without (d : Die) (gone : CacheLine → Bool) : (d.without gone).without gone = d.without gone := by
  simp only [Die.without, List.filter_filter, Bool.and_self]

theorem applyAll_each_modDie (l : List (Nat × Die)) (g : Nat → Die → Die) (s : State) :
    applyAll (Act.each l (fun x => modDie x.1 (g x.1)) s) s =
      { s with dies := (l.map (·.1)).foldl (fun t k => t.set k (g k (t.get {} k))) s.dies } := by
  induction l generalizing s with
  | nil => rfl
  | cons x l ih =>
    rw [Act.each, List.map_cons, applyAll_seqs_cons]
    exact ih _

/-- Whether a line of a tenant overlaps a range and has a die as its home (R284). -/
def homedLine (s : State) (part : Nat) (cid : BitVec 8) (a n d : Nat) (l : CacheLine) : Bool :=
  l.cid = cid && lineIn 128 l a n && (rangeOf (s.quarter part) (l.va * 128)).any fun r => homeOf r (l.va * 128) = d

theorem homedLine_iff (s : State) (part : Nat) (cid : BitVec 8) (a : Nat) {n : Nat} (hn : n ≠ 0) (d : Nat) (l : CacheLine) :
    homedLine s part cid a n d l = true ↔
      l.Meets cid 128 a n ∧ ∃ r, rangeOf (s.quarter part) (l.va * 128) = some r ∧ homeOf r (l.va * 128) = d := by
  rw [homedLine, Bool.and_eq_true, lineIn_iff cid 128 a hn]
  cases rangeOf (s.quarter part) (l.va * 128) <;> simp

/-- The dies after the lines of a range have left the slices of their homes. -/
def State.slicesDropped (s : State) (part : Nat) (cid : BitVec 8) (a n : Nat) : Sparse Die :=
  ((s.dies.filter fun x => x.2.slice.any (homedLine s part cid a n x.1)).map (·.1)).foldl
    (fun t k => t.set k ((t.get {} k).without (homedLine s part cid a n k))) s.dies

theorem applyAll_dropSlices (s : State) (part : Nat) (cid : BitVec 8) (a n : Nat) :
    applyAll (dropSlices part cid a n s) s = { s with dies := s.slicesDropped part cid a n } :=
  applyAll_each_modDie _ (fun k d => d.without (homedLine s part cid a n k)) s

/-- Each slice loses the lines of the range that it is the home of, whether or not it holds any. -/
theorem get_slicesDropped (s : State) (part : Nat) (cid : BitVec 8) (a n d : Nat) :
    (s.slicesDropped part cid a n).get {} d = (s.die d).without (homedLine s part cid a n d) := by
  refine (Sparse.get_foldl_modify (d := ({} : Die)) (g := fun k v => v.without (homedLine s part cid a n k))
    (fun _ v => v.without_without _) _ _ _).trans ?_
  split
  · rfl
  next hd =>
    have hnone : ∀ l ∈ (s.die d).slice, homedLine s part cid a n d l = false := by
      intro l hl
      by_contra hgone
      have hne : s.die d ≠ {} := fun he => by rw [he] at hl; exact absurd hl List.not_mem_nil
      exact hd (List.mem_map.mpr ⟨_, List.mem_filter.mpr ⟨Sparse.mem_of_get_ne hne,
        List.any_eq_true.mpr ⟨l, hl, Bool.not_eq_false _ ▸ hgone⟩⟩, rfl⟩)
    rw [Die.without, List.filter_eq_self.mpr fun l hl => by rw [hnone l hl]; rfl]
    rfl

/-! CINV and CFLUSH. -/

/-- An operation that does no more than judge its scope. -/
theorem answers_of_demote {i : Instr} {s : State} (h : Issues i s) {op : SlotOp} (hx : exec i s = runOne i op s) {scope : BitVec 3}
    (ho : op (issuedAt i s) = .ok (drainDemote scope (issuedAt i s))) :
    Answers i s fun t => t.issuer = s.issuer.demoted scope ∧ OnlyCur (s.withIssuer t.issuer) t :=
  answers_of_withIssuer h hx ho (applyAll_drainDemote (s := issuedAt i s) h.issuer_ne scope) rfl rfl rfl fun _ hissuer _ honly => ⟨hissuer, honly⟩

/-- A context that waits for the end of a maintenance (R284). -/
def Ctx.maintains (c : Ctx) (t : Nat) : Ctx := { c with wait := some (.until t none) }

theorem applyAll_maintainWait {u : State} (h : u.issuer ≠ {}) (scope : BitVec 3) : applyAll (maintainWait scope u) u =
    { u with free := u.free + 1 }.withIssuer ((u.issuer.demoted scope).maintains (u.now + 1 + Config.freeNat u.free)) := by
  rw [maintainWait, applyAll_seqs_cons, applyAll_drainDemote h]
  exact applyAll_modCtx_withIssuer { u with free := u.free + 1 } (u.issuer.demoted scope) fun c => c.maintains (u.now + 1 + Config.freeNat u.free)

/-- An operation that makes changes, which leave the contexts and the issue alone, and then waits for the end of a maintenance. -/
theorem becomes_of_maintainWait {i : Instr} {s : State} (h : Issues i s) {op : SlotOp} (hx : exec i s = runOne i op s) {f : Act} {scope : BitVec 3}
    (ho : op (issuedAt i s) = .ok (Act.seq f (maintainWait scope) (issuedAt i s))) {cores : Sparse Core} {dies : Sparse Die}
    (hf : applyAll (f (issuedAt i s)) (issuedAt i s) = { issuedAt i s with cores := cores, dies := dies }) : ∃ t0, s.now + 1 ≤ t0 ∧
      Becomes i s ({ s with cores := cores, dies := dies, free := s.free + 1 }.withIssuer ((s.issuer.demoted scope).maintains t0)) := by
  have ht := (applyAll_seq f (maintainWait scope) (issuedAt i s)).trans ((congrArg (fun u => applyAll (maintainWait scope u) u) hf).trans
    (applyAll_maintainWait (u := { issuedAt i s with cores := cores, dies := dies }) h.issuer_ne scope))
  refine ⟨s.now + 1 + Config.freeNat s.free, Nat.le_add_right .., answers_of_ok h hx ho ?_ ?_ ?_⟩ <;> rw [ht]
  · exact h.stores
  · exact h.trapped
  · exact ⟨rfl, rfl⟩

/-- A core whose caches have lost the lines of a tenant that overlap a range (R284). -/
def Core.without (x : Core) (cid : BitVec 8) (a n : Nat) : Core :=
  { x with icache := x.icache.filter fun l => !(l.cid = cid && lineIn 64 l a n), vcache := x.vcache.filter fun l => !(l.cid = cid && lineIn 128 l a n) }

theorem Act.seq_assoc (f g h : Act) (s : State) : Act.seq (Act.seq f g) h s = Act.seq f (Act.seq g h) s := by
  simp only [Act.seq, applyAll_append, List.append_assoc]

/-- What CINV does before it waits (R284): the lines of the range leave the caches of a core, and at PART and SYS the slices of their homes. -/
def invalidate (core part : Nat) (far : Bool) (cid : BitVec 8) (a n : Nat) : Act :=
  Act.seq (modCore core fun x => x.without cid a n) (Act.when far (dropSlices part cid a n))

theorem applyAll_invalidate (core part : Nat) (far : Bool) (cid : BitVec 8) (a n : Nat) (s : State) :
    applyAll (invalidate core part far cid a n s) s =
      { s with cores := s.cores.set core ((s.core core).without cid a n), dies := if far then s.slicesDropped part cid a n else s.dies } := by
  rw [invalidate, applyAll_seq]
  cases far
  · rfl
  · exact applyAll_dropSlices ..

theorem seqs_three (f g h : Act) : Act.seqs [f, g, h] = Act.seq f (Act.seq g h) := congrArg (fun x => Act.seq f (Act.seq g x)) (funext h.seq_skip)

/-- CINV by the length of its range. -/
theorem opCinv_eq (f : FmtY) (s : State) :
    let a := (s.src f.a).toNat
    let n := (s.src f.b).toNat % 2 ^ 32
    opCinv f s = .ok (if n = 0 then drainDemote (f.sf.extractLsb' 0 3) s else
      Act.seqs [modCore (coreOf s.cur.key) fun x => x.without (effectiveCid s.issuer.cid a) a n, Act.when (decide (3 ≤ (scopeIn f s.issuer).toNat))
        (dropSlices (partOf s.pkg (coreOf s.cur.key)) (effectiveCid s.issuer.cid a) a n), maintainWait (f.sf.extractLsb' 0 3)] s) := rfl

theorem opCinv_of_range {f : FmtY} {s : State} (hn : (s.src f.b).toNat % 2 ^ 32 ≠ 0) : opCinv f s = .ok (Act.seq
    (invalidate (coreOf s.cur.key) (partOf s.pkg (coreOf s.cur.key)) (decide (3 ≤ (scopeIn f s.issuer).toNat))
      (effectiveCid s.issuer.cid (s.src f.a).toNat) (s.src f.a).toNat ((s.src f.b).toNat % 2 ^ 32)) (maintainWait (f.sf.extractLsb' 0 3)) s) := by
  rw [opCinv_eq, if_neg hn, invalidate, Act.seq_assoc, seqs_three]

theorem cacheMaintenance : Clause.CacheMaintenance := by
  intro f s scope c acts homed a n core out waits
  have hacts : scopeIn f s.issuer = acts := effectiveScope_eq s.issuer scope
  let cid := effectiveCid s.issuer.cid a
  let part := partOf s.pkg (coreOf s.cur.key)
  refine ⟨fun h => ⟨fun hn => answers_of_demote h rfl (congrArg Except.ok (if_pos hn)),
    fun hn => ⟨core.without cid a n, if 3 ≤ acts.toNat then s.slicesDropped part cid a n else s.dies, rfl,
    fun l => mem_filter_not_lineIn hn l _, fun l => mem_filter_not_lineIn hn l _, fun ha => if_neg (not_le.mpr ha), fun d => ?dies,
    fun d l ha => ?slices, ?waits⟩⟩, fun h => ⟨fun hn => answers_of_demote h rfl (congrArg Except.ok (if_pos hn)), fun hn => ?flushes⟩⟩
  case dies =>
    split
    · rw [get_slicesDropped]
      rfl
    · rfl
  case slices =>
    rw [if_pos ha, get_slicesDropped, Die.without, List.mem_filter, Bool.not_eq_true', ← Bool.not_eq_true, homedLine_iff _ _ _ _ hn]
    rfl
  case waits =>
    obtain ⟨t0, ht0, hb⟩ := becomes_of_maintainWait h rfl (opCinv_of_range (f := f) (s := issuedAt (.cinv f) s) hn)
      (applyAll_invalidate (coreOf s.cur.key) part (decide (3 ≤ (scopeIn f s.issuer).toNat)) cid a n (issuedAt (.cinv f) s))
    simp only [hacts, decide_eq_true_iff] at hb
    exact ⟨t0, ht0, hb⟩
  case flushes => exact becomes_of_maintainWait h (op := opCflush f) rfl (f := Act.skip) (scope := scope) (congrArg Except.ok (if_neg hn)) rfl

/-- Settles O30: the three forms of DRAIN, the timed waits with their release, and the maintenance of caches. -/
theorem drainsAndWaits : Obligations.DrainsAndWaits := ⟨drains, timedWaits, cacheMaintenance⟩

end Machine
end Sys2Proof
end

section
/-!
The atomics of an operation, in the own scratchpad or as an access (R200 to R202), and AMO (R199 to R201).
-/
namespace Sys2Proof.Machine

/-- Operations under way leave what of their context is no operation and no register. -/
theorem Ctx.withPending_fields (c : Ctx) (r : OpRec) (ds : List Dest) (src : Source) :
    (c.withPending r ds src).sysok = c.sysok ∧ (c.withPending r ds src).holdAll = c.holdAll := by
  have hmark (c : Ctx) (d : Dest) : (c.markEmpty r.order d).sysok = c.sysok ∧ (c.markEmpty r.order d).holdAll = c.holdAll := by
    cases d <;> simp only [Ctx.markEmpty, and_self]
    split <;> exact ⟨rfl, rfl⟩
  have hmarks (c : Ctx) : let x := ds.foldl (fun c d => c.markEmpty r.order d) c
      x.sysok = c.sysok ∧ x.holdAll = c.holdAll := by
    induction ds generalizing c with
    | nil => exact ⟨rfl, rfl⟩
    | cons d ds ih => exact ⟨(ih _).1.trans (hmark c d).1, (ih _).2.trans (hmark c d).2⟩
  exact hmarks _

/-- What a context accesses after an atomic, where it is ordered, waits for it (R201). -/
def Ctx.heldFor (c : Ctx) (f : FmtA) (id : Nat) : Ctx := { c with holdAll := if f.ord = 1#1 then c.holdAll ++ [⟨id, 3#3⟩] else c.holdAll }

/-- What a context accesses after an atomic of its own scratchpad, where it is ordered, it reads afresh (R201, R215). -/
def Ctx.freshBy (c : Ctx) (f : FmtA) (n : Nat) : Ctx := { c with fresh := if f.ord = 1#1 then n + 1 else c.fresh }

/-- The context of an atomic that has started its access (R201). -/
theorem applyAll_atomicAccess (f : FmtA) (r : OpRec) (d : Dest) (id : Nat) (u : State) :
    applyAll (Act.seqs [pend r [d] (.access id), atomicMarks f id, atomicDemote f] u) u =
      u.withIssuer (((u.issuer.withPending r [d] (.access id)).heldFor f id).demoted f.scope) := by
  rw [applyAll_seqs_cons, applyAll_pend, applyAll_seqs_cons]
  have hmarks : applyAll (atomicMarks f id (u.withIssuer (u.issuer.withPending r [d] (.access id))))
      (u.withIssuer (u.issuer.withPending r [d] (.access id))) = u.withIssuer ((u.issuer.withPending r [d] (.access id)).heldFor f id) :=
    applyAll_modCtx_withIssuer u _ fun c => c.heldFor f id
  rw [hmarks, applyAll_seqs_cons]
  exact applyAll_drainDemote_withIssuer u _ f.scope

theorem Ctx.demoted_freshBy (c : Ctx) (f : FmtA) (n : Nat) : (c.freshBy f n).demoted f.scope = (c.demoted f.scope).freshBy f n := by
  unfold Ctx.demoted
  split <;> rename_i hd <;> [rw [if_pos (show f.scope = 4#3 ∧ c.sysok = false from hd)]; rw [if_neg (show ¬ (f.scope = 4#3 ∧ c.sysok = false) from hd)]]
  rfl

theorem applyAll_spadOrdered (f : FmtA) (s : State) (c : Ctx) : applyAll (spadOrdered f (s.withIssuer c)) (s.withIssuer c) =
    { s with free := s.free + f.ord.toNat }.withIssuer (c.freshBy f s.free) := by
  rw [spadOrdered, Ctx.freshBy]
  split
  next ho =>
    rw [ho, show (s.withIssuer c).ctx (s.withIssuer c).cur.key = c from s.withIssuer_issuer c]
    simp only [applyAll_cons, applyEffect_free, applyEffect_ctx, applyAll_nil, State.withIssuer, Sparse.set_set]
    rfl
  next ho =>
    have h0 : f.ord.toNat = 0 := by
      have hlt := f.ord.isLt
      have hne : f.ord.toNat ≠ 1 := fun h => ho (BitVec.eq_of_toNat_eq h)
      omega
    rw [h0]
    rfl

/-- A context with a result on its way (R86). -/
def Ctx.withLanding (c : Ctx) (l : Landing) : Ctx := { c with landings := c.landings ++ [l] }

/-- The context of an atomic of the own scratchpad: its old values are on their way, n cycles after the issue (R200 to R202). -/
theorem applyAll_atomicLands (f : FmtA) (r : OpRec) (n : Nat) (d : Dest) (v : Result) (u : State) :
    applyAll (Act.seq (land r n d v) (Act.seq (atomicDemote f) (spadOrdered f)) u) u = { u with free := u.free + f.ord.toNat }.withIssuer
      (((u.issuer.withLanding ⟨r, u.now + n, d, v⟩).freshBy f u.free).demoted f.scope) := by
  have hland : applyAll (land r n d v u) u = u.withIssuer (u.issuer.withLanding ⟨r, u.now + n, d, v⟩) := rfl
  have hdemote := applyAll_drainDemote_withIssuer u (u.issuer.withLanding ⟨r, u.now + n, d, v⟩) f.scope
  rw [applyAll_seq, hland, applyAll_seq, show atomicDemote f = drainDemote f.scope from rfl, hdemote, applyAll_spadOrdered, Ctx.demoted_freshBy]

/-! The atomics of the own scratchpad, one after another. -/

/-- The byte at a place that no store of the issue has reached is the one in memory. -/
theorem byteNow_of_not_stored {s : State} {a : Nat} (h : a ∉ s.cur.stores.map (·.1)) : byteNow s a = Memory.get s.mem a := by
  have hnone : s.cur.stores.reverse.find? (fun x => decide (x.1 = a)) = none := by
    rw [List.find?_eq_none]
    intro x hx ha
    exact h (List.mem_map.mpr ⟨x, List.mem_reverse.mp hx, of_decide_eq_true ha⟩)
  rw [byteNow, hnone]

theorem read_eq_map (m : List Host.Cell) (a n : Nat) : Memory.read m a n = (List.range n).map fun b => Memory.get m (a + b) := by
  have hread := Tests.read_eq m a ((List.range n).map fun b => Memory.get m (a + b)) fun b hb => by rw [List.getElem_map, List.getElem_range]
  rwa [List.length_map, List.length_range] at hread

theorem reached_cons (core : Nat) (h : Handle) (e : Elem) (es : List Elem) : reached core h (e :: es) = reached core h [e] ++ reached core h es := by
  rw [reached, reached, reached, List.flatMap_cons, List.flatMap_cons, List.flatMap_nil, List.append_nil]

theorem reached_singleton (core : Nat) (h : Handle) (e : Elem) :
    reached core h [e] = (List.range e.len).map fun b => spadPlace core (h.address e.off).toNat + b := by
  rw [reached, List.flatMap_cons, List.flatMap_nil, List.append_nil]
  exact List.map_congr_left fun b _ => (Nat.add_assoc ..).symm

theorem nodup_reached_singleton (core : Nat) (h : Handle) (e : Elem) : (reached core h [e]).Nodup := by
  rw [reached_singleton]
  exact List.nodup_range.map fun a b => Nat.add_left_cancel

/-- What an atomic meets where no store of the issue has reached its places: the bytes as they stand. -/
theorem spadBytesNow_of_not_stored {s : State} {h : Handle} {e : Elem}
    (hs : ∀ a ∈ reached (coreOf s.cur.key) h [e], a ∉ s.cur.stores.map (·.1)) : spadBytesNow s s.cur.key h e = spadBytes s s.cur.key h e := by
  rw [reached_singleton] at hs
  rw [spadBytesNow, spadBytes, read_eq_map]
  refine List.map_congr_left fun b hb => ?_
  rw [spadPlace, ← Nat.add_assoc, ← spadPlace]
  exact byteNow_of_not_stored (hs _ (List.mem_map_of_mem hb))

/-- The value that an element's atomic reads in the own scratchpad as it stands. -/
def oldWord (s : State) (h : Handle) (e : Elem) : Nat := leNat (spadBytes s s.cur.key h e)

/-- What an element's atomic stores at its places over a value (R199, R200). -/
def atomicStore (core : Nat) (h : Handle) (aop w cmp : Nat) (x : Elem × Nat) (old : Nat) : List (Nat × Byte) :=
  (reached core h [x.1]).zip (leBytes (atomicNew aop w old x.2 cmp) x.1.len)

/-- An issue with more stores. -/
def State.storing (s : State) (st : List (Nat × Byte)) (rmw : List Nat) : State :=
  { s with cur := { s.cur with stores := s.cur.stores ++ st, rmw := rmw } }

theorem storing_storing (s : State) (st st' : List (Nat × Byte)) (rmw rmw' : List Nat) :
    (s.storing st rmw).storing st' rmw' = s.storing (st ++ st') rmw' := by
  simp only [State.storing, List.append_assoc]

theorem atomicsInOrder_cons (h : Handle) (aop w cmp : Nat) (x : Elem × Nat) (l : List (Elem × Nat)) (s : State) :
    let old := leNat (spadBytesNow s s.cur.key h x.1)
    let t := s.storing (atomicStore (coreOf s.cur.key) h aop w cmp x old) (s.cur.rmw ++ reached (coreOf s.cur.key) h [x.1])
    atomicsInOrder h aop w cmp (x :: l) s = (.cur t.cur :: (atomicsInOrder h aop w cmp l t).1, old :: (atomicsInOrder h aop w cmp l t).2) := rfl

/-- Atomics of the own scratchpad one after another: they store at the places that they reach, and each gives an old value. -/
theorem atomicsInOrder_stores (h : Handle) (aop w cmp : Nat) (l : List (Elem × Nat)) (s : State) : ∃ st rmw,
    applyAll (atomicsInOrder h aop w cmp l s).1 s = s.storing st rmw ∧ (atomicsInOrder h aop w cmp l s).2.length = l.length ∧
    (∀ a ∈ st.map (·.1), a ∈ reached (coreOf s.cur.key) h (l.map (·.1))) ∧
    ((reached (coreOf s.cur.key) h (l.map (·.1))).Nodup → (∀ a ∈ reached (coreOf s.cur.key) h (l.map (·.1)), a ∉ s.cur.stores.map (·.1)) →
      (atomicsInOrder h aop w cmp l s).2 = l.map (fun x => oldWord s h x.1) ∧
      st = l.flatMap fun x => atomicStore (coreOf s.cur.key) h aop w cmp x (oldWord s h x.1)) := by
  induction l generalizing s with
  | nil => exact ⟨[], s.cur.rmw, by simp [State.storing, atomicsInOrder], rfl, by simp, fun _ _ => ⟨rfl, rfl⟩⟩
  | cons x l ih =>
    rw [atomicsInOrder_cons]
    dsimp only
    set core := coreOf s.cur.key
    set old := leNat (spadBytesNow s s.cur.key h x.1)
    set own := atomicStore core h aop w cmp x old
    obtain ⟨st, rmw, happly, hlen, hplaces, hvals⟩ := ih (s.storing own (s.cur.rmw ++ reached core h [x.1]))
    have hown : ∀ a ∈ own.map (·.1), a ∈ reached core h [x.1] := fun a ha => (map_fst_zip_sublist _ _).subset ha
    refine ⟨own ++ st, rmw, ?_, congrArg (· + 1) hlen, ?_, fun hnd hfree => ?_⟩
    · rw [← storing_storing, ← happly]
      rfl
    · rw [List.map_append, List.map_cons, reached_cons]
      intro a ha
      rcases List.mem_append.mp ha with ha | ha
      · exact List.mem_append_left _ (hown a ha)
      · exact List.mem_append_right _ (hplaces a ha)
    · rw [List.map_cons, reached_cons] at hnd hfree
      obtain ⟨_, hnd, hdisj⟩ := List.nodup_append'.mp hnd
      have hold : old = oldWord s h x.1 :=
        congrArg leNat (spadBytesNow_of_not_stored fun a ha => hfree a (List.mem_append_left _ ha))
      obtain ⟨hvals, hst⟩ := hvals hnd fun a ha => by
        rw [State.storing, List.map_append, List.mem_append, not_or]
        exact ⟨hfree a (List.mem_append_right _ ha), fun h => hdisj (hown a h) ha⟩
      have hfirst : own = atomicStore core h aop w cmp x (oldWord s h x.1) := congrArg (atomicStore core h aop w cmp x) hold
      rw [hvals, hst, hold, hfirst]
      exact ⟨rfl, rfl⟩

/-- An operation issued alone whose changes are stores of the issue to places of the own scratchpad, and others: the stores are in memory after it
(R107). -/
theorem answers_of_stores_and {i : Instr} {s : State} (h : Issues i s) {op : SlotOp} (hx : exec i s = runOne i op s) {e : List Effect}
    (ho : op (issuedAt i s) = .ok e) {v : State} (he : applyAll e (issuedAt i s) = v) (hkey : v.cur.key = s.cur.key) (hn : v.cur.near = s.cur.near)
    (ht : v.cur.trapped = s.cur.trapped) {st : List (Nat × Byte)} (hst : v.cur.stores = st) {u : State}
    (hu : u = { v with mem := storedAll v.mem st, cur := u.cur })
    (hukey : u.cur.key = s.cur.key) : Becomes i s u := by
  subst he
  subst hst
  obtain ⟨hflushed, hkey', htrapped⟩ := flushed_eq (hn.trans h.near)
  refine ⟨_, hx.trans (runOne_of_ok h ho (htrapped.trans (ht.trans h.trapped))), ?_, hkey'.trans (hkey.trans hukey.symm)⟩
  rw [hu]
  exact hflushed

/-- An operation issued alone whose own-scratchpad atomics have performed and whose old values are on their way (R200, R202). -/
theorem answers_of_spadAtomics {i : Instr} {s : State} (h : Issues i s) {op : SlotOp} (hx : exec i s = runOne i op s) {f : FmtA} {hd : Handle}
    {cmp : Nat} {l : List (Elem × Nat)} {r : OpRec} {n : Nat} {d : Dest} {v : List Nat → Result}
    (ho : op (issuedAt i s) = (let t := spadAtomics hd f.aop.toNat (tyWidth f.ty) cmp l (issuedAt i s)
      .ok (t.1 ++ Act.seq (land r n d (v t.2)) (Act.seq (atomicDemote f) (spadOrdered f)) (applyAll t.1 (issuedAt i s))))) :
    ∃ st olds, olds.length = l.length ∧ (∀ a ∈ st.map (·.1), a ∈ reached (coreOf s.cur.key) hd (l.map (·.1))) ∧
      ((reached (coreOf s.cur.key) hd (l.map (·.1))).Nodup → olds = l.map (fun x => oldWord s hd x.1) ∧
        st = l.flatMap fun x => atomicStore (coreOf s.cur.key) hd f.aop.toNat (tyWidth f.ty) cmp x (oldWord s hd x.1)) ∧
      Becomes i s ({ s with mem := storedAll s.mem st, free := s.free + f.ord.toNat }.withIssuer
        (((s.issuer.withLanding ⟨r, s.now + n, d, v olds⟩).freshBy f s.free).demoted f.scope)) := by
  obtain ⟨st, rmw, happly, hlen, hplaces, hvals⟩ := atomicsInOrder_stores hd f.aop.toNat (tyWidth f.ty) cmp l (issuedAt i s)
  have hspad : spadAtomics hd f.aop.toNat (tyWidth f.ty) cmp l (issuedAt i s) =
      atomicsInOrder hd f.aop.toNat (tyWidth f.ty) cmp l (issuedAt i s) := by
    rw [spadAtomics, foldNear_of_no_near (s := issuedAt i s) _ _ h.near]
    rfl
  rw [hspad] at ho
  dsimp only at ho
  generalize hrun : atomicsInOrder hd f.aop.toNat (tyWidth f.ty) cmp l (issuedAt i s) = run at *
  obtain ⟨e, olds⟩ := run
  refine ⟨st, _, hlen, hplaces, fun hnd => hvals hnd fun a _ ha => ?_, ?_⟩
  · rw [issuedAt_stores, h.stores] at ha
    exact List.not_mem_nil ha
  · have hland := applyAll_atomicLands f r n d (v olds) ((issuedAt i s).storing st rmw)
    rw [← happly, ← applyAll_append] at hland
    have hst : ((issuedAt i s).storing st rmw).cur.stores = st := congrArg (· ++ st) h.stores
    refine answers_of_stores_and h hx ho hland ?_ ?_ ?_ (st := st) ?_ ?_ rfl <;> rw [happly]
    case refine_4 => exact hst
    all_goals rfl

/-- The scope of an atomic is judged in the context that issues, whatever else of it changes (R80). -/
theorem Ctx.demoted_eq {c d : Ctx} (h : c.sysok = d.sysok) (scope : BitVec 3) :
    c.demoted scope = if scope = 4#3 ∧ d.sysok = false then { c with scdem := true } else c := by
  rw [Ctx.demoted, h]

/-- An operation issued alone that starts the access of its atomics (R201, R202). -/
theorem becomes_of_atomicAccess {i : Instr} {s : State} (h : Issues i s) {op : SlotOp} (hx : exec i s = runOne i op s) {f : FmtA} {hd : Handle}
    {r : OpRec} {d : Dest} {es : List Elem} {data cmp : List Byte}
    (ho : op (issuedAt i s) = .ok (startAccess s.cur.key r (.atomic f.aop (f.ty = 6#4)) hd.kind (layParts hd 0 es) data cmp
      (effectiveScope s.issuer f.scope) (hd.kind = .global)
      (fun id => Act.seqs [pend r [d] (.access id), atomicMarks f id, atomicDemote f]) (issuedAt i s))) :
    let c : Ctx := { s.issuer.withPending r [d] (.access s.nextId) with
      holdAll := if f.ord = 1#1 then s.issuer.holdAll ++ [⟨s.nextId, 3#3⟩] else s.issuer.holdAll }
    Becomes i s ((s.withAccess (s.accessFor r (.atomic f.aop (f.ty = 6#4)) hd es data cmp
      (if f.scope = 4#3 ∧ s.issuer.sysok = false then 3#3 else f.scope) (hd.kind = .global))).withIssuer
        (if f.scope = 4#3 ∧ s.issuer.sysok = false then { c with scdem := true } else c)) := by
  intro c
  obtain ⟨hsysok, hhold⟩ := s.issuer.withPending_fields r [d] (.access s.nextId)
  have hheld : (s.issuer.withPending r [d] (.access s.nextId)).heldFor f s.nextId = c := by rw [Ctx.heldFor, hhold]
  have hb := becomes_of_startAccess h hx ho (v := (s.withAccess (s.accessFor r (.atomic f.aop (f.ty = 6#4)) hd es data cmp
    (effectiveScope s.issuer f.scope) (hd.kind = .global))).withIssuer
      (((s.issuer.withPending r [d] (.access s.nextId)).heldFor f s.nextId).demoted f.scope)) (fun _ => applyAll_atomicAccess ..) rfl
  rwa [hheld, Ctx.demoted_eq (show c.sysok = s.issuer.sysok from hsysok), effectiveScope_eq] at hb

/-- The check of an atomic's element: its handle's, its alignment, and its walk's (R93, R200, R296). -/
def atomicCheck (s : State) (i : Issue) (h : Handle) (es : List Elem) : Option Trap :=
  elemsTrap i h 2 (fun e => (alignTrap i h e).orElse fun _ => readTrap s.issuer i h e) es

section
variable {s : State} {i : Issue} {h : Handle} {e : Elem} (hc : checkHandle h e.off e.len 2 = none)
include hc

theorem atomicCheck_of_misaligned (ha : (h.address e.off).toNat % e.len ≠ 0) :
    atomicCheck s i h [e] = some (accessTrap i codeAtomicAlign (h.address e.off) e.elem 0#8) := by
  rw [atomicCheck, elemsTrap_of_no_handle hc, alignTrap, if_pos ha]
  rfl

theorem atomicCheck_of_aligned (ha : (h.address e.off).toNat % e.len = 0) : atomicCheck s i h [e] = readTrap s.issuer i h e := by
  rw [atomicCheck, elemsTrap_of_no_handle hc, alignTrap, if_neg (not_not.mpr ha)]
  rfl

end

/-- A state that is, but for the issue, the one after stores at places and a change of the issuer. -/
theorem stores_of_onlyCur {v t : State} {c : Ctx} {places : List Nat} {data : List Byte}
    (h : OnlyCur ({ v with mem := storedAll v.mem (places.zip data) }.withIssuer c) t) : t.issuer = c ∧ Stores (v.withIssuer t.issuer) t places data := by
  have hc : t.issuer = c := h.issuer.trans (State.withIssuer_issuer { v with mem := storedAll v.mem (places.zip data) } c)
  obtain ⟨ht, hkey⟩ := h
  refine ⟨hc, ?_, hkey, fun w => ?_⟩
  · rw [hc, ht]
    rfl
  · rw [ht]
    exact get_storedAll_zip w places data

/-- The record of AMO: its address, its operand and its compare value (R268). -/
def amoRec (f : FmtA) (s : State) : OpRec :=
  memRec s (s.issuer.handle f.h.toNat) ((s.issuer.handle f.h.toNat).address (s.src f.b)) (s.src f.c) (if f.aop = 9#4 then s.src f.d else 0#64) []

/-- AMO by its checks and the kind of its handle. -/
theorem opAmo_eq (f : FmtA) (s : State) :
    let hd := s.issuer.handle f.h.toNat
    let w := tyWidth f.ty
    let e : Elem := ⟨0, s.src f.b, w / 8⟩
    let x := (s.src f.c).toNat % 2 ^ w
    let cmp := (s.src f.d).toNat % 2 ^ w
    opAmo f s = checkedBy (atomicCheck s s.cur hd [e]) (if hd.kind = .spad then
      let t := spadAtomics hd f.aop.toNat w cmp [(e, x)] s
      .ok (t.1 ++ Act.seq (land (amoRec f s) 8 (.s f.d.toNat) (.word (atomicOld f.ty (t.2.getD 0 0)))) (Act.seq (atomicDemote f) (spadOrdered f))
        (applyAll t.1 s))
    else .ok (startAccess s.cur.key (amoRec f s) (.atomic f.aop (f.ty = 6#4)) hd.kind (layParts hd 0 [e]) (leBytes x (w / 8)) (leBytes cmp (w / 8))
      (effectiveScope s.issuer f.scope) (hd.kind = .global)
      (fun id => Act.seqs [pend (amoRec f s) [.s f.d.toNat] (.access id), atomicMarks f id, atomicDemote f]) s)) := rfl

theorem scalarAtomics : Clause.ScalarAtomics := by
  intro f s h hd w e a i x cmp old checks free demoted
  have hx : exec (.amo f) s = runOne (.amo f) (opAmo f) s := rfl
  have ho := opAmo_eq f (issuedAt (.amo f) s)
  have haligned (hc : checks) : atomicCheck s i hd [e] = readTrap s.issuer i hd e := atomicCheck_of_aligned hc.1 hc.2
  have hdone (hfree : free) := checkedBy_of_free ho ((haligned hfree.1).trans hfree.2)
  refine ⟨fun code hc => ?handle, fun hc ha => ?align, fun tr hc hr => ?walk, fun hfree hk => ?spad,
    fun hfree hk => ⟨amoRec f (issuedAt (.amo f) s), opRec_isOf (.amo f) s, ?away⟩⟩
  case handle => exact traps_of_error h hx (checkedBy_of_trap ho (elemsTrap_of_handle (e := e) hc))
  case align => exact traps_of_error h hx (checkedBy_of_trap ho (atomicCheck_of_misaligned hc ha))
  case walk => exact traps_of_error h hx (checkedBy_of_trap ho ((haligned hc).trans hr))
  case spad =>
    obtain ⟨st, olds, -, -, hvals, t, ht, honly⟩ := answers_of_spadAtomics h hx (v := fun olds => .word (atomicOld f.ty (olds.getD 0 0)))
      ((hdone hfree).trans (if_pos hk))
    obtain ⟨rfl, rfl⟩ := hvals (nodup_reached_singleton ..)
    rw [List.flatMap_cons, List.flatMap_nil, List.append_nil] at honly
    obtain ⟨hissuer, hstores⟩ := stores_of_onlyCur (v := { s with free := s.free + f.ord.toNat }) honly
    exact ⟨t, ht, hstores, amoRec f (issuedAt (.amo f) s), opRec_isOf (.amo f) s, hissuer.trans (Ctx.demoted_eq (d := s.issuer) (by rfl) _)⟩
  case away => exact becomes_of_atomicAccess h hx ((hdone hfree).trans (if_neg hk))

/-! The operations (R199). -/

section
variable {w : Nat} (old x cmp : BitVec w)

theorem atomicNew_min_signed : BitVec.ofNat w (atomicNew 4 w old.toNat x.toNat cmp.toNat) = if x.slt old then x else old := by
  simp only [atomicNew, signedOf_eq_toInt, BitVec.ofNat_toNat, BitVec.setWidth_eq, BitVec.slt_iff_toInt_lt]
  split <;> simp

theorem atomicNew_max_signed : BitVec.ofNat w (atomicNew 5 w old.toNat x.toNat cmp.toNat) = if old.slt x then x else old := by
  simp only [atomicNew, signedOf_eq_toInt, BitVec.ofNat_toNat, BitVec.setWidth_eq, BitVec.slt_iff_toInt_lt]
  split <;> simp

theorem atomicNew_min_unsigned : BitVec.ofNat w (atomicNew 6 w old.toNat x.toNat cmp.toNat) = if x.ult old then x else old := by
  simp only [atomicNew, BitVec.ult_iff_toNat_lt]
  split <;> simp

theorem atomicNew_max_unsigned : BitVec.ofNat w (atomicNew 7 w old.toNat x.toNat cmp.toNat) = if old.ult x then x else old := by
  simp only [atomicNew, BitVec.ult_iff_toNat_lt]
  split <;> simp

theorem atomicNew_compare : BitVec.ofNat w (atomicNew 9 w old.toNat x.toNat cmp.toNat) = if old = cmp then x else old := by
  simp only [atomicNew, BitVec.toNat_inj]
  split <;> simp

theorem atomicOperations : Clause.AtomicOperations := by
  refine fun w _ old x cmp => ⟨?add, ?and, ?or, ?xor, atomicNew_min_signed .., atomicNew_max_signed .., atomicNew_min_unsigned ..,
    atomicNew_max_unsigned .., ?swap, atomicNew_compare ..⟩
  case add | and | or | xor => exact BitVec.eq_of_toNat_eq (by simp [atomicNew])
  case swap => simp [atomicNew]

end

/-- Settles O11: AMO by its checks and the kind of its handle, and the operations. -/
theorem atomics : Obligations.Atomics := ⟨scalarAtomics, atomicOperations⟩

end Sys2Proof.Machine
end

section
/-!
VAMO (R202).
-/
namespace Sys2Proof.Machine

/-- The elements of VAMO: the active ones, each with its offset (R202). -/
def State.amoElems (s : State) (f : FmtA) : List Elem :=
  elemsAt (maskOf s.issuer f.msk) f.ty fun k => s.src f.b + BitVec.ofInt 64 (signedOf (tyWidth f.ty) (s.velem f.ty f.c k))

/-- The record of VAMO: its address, its mask, its operands and its offsets (R268). -/
def vamoRec (f : FmtA) (s : State) : OpRec :=
  vectorMemRec s (s.issuer.handle f.h.toNat) (s.src f.b) (maskOf s.issuer f.msk) [s.vsrc f.ty f.d, s.vsrc f.ty f.c]

/-- The result of VAMO: the old value of each element (R202). -/
def amoResult (w : Nat) (es : List Elem) (olds : List Nat) : Result :=
  .vec (ofElems w ((es.map (·.elem)).zip olds)).1 (ofElems w ((es.map (·.elem)).zip olds)).2

/-- What VAMO does where its checks pass, by its elements and the kind of its handle. -/
def amoDone (f : FmtA) (hd : Handle) (es : List Elem) (r : OpRec) : Act := fun s =>
  let w := tyWidth f.ty
  if es = [] then Act.seq (vectorLoad f.d w hd r es 10) (atomicDemote f) s
  else if hd.kind = .spad then
    let t := spadAtomics hd f.aop.toNat w 0 (es.map fun e => (e, s.velem f.ty f.d e.elem)) s
    t.1 ++ Act.seq (land r 10 (.v f.d.toNat) (amoResult w es t.2)) (Act.seq (atomicDemote f) (spadOrdered f)) (applyAll t.1 s)
  else startAccess s.cur.key r (.atomic f.aop (f.ty = 6#4)) hd.kind (layParts hd 0 es) (elemBytes w (s.vsrc f.ty f.d) es) []
    (effectiveScope s.issuer f.scope) (hd.kind = .global) (fun id => Act.seqs [pend r [.v f.d.toNat] (.access id), atomicMarks f id, atomicDemote f]) s

theorem opVamo_eq (f : FmtA) (s : State) : opVamo f s = checkedBy (atomicCheck s s.cur (s.issuer.handle f.h.toNat) (s.amoElems f))
    (.ok (amoDone f (s.issuer.handle f.h.toNat) (s.amoElems f) (vamoRec f s) s)) := by
  rw [amoDone, apply_ite Except.ok, apply_ite Except.ok]
  rfl

section
variable {f : FmtA} {hd : Handle} {es : List Elem} {r : OpRec} {s : State}

theorem amoDone_nothing (hes : es = []) : amoDone f hd es r s = Act.seq (vectorLoad f.d (tyWidth f.ty) hd r [] 10) (atomicDemote f) s := by
  rw [amoDone, if_pos hes, hes]

theorem amoDone_spad (hes : es ≠ []) (hk : hd.kind = .spad) : amoDone f hd es r s =
    let t := spadAtomics hd f.aop.toNat (tyWidth f.ty) 0 (es.map fun e => (e, s.velem f.ty f.d e.elem)) s
    t.1 ++ Act.seq (land r 10 (.v f.d.toNat) (amoResult (tyWidth f.ty) es t.2)) (Act.seq (atomicDemote f) (spadOrdered f)) (applyAll t.1 s) :=
  (if_neg hes).trans (if_pos hk)

theorem amoDone_away (hes : es ≠ []) (hk : hd.kind ≠ .spad) : amoDone f hd es r s =
    startAccess s.cur.key r (.atomic f.aop (f.ty = 6#4)) hd.kind (layParts hd 0 es) (elemBytes (tyWidth f.ty) (s.vsrc f.ty f.d) es) []
      (effectiveScope s.issuer f.scope) (hd.kind = .global)
      (fun id => Act.seqs [pend r [.v f.d.toNat] (.access id), atomicMarks f id, atomicDemote f]) s :=
  (if_neg hes).trans (if_neg hk)

end

/-! Where no element is active. -/

/-- The context of a vector load without elements: a result that writes nothing lands, or arrives (R136, log entry 51). -/
def Ctx.awaitsNothing (c : Ctx) (h : Handle) (r : OpRec) (n now : Nat) (d : Dest) : Ctx :=
  if h.v ∧ h.kind = .spad then c.withLanding ⟨r, now + n, d, .vec 0#1024 0#1024⟩
  else c.withPending r [d] (.value (now + 1) [.vec 0#1024 0#1024])

theorem Ctx.awaitsNothing_sysok (c : Ctx) (h : Handle) (r : OpRec) (n now : Nat) (d : Dest) : (c.awaitsNothing h r n now d).sysok = c.sysok := by
  rw [Ctx.awaitsNothing]
  split
  · rfl
  · exact (c.withPending_fields r [d] _).1

theorem applyAll_vectorLoad_nothing (d : OpName) (w : Nat) (h : Handle) (r : OpRec) (n : Nat) (s : State) :
    applyAll (vectorLoad d w h r [] n s) s = s.withIssuer (s.issuer.awaitsNothing h r n s.now (.v d.toNat)) := by
  have hown : h.ownSpad = true ↔ h.v ∧ h.kind = .spad := by rw [Handle.ownSpad, Bool.and_eq_true, decide_eq_true_iff]
  rw [vectorLoad, if_pos rfl, Ctx.awaitsNothing]
  by_cases hk : h.v ∧ h.kind = .spad
  · rw [if_pos (hown.mpr hk), if_pos hk]
    rfl
  · rw [if_neg (mt hown.mp hk), if_neg hk]
    rfl

theorem becomes_of_vectorLoad_demote {i : Instr} {s : State} (h : Issues i s) {op : SlotOp} (hx : exec i s = runOne i op s) {f : FmtA} {d : OpName}
    {w n : Nat} {hd : Handle} {r : OpRec}
    (ho : op (issuedAt i s) = .ok (Act.seq (vectorLoad d w hd r [] n) (atomicDemote f) (issuedAt i s))) :
    let c := s.issuer.awaitsNothing hd r n s.now (.v d.toNat)
    Becomes i s (s.withIssuer (if f.scope = 4#3 ∧ s.issuer.sysok = false then { c with scdem := true } else c)) := by
  intro c
  have ht := applyAll_drainDemote_withIssuer (issuedAt i s) c f.scope
  rw [← show applyAll (vectorLoad d w hd r [] n (issuedAt i s)) (issuedAt i s) = (issuedAt i s).withIssuer c from applyAll_vectorLoad_nothing ..,
    Ctx.demoted_eq (show c.sysok = s.issuer.sysok from Ctx.awaitsNothing_sysok ..), ← show atomicDemote f = drainDemote f.scope from rfl,
    ← applyAll_seq] at ht
  refine answers_of_ok h hx ho ?_ ?_ ?_ <;> rw [ht]
  · exact h.stores
  · exact h.trapped
  · exact ⟨rfl, rfl⟩

/-! What the atomics of the own scratchpad leave in memory, and what they land. -/

theorem oldWord_lt (s : State) (h : Handle) (k : Nat) (off : Word) (ty : BitVec 4) : oldWord s h ⟨k, off, tyBytes ty⟩ < 2 ^ tyWidth ty := by
  have hlt := leNat_lt (spadBytes s s.cur.key h ⟨k, off, tyBytes ty⟩)
  rwa [spadBytes, length_read, ← tyWidth_eq_eight_mul] at hlt

/-- The stores of atomics that each read what stands in memory. -/
def atomicStores (core : Nat) (h : Handle) (aop w cmp : Nat) (old : Elem → Nat) (l : List (Elem × Nat)) : List (Nat × Byte) :=
  l.flatMap fun x => atomicStore core h aop w cmp x (old x.1)

theorem map_fst_atomicStores (core : Nat) (h : Handle) (aop w cmp : Nat) (old : Elem → Nat) (l : List (Elem × Nat)) :
    (atomicStores core h aop w cmp old l).map (·.1) = reached core h (l.map (·.1)) := by
  induction l with
  | nil => rfl
  | cons x l ih =>
    have hown : (atomicStore core h aop w cmp x (old x.1)).map (·.1) = reached core h [x.1] := by
      rw [atomicStore, List.map_fst_zip]
      rw [reached_singleton, List.length_map, List.length_range, length_leBytes]
    rw [atomicStores, List.flatMap_cons, ← atomicStores, List.map_append, ih, hown, List.map_cons, ← reached_cons]

/-- Where no place is named twice, an element's word holds its new value. -/
theorem leNat_read_atomicStores {m : List Host.Cell} (wf : Memory.wf m = true) {core : Nat} {h : Handle} {aop w cmp : Nat} {old : Elem → Nat}
    {l : List (Elem × Nat)} (hnd : (reached core h (l.map (·.1))).Nodup) {x : Elem × Nat} (hx : x ∈ l) :
    leNat (Memory.read (storedAll m (atomicStores core h aop w cmp old l)) (spadPlace core (h.address x.1.off).toNat) x.1.len) =
      atomicNew aop w (old x.1) x.2 cmp % 2 ^ (8 * x.1.len) := by
  rw [← map_fst_atomicStores core h aop w cmp old] at hnd
  have hread := Tests.read_eq (storedAll m (atomicStores core h aop w cmp old l)) (spadPlace core (h.address x.1.off).toNat)
    (leBytes (atomicNew aop w (old x.1) x.2 cmp) x.1.len) fun b hb => get_storedAll_of_mem wf hnd (List.mem_flatMap.mpr ⟨x, hx, ?_⟩)
  · rw [length_leBytes] at hread
    rw [hread, leNat_leBytes, show (256 : Nat) = 2 ^ 8 from rfl, ← pow_mul]
  · have hlen := hb
    rw [length_leBytes] at hlen
    refine List.mem_of_getElem? (i := b) (List.getElem?_zip_eq_some.mpr ⟨?_, List.getElem?_eq_getElem hb⟩)
    rw [reached_singleton, List.getElem?_map, List.getElem?_range hlen]
    rfl

/-- Distinct keys with their values, where the values are found by the place of their key. -/
theorem zip_eq_map_getD {l r : List Nat} (hnd : l.Nodup) (h : r.length = l.length) : l.zip r = l.map fun k => (k, r.getD (l.idxOf k) 0) := by
  refine List.ext_getElem (by simp [h]) fun j hj hj' => ?_
  have hl : j < l.length := by simpa using hj'
  simp [hnd.idxOf_getElem j hl, h ▸ hl]

/-- What VAMO lands holds each active element's old value, in the order in which the atomics gave them (R202). -/
theorem holdsElems_amoResult {ty : BitVec 4} {m : MaskVal} {at_ : Nat → Word} {olds : List Nat} (h : olds.length = (elemsAt m ty at_).length) :
    ∃ x k, amoResult (tyWidth ty) (elemsAt m ty at_) olds = .vec x k ∧ HoldsElems (tyWidth ty) (elemCount ty) x k (fun k => m.getLsbD k = true)
      fun k => olds.getD ((activeElems m (elemCount ty)).idxOf k) 0 := by
  have hnd := nodup_activeElems m (elemCount ty)
  have hlen : olds.length = (activeElems m (elemCount ty)).length := h.trans (List.length_map _)
  refine ⟨_, _, rfl, ?_⟩
  rw [map_elem_elemsAt, zip_eq_map_getD hnd hlen]
  refine holdsElems_ofElems (tyWidth_mul_elemCount_le ty) hnd (fun k hk => ?_) fun _ _ => rfl
  rw [mem_activeElems]
  exact and_iff_right hk

theorem getD_idxOf_elemsAt {m : MaskVal} {ty : BitVec 4} {at_ : Nat → Word} {k : Nat} (h : k ∈ activeElems m (elemCount ty)) (g : Elem → Nat) :
    ((elemsAt m ty at_).map g).getD ((activeElems m (elemCount ty)).idxOf k) 0 = g ⟨k, at_ k, tyBytes ty⟩ := by
  have hlt := List.idxOf_lt_length_of_mem h
  simp [elemsAt, hlt]

/-- Settles O23: VAMO by its checks, its elements and the kind of its handle. -/
theorem vectorAtomics : Obligations.VectorAtomics := by
  intro f s h hd w i at_ es align check free demoted
  have hx : exec (.vamo f) s = runOne (.vamo f) (opVamo f) s := rfl
  obtain ⟨r, hr, ho⟩ : ∃ r : OpRec, r.isOf (.vamo f) s ∧
      opVamo f (issuedAt (.vamo f) s) = checkedBy check (.ok (amoDone f hd es r (issuedAt (.vamo f) s))) :=
    ⟨vamoRec f (issuedAt (.vamo f) s), opRec_isOf (.vamo f) s, opVamo_eq f (issuedAt (.vamo f) s)⟩
  have hdone (hc : check = none) := checkedBy_of_free ho hc
  refine ⟨fun tr hc => traps_of_error h hx (checkedBy_of_trap ho hc), fun hes => ⟨r, hr, ?nothing⟩, fun hfree hk wf => ?spad,
    fun hfree hk => ⟨r, hr, ?away⟩⟩
  case nothing =>
    have hc : check = none := by
      simp only [check, hes]
      rfl
    exact becomes_of_vectorLoad_demote h hx ((hdone hc).trans (congrArg Except.ok (amoDone_nothing hes)))
  case spad =>
    obtain ⟨st, olds, hlen, hplaces, hvals, t, ht, honly⟩ := answers_of_spadAtomics h hx (f := f) (v := amoResult (tyWidth f.ty) es)
      ((hdone hfree.2).trans (congrArg Except.ok (amoDone_spad hfree.1 hk)))
    have hes : (es.map fun e => (e, (issuedAt (.vamo f) s).velem f.ty f.d e.elem)).map (·.1) = es := by rw [List.map_map]; exact List.map_id es
    rw [List.length_map] at hlen
    rw [hes] at hplaces hvals
    obtain ⟨x, m, hres, helems⟩ := holdsElems_amoResult (m := maskOf s.issuer f.msk) (at_ := at_) hlen
    have hmem : t.mem = storedAll s.mem st := by rw [honly.1]; rfl
    have hissuer : t.issuer = _ := honly.issuer.trans (State.withIssuer_issuer { s with mem := storedAll s.mem st, free := s.free + f.ord.toNat } _)
    refine ⟨t, ht, fun a ha => ?frame, ?only, r, x, m, hr, ?issuer, fun k hkn => ?elements⟩
    case frame =>
      rw [hmem]
      exact get_storedAll_of_not_mem wf fun h => ha (hplaces a h)
    case only => rw [hissuer, hmem]; exact honly
    case issuer =>
      rw [hissuer, show amoResult (tyWidth f.ty) es olds = .vec x m from hres]
      exact Ctx.demoted_eq (d := s.issuer) (by rfl) _
    case elements =>
      obtain ⟨hin, hout⟩ := helems k hkn
      have hactive := s.active_iff f.msk (hkn.trans_le (elemCount_le f.ty))
      refine ⟨fun hk => hout (mt hactive.mpr hk), fun hk => (hin (hactive.mp hk)).2, fun hnd hk => ?_⟩
      obtain ⟨holds, hst⟩ := hvals hnd
      have hmemk : k ∈ activeElems (maskOf s.issuer f.msk) (elemCount f.ty) := mem_activeElems.mpr ⟨hkn, hactive.mp hk⟩
      have hold : olds.getD ((activeElems (maskOf s.issuer f.msk) (elemCount f.ty)).idxOf k) 0 = oldWord s hd ⟨k, at_ k, tyBytes f.ty⟩ := by
        rw [holds, List.map_map]
        exact getD_idxOf_elemsAt hmemk (oldWord s hd)
      refine ⟨(hin (hactive.mp hk)).1.trans ((congrArg (· % 2 ^ tyWidth f.ty) hold).trans (Nat.mod_eq_of_lt (oldWord_lt ..))), ?_⟩
      have hnew := leNat_read_atomicStores wf (core := coreOf s.cur.key) (h := hd) (aop := f.aop.toNat) (w := tyWidth f.ty) (cmp := 0)
        (old := oldWord s hd) (l := es.map fun e => (e, s.velem f.ty f.d e.elem)) (hes.symm ▸ hnd)
        (List.mem_map.mpr ⟨⟨k, at_ k, tyBytes f.ty⟩, List.mem_map.mpr ⟨k, hmemk, rfl⟩, rfl⟩)
      rw [← tyWidth_eq_eight_mul] at hnew
      rw [hmem, hst]
      exact hnew
  case away =>
    have hb := becomes_of_atomicAccess h hx ((hdone hfree.2).trans (congrArg Except.ok (amoDone_away hfree.1 hk)))
    rw [elemBytes_eq (es := es) (n := tyWidth f.ty / 8) fun e he => len_of_mem_elemsAt (m := maskOf s.issuer f.msk) (at_ := at_) he] at hb
    exact hb

end Sys2Proof.Machine
end

section
/-!
The copy operations as they issue (R185 to R192): their descriptors, their traps and their acceptance.
-/
namespace Sys2Proof.Machine

theorem exec_copyInstr (form : CopyForm) (at_ : Bool) (f : FmtC) (s : State) :
    exec (copyInstr form at_ f) s = runOne (copyInstr form at_ f) (copyOp form at_ f) s := by
  cases form <;> cases at_ <;> rfl

/-! Descriptors (R187, R188). -/

theorem CopyForm.isIndexed_iff (form : CopyForm) : form.isIndexed = true ↔ form = .cgath ∨ form = .cscat := by
  cases form <;> decide

theorem flat_iff (form : CopyForm) :
    (decide (form = .cpy) || decide (form = .cfill) || form.isRed) = true ↔ form = .cpy ∨ form = .cfill ∨ form.isRed = true := by
  rw [Bool.or_eq_true, Bool.or_eq_true, decide_eq_true_iff, decide_eq_true_iff, or_assoc]

theorem copyDescriptors : Clause.CopyDescriptors := by
  intro form at_ d0 d1 d2 d3 len0 n1 n2 flat list w0 w1 w2 w3 w4
  have hflat := flat_iff form
  have hlist := form.isIndexed_iff
  unfold descFault
  dsimp only
  generalize (decide (form = .cpy) || decide (form = .cfill) || form.isRed) = linear at hflat ⊢
  generalize form.isIndexed = indexed at hlist ⊢
  have h0 : (decide (len0 = 0) || decide (n1 = 0) || decide (n2 = 0) || (linear && decide (n1 ≠ 1)) || (decide (form ≠ .cpy3) && decide (n2 ≠ 1)) ||
      decide (2 ^ 32 ≤ len0 * n1 * n2) || decide (len0 * n1 * n2 % form.elem ≠ 0)) = true ↔ ¬ w0 := by
    simp only [w0, Bool.or_eq_true, Bool.and_eq_true, decide_eq_true_iff, hflat, not_and_or, Classical.not_imp, ne_eq, not_not, not_lt, or_assoc, flat]
  have h1 : (linear && decide (d1 ≠ 0#64)) = true ↔ ¬ w1 := by
    simp only [w1, flat, Bool.and_eq_true, decide_eq_true_iff, hflat, Classical.not_imp, ne_eq]
  have h2 : (indexed && decide (d2.extractLsb' 32 32 ≠ 0#32) || !indexed && decide (form ≠ .cpy3) && decide (d2 ≠ 0#64)) = true ↔ ¬ w2 := by
    simp only [w2, list, Bool.or_eq_true, Bool.and_eq_true, Bool.not_eq_true', ← Bool.not_eq_true, decide_eq_true_iff, hlist, not_and_or,
      Classical.not_imp, ne_eq, and_assoc]
  have h3 : (!at_ && decide (d3 ≠ 0#64)) = true ↔ ¬ w3 := by
    simp only [w3, Bool.and_eq_true, Bool.not_eq_true', decide_eq_true_iff, Classical.not_imp, ne_eq]
  have h4 : (indexed && decide (programArea < (d1.extractLsb' 0 32).toNat + 4 * n1)) = true ↔ ¬ w4 := by
    simp only [w4, list, Bool.and_eq_true, decide_eq_true_iff, hlist, Classical.not_imp, not_le]
    exact Iff.rfl
  have hkeep {b : Bool} {w : Prop} (h : b = true ↔ ¬ w) (hw : w) {x y : Option Nat} : (if b = true then x else y) = y := if_neg fun hb => h.mp hb hw
  refine ⟨fun hw => if_pos (h0.mpr hw), fun hw hw1 => (hkeep h0 hw).trans (if_pos (h1.mpr hw1)),
    fun hw hw1 hw2 => (hkeep h0 hw).trans ((hkeep h1 hw1).trans (if_pos (h2.mpr hw2))),
    fun hw hw1 hw2 hw3 => (hkeep h0 hw).trans ((hkeep h1 hw1).trans ((hkeep h2 hw2).trans (if_pos (h3.mpr hw3)))),
    fun hw hw1 hw2 hw3 hw4 => (hkeep h0 hw).trans ((hkeep h1 hw1).trans ((hkeep h2 hw2).trans ((hkeep h3 hw3).trans (if_pos (h4.mpr hw4))))),
    fun hw hw1 hw2 hw3 hw4 => (hkeep h0 hw).trans ((hkeep h1 hw1).trans ((hkeep h2 hw2).trans ((hkeep h3 hw3).trans (hkeep h4 hw4))))⟩

/-! The shape of a copy (R185, R187, R188). -/

section
variable (form : CopyForm) (at_ : Bool) (f : FmtC) (s : State)

/-- The place of the descriptor of a copy in the own scratchpad, after its stepping (R63). -/
def copyDesc : Nat := (s.src f.len + BitVec.ofNat 64 (32 * (if f.cstep = 1#1 then s.cur.step.toNat else 0))).toNat

/-- A word of the descriptor of a copy. -/
def copyDescWord (k : Nat) : Word := BitVec.ofNat 64 (leNat (Memory.read s.mem (spadPlace (coreOf s.cur.key) (copyDesc f s + 8 * k)) 8))

/-- An offset of a copy that is no multiple of the element (R190). -/
def copyOdd (doff soff : Word) : Prop := doff.toNat % form.elem ≠ 0 ∨ (form ≠ .cfill ∧ soff.toNat % form.elem ≠ 0)

/-- The length operand or the descriptor's place breaks its rule, or an offset does (R188, R190). -/
def copyBad (doff soff : Word) : Prop := copyOdd form doff soff ∨ if isLinear form at_ then
  2 ^ 32 ≤ (s.src f.len).toNat ∨ (s.src f.len).toNat % form.elem ≠ 0 else copyDesc f s % 8 ≠ 0 ∨ programArea < copyDesc f s + 32

/-- The word of the descriptor that breaks its rule. -/
def copyFault : Option Nat := if isLinear form at_ then none
  else descFault form at_ (copyDescWord f s 0) (copyDescWord f s 1) (copyDescWord f s 2) (copyDescWord f s 3)

/-- The shape that the length operand or the descriptor gives. -/
def shapeOf : Shape := if isLinear form at_ then { len0 := (s.src f.len).toNat }
  else descShape (copyDescWord f s 0) (copyDescWord f s 1) (copyDescWord f s 2) (copyDescWord f s 3)

variable {form at_ f s} {doff soff : Word}

theorem copyOdd_iff : (decide (doff.toNat % form.elem ≠ 0) || (decide (form ≠ .cfill) && decide (soff.toNat % form.elem ≠ 0))) = true ↔
    copyOdd form doff soff := by
  simp only [copyOdd, Bool.or_eq_true, Bool.and_eq_true, decide_eq_true_iff]

theorem descWords_getD (m : List Host.Cell) (core desc : Nat) {k : Nat} (hk : k < 4) :
    (descWords m core desc).getD k 0#64 = BitVec.ofNat 64 (leNat (Memory.read m (spadPlace core (desc + 8 * k)) 8)) := by
  rw [descWords, List.getD_eq_getElem?_getD, List.getElem?_map, List.getElem?_range hk]
  rfl

theorem copyBad_linear (hl : isLinear form at_ = true) : copyBad form at_ f s doff soff ↔ 2 ^ 32 ≤ (s.src f.len).toNat ∨
    (s.src f.len).toNat % form.elem ≠ 0 ∨
    (decide (doff.toNat % form.elem ≠ 0) || (decide (form ≠ .cfill) && decide (soff.toNat % form.elem ≠ 0))) = true := by
  rw [copyBad, if_pos hl, copyOdd_iff, or_comm, or_assoc]

theorem copyShape_of_bad (h : copyBad form at_ f s doff soff) : copyShape s form at_ f doff soff = .error 0 := by
  unfold copyShape
  by_cases hl : isLinear form at_ = true
  · exact (if_pos hl).trans (if_pos ((copyBad_linear hl).mp h))
  · refine (if_neg hl).trans ?_
    by_cases hd : copyDesc f s % 8 ≠ 0 ∨ programArea < copyDesc f s + 32
    · exact if_pos hd
    · refine (if_neg hd).trans (if_pos (copyOdd_iff.mpr ?_))
      rw [copyBad, if_neg hl] at h
      exact h.resolve_right hd

theorem copyDesc_eq : (readS (s.ctx s.cur.key) s.cur f.len + BitVec.ofNat 64 (32 * if f.cstep = 1#1 then s.cur.step.toNat else 0)).toNat =
    copyDesc f s := rfl

/-- A copy with a descriptor of sound place and offsets has what its four words give. -/
theorem copyShape_of_descriptor (hl : ¬ isLinear form at_ = true) (h : ¬ copyBad form at_ f s doff soff) : copyShape s form at_ f doff soff =
    (copyFault form at_ f s).elim (.ok (shapeOf form at_ f s, descWords s.mem (coreOf s.cur.key) (copyDesc f s))) .error := by
  rw [copyBad, if_neg hl, not_or] at h
  obtain ⟨ho, hd⟩ := h
  have hw {k : Nat} (hk : k < 4) : (descWords s.mem (coreOf s.cur.key) (copyDesc f s)).getD k 0#64 = copyDescWord f s k := descWords_getD _ _ _ hk
  rw [copyFault, if_neg hl, shapeOf, if_neg hl]
  unfold copyShape
  dsimp only
  refine (if_neg hl).trans ((if_neg hd).trans ((if_neg (mt copyOdd_iff.mp ho)).trans ?_))
  rw [copyDesc_eq, hw (by decide), hw (by decide), hw (by decide), hw (by decide)]
  cases descFault form at_ (copyDescWord f s 0) (copyDescWord f s 1) (copyDescWord f s 2) (copyDescWord f s 3) <;> rfl

theorem copyShape_of_fault (h : ¬ copyBad form at_ f s doff soff) {k : Nat} (hk : copyFault form at_ f s = some k) :
    copyShape s form at_ f doff soff = .error k := by
  have hl : ¬ isLinear form at_ = true := fun hl => by rw [copyFault, if_pos hl] at hk; cases hk
  rw [copyShape_of_descriptor hl h, hk]
  rfl

theorem copyShape_of_sound (h : ¬ copyBad form at_ f s doff soff) (hk : copyFault form at_ f s = none) :
    ∃ w, copyShape s form at_ f doff soff = .ok (shapeOf form at_ f s, w) := by
  by_cases hl : isLinear form at_ = true
  · refine ⟨[], ?_⟩
    rw [shapeOf, if_pos hl]
    unfold copyShape
    exact (if_pos hl).trans (if_neg (mt (copyBad_linear hl).mpr h))
  · exact ⟨_, by rw [copyShape_of_descriptor hl h, hk]; rfl⟩

end

/-! Acceptance (R185, R186, R189 to R191, R194). -/

section
variable (form : CopyForm) (at_ : Bool) (f : FmtC) (s : State) (sh : Shape) (w : List Word)

/-- The handle of a copy's source: a fill has none (R189). -/
def srcHandle : Handle := if form = .cfill then {} else s.issuer.handle f.sh.toNat

/-- The offsets of an index list, where the form has one (R189). -/
def copyIndex : List Int := if form.isIndexed then indexList s.mem (coreOf s.cur.key) sh else []

/-- The trap of the handles of a copy that moves bytes (R186, R189). -/
def handlesTrap : Option Trap := if sh.len0 * sh.n1 * sh.n2 = 0 then none else
  copyHandleTrap s.cur form sh (s.issuer.handle f.dh.toNat) (srcHandle form f s) (copyOffsets s form at_ f).1.toInt (copyOffsets s form at_ f).2.toInt

/-- The trap of the window of a walk, for a copy that moves bytes (R296, R301). -/
def copyWindowTrap : Option Trap := if sh.len0 * sh.n1 * sh.n2 = 0 then none else
  copyWalkTrap s.issuer s.cur form sh (copyIndex form s sh) (s.issuer.handle f.dh.toNat) (srcHandle form f s)
    (copyOffsets s form at_ f).1.toInt (copyOffsets s form at_ f).2.toInt

/-- The trap of a copy's barrier (R194). -/
def copyBarrierTrap : Option Trap :=
  if f.ben = 1#1 && !barrierClaimed s.issuer f.bar.toNat then some (barrierTrap s.cur f.bar.toNat) else none

/-- The record of a copy's operation with its captures (R334). -/
def copyOpRec : OpRec := { opRec s with
  ca := (s.issuer.handle f.dh.toNat).address (copyOffsets s form at_ f).1,
  cb := (if form = .cfill then (copyOffsets s form at_ f).2 else (srcHandle form f s).address (copyOffsets s form at_ f).2),
  cc := BitVec.ofNat 64 (sh.len0 * sh.n1 * sh.n2), hka := (s.issuer.handle f.dh.toNat).kind.bits, hkb := (srcHandle form f s).kind.bits,
  prma := (s.issuer.handle f.dh.toNat).perm, prmb := (srcHandle form f s).perm }

/-- The copy that the engine accepts, read from the issue and the state of its acceptance (R185 to R191). -/
def acceptedCopy (u : State) : Copy :=
  let hd := s.issuer.handle f.dh.toNat
  let hs := srcHandle form f s
  let o := copyOffsets s form at_ f
  { key := s.cur.key, cid := s.issuer.cid, op := copyOpRec form at_ f s sh, engine := engineOf (coreOf s.cur.key) s.cur.slot, form := form,
    dk := hd.kind, sk := hs.kind, dst := (hd.address o.1).toNat, src := (hs.address o.2).toNat, dbound := sideBound hd [1],
    sbound := sideBound hs [0], dbase := hd.base.toNat, sbase := hs.base.toNat, tgt := hd.tgt, fill := o.2, len0 := sh.len0, n1 := sh.n1,
    n2 := sh.n2, d1 := sh.d1, s1 := sh.s1, d2 := sh.d2, s2 := sh.s2, idx := copyIndex form s sh, desc := w, tok := f.tok.toNat,
    bar := if f.ben = 1#1 then some f.bar.toNat else none, launch := if at_ then some (max sh.t (u.now + 1)) else none, launched := !at_,
    patha := (u.quarter (partOf u.pkg (coreOf s.cur.key))).patha, pathb := (u.quarter (partOf u.pkg (coreOf s.cur.key))).pathb,
    ready := u.now + 1 + Config.freeNat u.free, after := (heldBehind s.issuer true).map (·.id),
    phase := if s.issuer.phase.held then some s.issuer.phase.number else none }

/-- The engine accepts a copy: it is under way, its token is empty, and the engine has accepted in this cycle (R185, R188). -/
def acceptCopy : Act := withId fun id => Act.seqs
  [fun u => [.free, .copy id (some (acceptedCopy form at_ f s sh w u))],
   modCtx s.cur.key fun c => (logCopy c (copyOpRec form at_ f s sh) w).markEmpty (copyOpRec form at_ f s sh).order (.s f.tok.toNat),
   fun u => [.engine (engineOf (coreOf s.cur.key) s.cur.slot)
     { u.engine (engineOf (coreOf s.cur.key) s.cur.slot) with last := coreOf s.cur.key % 8, acceptedAt := some u.now }]]

variable {form at_ f s sh w}

theorem copyOp_of_shapeError {k : Nat} (h : copyShape s form at_ f (copyOffsets s form at_ f).1 (copyOffsets s form at_ f).2 = .error k) :
    copyOp form at_ f s = .error (copyDescTrap s.cur k) := by
  unfold copyOp
  dsimp only
  rw [h]

/-- A copy of sound shape has the traps of its handles, of its barrier and of its walk, in this order; else the engine accepts it. -/
theorem copyOp_of_shape (h : copyShape s form at_ f (copyOffsets s form at_ f).1 (copyOffsets s form at_ f).2 = .ok (sh, w)) :
    copyOp form at_ f s = checkedBy (handlesTrap form at_ f s sh) (checkedBy (copyBarrierTrap f s) (checkedBy (copyWindowTrap form at_ f s sh)
      (.ok (acceptCopy form at_ f s sh w s)))) := by
  unfold copyOp
  dsimp only
  rw [h]
  change (match handlesTrap form at_ f s sh with
    | some t => Except.error t
    | none => if (f.ben = 1#1 && !barrierClaimed s.issuer f.bar.toNat) then .error (barrierTrap s.cur f.bar.toNat)
      else match copyWindowTrap form at_ f s sh with
        | some t => .error t
        | none => .ok (acceptCopy form at_ f s sh w s)) = _
  cases handlesTrap form at_ f s sh with
  | some t => rfl
  | none =>
    by_cases hb : (f.ben = 1#1 && !barrierClaimed s.issuer f.bar.toNat) = true
    · rw [copyBarrierTrap, if_pos hb, if_pos hb]
      rfl
    · rw [copyBarrierTrap, if_neg hb, if_neg hb]
      cases copyWindowTrap form at_ f s sh <;> rfl

/-- A copy needs no barrier, or its image claims it (R194). -/
def BarrierSound (f : FmtC) (s : State) : Prop :=
  f.ben = 0#1 ∨ (s.issuer.barFirst ≤ f.bar.toNat ∧ f.bar.toNat < s.issuer.barFirst + s.issuer.barCount)

theorem copyBarrierTrap_cond : (f.ben = 1#1 && !barrierClaimed s.issuer f.bar.toNat) = true ↔ ¬ BarrierSound f s := by
  have hben : f.ben = 1#1 ↔ ¬ f.ben = 0#1 := by
    have := f.ben.isLt
    constructor <;> intro h <;> bv_omega
  rw [BarrierSound, not_or, Bool.and_eq_true, decide_eq_true_iff, hben, Bool.not_eq_true', barrierClaimed, ← Bool.not_eq_true, Bool.and_eq_true,
    decide_eq_true_iff, decide_eq_true_iff]

theorem copyBarrierTrap_of_sound (h : BarrierSound f s) : copyBarrierTrap f s = none := if_neg fun hc => copyBarrierTrap_cond.mp hc h

theorem copyBarrierTrap_of_unsound (h : ¬ BarrierSound f s) : copyBarrierTrap f s = some (barrierTrap s.cur f.bar.toNat) :=
  if_pos (copyBarrierTrap_cond.mpr h)

/-- The engine of a copy after its acceptance (R185). -/
def acceptingEngine (s : State) : Engine :=
  { s.engine (engineOf (coreOf s.cur.key) s.cur.slot) with last := coreOf s.cur.key % 8, acceptedAt := some s.now }

theorem applyAll_acceptCopy : applyAll (acceptCopy form at_ f s sh w s) s =
    { s with nextId := s.nextId + 1, free := s.free + 1,
             copies := s.copies.set s.nextId (acceptedCopy form at_ f s sh w { s with nextId := s.nextId + 1 }),
             engines := s.engines.set (engineOf (coreOf s.cur.key) s.cur.slot) (acceptingEngine s) }.withIssuer
      ((logCopy s.issuer (copyOpRec form at_ f s sh) w).markEmpty (copyOpRec form at_ f s sh).order (.s f.tok.toNat)) := rfl

end

theorem copies : Clause.Copies := by
  intro form at_ f s i core hd hs len adv doff soff desc w odd bad0 fault sh total idx ht wt bar claimed e descTrap h
  have hx : exec i s = runOne i (copyOp form at_ f) s := exec_copyInstr form at_ f s
  have ho : copyOffsets (issuedAt i s) form at_ f = (doff, soff) := rfl
  have hbad : bad0 ↔ copyBad form at_ f (issuedAt i s) doff soff := by
    rw [copyBad]
    refine or_congr Iff.rfl ?_
    by_cases hl : isLinear form at_ = true
    · rw [if_pos hl, if_pos hl]
      exact Iff.rfl
    · rw [if_neg hl, if_neg hl]
      exact or_congr Iff.rfl Iff.rfl
  refine ⟨fun hb => traps_of_error h hx (copyOp_of_shapeError (ho ▸ copyShape_of_bad (hbad.mp hb))),
    fun k hb hk => traps_of_error h hx (copyOp_of_shapeError (ho ▸ copyShape_of_fault (mt hbad.mpr hb) hk)), fun hb hk => ?_⟩
  obtain ⟨words, hwords⟩ : ∃ words, copyShape (issuedAt i s) form at_ f doff soff = .ok (sh, words) :=
    copyShape_of_sound (mt hbad.mpr hb) (show copyFault form at_ f (issuedAt i s) = none from hk)
  clear_value sh
  have hop := copyOp_of_shape (s := issuedAt i s) hwords
  have hht : handlesTrap form at_ f (issuedAt i s) sh = ht := rfl
  have hwt : copyWindowTrap form at_ f (issuedAt i s) sh = wt := rfl
  refine ⟨fun tr htr => traps_of_error h hx (checkedBy_of_trap hop (hht.trans htr)), fun hfree hc => ?_, fun tr hfree hc htr => ?_, fun hfree hc hw => ?_⟩
  · exact traps_of_error h hx (checkedBy_of_trap (checkedBy_of_free hop (hht.trans hfree)) (copyBarrierTrap_of_unsound hc))
  · have hbarred := checkedBy_of_free (checkedBy_of_free hop (hht.trans hfree)) (copyBarrierTrap_of_sound hc)
    exact traps_of_error h hx (checkedBy_of_trap hbarred (hwt.trans htr))
  · have hbarred := checkedBy_of_free (checkedBy_of_free hop (hht.trans hfree)) (copyBarrierTrap_of_sound hc)
    have hact := checkedBy_of_free hbarred (hwt.trans hw)
    refine ⟨acceptedCopy form at_ f (issuedAt i s) sh words { issuedAt i s with nextId := s.nextId + 1 }, rfl, rfl, opRec_isOf i s, rfl, rfl, rfl, rfl,
      rfl, rfl, rfl, rfl, rfl, rfl, rfl, rfl, rfl, rfl, rfl, rfl, rfl, rfl, rfl, rfl, rfl, rfl, ?_, ?_⟩
    · change s.now + 1 ≤ s.now + 1 + _
      exact Nat.le_add_right _ _
    · have ht := applyAll_acceptCopy (form := form) (at_ := at_) (f := f) (s := issuedAt i s) (sh := sh) (w := words)
      refine answers_of_ok h hx hact ?_ ?_ ?_ <;> rw [ht]
      · exact h.stores
      · exact h.trapped
      · exact ⟨rfl, rfl⟩

/-- Settles O27: the descriptor's rules are judged word by word, lowest first; a copy of sound shape meets its three traps in the order of the
clause, and else its acceptance is one act on the context, the copies and the engine. -/
theorem copyInstructions : Obligations.CopyInstructions := ⟨copyDescriptors, copies⟩

end Sys2Proof.Machine
end

section
/-!
The copy engines at work: launches, beats and completions of copies (R189 to R193), multicast landings (R91) and acknowledgements (R255).
-/
namespace Sys2Proof.Machine

theorem copyLaunches : Clause.CopyLaunches := by
  intro id at_ s c hfind hlaunch hwaits hnow
  have hact : launchCopy id s = [.copy id (some { c with launched := true, ready := s.now })] := by
    unfold launchCopy
    rw [hfind]
    dsimp only
    rw [hlaunch]
    dsimp only
    rw [hwaits, decide_eq_true hnow]
    rfl
  exact congrArg (fun e => Host.Outcome.next (applyAll e s)) hact

/-! Acknowledgements (R255). -/

/-- An operation under way that waits for an access has its value from the next cycle on (R255). -/
def Pending.given (id now : Nat) (data : List Byte) (p : Pending) : Pending :=
  if p.src = .access id then { p with src := .value (now + 1) (accessVals p.op data) } else p

theorem Pending.given_fields (id now : Nat) (data : List Byte) (p : Pending) : (p.given id now data).op = p.op ∧ (p.given id now data).dests = p.dests ∧
    (p.given id now data).src = if p.src = .access id then .value (now + 1) (accessVals p.op data) else p.src := by
  unfold Pending.given
  split <;> exact ⟨rfl, rfl, rfl⟩

theorem storeAcknowledgements : Clause.StoreAcknowledgements := by
  intro id s a hfind hbuffered hparts hack
  have hdue : ackDue s id = true := by
    rw [ackDue, hfind]
    simp only [hbuffered, Bool.true_and, Bool.and_eq_true, List.all_eq_true, decide_eq_true_iff]
    exact ⟨hparts, hack⟩
  have hact : acknowledge id s = if a.faulted.isSome then [.acc id (some { a with buffered := false })] else
      [.acc id none] ++ modCtx a.key (fun c => { c with pending := c.pending.map (Pending.given id s.now a.data) }) s := by
    unfold acknowledge
    rw [hfind]
    dsimp only
    rw [hdue]
    rfl
  refine ⟨fun hfault => ?_, fun hfault => ?_⟩
  · rw [if_pos (Option.isSome_iff_ne_none.mpr hfault)] at hact
    exact congrArg (fun e => Host.Outcome.next (applyAll e s)) hact
  · rw [hfault, if_neg (by simp)] at hact
    set d : Ctx := { s.ctx a.key with pending := (s.ctx a.key).pending.map (Pending.given id s.now a.data) } with hd
    set t : State := { s with accs := s.accs.erase id, ctxs := s.ctxs.set a.key d } with ht
    have hexec : exec (.storeAcknowledge id) s = .next t := congrArg (fun e => Host.Outcome.next (applyAll e s)) hact
    have hctx : t.ctx a.key = d := State.ctx_set { s with accs := s.accs.erase id } a.key d
    refine ⟨t, hexec, ?_⟩
    beta_reduce
    rw [hctx]
    refine ⟨rfl, List.length_map _, fun k p hp => ⟨p.given id s.now a.data, ?_, Pending.given_fields id s.now a.data p⟩⟩
    rw [hd, List.getElem?_map, hp]
    rfl

/-! What a part of a meaning leaves alone. -/

/-- Wherever a part of a meaning starts, it leaves what a view shows of the state. -/
def Act.Leaves {α : Type} (p : State → α) (f : Act) : Prop := ∀ s, p (applyAll (f s) s) = p s

section
variable {α : Type} {p : State → α}

theorem Act.Leaves.of_keeps {f : Act} (h : ∀ s, Keeps p (f s)) : Act.Leaves p f := fun s => (h s).applyAll s

theorem Act.Leaves.seq {f g : Act} (hf : Act.Leaves p f) (hg : Act.Leaves p g) : Act.Leaves p (Act.seq f g) := fun s => by
  rw [applyAll_seq, hg, hf]

theorem Act.Leaves.when {f : Act} (h : Act.Leaves p f) (b : Bool) : Act.Leaves p (Act.when b f) := fun s => by
  cases b
  · rfl
  · exact h s

theorem Act.Leaves.seqs {l : List Act} (h : ∀ f ∈ l, Act.Leaves p f) : Act.Leaves p (Act.seqs l) := by
  induction l with
  | nil => exact fun _ => rfl
  | cons f r ih => exact (h f List.mem_cons_self).seq (ih fun g hg => h g (List.mem_cons_of_mem _ hg))

theorem Act.Leaves.each {β : Type} {l : List β} {f : β → Act} (h : ∀ x ∈ l, Act.Leaves p (f x)) : Act.Leaves p (Act.each l f) :=
  .seqs (List.forall_mem_map.mpr h)

end

/-! Multicast landings (R91). -/

/-- The state beyond memory, the cores and the copies, and the cores beyond their vector data caches. -/
def beyondLanding (s : State) : State × (Nat → Core) := ({ s with mem := [], cores := [], copies := [] }, fun c => { s.core c with vcache := [] })

theorem beyondLanding_modCore (core : Nat) {f : Core → Core} (h : ∀ x, { f x with vcache := [] } = { x with vcache := [] }) :
    Act.Leaves beyondLanding (modCore core f) := by
  intro s
  refine Prod.ext rfl (funext fun c => ?_)
  by_cases hc : core = c
  · subst hc
    exact (congrArg (fun x : Core => { x with vcache := [] }) (State.core_set s core _)).trans (h _)
  · exact congrArg (fun x : Core => { x with vcache := [] }) (State.core_set_ne s _ hc)

theorem beyondLanding_writeThrough (core : Nat) (cid : BitVec 8) (window : Bool) (va : Nat) (bytes : List Byte) :
    Act.Leaves beyondLanding (writeThrough core cid window va bytes) := by
  intro s
  unfold writeThrough
  dsimp only
  by_cases hhit : ((s.core core).vcache.any fun l => l.holds (if window = true then l.cid else cid) window va bytes.length) = true
  · rw [if_pos hhit]
    refine beyondLanding_modCore core ?_ s
    exact fun _ => rfl
  · rw [if_neg hhit]
    rfl

theorem beyondLanding_landMcast (m : Mcast) : Act.Leaves beyondLanding (landMcast m) :=
  .each fun _ _ => .each fun _ _ => .seq (fun _ => rfl) (.when (beyondLanding_writeThrough _ _ _ _ _) _)

theorem beyondLanding_keepSources (core : Nat) (earlier : Copy → Bool) (places : List Nat) : Act.Leaves beyondLanding (keepSources core earlier places) :=
  .of_keeps fun _ => .map fun _ _ => rfl

/-- A state that agrees beyond landings is another but for memory, the copies and the vector data caches. -/
theorem eq_of_beyondLanding {s t : State} (h : beyondLanding t = beyondLanding s) :
    t = { s with mem := t.mem, cores := t.cores, copies := t.copies } ∧ ∀ c, t.core c = { s.core c with vcache := (t.core c).vcache } := by
  obtain ⟨hs, hc⟩ := Prod.ext_iff.mp h
  exact ⟨congrArg (fun x : State => { x with mem := t.mem, cores := t.cores, copies := t.copies }) hs,
    fun c => congrArg (fun x : Core => { x with vcache := (t.core c).vcache }) (congrFun hc c)⟩

/-- The stores of a multicast landing, each of one byte at a place (R91, log entry 46). -/
def landStores (m : Mcast) : List (Nat × Byte) :=
  m.cores.flatMap fun c => (m.bytes.filter fun b => decide (spadPlace c b.1 ∉ m.kept)).map fun b => (spadPlace c b.1, b.2)

theorem storedAll_append (m : List Host.Cell) (l r : List (Nat × Byte)) : storedAll m (l ++ r) = storedAll (storedAll m l) r := List.foldl_append ..

/-- Parts that store one after another store all of theirs. -/
theorem mem_applyAll_each {β : Type} {f : β → Act} {g : β → List (Nat × Byte)} (h : ∀ x s, (applyAll (f x s) s).mem = storedAll s.mem (g x))
    (l : List β) (s : State) : (applyAll (Act.each l f s) s).mem = storedAll s.mem (l.flatMap g) := by
  induction l generalizing s with
  | nil => rfl
  | cons x r ih =>
    rw [show Act.each (x :: r) f = Act.seq (f x) (Act.each r f) from rfl, applyAll_seq, ih, h, List.flatMap_cons, storedAll_append]

theorem mem_applyAll_landByte (m : Mcast) (c : Nat) (b : Nat × Byte) (s : State) :
    (applyAll (landByte m c b s) s).mem = storedAll s.mem [(spadPlace c b.1, b.2)] := by
  rw [landByte, applyAll_seq]
  exact ((keeps_writeThrough _ _ _ _ _ _).when _).comp (·.mem) |>.applyAll _

theorem mem_applyAll_landMcast (m : Mcast) (s : State) : (applyAll (landMcast m s) s).mem = storedAll s.mem (landStores m) := by
  refine mem_applyAll_each (fun c t => ?_) m.cores s
  rw [List.map_eq_flatMap]
  exact mem_applyAll_each (mem_applyAll_landByte m c) _ t

/-- The places of a multicast landing, with those of kept atomics (R91). -/
def landPlaces (m : Mcast) : List Nat := m.cores.flatMap fun c => m.bytes.map fun b => spadPlace c b.1

theorem landStores_sublist (m : Mcast) : ((landStores m).map (·.1)).Sublist (landPlaces m) := by
  rw [landStores, List.map_flatMap, landPlaces]
  refine List.Sublist.flatMap_right _ fun c _ => ?_
  rw [List.map_map]
  exact List.filter_sublist.map _

/-- What a landing does before it counts as landed: earlier copies keep their sources, and the bytes are stored (R91, R213). -/
def landing (m : Mcast) : Act := Act.seq (Act.when (decide (coreOf m.key ∈ m.cores)) (keepSources (coreOf m.key)
  (fun c => c.key = m.key && decide (c.op.ino ≤ m.op.ino)) (m.bytes.map fun b => spadPlace (coreOf m.key) b.1))) (landMcast m)

theorem beyondLanding_landing (m : Mcast) : Act.Leaves beyondLanding (landing m) :=
  .seq (.when (beyondLanding_keepSources _ _ _) _) (beyondLanding_landMcast m)

theorem mem_applyAll_landing (m : Mcast) (s : State) : (applyAll (landing m s) s).mem = storedAll s.mem (landStores m) := by
  rw [landing, applyAll_seq, mem_applyAll_landMcast]
  exact congrArg (storedAll · (landStores m)) ((((keeps_keepSources _ _ _ s).when _).comp (·.mem)).applyAll s)

theorem exec_mcastLanding_of_due {id : Nat} {s : State} {m : Mcast} (hfind : s.mcasts.find id = some m) (hdue : m.due ≤ s.now)
    (hlanded : m.landed = false) (hwaits : m.waits s id = false) : exec (.mcastLanding id) s = .next { applyAll (landing m s) s with
      mcasts := (applyAll (landing m s) s).mcasts.set id { m with landed := true } } := by
  have hact : mcastLanding id s = Act.seq (landing m) (fun _ => [.mcast id (some { m with landed := true })]) s := by
    unfold mcastLanding
    rw [hfind]
    dsimp only
    rw [if_pos ⟨hdue, by rw [hlanded]; rfl, by rw [hwaits]; rfl⟩, seqs_three]
    exact (Act.seq_assoc _ _ _ _).symm
  refine congrArg Host.Outcome.next ?_
  rw [hact, applyAll_seq]
  rfl

theorem multicastLandings : Clause.MulticastLandings := by
  intro id s m hfind hdue hlanded hwaits hwf places
  refine ⟨_, exec_mcastLanding_of_due hfind hdue hlanded hwaits, ?_⟩
  obtain ⟨hstate, hcores⟩ := eq_of_beyondLanding (beyondLanding_landing m s)
  have hmem := mem_applyAll_landing m s
  generalize applyAll (landing m s) s = u at hstate hcores hmem ⊢
  have hmcasts : u.mcasts = s.mcasts := by rw [hstate]
  refine ⟨?_, hcores, fun a ha => ?_, fun hnd c b hc hb hk => ?_⟩
  · rw [hmcasts]
    exact congrArg (fun x : State => { x with mcasts := s.mcasts.set id { m with landed := true } }) hstate
  · rw [hmem]
    exact get_storedAll_of_not_mem hwf fun h => ha ((landStores_sublist m).subset h)
  · rw [hmem]
    exact get_storedAll_of_mem hwf (hnd.sublist (landStores_sublist m)) (List.mem_flatMap.mpr ⟨c, hc, List.mem_map.mpr
      ⟨b, List.mem_filter.mpr ⟨hb, decide_eq_true hk⟩, rfl⟩⟩)

/-! The beats of a copy (R189, R190, R192). -/

/-- A state whose next free choice is made (log entry 2). -/
def State.chosen (s : State) : State := { s with free := s.free + 1 }

/-- What a copy does next: it is over, it reads its next beat, or it writes what it has read. -/
def copyNext (id : Nat) (c : Copy) (outcome : Nat) (sliced : Bool) : Act := fun s =>
  if c.total ≤ c.prog then finishCopy id c s
  else if c.buf = [] then (if c.rowFails then finishCopy id { c with status := 1 } s else readBeat id c outcome sliced s)
  else writeBeat id c outcome s

theorem exec_copyCompletion {id : Nat} {s : State} {c : Copy} (hdue : dueCopy s id = some c) : ∃ outcome sliced, exec (.copyCompletion id) s =
    .next (applyAll (copyNext id c outcome sliced s.chosen) s.chosen) := by
  refine ⟨Config.freeOrder s.free 2 % 3, Config.freeOrder s.free 4 % 2 = 0, congrArg Host.Outcome.next ?_⟩
  unfold copyStep
  rw [hdue]
  rfl

section
variable {id : Nat} {c : Copy} {outcome : Nat} {sliced : Bool} {s : State}

theorem copyNext_of_over (hp : c.prog = c.total) : copyNext id c outcome sliced s = finishCopy id c s := if_pos hp.ge

theorem copyNext_of_outside (hp : c.prog < c.total) (hb : c.buf = []) (hrow : c.rowFails = true) :
    copyNext id c outcome sliced s = finishCopy id { c with status := 1 } s := by
  rw [copyNext, if_neg hp.not_ge, if_pos hb, if_pos hrow]

theorem copyNext_of_reads (hp : c.prog < c.total) (hb : c.buf = []) (hrow : c.rowFails = false) :
    copyNext id c outcome sliced s = readBeat id c outcome sliced s := by
  rw [copyNext, if_neg hp.not_ge, if_pos hb, hrow]
  rfl

theorem copyNext_of_writes (hp : c.prog < c.total) (hb : c.buf ≠ []) : copyNext id c outcome sliced s = writeBeat id c outcome s := by
  rw [copyNext, if_neg hp.not_ge, if_neg hb]

end

/-! A copy that is over (R192, R193). -/

/-- Nothing waits behind what has an identifier: no access, and no later access of its context (R214, R215). -/
def NoneBehind (s : State) (key id : Nat) : Prop :=
  (∀ x, x ∈ s.accs → ∀ h, h ∈ x.2.after → h.id ≠ id) ∧ ∀ h, h ∈ (s.ctx key).holdLoads ++ (s.ctx key).holdAll → h.id ≠ id

theorem freshAfter_of_none {id stamp : Nat} {holds : List Hold} (h : ∀ x ∈ holds, x.id ≠ id) (old : Nat × Nat) :
    freshAfter id stamp holds old = old := by
  induction holds generalizing old with
  | nil => rfl
  | cons x r ih =>
    have hx : (decide (x.id ≠ id) || decide (x.scope = 0#3)) = true := by simp [h x List.mem_cons_self]
    have hr := ih (fun y hy => h y (List.mem_cons_of_mem _ hy)) old
    unfold freshAfter at hr ⊢
    rw [List.foldl_cons, if_pos hx]
    exact hr

/-- What nothing waits behind releases nothing. -/
theorem releaseHolds_of_none {s : State} {key id : Nat} (h : NoneBehind s key id) : releaseHolds key id s = [] := by
  have haccs : (s.accs.filter fun y => y.2.after.any fun h => decide (h.id = id) && decide (h.scope ≠ 0#3)) = [] := by
    rw [List.filter_eq_nil_iff]
    intro x hx hany
    obtain ⟨y, hy, hid⟩ := List.any_eq_true.mp hany
    rw [Bool.and_eq_true, decide_eq_true_iff] at hid
    exact h.1 x hx y hy hid.1
  unfold releaseHolds
  dsimp only
  rw [haccs, freshAfter_of_none h.2, if_pos rfl]
  rfl

/-- The token of a copy that is over, on its way (R192). -/
def Copy.tokenArrival (c : Copy) (now : Nat) : Pending := ⟨c.op, [.s c.tok], .value (now + 1) [.word c.token]⟩

/-- A copy that ends with the status BOUND (R189, R193). -/
def Copy.bounded (c : Copy) : Copy := { c with status := 1 }

theorem Copy.token_bounded (c : Copy) : c.bounded.token = (1#64 <<< 63) ||| BitVec.ofNat 64 (2 ^ 32 + c.movedBytes) := by
  rw [Copy.token, show c.bounded.status = 1 from rfl, if_neg (by decide), Nat.one_mul]
  rfl

/-- A context with the token of a copy on its way. -/
def Ctx.withToken (x : Ctx) (c : Copy) (now : Nat) : Ctx := { x with pending := insertPending (c.tokenArrival now) x.pending }

/-- A copy that is over, held by no phase and with no barrier: it leaves its engine, and its token is on its way (R192, R193). -/
theorem applyAll_finishCopy {id : Nat} {c : Copy} {u : State} (h : NoneBehind u c.key id) (hsilent : c.silent = false) (hphase : c.phase = none)
    (htok : c.tok ≠ 0) (hbar : c.bar = none) : applyAll (finishCopy id c u) u =
      { u with copies := u.copies.erase id, ctxs := u.ctxs.set c.key ((u.ctx c.key).withToken c u.now) } := by
  have hadd (v : State) : addBarriers c v = [] := by rw [addBarriers, hbar]
  have hdeliver (v : State) : applyAll (deliverCopy c v) v = applyAll (modCtx c.key (fun x => x.withToken c v.now) v) v := by
    unfold deliverCopy
    rw [applyAll_seq, hadd, applyAll_nil, Act.when, decide_eq_true htok]
    rfl
  unfold finishCopy
  rw [hsilent, hphase, applyAll_seqs_cons, releaseHolds_of_none h, applyAll_nil, applyAll_seqs_cons, applyAll_seqs_cons]
  exact hdeliver _

/-- What a copy that is over leaves: the token that stands in it arrives on the next cycle (R192, R193). -/
theorem answers_of_finish {id : Nat} {s : State} {c : Copy} (h : NoneBehind s c.key id) (hsilent : c.silent = false) (hphase : c.phase = none)
    (htok : c.tok ≠ 0) (hbar : c.bar = none)
    (hexec : exec (.copyCompletion id) s = .next (applyAll (finishCopy id c s.chosen) s.chosen)) :
    Answers (.copyCompletion id) s fun t => ∃ p : Pending, p.op = c.op ∧ p.dests = [.s c.tok] ∧ p.src = .value (s.now + 1) [.word c.token] ∧
      p ∈ (t.ctx c.key).pending ∧ t = { s with free := s.free + 1, copies := s.copies.erase id, ctxs := s.ctxs.set c.key (t.ctx c.key) } ∧
      t.ctx c.key = { s.ctx c.key with pending := (t.ctx c.key).pending } := by
  set d := (s.ctx c.key).withToken c s.now
  set t : State := { s.chosen with copies := s.copies.erase id, ctxs := s.ctxs.set c.key d }
  have hx : exec (.copyCompletion id) s = .next t :=
    hexec.trans (congrArg Host.Outcome.next (applyAll_finishCopy (u := s.chosen) h hsilent hphase htok hbar))
  have hctx : t.ctx c.key = d := State.ctx_set { s.chosen with copies := s.copies.erase id } c.key d
  refine ⟨t, hx, c.tokenArrival s.now, rfl, rfl, rfl, ?_⟩
  rw [hctx]
  exact ⟨mem_insertPending _ _, rfl, rfl⟩

/-! What a copy reads (R189, R213). -/

theorem linePieces_cases (va n : Nat) : linePieces va n = [(va, n)] ∨ ∃ k, k < n ∧ linePieces va n = [(va, k), (va + k, n - k)] := by
  unfold linePieces
  dsimp only
  split
  next => exact .inl rfl
  next hk => exact .inr ⟨_, lt_of_le_of_ne (Nat.min_le_left _ _) hk, rfl⟩

/-- The bytes of the pieces of a range are those of the range. -/
theorem flatMap_linePieces {α : Type} (f : Nat → α) (va n : Nat) :
    ((linePieces va n).flatMap fun x => (List.range x.2).map fun i => f (x.1 + i)) = (List.range n).map fun i => f (va + i) := by
  rcases linePieces_cases va n with h | ⟨k, hk, h⟩
  · rw [h, List.flatMap_singleton]
  · obtain ⟨m, rfl⟩ := Nat.exists_eq_add_of_le hk.le
    rw [h, List.flatMap_cons, List.flatMap_singleton, Nat.add_sub_cancel_left, List.range_add, List.map_append, List.map_map]
    simp only [Function.comp_def, Nat.add_assoc]

/-- The pieces of a side in the own scratchpad, each at its place (R90). -/
def spadSides (c : Copy) (l : List (Nat × Nat)) : List ((Nat × Nat) × Side) := l.map fun x => (x, .place (spadPlace (coreOf c.key) x.1))

theorem sidePlaces_spad (s : State) (c : Copy) (l : List (Nat × Nat)) : sidePlaces s c .spad l = .ok (spadSides c l) := by
  induction l with
  | nil => rfl
  | cons x r ih =>
    rw [sidePlaces, ih]
    rfl

theorem sideAddrs_spad (s : State) (c : Copy) (va n : Nat) :
    sideAddrs s (spadSides c (linePieces va n)) = (List.range n).map fun i => spadPlace (coreOf c.key) va + i := by
  rw [sideAddrs, spadSides, List.flatMap_map]
  simp only [Side.addr, spadPlace, Nat.add_assoc]
  exact flatMap_linePieces (fun j => 2 ^ 42 + (coreOf c.key * 2 ^ 22 + j)) va n

theorem sidePoisoned_spad (s : State) (c : Copy) (l : List (Nat × Nat)) : sidePoisoned s (spadSides c l) = none := by
  rw [sidePoisoned, spadSides, List.findSome?_map]
  exact List.findSome?_eq_none_iff.mpr fun _ _ => rfl

theorem sideFills_spad (c : Copy) (l : List (Nat × Nat)) (s : State) : applyAll (sideFills c (spadSides c l) s) s = s := by
  have hleaves : Act.Leaves (fun u => u) (Act.each (spadSides c l) fun x => match x.2 with
      | .home sp => Act.seq (fillSlice (effectiveCid c.cid x.1.1) x.1.1 (sp.current s))
          (fillTlb s (partOf s.pkg (coreOf c.key)) (effectiveCid c.cid x.1.1) x.1.1)
      | .place _ => Act.skip) := by
    refine .each fun x hx => ?_
    obtain ⟨y, -, rfl⟩ := List.mem_map.mp hx
    exact fun _ => rfl
  exact hleaves s

theorem farSide_spad (s : State) (id : Nat) (c : Copy) (va : Int) (outcome : Nat) : farSide s id c .spad va outcome = none := rfl

theorem sliceBytes_spad {s : State} {c : Copy} (hk : c.sk = .spad) (l : List (Nat × Nat)) (use : Bool) : sliceBytes s c l use = none := by
  rw [sliceBytes, hk]
  rfl

/-- Where a context has started no access through a kind of handle, a copy through it reads the bytes as they stand (R107). -/
theorem withForwarded_of_none {s : State} {c : Copy} (h : ∀ x, x ∈ s.accs → x.2.key = c.key → x.2.kind ≠ c.sk) (b : Beat) (bytes : List Byte) :
    withForwarded s c b bytes = bytes := by
  have hnone (earlier : Nat × Access → Bool) (va : Nat) : forwardFrom s c.key c.sk earlier va = none := by
    rw [forwardFrom, List.filter_eq_nil_iff.mpr]
    · rfl
    · intro x hx
      by_cases hkey : x.2.key = c.key
      · simp [h x hx hkey]
      · simp [hkey]
  simp only [withForwarded, hnone, Option.getD_none, List.zipIdx_map_fst]

theorem readBeat_of_fill {id : Nat} {c : Copy} {outcome : Nat} {sliced : Bool} {s : State} (h : c.form = .cfill) :
    readBeat id c outcome sliced s = [.copy id (some { c with buf := List.replicate c.beat.len 0#8, ready := s.now })] := if_pos h

theorem readBeat_of_spad {id : Nat} {c : Copy} {outcome : Nat} {sliced : Bool} {s : State} (hf : c.form ≠ .cfill) (hk : c.sk = .spad) :
    let l := spadSides c c.beat.srcPieces
    readBeat id c outcome sliced s = Act.seq (tookBeat id c (withForwarded s c c.beat (sourceBytes s c l))) (sideFills c l) s := by
  intro l
  unfold readBeat
  dsimp only
  rw [if_neg hf, sliceBytes_spad hk]
  dsimp only
  rw [hk, sidePlaces_spad]
  dsimp only
  rw [farSide_spad, sidePoisoned_spad]

theorem applyAll_tookBeat {id : Nat} {c : Copy} {u : State} (h : NoneBehind u c.key id) (bytes : List Byte) :
    applyAll (tookBeat id c bytes u) u =
      { u with free := u.free + 1, copies := u.copies.set id { c with buf := bytes, ready := u.now + Config.freeNat u.free } } := by
  have hrelease (b : Bool) : Act.when b (releaseHolds c.key id) u = [] := by
    rw [Act.when, releaseHolds_of_none h, ite_self]
  unfold tookBeat
  rw [applyAll_seq, hrelease, carried_eq]
  rfl

/-! What a copy writes (R189, R190). -/

/-- The bytes of a side in the own scratchpad, as they stand. -/
theorem sideBytes_spad (s : State) (c : Copy) (va n : Nat) :
    sideBytes s (spadSides c (linePieces va n)) = Memory.read s.mem (spadPlace (coreOf c.key) va) n := by
  rw [sideBytes, spadSides, List.flatMap_map, read_eq_map]
  simp only [Side.addr, spadPlace, read_eq_map, Nat.add_assoc]
  exact flatMap_linePieces (fun j => Memory.get s.mem (2 ^ 42 + (coreOf c.key * 2 ^ 22 + j))) va n

theorem sideSpots_spad (s : State) (c : Copy) (l : List (Nat × Nat)) : sideSpots s (spadSides c l) = [] := by
  rw [sideSpots, spadSides, List.filterMap_map]
  exact List.filterMap_eq_nil_iff.mpr fun _ _ => rfl

/-- A write at no home waits for no frame (R312). -/
theorem sideReserve_spad (s : State) (id : Nat) (c : Copy) (l : List (Nat × Nat)) : sideReserve s id c (spadSides c l) = false := by
  rw [sideReserve, sideSpots_spad]
  simp [mustWait, reserveShort, behindHeld, reserveWants, distinct]

theorem length_written {c : Copy} {b : Beat} {old : List Byte} (hbuf : c.buf.length = b.len) (hred : c.form.isRed = true → b.len = c.form.elem) :
    (c.written b c.buf old).length = b.len := by
  unfold Copy.written
  split
  next => simp
  next h => rw [hred (by rw [h]; rfl), h, length_leBytes]; rfl
  next h => rw [hred (by rw [h]; rfl), h, length_leBytes]; rfl
  next h => rw [hred (by rw [h]; rfl), h, length_leBytes]; rfl
  next => exact hbuf

theorem length_beat_of_isRed {c : Copy} (h : c.form.isRed = true) : c.beat.len = c.form.elem := if_pos h

theorem Memory.write_append (m : List Host.Cell) (a : Nat) (l r : List Byte) :
    Memory.write m a (l ++ r) = Memory.write (Memory.write m a l) (a + l.length) r := by
  induction l generalizing m a with
  | nil => rfl
  | cons b l ih =>
    rw [List.cons_append, Memory.write, Memory.write, ih, List.length_cons, Nat.add_assoc, Nat.add_comm 1]

/-- The state beyond memory and the multicast stores. -/
def beyondStores (s : State) : State := { s with mem := [], mcasts := [] }

/-- A piece of a write of a copy in the own scratchpad (R189, R219). -/
def writePiece (c : Copy) (va : Nat) (bytes : List Byte) (x : Nat × Nat) : Act :=
  let a := spadPlace (coreOf c.key) x.1
  Act.seq (storeBytes a ((bytes.drop (x.1 - va)).take x.2)) (Act.when c.form.isRed (keepPlaces ((List.range x.2).map fun i => a + i)))

theorem writeSide_spad {c : Copy} (hk : c.dk = .spad) (va : Nat) (l : List (Nat × Nat)) (bytes : List Byte) (s : State) :
    writeSide c va (spadSides c l) bytes s = Act.each l (writePiece c va bytes) s := by
  unfold writeSide
  rw [hk]
  refine congrArg (fun r => Act.seqs r s) ?_
  rw [spadSides, List.map_map]
  refine List.map_congr_left fun x _ => funext fun u => ?_
  refine (congrFun (seqs_three _ _ _) u).trans ?_
  exact congrArg (fun g => Act.seq _ g u) (funext fun v => Act.seq_skip _ v)

theorem beyondStores_writePiece (c : Copy) (va : Nat) (bytes : List Byte) (x : Nat × Nat) : Act.Leaves beyondStores (writePiece c va bytes x) :=
  .seq (fun _ => rfl) (.when (.of_keeps fun _ => by unfold keepPlaces; exact .ite .nil (.map fun _ _ => rfl)) _)

theorem mem_applyAll_writePiece (c : Copy) (va : Nat) (bytes : List Byte) (x : Nat × Nat) (s : State) : (applyAll (writePiece c va bytes x s) s).mem =
    Memory.write s.mem (spadPlace (coreOf c.key) x.1) ((bytes.drop (x.1 - va)).take x.2) := by
  rw [writePiece, applyAll_seq]
  exact (((keeps_keepPlaces _ _).when _).comp (·.mem)).applyAll _

/-- The pieces of a range take its bytes, each its own. -/
theorem mem_applyAll_writePieces (c : Copy) (va : Nat) (bytes : List Byte) (s : State) :
    (applyAll (Act.each (linePieces va bytes.length) (writePiece c va bytes) s) s).mem = Memory.write s.mem (spadPlace (coreOf c.key) va) bytes := by
  rcases linePieces_cases va bytes.length with h | ⟨k, hk, h⟩
  · rw [h]
    change (applyAll (Act.seq _ Act.skip s) s).mem = _
    rw [Act.seq_skip, mem_applyAll_writePiece, Nat.sub_self, List.drop_zero, List.take_length]
  · rw [h]
    change (applyAll (Act.seq _ (Act.seq _ Act.skip) s) s).mem = _
    have hrest : ((bytes.drop k).take (bytes.length - k)) = bytes.drop k := List.take_of_length_le (by rw [List.length_drop])
    have hplace : spadPlace (coreOf c.key) (va + k) = spadPlace (coreOf c.key) va + (bytes.take k).length := by
      rw [List.length_take_of_le hk.le, spadPlace, spadPlace, ← Nat.add_assoc]
    rw [applyAll_seq, Act.seq_skip, mem_applyAll_writePiece, mem_applyAll_writePiece, Nat.sub_self, List.drop_zero, Nat.add_sub_cancel_left, hrest,
      hplace, ← Memory.write_append, List.take_append_drop]

/-- The progress of a copy does not fall as it takes up beats moved ahead, and its map and its open beat stand (R192, R193). -/
theorem Copy.absorb_keeps (c : Copy) (n : Nat) : c.prog ≤ (c.absorb n).prog ∧ (c.absorb n).total = c.total ∧ (c.absorb n).buf = c.buf := by
  induction n generalizing c with
  | zero => exact ⟨le_rfl, rfl, rfl⟩
  | succ n ih =>
    rw [Copy.absorb]
    split
    next x _ =>
      obtain ⟨hp, ht, hb⟩ := ih { c with prog := c.prog + x.2, ahead := c.ahead.erase x }
      exact ⟨(Nat.le_add_right _ _).trans hp, ht, hb⟩
    next => exact ⟨le_rfl, rfl, rfl⟩

/-- A copy whose beat is written, with the cycle from which on it may make another (R192). -/
def Copy.madeBeat (c : Copy) (choice ready : Nat) : Copy := { c.wrote choice with ready := ready }

theorem Copy.madeBeat_keeps (c : Copy) (choice ready : Nat) :
    c.prog ≤ (c.madeBeat choice ready).prog ∧ (c.madeBeat choice ready).total = c.total ∧ (c.madeBeat choice ready).buf = [] :=
  Copy.absorb_keeps { c with ahead := c.ahead ++ [(c.prog + c.skip, c.beat.len)], buf := [], skip := 0, heldSince := none, heldOn := [] }
    (c.ahead.length + 1)

/-- A beat made in order moves the progress by its bytes. -/
theorem Copy.madeBeat_prog_of_inOrder {c : Copy} (hskip : c.skip = 0) (hahead : c.ahead = []) (choice ready : Nat) :
    (c.madeBeat choice ready).prog = c.prog + c.beat.len := by
  unfold Copy.madeBeat Copy.wrote
  dsimp only
  rw [hskip, hahead]
  simp [Copy.absorb]

theorem writeBeat_of_spad {id : Nat} {c : Copy} {outcome : Nat} {s : State} (hk : c.dk = .spad) :
    let l := spadSides c c.beat.dstPieces
    writeBeat id c outcome s = Act.seq (writeSide c c.beat.dst.toNat l (c.written c.beat c.buf (sideBytes s l))) (fun u => [.free,
      .engine c.engine { u.engine c.engine with movedAt := u.now, moved := (u.engine c.engine).movedOn u.now + c.beat.len },
      .copy id (some (c.madeBeat (Config.freeOrder s.free 3) (s.now + Config.freeNat s.free)))]) s := by
  intro l
  unfold writeBeat
  dsimp only
  rw [hk, if_neg (by decide), sidePlaces_spad]
  dsimp only
  rw [farSide_spad, sidePoisoned_spad, ite_self]
  dsimp only
  rw [sideReserve_spad, if_neg Bool.false_ne_true, carried_eq]
  exact congrArg (fun g => Act.seq _ g s) (funext fun v => Act.seq_skip _ v)

/-! The beats of a copy, together. -/

/-- A state in which an engine has moved more bytes in this cycle (R192). -/
def State.moving (s : State) (e n : Nat) : State :=
  { s with engines := s.engines.set e { s.engine e with movedAt := s.now, moved := (s.engine e).movedOn s.now + n } }

theorem movedOn_moving (s : State) (e n : Nat) : ((s.moving e n).engine e).movedOn s.now = (s.engine e).movedOn s.now + n := by
  rw [State.moving, State.engine_set, Engine.movedOn, if_pos rfl]

/-- The place in the own scratchpad that a copy writes next. -/
def Copy.place (c : Copy) : Nat := spadPlace (coreOf c.key) c.beat.dst.toNat

/-- The bytes that a copy writes next, over those that stand there (R189, R190). -/
def Copy.bytesOver (c : Copy) (m : List Host.Cell) : List Byte := c.written c.beat c.buf (Memory.read m c.place c.beat.len)

/-- A write to the own scratchpad: its bytes are in memory, its engine counts them, and the copy has made the beat (R189, R192). -/
theorem applyAll_writeBeat_spad {id : Nat} {c : Copy} {outcome : Nat} {u : State} (hk : c.dk = .spad) (hbuf : c.buf.length = c.beat.len) :
    ∃ v, beyondStores v = beyondStores u ∧ v.mem = Memory.write u.mem c.place (c.bytesOver u.mem) ∧
      applyAll (writeBeat id c outcome u) u = { (v.moving c.engine c.beat.len).chosen with
        copies := v.copies.set id (c.madeBeat (Config.freeOrder u.free 3) (u.now + Config.freeNat u.free)) } := by
  have hlen : (c.bytesOver u.mem).length = c.beat.len := length_written hbuf length_beat_of_isRed
  have hmem := mem_applyAll_writePieces c c.beat.dst.toNat (c.bytesOver u.mem) u
  rw [hlen] at hmem
  rw [writeBeat_of_spad hk, applyAll_seq, Beat.dstPieces, sideBytes_spad, writeSide_spad hk]
  exact ⟨_, Act.Leaves.each (fun x _ => beyondStores_writePiece c _ _ x) u, hmem, rfl⟩

/-- The byte of a copy's source in the own scratchpad: as it stands, but where a later access has overwritten it (log entry 107). -/
def Copy.sourceByte (c : Copy) (m : List Host.Cell) (a : Nat) : Byte := ((c.old.find? fun o => o.1 = a).map (·.2)).getD (Memory.get m a)

/-- A read from the own scratchpad: the copy has the bytes of its source (R189, R213). -/
theorem applyAll_readBeat_spad {id : Nat} {c : Copy} {outcome : Nat} {sliced : Bool} {u : State} (hf : c.form ≠ .cfill) (hk : c.sk = .spad)
    (hnone : NoneBehind u c.key id) (haccs : ∀ x, x ∈ u.accs → x.2.key = c.key → x.2.kind ≠ .spad) :
    applyAll (readBeat id c outcome sliced u) u = { u.chosen with copies := u.copies.set id { c with
      buf := (List.range c.beat.len).map fun i => c.sourceByte u.mem (spadPlace (coreOf c.key) c.beat.src.toNat + i)
      ready := u.now + Config.freeNat u.free } } := by
  rw [readBeat_of_spad hf hk, withForwarded_of_none (hk ▸ haccs), Beat.srcPieces, sourceBytes, sideAddrs_spad, List.map_map, applyAll_seq,
    applyAll_tookBeat hnone, sideFills_spad]
  rfl

theorem copyBeats : Clause.CopyBeats := by
  intro id s c hdue core b ctx alone ends
  obtain ⟨outcome, sliced, hexec⟩ := exec_copyCompletion hdue
  refine ⟨fun hp hst => ?ended, fun hp hb hrow => ?outside, fun hp hb hrow hf => ?fill, fun hp hb hrow hf hk halone haccs => ?read,
    fun hp hb hlen hk hwf => ?write⟩
  case ended =>
    rw [copyNext_of_over hp] at hexec
    intro halone hsilent hphase htok hbar
    rw [show BitVec.ofNat 64 c.total = c.token from (if_pos hst).symm]
    exact answers_of_finish halone hsilent hphase htok hbar hexec
  case outside =>
    rw [copyNext_of_outside hp hb hrow] at hexec
    intro halone hsilent hphase htok hbar
    rw [← c.token_bounded]
    exact answers_of_finish (c := c.bounded) halone hsilent hphase htok hbar hexec
  case fill =>
    rw [copyNext_of_reads hp hb hrow, readBeat_of_fill hf] at hexec
    exact hexec
  case read =>
    rw [copyNext_of_reads hp hb hrow, applyAll_readBeat_spad (u := s.chosen) hf hk halone haccs] at hexec
    exact ⟨_, hexec, _, Nat.le_add_right _ _, rfl⟩
  case write =>
    obtain ⟨v, hv, hmem, happly⟩ := applyAll_writeBeat_spad (id := id) (outcome := outcome) (u := s.chosen) hk hlen
    rw [copyNext_of_writes hp hb, happly] at hexec
    obtain ⟨hputs, hstands⟩ := memPuts_of_write (t := v) hwf hmem
    have hnow : v.now = s.now := congrArg (·.now) hv
    have hengine : v.engine c.engine = s.engine c.engine := congrArg (·.engine c.engine) hv
    have hcopies : v.copies = s.copies := congrArg (·.copies) hv
    have hmoved := movedOn_moving v c.engine c.beat.len
    rw [hnow, hengine] at hmoved
    set d := c.madeBeat (Config.freeOrder s.chosen.free 3) (s.chosen.now + Config.freeNat s.chosen.free)
    obtain ⟨hprog, htotal, hopen⟩ : c.prog ≤ d.prog ∧ d.total = c.total ∧ d.buf = [] := c.madeBeat_keeps _ _
    exact ⟨_, hexec, hputs, hstands, congrArg (·.ctxs) hv, congrArg (·.accs) hv, hmoved, d, congrArg (·.set id d) hcopies, hopen, htotal, hprog,
      fun hskip hahead => Copy.madeBeat_prog_of_inOrder hskip hahead _ _⟩

/-- Settles O40: each beat's part of the meaning is followed to the state that it leaves; a write in the own scratchpad, piece by piece, is one write of
the beat's bytes, and a landing is one store for each of its bytes and targets. -/
theorem copyEngines : Obligations.CopyEngines := ⟨copyLaunches, copyBeats, multicastLandings, storeAcknowledgements⟩

end Sys2Proof.Machine
end
